-- ==== Sys2Proof/Word.lean ====
section
/-! DEFINITION. The word types of Cyler and the plain list banks that hold numbered registers. -/

namespace Sys2Proof

/-- A control-thread register, an address or a 64-bit record word (02 R55, 04 R100). -/
abbrev Word := BitVec 64
/-- An instruction word (07 R186), a vector element of 32 bits, a chord value (01 R37). -/
abbrev Word32 := BitVec 32
abbrev Byte := BitVec 8
/-- A vector register: the low `grant` bits are in use (02 R52, R57). -/
abbrev VReg := BitVec 16384
/-- `vm` or `vo`: one bit for each element, up to VLMAX(8) at the greatest grant (02 R58). -/
abbrev Mask := BitVec 2048
/-- A rejoin mask: one bit for each VP (01 R35). -/
abbrev JMask := BitVec 512
/-- The number of a `c` register (07 R188: 0 to 31). -/
abbrev CReg := BitVec 5
/-- The name of a `v` register (07 R188: 0 to 63). -/
abbrev VName := BitVec 6
/-- The number of a rejoin mask (07 R188: 0 to 7). -/
abbrev JReg := BitVec 3

/-- A bank of numbered cells: cell `n` is the `n`-th entry, and a cell past the end holds the default. -/
abbrev Bank (α : Type) := List α

/-- Read cell `n` of a bank. -/
def Bank.get {α : Type} (dflt : α) (b : Bank α) (n : Nat) : α := b.getD n dflt

/-- Write cell `n` of a bank, growing the bank with the default where it is shorter. -/
def Bank.set {α : Type} (dflt : α) : Bank α → Nat → α → Bank α
  | [], 0, v => [v]
  | [], n + 1, v => dflt :: Bank.set dflt [] n v
  | _ :: xs, 0, v => v :: xs
  | x :: xs, n + 1, v => x :: Bank.set dflt xs n v

end Sys2Proof
end

