-- ==== Sys2Proof/Syntax.lean ====
section
/-! DEFINITION. The steps of Cyler: one constructor for each row of spec/opcode_table.json. The rows with a word
(07 R187, R198) come first and hold the word's fields. The rows without a word are actions of the ports, the engines,
the distributors, the host and remote nodes (95_what_each_step_holds.md): they read the record `EvArgs`, which the
state holds beside them. -/

namespace Sys2Proof

/-- The element type of the t field (07 R190). -/
inductive Ty where
  | i8 | i16 | i32 | i64 | f16 | bf16 | f32 | f64
deriving DecidableEq, Repr

/-- The w field of the IL format (08 R218): 1, 2, 4 or 8 bytes; on 0x50 to 0x53 the last is one facet (10 R273). -/
inductive Sz where
  | b | h | w | d
deriving DecidableEq, Repr

/-- The b operand of an instruction that admits S (07 R191): a `v` register, or a broadcast `c` register. -/
inductive BOp where
  | v (r : VName)
  | c (r : CReg)
deriving DecidableEq, Repr

/-- The mask operand of `vmsave` and `vmload` (09 R253). -/
inductive MaskSel where
  | vm | vo | j (k : JReg)
deriving DecidableEq, Repr

/-- A memory scope (04 R112, 07 R193). -/
inductive Scope where
  | grp | team | die | dev | sys
deriving DecidableEq, Repr

/-- The cache hint of `pfx.scope` (07 R193). -/
inductive Hint where
  | none | stream | keep
deriving DecidableEq, Repr

/-- The header of a host command (18 R418): the host address it comes from, TAG, PART, LEN where it differs from the body's length, the
word of reserved bits, and in `other` an OP that R419 does not list, or 12 for a mailbox message that R431 does not. -/
structure CmdHdr where
  src : Nat := 0
  tag : Word32 := 0
  part : Nat := 0
  rsvd : Word := 0
  len : Option Nat := none
  other : Option Nat := none
deriving DecidableEq, Repr

/-- A module as a well-formed container gives it (18 R426; 07 R207, R208); the spec does not give the container's bytes (log entry 47, DEDUCED). -/
structure Module where
  /-- Whether its signature holds, if it has one. -/
  signature : Option Bool := none
  /-- `.lifetime`: 0 for P, 1 for D, 2 for X. -/
  lifetime : Nat := 0
  stepping : Option Byte := none
  /-- The words of each function. -/
  code : List (List Word32) := []
  /-- For each node declaration its two words and its graph argument pointer. -/
  nodes : List (Word × Word × Word) := []
  /-- Data with their addresses. -/
  data : List (Word × List Byte) := []
  /-- Node relocations of the data (07 R208): the item, the offset in it, and the bytes of the value. -/
  dataRels : List (Nat × Nat × Nat) := []
  /-- Cross-references (18 R427): for each node the function that its entry names, if it does, and in the data the item, the offset in
  it and the function of each address. -/
  entries : List (Option Nat) := []
  dataRefs : List (Nat × Nat × Nat) := []
  /-- Node relocations of the code, in order (07 R208): the function, and the value that B is added to. -/
  rels : List (Nat × Nat) := []
  /-- Cross-references of the code, in order (18 R427): the function that holds one, and the function that it refers to. -/
  refs : List (Nat × Nat) := []
  /-- SHA-384 digest of the container, in words. -/
  digest : List Word := []
deriving DecidableEq, Repr

/-- Where a body holds a cross-reference (18 R427): the function; the fields of the value, signed, least significant first: word, lowest bit
and width; the word from whose address it counts, if it counts from one; and the bytes of its unit. -/
structure CodeRef where
  fn : Nat := 0
  fields : List (Nat × Nat × Nat) := []
  at_ : Option Nat := none
  unit : Nat := 1
deriving DecidableEq, Repr

/-- What a step without a word acts on. Each such constructor of `Instr` names the fields it reads; the others are ignored. -/
structure EvArgs where
  /-- A group, by the model's own identifier. -/
  g : Nat := 0
  /-- A VP or element. -/
  e : Nat := 0
  reg : CReg := 0
  pc : Word := 0
  pa : Nat := 0
  i : Nat := 0
  n : Nat := 0
  k : Nat := 0
  /-- An engine operation, by the model's own identifier. -/
  op : Nat := 0
  /-- A team, by the model's own identifier. -/
  tm : Nat := 0
  st : BitVec 4 := 0
  line : Nat := 0
  die : Nat := 0
  core : Nat := 0
  sector : Nat := 0
  grant : Nat := 0
  cause : Byte := 0
  elem : Word := 0
  idx : Word := 0
  addr : Word := 0
  info : Word := 0
  h : Word := 0
  w : Word := 0
  ctx : Nat := 0
  node : Nat := 0
  temp : Int := 0
  part : Nat := 0
  rkey : Word32 := 0
  va : Word := 0
  fmt : BitVec 4 := 0
  len : Nat := 0
  flag : Bool := false
  words : List Word := []
  data : List Byte := []
  hdr : CmdHdr := {}
  /-- The container of a LOAD: none where it is malformed. -/
  load : Option Module := none
  /-- For each function the address and the words of the body that the translator has made, if it has. -/
  bodies : List (Option (Word × List Word32)) := []
  /-- Where the bodies hold the module's node relocations (07 R208): the function, and the fields, least significant first, that hold the
  index: word, lowest bit and width. -/
  rels : List (Nat × List (Nat × Nat × Nat)) := []
  /-- Where they hold the module's cross-references, in order. -/
  refs : List CodeRef := []
deriving DecidableEq, Repr

/-- One step of the device. -/
inductive Instr where
  /-- 08 R213: integer register instructions. -/
  | add (d : CReg) (a : CReg) (b : CReg)
  | sub (d : CReg) (a : CReg) (b : CReg)
  | mul (d : CReg) (a : CReg) (b : CReg)
  | mulh (d : CReg) (a : CReg) (b : CReg)
  | mulhu (d : CReg) (a : CReg) (b : CReg)
  | and (d : CReg) (a : CReg) (b : CReg)
  | or (d : CReg) (a : CReg) (b : CReg)
  | xor (d : CReg) (a : CReg) (b : CReg)
  | sll (d : CReg) (a : CReg) (b : CReg)
  | srl (d : CReg) (a : CReg) (b : CReg)
  | sra (d : CReg) (a : CReg) (b : CReg)
  | slt (d : CReg) (a : CReg) (b : CReg)
  | sltu (d : CReg) (a : CReg) (b : CReg)
  | min (d : CReg) (a : CReg) (b : CReg)
  | max (d : CReg) (a : CReg) (b : CReg)
  /-- 08 R214: divisions, with a lookahead. -/
  | div (d : CReg) (a : CReg) (b : CReg) (la : BitVec 4)
  | divu (d : CReg) (a : CReg) (b : CReg) (la : BitVec 4)
  | rem (d : CReg) (a : CReg) (b : CReg) (la : BitVec 4)
  | remu (d : CReg) (a : CReg) (b : CReg) (la : BitVec 4)
  /-- 08 R215: arithmetic immediates. -/
  | addi (d : CReg) (a : CReg) (imm : BitVec 13)
  | andi (d : CReg) (a : CReg) (imm : BitVec 13)
  | ori (d : CReg) (a : CReg) (imm : BitVec 13)
  | xori (d : CReg) (a : CReg) (imm : BitVec 13)
  | slti (d : CReg) (a : CReg) (imm : BitVec 13)
  | sltiu (d : CReg) (a : CReg) (imm : BitVec 13)
  /-- 08 R216: immediate shifts. -/
  | slli (d : CReg) (a : CReg) (n : BitVec 6)
  | srli (d : CReg) (a : CReg) (n : BitVec 6)
  | srai (d : CReg) (a : CReg) (n : BitVec 6)
  /-- 08 R217: upper immediates. -/
  | lui (d : CReg) (imm : BitVec 19)
  | lpc (d : CReg) (imm : BitVec 19)
  /-- 08 R218: control-thread loads and stores. -/
  | ld (d : CReg) (a : CReg) (sz : Sz) (off : BitVec 7) (la : BitVec 4)
  | ldu (d : CReg) (a : CReg) (sz : Sz) (off : BitVec 7) (la : BitVec 4)
  | st (d : CReg) (a : CReg) (sz : Sz) (off : BitVec 7) (la : BitVec 4)
  /-- 08 R220: branches. -/
  | beq (a : CReg) (b : CReg) (off : BitVec 13)
  | bne (a : CReg) (b : CReg) (off : BitVec 13)
  | blt (a : CReg) (b : CReg) (off : BitVec 13)
  | bge (a : CReg) (b : CReg) (off : BitVec 13)
  | bltu (a : CReg) (b : CReg) (off : BitVec 13)
  | bgeu (a : CReg) (b : CReg) (off : BitVec 13)
  /-- 08 R221: jump and link. -/
  | jal (d : CReg) (off : BitVec 19)
  /-- 08 R221: jump and link through a register. -/
  | jalr (d : CReg) (a : CReg) (imm : BitVec 13)
  /-- 08 R222: control-thread floating point. -/
  | fadd (d : CReg) (a : CReg) (b : CReg) (t : Ty)
  | fsub (d : CReg) (a : CReg) (b : CReg) (t : Ty)
  | fmul (d : CReg) (a : CReg) (b : CReg) (t : Ty)
  | fmin (d : CReg) (a : CReg) (b : CReg) (t : Ty)
  | fmax (d : CReg) (a : CReg) (b : CReg) (t : Ty)
  | fcmpEq (d : CReg) (a : CReg) (b : CReg) (t : Ty)
  | fcmpLt (d : CReg) (a : CReg) (b : CReg) (t : Ty)
  | fcmpLe (d : CReg) (a : CReg) (b : CReg) (t : Ty)
  /-- 08 R224: conversion; `code` is the b field. -/
  | fcvt (d : CReg) (a : CReg) (code : BitVec 6) (t : Ty)
  /-- 08 R225: division and fused multiply-add. -/
  | fdiv (d : CReg) (a : CReg) (b : CReg) (t : Ty) (la : BitVec 4)
  /-- 08 R225: square root. -/
  | fsqrt (d : CReg) (a : CReg) (t : Ty) (la : BitVec 4)
  /-- 08 R225: division and fused multiply-add. -/
  | fma (d : CReg) (a : CReg) (b : CReg) (t : Ty) (la : BitVec 4)
  /-- 08 R226: vector length. -/
  | setvl (d : CReg) (a : CReg) (imm : BitVec 13)
  /-- 08 R227: read a control register. -/
  | crd (d : CReg) (n : BitVec 12)
  /-- 08 R227: write a control register. -/
  | cwr (a : CReg) (n : BitVec 12)
  /-- 08 R228: start an AIB. -/
  | vf (off : BitVec 19)
  /-- 08 R228: start an AIB at a register address. -/
  | vfr (a : CReg)
  /-- 08 R230. -/
  | fetch (off : BitVec 19)
  /-- 08 R231. -/
  | fetchNz (a : VName) (off : BitVec 13)
  /-- 08 R232. -/
  | stop
  /-- 08 R233: rejoin masks. -/
  | jenrol (j : JReg)
  | jpark (j : JReg)
  | jstrike (j : JReg)
  /-- 08 R235. -/
  | qput (a : CReg)
  | qget (d : CReg)
  | qclr
  /-- 08 R234. -/
  | vsend (a : VName)
  | vrecv (d : VName)
  /-- 08 R238: element indices; `a` is a c register in the control stream, a v register in an AIB. -/
  | vid (d : VName) (a : BitVec 6) (t : Ty)
  /-- 09 R245: element-wise arithmetic, minimum, maximum, logic and shifts. -/
  | vadd (d : VName) (a : VName) (b : BOp) (t : Ty) (p : Bool)
  | vsub (d : VName) (a : VName) (b : BOp) (t : Ty) (p : Bool)
  | vmul (d : VName) (a : VName) (b : BOp) (t : Ty) (p : Bool)
  | vmac (d : VName) (a : VName) (b : BOp) (t : Ty) (p : Bool)
  | vmin (d : VName) (a : VName) (b : BOp) (t : Ty) (p : Bool)
  | vmax (d : VName) (a : VName) (b : BOp) (t : Ty) (p : Bool)
  /-- 09 R245: one-operand forms. -/
  | vabs (d : VName) (a : VName) (t : Ty) (p : Bool)
  | vneg (d : VName) (a : VName) (t : Ty) (p : Bool)
  /-- 09 R245: element-wise arithmetic, minimum, maximum, logic and shifts. -/
  | vand (d : VName) (a : VName) (b : BOp) (t : Ty) (p : Bool)
  | vor (d : VName) (a : VName) (b : BOp) (t : Ty) (p : Bool)
  | vxor (d : VName) (a : VName) (b : BOp) (t : Ty) (p : Bool)
  /-- 09 R245: one-operand forms. -/
  | vnot (d : VName) (a : VName) (t : Ty) (p : Bool)
  /-- 09 R245: element-wise arithmetic, minimum, maximum, logic and shifts. -/
  | vsll (d : VName) (a : VName) (b : BOp) (t : Ty) (p : Bool)
  | vsrl (d : VName) (a : VName) (b : BOp) (t : Ty) (p : Bool)
  | vsra (d : VName) (a : VName) (b : BOp) (t : Ty) (p : Bool)
  /-- 09 R248. -/
  | vdiv (d : VName) (a : VName) (b : VName) (t : Ty) (p : Bool) (la : BitVec 3)
  /-- 09 R249: comparisons. -/
  | vcmpEq (a : VName) (b : BOp) (t : Ty)
  | vcmpNe (a : VName) (b : BOp) (t : Ty)
  | vcmpLt (a : VName) (b : BOp) (t : Ty)
  | vcmpLe (a : VName) (b : BOp) (t : Ty)
  | vcmpuLt (a : VName) (b : BOp) (t : Ty)
  | vcmpuLe (a : VName) (b : BOp) (t : Ty)
  /-- 09 R250. -/
  | vabsent (a : VName) (t : Ty)
  /-- 09 R251. -/
  | vsel (d : VName) (a : VName) (b : BOp) (t : Ty)
  /-- 09 R254: moves. -/
  | vmov (d : VName) (a : VName) (t : Ty)
  /-- 09 R254. -/
  | vmovScalar (d : VName) (b : CReg) (t : Ty)
  | vbcast (d : VName) (a : VName) (b : CReg) (t : Ty)
  | vext (d : CReg) (a : VName) (b : CReg) (t : Ty)
  | vsetabs (d : VName) (t : Ty)
  /-- 09 R255. -/
  | vfill (d : VName) (t : Ty)
  | vfillScalar (d : VName) (b : CReg) (t : Ty)
  /-- 09 R253. -/
  | vmsave (d : VName) (m : MaskSel)
  | vmload (a : VName) (m : MaskSel)
  /-- 09 R252. -/
  | vomov
  /-- 09 R256 to R258: conversion and quantisation; `code` is the b field. -/
  | vcvt (d : VName) (a : VName) (code : BitVec 6) (t : Ty) (la : BitVec 4)
  | vquant (d : VName) (a : VName) (code : BitVec 6) (t : Ty) (la : BitVec 4)
  | vdequant (d : VName) (a : VName) (code : BitVec 6) (t : Ty) (la : BitVec 4)
  /-- 09 R259: special functions. -/
  | vexp2 (d : VName) (a : VName) (t : Ty) (la : BitVec 4)
  | vlog2 (d : VName) (a : VName) (t : Ty) (la : BitVec 4)
  | vrcp (d : VName) (a : VName) (t : Ty) (la : BitVec 4)
  | vrsqrt (d : VName) (a : VName) (t : Ty) (la : BitVec 4)
  | vsqrt (d : VName) (a : VName) (t : Ty) (la : BitVec 4)
  | vsin (d : VName) (a : VName) (t : Ty) (la : BitVec 4)
  | vcos (d : VName) (a : VName) (t : Ty) (la : BitVec 4)
  | vtanh (d : VName) (a : VName) (t : Ty) (la : BitVec 4)
  | vsigm (d : VName) (a : VName) (t : Ty) (la : BitVec 4)
  | vexp (d : VName) (a : VName) (t : Ty) (la : BitVec 4)
  | vgelu (d : VName) (a : VName) (t : Ty) (la : BitVec 4)
  /-- 09 R261: whole-register shifts. -/
  | vshlw (d : VName) (a : VName) (b : CReg) (t : Ty)
  | vshrw (d : VName) (a : VName) (b : CReg) (t : Ty)
  | vfsl (d : VName) (a : VName) (b : CReg) (t : Ty)
  | vfsr (d : VName) (a : VName) (b : CReg) (t : Ty)
  /-- 09 R262: reductions. -/
  | vredSum (d : CReg) (a : VName) (t : Ty) (la : BitVec 4)
  | vredMax (d : CReg) (a : VName) (t : Ty) (la : BitVec 4)
  | vredMin (d : CReg) (a : VName) (t : Ty) (la : BitVec 4)
  | vredCnt (d : CReg) (a : VName) (t : Ty) (la : BitVec 4)
  | vredSumc (d : CReg) (a : VName) (t : Ty) (la : BitVec 4)
  /-- 09 R262: mask reductions. -/
  | vredPopc (d : CReg) (t : Ty) (la : BitVec 4)
  | vredFirst (d : CReg) (t : Ty) (la : BitVec 4)
  /-- 09 R263: permutes; f is the facet family. -/
  | vcompress (d : VName) (a : VName) (t : Ty) (f : Bool)
  | vexpand (d : VName) (a : VName) (t : Ty) (f : Bool)
  /-- 09 R263. -/
  | vperm (d : VName) (a : VName) (b : VName) (t : Ty) (f : Bool)
  /-- 09 R264: slides. -/
  | vslideup (d : VName) (a : VName) (b : CReg) (t : Ty) (f : Bool)
  | vslidedn (d : VName) (a : VName) (b : CReg) (t : Ty) (f : Bool)
  /-- 09 R265. -/
  | vregroup (d : VName) (a : VName) (t : Ty)
  /-- 09 R266. -/
  | spl (a : CReg) (s : BitVec 2) (l : BitVec 7)
  /-- 09 R267. -/
  | splb (off : BitVec 13)
  /-- 10 R273: vector loads and stores; `a` is a c register in the control stream, a register pair in an AIB. -/
  | vld (d : VName) (a : BitVec 6) (sz : Sz) (off : BitVec 7) (la : BitVec 4)
  | vlds (d : VName) (a : BitVec 6) (sz : Sz) (off : BitVec 7) (la : BitVec 4)
  | vst (d : VName) (a : BitVec 6) (sz : Sz) (off : BitVec 7) (la : BitVec 4)
  | vsts (d : VName) (a : BitVec 6) (sz : Sz) (off : BitVec 7) (la : BitVec 4)
  /-- 10 R277. -/
  | vldw (d : VName) (a : CReg) (t : Ty) (la : BitVec 4)
  /-- 10 R278. -/
  | vpermw (d : VName) (a : VName) (b : CReg) (t : Ty) (la : BitVec 4)
  /-- 10 R279: scatters. -/
  | vscatO (d : VName) (a : CReg) (b : VName) (t : Ty) (la : BitVec 4)
  | vscatU (d : VName) (a : CReg) (b : VName) (t : Ty) (la : BitVec 4)
  /-- 10 R282: vector atomics; `a` is a c register in the control stream, a register pair in an AIB. -/
  | vamoAdd (d : VName) (a : BitVec 6) (b : VName) (t : Ty)
  | vamoAddf (d : VName) (a : BitVec 6) (b : VName) (t : Ty)
  | vamoAddc (d : VName) (a : BitVec 6) (b : VName) (t : Ty)
  | vamoMin (d : VName) (a : BitVec 6) (b : VName) (t : Ty)
  | vamoMax (d : VName) (a : BitVec 6) (b : VName) (t : Ty)
  | vamoMinf (d : VName) (a : BitVec 6) (b : VName) (t : Ty)
  | vamoMaxf (d : VName) (a : BitVec 6) (b : VName) (t : Ty)
  | vamoAnd (d : VName) (a : BitVec 6) (b : VName) (t : Ty)
  | vamoOr (d : VName) (a : BitVec 6) (b : VName) (t : Ty)
  | vamoXor (d : VName) (a : BitVec 6) (b : VName) (t : Ty)
  | vamoSwap (d : VName) (a : BitVec 6) (b : VName) (t : Ty)
  | vamoCas (d : VName) (a : BitVec 6) (b : VName) (t : Ty)
  /-- 10 R284: scalar atomics. -/
  | amoAdd (d : CReg) (a : CReg) (b : CReg) (t : Ty)
  | amoAddf (d : CReg) (a : CReg) (b : CReg) (t : Ty)
  | amoAddc (d : CReg) (a : CReg) (b : CReg) (t : Ty)
  | amoMin (d : CReg) (a : CReg) (b : CReg) (t : Ty)
  | amoMax (d : CReg) (a : CReg) (b : CReg) (t : Ty)
  | amoMinf (d : CReg) (a : CReg) (b : CReg) (t : Ty)
  | amoMaxf (d : CReg) (a : CReg) (b : CReg) (t : Ty)
  | amoAnd (d : CReg) (a : CReg) (b : CReg) (t : Ty)
  | amoOr (d : CReg) (a : CReg) (b : CReg) (t : Ty)
  | amoXor (d : CReg) (a : CReg) (b : CReg) (t : Ty)
  | amoSwap (d : CReg) (a : CReg) (b : CReg) (t : Ty)
  | amoCas (d : CReg) (a : CReg) (b : CReg) (t : Ty)
  /-- 10 R286: pivots. -/
  | acq (a : CReg)
  | acqSh (a : CReg)
  | rel (a : CReg)
  /-- 10 R287. -/
  | bind (d : CReg) (a : CReg) (b : CReg)
  | unbind (a : CReg)
  /-- 10 R288: fences. -/
  | fenceAcq (scope : Scope)
  | fenceRel (scope : Scope)
  | fenceFull (scope : Scope)
  /-- 10 R288. -/
  | ifence
  /-- 10 R289: named barriers. -/
  | bar (k : BitVec 6) (a : CReg)
  | barArrive (k : BitVec 6) (a : CReg)
  /-- 10 R290. -/
  | vwait (d : CReg) (a : VName) (b : VName)
  /-- 10 R297. -/
  | vgath (k : BitVec 6) (a : CReg) (b : VName) (t : Ty) (la : BitVec 4)
  /-- 10 R291. -/
  | vstream (d : VName) (a : CReg)
  | vunbind (d : VName)
  /-- 10 R292. -/
  | copy (k : BitVec 6) (a : CReg) (b : CReg) (la : BitVec 4)
  /-- 10 R293: tags. -/
  | tagwaitAny (d : CReg) (a : CReg)
  | tagwaitAll (d : CReg) (a : CReg)
  | tagffr (d : CReg) (a : CReg)
  /-- 10 R294. -/
  | chgo (d : CReg) (a : CReg) (b : CReg) (k : BitVec 3)
  | chwait (a : CReg) (k : BitVec 3)
  /-- 10 R295: rings. -/
  | rres (d : CReg) (a : CReg)
  /-- 10 R295. -/
  | rcom (a : CReg) (b : CReg)
  /-- 10 R295: rings. -/
  | rclaim (d : CReg) (a : CReg)
  /-- 10 R295. -/
  | rfree (a : CReg) (b : CReg)
  /-- 10 R296: engine gathers and scatters. -/
  | egath (k : BitVec 6) (a : CReg) (la : BitVec 4)
  | escat (k : BitVec 6) (a : CReg) (la : BitVec 4)
  /-- 11 R304: matrix state. -/
  | men (a : CReg)
  /-- 11 R304. -/
  | mdis
  /-- 11 R306. -/
  | mwin (a : CReg) (b : CReg)
  /-- 11 R304: matrix state. -/
  | mzero (a : CReg)
  /-- 11 R304. -/
  | mfence
  /-- 11 R310. -/
  | ldw (a : CReg) (b : CReg) (la : BitVec 4)
  /-- 11 R311. -/
  | mop (a : CReg) (la : BitVec 4)
  /-- 11 R319: drains. -/
  | mrdRaw (d : VName) (a : CReg) (la : BitVec 4)
  | mrdNorm (d : VName) (a : CReg) (la : BitVec 4)
  | mrdCnt (d : VName) (a : CReg) (la : BitVec 4)
  | mrdPair (d : VName) (a : CReg) (la : BitVec 4)
  /-- 11 R320: row writes. -/
  | mwrVal (a : CReg) (b : VName) (la : BitVec 4)
  | mwrPair (a : CReg) (b : VName) (la : BitVec 4)
  /-- 11 R322: tasks. -/
  | spawn (d : CReg) (a : CReg) (b : CReg)
  /-- 11 R322. -/
  | fdup (a : CReg)
  | fdrop (a : CReg)
  | fget (d : CReg) (a : CReg)
  | ftest (d : CReg) (a : CReg)
  | fret (a : CReg)
  | rpt (a : CReg) (b : CReg)
  | emit (a : CReg) (b : CReg)
  | launch (d : CReg) (a : CReg)
  | yield
  | lfree (a : CReg)
  /-- 11 R335. -/
  | vdot4X (d : VName) (a : VName) (b : BOp) (p : Bool)
  /-- 11 R334. -/
  | trap (n : BitVec 13)
  | brk
  /-- 15 R378, R379: supervisor. -/
  | eret (d : CReg) (a : CReg) (b : CReg)
  /-- 17 R407: translation invalidation. -/
  | tlbinvVa (a : CReg) (b : CReg)
  /-- 17 R407. -/
  | tlbinvCtx (b : CReg)
  | tlbinvAll
  /-- 17 R407: translation invalidation. -/
  | tlbinvRetry (a : CReg) (b : CReg)
  | tlbinvFail (a : CReg) (b : CReg)
  /-- 18 R425. -/
  | stest (d : CReg) (a : CReg)
  /-- 15 R378, R379: supervisor. -/
  | halt (d : CReg) (a : CReg) (b : CReg)
  /-- 07 R193: prefix words. -/
  | pfxImm (hi : BitVec 19)
  /-- 07 R193. -/
  | pfxScope (hint : Hint) (scope : Scope)
  /-- R65; reads `reg`. -/
  | crdVcs
  /-- R65; reads `reg`. -/
  | cwrVcs
  /-- R62; reads `reg`. -/
  | cwrVl
  /-- R227; reads `reg`. -/
  | cwrTags
  /-- R361; reads `reg`, `n`. -/
  | cwrSavePool
  /-- R22; reads `g`. -/
  | viqEnqueue
  /-- R33; reads `g`. -/
  | vfComplete
  /-- R31; reads `g`, `pc`. -/
  | vpIssue
  /-- R40; reads `g`, `e`. -/
  | chordUnderflow
  /-- R40; reads `g`, `e`. -/
  | chordOverflow
  /-- R120; reads `pa`. -/
  | pivotGrant
  /-- R290; reads `g`. -/
  | vwaitWake
  /-- R290; reads `g`. -/
  | vwaitTimeout
  /-- R147; reads `g`, `i`, `i`. -/
  | streamFacetLanded
  /-- R141; reads `op`. -/
  | copyComplete
  /-- R156; reads `tm`, `k`. -/
  | channelFillSlot
  /-- R156; reads `tm`, `k`. -/
  | channelDrainSlot
  /-- R434; reads `tm`, `k`, `st`. -/
  | channelTransferError
  /-- R152; reads `g`. -/
  | ringReserve
  /-- R152; reads `g`. -/
  | ringClaim
  /-- R175; reads `n`. -/
  | pendingVoid
  /-- R175; reads `n`. -/
  | pendingDiscard
  /-- R162; reads `op`. -/
  | engineCommandComplete
  /-- R405; reads `op`, `i`. -/
  | enginePageFault
  /-- R126; reads `op`, `line`. -/
  | directoryRecall
  /-- R63; reads `die`. -/
  | weightStoreRefresh
  /-- R300; reads `core`. -/
  | mopStart
  /-- R313; reads `core`. -/
  | mopComplete
  /-- R363; reads `g`, `cause`, `elem`, `idx`, `addr`, `info`. -/
  | trapStop
  /-- R363; reads `die`. -/
  | handlerSpawn
  /-- R367; reads `g`. -/
  | preEmption
  /-- R377; reads `g`, `die`, `core`, `sector`, `grant`. -/
  | resume
  /-- R44; reads `g`. -/
  | groupEnd
  /-- R175; reads `g`. -/
  | reclamation
  /-- R172; reads `h`. -/
  | reclaimSettle
  /-- R180; reads `g`. -/
  | weightRefill
  /-- R181; reads `h`, `w`. -/
  | weightReturn
  /-- R183; reads `die`, `ctx`, `node`. -/
  | binTimerExpiry
  /-- R381; reads `die`, `h`. -/
  | gridRecordArrival
  /-- R381; reads `die`, `h`. -/
  | gridShareReport
  /-- R439; reads `die`, `temp`. -/
  | temperatureSample
  /-- R391; reads `die`. -/
  | stealRequest
  /-- R392; reads `die`. -/
  | stealOffer
  /-- R392; reads `die`. -/
  | stealAck
  /-- R392; reads `die`. -/
  | stealReceiptAccepted
  /-- R392; reads `die`. -/
  | stealReceiptStale
  /-- R392; reads `die`. -/
  | stealNone
  /-- R392; reads `die`. -/
  | stealTimerExpiry
  /-- R394; reads `die`. -/
  | loc
  /-- R394; reads `die`. -/
  | homeConfirm
  /-- R394; reads `die`. -/
  | forwardedReferenceAction
  /-- R393; reads `w`, `n`. -/
  | linkFailure
  /-- R393; reads `die`. -/
  | dieReset
  /-- R393; reads `die`. -/
  | powerGatingRequest
  /-- R131; reads `op`. -/
  | remoteCopyComplete
  /-- R163; reads `op`. -/
  | remoteCopyError
  /-- R131; reads `part`, `rkey`, `va`, `fmt`, `words`: one element in each word. -/
  | remoteAddWithCount
  /-- R436; reads `part`, `rkey`, `va`, `data`. -/
  | hostRdmaWrite
  /-- R436; reads `part`, `rkey`, `va`, `len`. -/
  | hostRdmaRead
  /-- R420; reads `hdr`. -/
  | ident
  /-- R409; reads `hdr`, `words`. -/
  | parts
  /-- R400; reads `hdr`, `words`. -/
  | context
  /-- R384; reads `hdr`, `words`. -/
  | power
  /-- R438; reads `hdr`, `words`. -/
  | start
  /-- R419; reads `hdr`, `words`. -/
  | grid
  /-- R419; reads `hdr`, `words`. -/
  | release
  /-- R419; reads `hdr`, `words`. -/
  | wstore
  /-- R422; reads `hdr`, `words`. -/
  | errlog
  /-- R417; reads `hdr`, `words`. -/
  | nodes
  /-- R426; reads `hdr`, `words`. -/
  | load
  /-- R429; reads `ctx`, `load`, and, for a retry, `i`: which stub table of the context. -/
  | translationEnd
  /-- R431; reads `hdr`, `words`: the addresses, and `data`: the signature. -/
  | enroll
  /-- R431; reads `hdr`, `words`: slot and partition, and `data`: the wrapped pair. -/
  | keyload
  /-- R415; reads `hdr`, `words`. -/
  | keyunload
  /-- R431; reads `hdr`, `words`. -/
  | attest
  /-- R422; reads `die`, `k`: UNIT, `i`: CLASS, `flag`: UNC, `addr`: LOC, `info`: SYN, `h`, `ctx`, and where the data stand: `pa`, `n`, `tm`. -/
  | errorDetected
  /-- R431; reads `flag`: every firmware stage verifies. -/
  | deviceReset
  /-- R214; reads `g`, `reg`. -/
  | divideUnitResult
  /-- R192; reads `g`, `reg`. -/
  | loadedValueArrives
  /-- R302; reads `core`. -/
  | ldwComplete
  /-- R425; reads `g`, `n`. -/
  | targetedTestEnd
  /-- R163; reads `part`, `rkey`, `va`, `data`. -/
  | remoteRdmaWrite
  /-- R163; reads `part`, `rkey`, `va`, `len`. -/
  | remoteRdmaRead
deriving DecidableEq, Repr

end Sys2Proof
end

