-- ==== Sys2Proof/WellFormed.lean ====
section
/-! DEFINITION. Well-formed instructions: those that a word of 32 bits stands for (07 R186, R199). -/

namespace Sys2Proof

/-- The instruction has a word: it is not a step that the device takes of its own accord. -/
def Instr.hasWord : Instr → Bool
  | .add _ _ _ => true
  | .sub _ _ _ => true
  | .mul _ _ _ => true
  | .mulh _ _ _ => true
  | .mulhu _ _ _ => true
  | .and _ _ _ => true
  | .or _ _ _ => true
  | .xor _ _ _ => true
  | .sll _ _ _ => true
  | .srl _ _ _ => true
  | .sra _ _ _ => true
  | .slt _ _ _ => true
  | .sltu _ _ _ => true
  | .min _ _ _ => true
  | .max _ _ _ => true
  | .div _ _ _ _ => true
  | .divu _ _ _ _ => true
  | .rem _ _ _ _ => true
  | .remu _ _ _ _ => true
  | .addi _ _ _ => true
  | .andi _ _ _ => true
  | .ori _ _ _ => true
  | .xori _ _ _ => true
  | .slti _ _ _ => true
  | .sltiu _ _ _ => true
  | .slli _ _ _ => true
  | .srli _ _ _ => true
  | .srai _ _ _ => true
  | .lui _ _ => true
  | .lpc _ _ => true
  | .ld _ _ _ _ _ => true
  | .ldu _ _ _ _ _ => true
  | .st _ _ _ _ _ => true
  | .beq _ _ _ => true
  | .bne _ _ _ => true
  | .blt _ _ _ => true
  | .bge _ _ _ => true
  | .bltu _ _ _ => true
  | .bgeu _ _ _ => true
  | .jal _ _ => true
  | .jalr _ _ _ => true
  | .fadd _ _ _ _ => true
  | .fsub _ _ _ _ => true
  | .fmul _ _ _ _ => true
  | .fmin _ _ _ _ => true
  | .fmax _ _ _ _ => true
  | .fcmpEq _ _ _ _ => true
  | .fcmpLt _ _ _ _ => true
  | .fcmpLe _ _ _ _ => true
  | .fcvt _ _ _ _ => true
  | .fdiv _ _ _ _ _ => true
  | .fsqrt _ _ _ _ => true
  | .fma _ _ _ _ _ => true
  | .setvl _ _ _ => true
  | .crd _ _ => true
  | .cwr _ _ => true
  | .vf _ => true
  | .vfr _ => true
  | .fetch _ => true
  | .fetchNz _ _ => true
  | .stop => true
  | .jenrol _ => true
  | .jpark _ => true
  | .jstrike _ => true
  | .qput _ => true
  | .qget _ => true
  | .qclr => true
  | .vsend _ => true
  | .vrecv _ => true
  | .vid _ _ _ => true
  | .vadd _ _ _ _ _ => true
  | .vsub _ _ _ _ _ => true
  | .vmul _ _ _ _ _ => true
  | .vmac _ _ _ _ _ => true
  | .vmin _ _ _ _ _ => true
  | .vmax _ _ _ _ _ => true
  | .vabs _ _ _ _ => true
  | .vneg _ _ _ _ => true
  | .vand _ _ _ _ _ => true
  | .vor _ _ _ _ _ => true
  | .vxor _ _ _ _ _ => true
  | .vnot _ _ _ _ => true
  | .vsll _ _ _ _ _ => true
  | .vsrl _ _ _ _ _ => true
  | .vsra _ _ _ _ _ => true
  | .vdiv _ _ _ _ _ _ => true
  | .vcmpEq _ _ _ => true
  | .vcmpNe _ _ _ => true
  | .vcmpLt _ _ _ => true
  | .vcmpLe _ _ _ => true
  | .vcmpuLt _ _ _ => true
  | .vcmpuLe _ _ _ => true
  | .vabsent _ _ => true
  | .vsel _ _ _ _ => true
  | .vmov _ _ _ => true
  | .vmovScalar _ _ _ => true
  | .vbcast _ _ _ _ => true
  | .vext _ _ _ _ => true
  | .vsetabs _ _ => true
  | .vfill _ _ => true
  | .vfillScalar _ _ _ => true
  | .vmsave _ _ => true
  | .vmload _ _ => true
  | .vomov => true
  | .vcvt _ _ _ _ _ => true
  | .vquant _ _ _ _ _ => true
  | .vdequant _ _ _ _ _ => true
  | .vexp2 _ _ _ _ => true
  | .vlog2 _ _ _ _ => true
  | .vrcp _ _ _ _ => true
  | .vrsqrt _ _ _ _ => true
  | .vsqrt _ _ _ _ => true
  | .vsin _ _ _ _ => true
  | .vcos _ _ _ _ => true
  | .vtanh _ _ _ _ => true
  | .vsigm _ _ _ _ => true
  | .vexp _ _ _ _ => true
  | .vgelu _ _ _ _ => true
  | .vshlw _ _ _ _ => true
  | .vshrw _ _ _ _ => true
  | .vfsl _ _ _ _ => true
  | .vfsr _ _ _ _ => true
  | .vredSum _ _ _ _ => true
  | .vredMax _ _ _ _ => true
  | .vredMin _ _ _ _ => true
  | .vredCnt _ _ _ _ => true
  | .vredSumc _ _ _ _ => true
  | .vredPopc _ _ _ => true
  | .vredFirst _ _ _ => true
  | .vcompress _ _ _ _ => true
  | .vexpand _ _ _ _ => true
  | .vperm _ _ _ _ _ => true
  | .vslideup _ _ _ _ _ => true
  | .vslidedn _ _ _ _ _ => true
  | .vregroup _ _ _ => true
  | .spl _ _ _ => true
  | .splb _ => true
  | .vld _ _ _ _ _ => true
  | .vlds _ _ _ _ _ => true
  | .vst _ _ _ _ _ => true
  | .vsts _ _ _ _ _ => true
  | .vldw _ _ _ _ => true
  | .vpermw _ _ _ _ _ => true
  | .vscatO _ _ _ _ _ => true
  | .vscatU _ _ _ _ _ => true
  | .vamoAdd _ _ _ _ => true
  | .vamoAddf _ _ _ _ => true
  | .vamoAddc _ _ _ _ => true
  | .vamoMin _ _ _ _ => true
  | .vamoMax _ _ _ _ => true
  | .vamoMinf _ _ _ _ => true
  | .vamoMaxf _ _ _ _ => true
  | .vamoAnd _ _ _ _ => true
  | .vamoOr _ _ _ _ => true
  | .vamoXor _ _ _ _ => true
  | .vamoSwap _ _ _ _ => true
  | .vamoCas _ _ _ _ => true
  | .amoAdd _ _ _ _ => true
  | .amoAddf _ _ _ _ => true
  | .amoAddc _ _ _ _ => true
  | .amoMin _ _ _ _ => true
  | .amoMax _ _ _ _ => true
  | .amoMinf _ _ _ _ => true
  | .amoMaxf _ _ _ _ => true
  | .amoAnd _ _ _ _ => true
  | .amoOr _ _ _ _ => true
  | .amoXor _ _ _ _ => true
  | .amoSwap _ _ _ _ => true
  | .amoCas _ _ _ _ => true
  | .acq _ => true
  | .acqSh _ => true
  | .rel _ => true
  | .bind _ _ _ => true
  | .unbind _ => true
  | .fenceAcq _ => true
  | .fenceRel _ => true
  | .fenceFull _ => true
  | .ifence => true
  | .bar _ _ => true
  | .barArrive _ _ => true
  | .vwait _ _ _ => true
  | .vgath _ _ _ _ _ => true
  | .vstream _ _ => true
  | .vunbind _ => true
  | .copy _ _ _ _ => true
  | .tagwaitAny _ _ => true
  | .tagwaitAll _ _ => true
  | .tagffr _ _ => true
  | .chgo _ _ _ _ => true
  | .chwait _ _ => true
  | .rres _ _ => true
  | .rcom _ _ => true
  | .rclaim _ _ => true
  | .rfree _ _ => true
  | .egath _ _ _ => true
  | .escat _ _ _ => true
  | .men _ => true
  | .mdis => true
  | .mwin _ _ => true
  | .mzero _ => true
  | .mfence => true
  | .ldw _ _ _ => true
  | .mop _ _ => true
  | .mrdRaw _ _ _ => true
  | .mrdNorm _ _ _ => true
  | .mrdCnt _ _ _ => true
  | .mrdPair _ _ _ => true
  | .mwrVal _ _ _ => true
  | .mwrPair _ _ _ => true
  | .spawn _ _ _ => true
  | .fdup _ => true
  | .fdrop _ => true
  | .fget _ _ => true
  | .ftest _ _ => true
  | .fret _ => true
  | .rpt _ _ => true
  | .emit _ _ => true
  | .launch _ _ => true
  | .yield => true
  | .lfree _ => true
  | .vdot4X _ _ _ _ => true
  | .trap _ => true
  | .brk => true
  | .eret _ _ _ => true
  | .tlbinvVa _ _ => true
  | .tlbinvCtx _ => true
  | .tlbinvAll => true
  | .tlbinvRetry _ _ => true
  | .tlbinvFail _ _ => true
  | .stest _ _ => true
  | .halt _ _ _ => true
  | .pfxImm _ => true
  | .pfxScope _ _ => true
  | .crdVcs => false
  | .cwrVcs => false
  | .cwrVl => false
  | .cwrTags => false
  | .cwrSavePool => false
  | .viqEnqueue => false
  | .vfComplete => false
  | .vpIssue => false
  | .chordUnderflow => false
  | .chordOverflow => false
  | .pivotGrant => false
  | .vwaitWake => false
  | .vwaitTimeout => false
  | .streamFacetLanded => false
  | .copyComplete => false
  | .channelFillSlot => false
  | .channelDrainSlot => false
  | .channelTransferError => false
  | .ringReserve => false
  | .ringClaim => false
  | .pendingVoid => false
  | .pendingDiscard => false
  | .engineCommandComplete => false
  | .enginePageFault => false
  | .directoryRecall => false
  | .weightStoreRefresh => false
  | .mopStart => false
  | .mopComplete => false
  | .trapStop => false
  | .handlerSpawn => false
  | .preEmption => false
  | .resume => false
  | .groupEnd => false
  | .reclamation => false
  | .reclaimSettle => false
  | .weightRefill => false
  | .weightReturn => false
  | .binTimerExpiry => false
  | .gridRecordArrival => false
  | .gridShareReport => false
  | .temperatureSample => false
  | .stealRequest => false
  | .stealOffer => false
  | .stealAck => false
  | .stealReceiptAccepted => false
  | .stealReceiptStale => false
  | .stealNone => false
  | .stealTimerExpiry => false
  | .loc => false
  | .homeConfirm => false
  | .forwardedReferenceAction => false
  | .linkFailure => false
  | .dieReset => false
  | .powerGatingRequest => false
  | .remoteCopyComplete => false
  | .remoteCopyError => false
  | .remoteAddWithCount => false
  | .hostRdmaWrite => false
  | .hostRdmaRead => false
  | .ident => false
  | .parts => false
  | .context => false
  | .power => false
  | .start => false
  | .grid => false
  | .release => false
  | .wstore => false
  | .errlog => false
  | .nodes => false
  | .load => false
  | .translationEnd => false
  | .enroll => false
  | .keyload => false
  | .keyunload => false
  | .attest => false
  | .errorDetected => false
  | .deviceReset => false
  | .divideUnitResult => false
  | .loadedValueArrives => false
  | .ldwComplete => false
  | .targetedTestEnd => false
  | .remoteRdmaWrite => false
  | .remoteRdmaRead => false

/-- The operands have an encoding: an unsigned load of 8 bytes has none (08 R218). -/
def Instr.operandsOk : Instr → Bool
  | .ldu _ _ sz _ _ => decide (sz ≠ .d)
  | _ => true

/-- An instruction that some word stands for. -/
def Instr.wf (i : Instr) : Bool := i.hasWord && i.operandsOk

end Sys2Proof
end

