-- ==== Sys2Proof/Decode.lean ====
section
/-! DEFINITION. The decoder of instruction words (07 R186 to R199) and, after it, the encoder written from the same
tables. A word that R199 makes illegal is rejected by name. Which types, contexts and privilege an instruction
admits is not decided here: those checks stand with its meaning (07 R200 steps 3 and 4). -/

namespace Sys2Proof

/-- The fields of an instruction word by their R-format places (07 R187): the other formats join neighbours. -/
structure Fields where
  op : BitVec 7
  d  : BitVec 6
  a  : BitVec 6
  b  : BitVec 6
  t  : BitVec 3
  fn : BitVec 4
deriving DecidableEq, Repr

/-- Split a word into its fields. -/
def Fields.ofWord (w : Word32) : Fields :=
  ⟨w.extractLsb' 25 7, w.extractLsb' 19 6, w.extractLsb' 13 6, w.extractLsb' 7 6, w.extractLsb' 4 3, w.extractLsb' 0 4⟩

/-- Join fields into a word. -/
def Fields.toWord (f : Fields) : Word32 := f.op ++ f.d ++ f.a ++ f.b ++ f.t ++ f.fn

/-- Why a word raises illegal-instruction at decode (07 R199). -/
inductive DecodeError where
  /-- The opcode is unassigned, or 0x7F. -/
  | unassigned
  /-- The selector value is marked illegal. -/
  | selector
  /-- A reserved field is nonzero. -/
  | reserved
  /-- A register field breaks R188. -/
  | register
deriving DecidableEq, Repr

abbrev Decoded := Except DecodeError Instr

/-- A field that names a `c` register: 32 to 63 are illegal (07 R188). -/
def rC (x : BitVec 6) (k : CReg → Decoded) : Decoded :=
  if x.toNat < 32 then k (x.truncate 5) else .error .register

/-- A field that names a rejoin mask: 8 to 63 are illegal (07 R188). -/
def rJ (x : BitVec 6) (k : JReg → Decoded) : Decoded :=
  if x.toNat < 8 then k (x.truncate 3) else .error .register

/-- The b field of an instruction that admits S: with S set it names a `c` register (07 R191). -/
def rB (s : Bool) (x : BitVec 6) (k : BOp → Decoded) : Decoded :=
  if s then rC x fun c => k (.c c) else k (.v x)

/-- The mask operand of `vmsave` and `vmload` (09 R253). -/
def rM (x : BitVec 6) (k : MaskSel → Decoded) : Decoded :=
  if x = 0#6 then k .vm else if x = 1#6 then k .vo
  else if 8 ≤ x.toNat ∧ x.toNat < 16 then k (.j (x.truncate 3)) else .error .selector

/-- A reserved-field check (07 R199). -/
def res (ok : Prop) [Decidable ok] (k : Decoded) : Decoded :=
  if ok then k else .error .reserved

def Ty.code : Ty → BitVec 3
  | .i8 => 0 | .i16 => 1 | .i32 => 2 | .i64 => 3 | .f16 => 4 | .bf16 => 5 | .f32 => 6 | .f64 => 7

/-- The type of a t field (07 R190). -/
def Ty.ofCode (x : BitVec 3) : Ty :=
  match x.toNat with
  | 0 => .i8 | 1 => .i16 | 2 => .i32 | 3 => .i64 | 4 => .f16 | 5 => .bf16 | 6 => .f32 | _ => .f64

def Sz.code : Sz → BitVec 2
  | .b => 0 | .h => 1 | .w => 2 | .d => 3

def Sz.ofCode (x : BitVec 2) : Sz :=
  match x.toNat with
  | 0 => .b | 1 => .h | 2 => .w | _ => .d

def Scope.code : Scope → BitVec 3
  | .grp => 0 | .team => 1 | .die => 2 | .dev => 3 | .sys => 4

def Hint.code : Hint → BitVec 2
  | .none => 0 | .stream => 1 | .keep => 2

/-- A scope field: 5 to 7 are reserved (07 R193, 10 R285). -/
def rS (x : BitVec 3) (k : Scope → Decoded) : Decoded :=
  match x.toNat with
  | 0 => k .grp | 1 => k .team | 2 => k .die | 3 => k .dev | 4 => k .sys | _ => .error .selector

/-- A hint field: 3 is reserved (07 R193). -/
def rH (x : BitVec 2) (k : Hint → Decoded) : Decoded :=
  match x.toNat with
  | 0 => k .none | 1 => k .stream | 2 => k .keep | _ => .error .selector

def BOp.field : BOp → BitVec 6
  | .v r => r
  | .c r => r.zeroExtend 6

def BOp.isC : BOp → Bool
  | .v _ => false
  | .c _ => true

def MaskSel.field : MaskSel → BitVec 6
  | .vm => 0
  | .vo => 1
  | .j k => 1#3 ++ k

def bit (b : Bool) : BitVec 1 := BitVec.ofBool b

/-- The opcode map (07 R198): the instruction of a word's fields, or why the word is illegal. -/
def decodeFields (f : Fields) : Decoded :=
  match f.op.toNat with
  | 0x01 => match f.fn.toNat with
    | 0 => res (f.t = 0#3) <| rC f.d fun d => rC f.a fun a => rC f.b fun b => .ok (.add d a b)
    | 1 => res (f.t = 0#3) <| rC f.d fun d => rC f.a fun a => rC f.b fun b => .ok (.sub d a b)
    | 2 => res (f.t = 0#3) <| rC f.d fun d => rC f.a fun a => rC f.b fun b => .ok (.mul d a b)
    | 3 => res (f.t = 0#3) <| rC f.d fun d => rC f.a fun a => rC f.b fun b => .ok (.mulh d a b)
    | 4 => res (f.t = 0#3) <| rC f.d fun d => rC f.a fun a => rC f.b fun b => .ok (.mulhu d a b)
    | 5 => res (f.t = 0#3) <| rC f.d fun d => rC f.a fun a => rC f.b fun b => .ok (.and d a b)
    | 6 => res (f.t = 0#3) <| rC f.d fun d => rC f.a fun a => rC f.b fun b => .ok (.or d a b)
    | 7 => res (f.t = 0#3) <| rC f.d fun d => rC f.a fun a => rC f.b fun b => .ok (.xor d a b)
    | 8 => res (f.t = 0#3) <| rC f.d fun d => rC f.a fun a => rC f.b fun b => .ok (.sll d a b)
    | 9 => res (f.t = 0#3) <| rC f.d fun d => rC f.a fun a => rC f.b fun b => .ok (.srl d a b)
    | 10 => res (f.t = 0#3) <| rC f.d fun d => rC f.a fun a => rC f.b fun b => .ok (.sra d a b)
    | 11 => res (f.t = 0#3) <| rC f.d fun d => rC f.a fun a => rC f.b fun b => .ok (.slt d a b)
    | 12 => res (f.t = 0#3) <| rC f.d fun d => rC f.a fun a => rC f.b fun b => .ok (.sltu d a b)
    | 13 => res (f.t = 0#3) <| rC f.d fun d => rC f.a fun a => rC f.b fun b => .ok (.min d a b)
    | 14 => res (f.t = 0#3) <| rC f.d fun d => rC f.a fun a => rC f.b fun b => .ok (.max d a b)
    | _ => .error .selector
  | 0x02 => match f.t.toNat with
    | 0 => rC f.d fun d => rC f.a fun a => rC f.b fun b => .ok (.div d a b f.fn)
    | 1 => rC f.d fun d => rC f.a fun a => rC f.b fun b => .ok (.divu d a b f.fn)
    | 2 => rC f.d fun d => rC f.a fun a => rC f.b fun b => .ok (.rem d a b f.fn)
    | 3 => rC f.d fun d => rC f.a fun a => rC f.b fun b => .ok (.remu d a b f.fn)
    | _ => .error .selector
  | 0x03 => rC f.d fun d => rC f.a fun a => .ok (.addi d a (f.b ++ f.t ++ f.fn))
  | 0x04 => rC f.d fun d => rC f.a fun a => .ok (.andi d a (f.b ++ f.t ++ f.fn))
  | 0x05 => rC f.d fun d => rC f.a fun a => .ok (.ori d a (f.b ++ f.t ++ f.fn))
  | 0x06 => rC f.d fun d => rC f.a fun a => .ok (.xori d a (f.b ++ f.t ++ f.fn))
  | 0x07 => match (f.b.extractLsb' 4 2).toNat with
    | 0 => res (f.b &&& 15#6 = 0#6 ∧ f.t &&& 4#3 = 0#3) <| rC f.d fun d => rC f.a fun a => .ok (.slli d a (f.t.extractLsb' 0 2 ++ f.fn))
    | 1 => res (f.b &&& 15#6 = 0#6 ∧ f.t &&& 4#3 = 0#3) <| rC f.d fun d => rC f.a fun a => .ok (.srli d a (f.t.extractLsb' 0 2 ++ f.fn))
    | 2 => res (f.b &&& 15#6 = 0#6 ∧ f.t &&& 4#3 = 0#3) <| rC f.d fun d => rC f.a fun a => .ok (.srai d a (f.t.extractLsb' 0 2 ++ f.fn))
    | _ => .error .selector
  | 0x08 => rC f.d fun d => rC f.a fun a => .ok (.slti d a (f.b ++ f.t ++ f.fn))
  | 0x09 => rC f.d fun d => rC f.a fun a => .ok (.sltiu d a (f.b ++ f.t ++ f.fn))
  | 0x0A => rC f.d fun d => .ok (.lui d (f.a ++ f.b ++ f.t ++ f.fn))
  | 0x0B => rC f.d fun d => .ok (.lpc d (f.a ++ f.b ++ f.t ++ f.fn))
  | 0x0C => rC f.d fun d => rC f.a fun a => .ok (.ld d a (Sz.ofCode (f.b.extractLsb' 4 2)) (f.b.extractLsb' 0 4 ++ f.t) f.fn)
  | 0x0D => res (f.b.extractLsb' 4 2 ≠ 3#2) <| rC f.d fun d => rC f.a fun a => .ok (.ldu d a (Sz.ofCode (f.b.extractLsb' 4 2)) (f.b.extractLsb' 0 4 ++ f.t) f.fn)
  | 0x0E => rC f.d fun d => rC f.a fun a => .ok (.st d a (Sz.ofCode (f.b.extractLsb' 4 2)) (f.b.extractLsb' 0 4 ++ f.t) f.fn)
  | 0x10 => rC f.d fun a => rC f.a fun b => .ok (.beq a b (f.b ++ f.t ++ f.fn))
  | 0x11 => rC f.d fun a => rC f.a fun b => .ok (.bne a b (f.b ++ f.t ++ f.fn))
  | 0x12 => rC f.d fun a => rC f.a fun b => .ok (.blt a b (f.b ++ f.t ++ f.fn))
  | 0x13 => rC f.d fun a => rC f.a fun b => .ok (.bge a b (f.b ++ f.t ++ f.fn))
  | 0x14 => rC f.d fun a => rC f.a fun b => .ok (.bltu a b (f.b ++ f.t ++ f.fn))
  | 0x15 => rC f.d fun a => rC f.a fun b => .ok (.bgeu a b (f.b ++ f.t ++ f.fn))
  | 0x16 => rC f.d fun d => .ok (.jal d (f.a ++ f.b ++ f.t ++ f.fn))
  | 0x17 => rC f.d fun d => rC f.a fun a => .ok (.jalr d a (f.b ++ f.t ++ f.fn))
  | 0x18 => match f.fn.toNat with
    | 0 => rC f.d fun d => rC f.a fun a => rC f.b fun b => .ok (.fadd d a b (Ty.ofCode f.t))
    | 1 => rC f.d fun d => rC f.a fun a => rC f.b fun b => .ok (.fsub d a b (Ty.ofCode f.t))
    | 2 => rC f.d fun d => rC f.a fun a => rC f.b fun b => .ok (.fmul d a b (Ty.ofCode f.t))
    | 3 => rC f.d fun d => rC f.a fun a => rC f.b fun b => .ok (.fmin d a b (Ty.ofCode f.t))
    | 4 => rC f.d fun d => rC f.a fun a => rC f.b fun b => .ok (.fmax d a b (Ty.ofCode f.t))
    | 5 => rC f.d fun d => rC f.a fun a => rC f.b fun b => .ok (.fcmpEq d a b (Ty.ofCode f.t))
    | 6 => rC f.d fun d => rC f.a fun a => rC f.b fun b => .ok (.fcmpLt d a b (Ty.ofCode f.t))
    | 7 => rC f.d fun d => rC f.a fun a => rC f.b fun b => .ok (.fcmpLe d a b (Ty.ofCode f.t))
    | 8 => rC f.d fun d => rC f.a fun a => .ok (.fcvt d a f.b (Ty.ofCode f.t))
    | _ => .error .selector
  | 0x19 => rC f.d fun d => rC f.a fun a => rC f.b fun b => .ok (.fdiv d a b (Ty.ofCode f.t) f.fn)
  | 0x1A => res (f.b = 0#6) <| rC f.d fun d => rC f.a fun a => .ok (.fsqrt d a (Ty.ofCode f.t) f.fn)
  | 0x1B => rC f.d fun d => rC f.a fun a => rC f.b fun b => .ok (.fma d a b (Ty.ofCode f.t) f.fn)
  | 0x1C => rC f.d fun d => rC f.a fun a => .ok (.setvl d a (f.b ++ f.t ++ f.fn))
  | 0x1D => res (f.a = 0#6 ∧ f.b &&& 32#6 = 0#6) <| rC f.d fun d => .ok (.crd d (f.b.extractLsb' 0 5 ++ f.t ++ f.fn))
  | 0x1E => res (f.d = 0#6 ∧ f.b &&& 32#6 = 0#6) <| rC f.a fun a => .ok (.cwr a (f.b.extractLsb' 0 5 ++ f.t ++ f.fn))
  | 0x20 => res (f.d = 0#6) <| .ok (.vf (f.a ++ f.b ++ f.t ++ f.fn))
  | 0x21 => res (f.d = 0#6 ∧ f.b = 0#6 ∧ f.t = 0#3 ∧ f.fn = 0#4) <| rC f.a fun a => .ok (.vfr a)
  | 0x22 => res (f.d = 0#6) <| .ok (.fetch (f.a ++ f.b ++ f.t ++ f.fn))
  | 0x23 => res (f.a = 0#6) <| .ok (.fetchNz f.d (f.b ++ f.t ++ f.fn))
  | 0x24 => res (f.d = 0#6 ∧ f.a = 0#6 ∧ f.b = 0#6 ∧ f.t = 0#3 ∧ f.fn = 0#4) <| .ok .stop
  | 0x25 => match f.fn.toNat with
    | 0 => res (f.a = 0#6 ∧ f.b = 0#6 ∧ f.t = 0#3) <| rJ f.d fun j => .ok (.jenrol j)
    | 1 => res (f.a = 0#6 ∧ f.b = 0#6 ∧ f.t = 0#3) <| rJ f.d fun j => .ok (.jpark j)
    | 2 => res (f.a = 0#6 ∧ f.b = 0#6 ∧ f.t = 0#3) <| rJ f.d fun j => .ok (.jstrike j)
    | _ => .error .selector
  | 0x26 => match f.fn.toNat with
    | 0 => res (f.d = 0#6 ∧ f.b = 0#6 ∧ f.t = 0#3) <| rC f.a fun a => .ok (.qput a)
    | 1 => res (f.a = 0#6 ∧ f.b = 0#6 ∧ f.t = 0#3) <| rC f.d fun d => .ok (.qget d)
    | 2 => res (f.d = 0#6 ∧ f.a = 0#6 ∧ f.b = 0#6 ∧ f.t = 0#3) <| .ok .qclr
    | _ => .error .selector
  | 0x27 => res (f.d = 0#6 ∧ f.b = 0#6 ∧ f.t = 0#3 ∧ f.fn = 0#4) <| .ok (.vsend f.a)
  | 0x28 => res (f.a = 0#6 ∧ f.b = 0#6 ∧ f.t = 0#3 ∧ f.fn = 0#4) <| .ok (.vrecv f.d)
  | 0x29 => res (f.b = 0#6 ∧ f.fn = 0#4) <| .ok (.vid f.d f.a (Ty.ofCode f.t))
  | 0x30 => match (f.fn.extractLsb' 0 2).toNat with
    | 0 => rB (f.fn.getLsbD 2) f.b fun b => .ok (.vadd f.d f.a b (Ty.ofCode f.t) (f.fn.getLsbD 3))
    | 1 => rB (f.fn.getLsbD 2) f.b fun b => .ok (.vsub f.d f.a b (Ty.ofCode f.t) (f.fn.getLsbD 3))
    | 2 => rB (f.fn.getLsbD 2) f.b fun b => .ok (.vmul f.d f.a b (Ty.ofCode f.t) (f.fn.getLsbD 3))
    | 3 => rB (f.fn.getLsbD 2) f.b fun b => .ok (.vmac f.d f.a b (Ty.ofCode f.t) (f.fn.getLsbD 3))
    | _ => .error .selector
  | 0x31 => match (f.fn.extractLsb' 0 2).toNat with
    | 0 => rB (f.fn.getLsbD 2) f.b fun b => .ok (.vmin f.d f.a b (Ty.ofCode f.t) (f.fn.getLsbD 3))
    | 1 => rB (f.fn.getLsbD 2) f.b fun b => .ok (.vmax f.d f.a b (Ty.ofCode f.t) (f.fn.getLsbD 3))
    | 2 => res (f.b = 0#6 ∧ f.fn &&& 4#4 = 0#4) <| .ok (.vabs f.d f.a (Ty.ofCode f.t) (f.fn.getLsbD 3))
    | 3 => res (f.b = 0#6 ∧ f.fn &&& 4#4 = 0#4) <| .ok (.vneg f.d f.a (Ty.ofCode f.t) (f.fn.getLsbD 3))
    | _ => .error .selector
  | 0x32 => match (f.fn.extractLsb' 0 2).toNat with
    | 0 => rB (f.fn.getLsbD 2) f.b fun b => .ok (.vand f.d f.a b (Ty.ofCode f.t) (f.fn.getLsbD 3))
    | 1 => rB (f.fn.getLsbD 2) f.b fun b => .ok (.vor f.d f.a b (Ty.ofCode f.t) (f.fn.getLsbD 3))
    | 2 => rB (f.fn.getLsbD 2) f.b fun b => .ok (.vxor f.d f.a b (Ty.ofCode f.t) (f.fn.getLsbD 3))
    | 3 => res (f.b = 0#6 ∧ f.fn &&& 4#4 = 0#4) <| .ok (.vnot f.d f.a (Ty.ofCode f.t) (f.fn.getLsbD 3))
    | _ => .error .selector
  | 0x33 => match (f.fn.extractLsb' 0 2).toNat with
    | 0 => rB (f.fn.getLsbD 2) f.b fun b => .ok (.vsll f.d f.a b (Ty.ofCode f.t) (f.fn.getLsbD 3))
    | 1 => rB (f.fn.getLsbD 2) f.b fun b => .ok (.vsrl f.d f.a b (Ty.ofCode f.t) (f.fn.getLsbD 3))
    | 2 => rB (f.fn.getLsbD 2) f.b fun b => .ok (.vsra f.d f.a b (Ty.ofCode f.t) (f.fn.getLsbD 3))
    | _ => .error .selector
  | 0x34 => match (f.fn.extractLsb' 0 2).toNat with
    | 0 => res (f.d = 0#6 ∧ f.fn &&& 8#4 = 0#4) <| rB (f.fn.getLsbD 2) f.b fun b => .ok (.vcmpEq f.a b (Ty.ofCode f.t))
    | 1 => res (f.d = 0#6 ∧ f.fn &&& 8#4 = 0#4) <| rB (f.fn.getLsbD 2) f.b fun b => .ok (.vcmpNe f.a b (Ty.ofCode f.t))
    | 2 => res (f.d = 0#6 ∧ f.fn &&& 8#4 = 0#4) <| rB (f.fn.getLsbD 2) f.b fun b => .ok (.vcmpLt f.a b (Ty.ofCode f.t))
    | 3 => res (f.d = 0#6 ∧ f.fn &&& 8#4 = 0#4) <| rB (f.fn.getLsbD 2) f.b fun b => .ok (.vcmpLe f.a b (Ty.ofCode f.t))
    | _ => .error .selector
  | 0x35 => match (f.fn.extractLsb' 0 2).toNat with
    | 0 => res (f.d = 0#6 ∧ f.fn &&& 8#4 = 0#4) <| rB (f.fn.getLsbD 2) f.b fun b => .ok (.vcmpuLt f.a b (Ty.ofCode f.t))
    | 1 => res (f.d = 0#6 ∧ f.fn &&& 8#4 = 0#4) <| rB (f.fn.getLsbD 2) f.b fun b => .ok (.vcmpuLe f.a b (Ty.ofCode f.t))
    | 2 => res (f.d = 0#6 ∧ f.b = 0#6 ∧ f.fn &&& 12#4 = 0#4) <| .ok (.vabsent f.a (Ty.ofCode f.t))
    | 3 => res (f.fn &&& 8#4 = 0#4) <| rB (f.fn.getLsbD 2) f.b fun b => .ok (.vsel f.d f.a b (Ty.ofCode f.t))
    | _ => .error .selector
  | 0x36 => match f.fn.toNat with
    | 0 => res (f.b = 0#6) <| .ok (.vmov f.d f.a (Ty.ofCode f.t))
    | 4 => res (f.a = 0#6) <| rC f.b fun b => .ok (.vmovScalar f.d b (Ty.ofCode f.t))
    | 5 => rC f.b fun b => .ok (.vbcast f.d f.a b (Ty.ofCode f.t))
    | 6 => rC f.d fun d => rC f.b fun b => .ok (.vext d f.a b (Ty.ofCode f.t))
    | 3 => res (f.a = 0#6 ∧ f.b = 0#6) <| .ok (.vsetabs f.d (Ty.ofCode f.t))
    | _ => .error .selector
  | 0x37 => match f.fn.toNat with
    | 0 => res (f.a = 0#6 ∧ f.b = 0#6) <| .ok (.vfill f.d (Ty.ofCode f.t))
    | 4 => res (f.a = 0#6) <| rC f.b fun b => .ok (.vfillScalar f.d b (Ty.ofCode f.t))
    | 1 => res (f.a = 0#6 ∧ f.t = 0#3) <| rM f.b fun m => .ok (.vmsave f.d m)
    | 2 => res (f.d = 0#6 ∧ f.t = 0#3) <| rM f.b fun m => .ok (.vmload f.a m)
    | 3 => res (f.d = 0#6 ∧ f.a = 0#6 ∧ f.b = 0#6 ∧ f.t = 0#3) <| .ok .vomov
    | _ => .error .selector
  | 0x38 => .ok (.vcvt f.d f.a f.b (Ty.ofCode f.t) f.fn)
  | 0x39 => .ok (.vquant f.d f.a f.b (Ty.ofCode f.t) f.fn)
  | 0x3A => .ok (.vdequant f.d f.a f.b (Ty.ofCode f.t) f.fn)
  | 0x3B => .ok (.vdiv f.d f.a f.b (Ty.ofCode f.t) (f.fn.getLsbD 3) (f.fn.extractLsb' 0 3))
  | 0x3C => match f.b.toNat with
    | 0 => .ok (.vexp2 f.d f.a (Ty.ofCode f.t) f.fn)
    | 1 => .ok (.vlog2 f.d f.a (Ty.ofCode f.t) f.fn)
    | 2 => .ok (.vrcp f.d f.a (Ty.ofCode f.t) f.fn)
    | 3 => .ok (.vrsqrt f.d f.a (Ty.ofCode f.t) f.fn)
    | 4 => .ok (.vsqrt f.d f.a (Ty.ofCode f.t) f.fn)
    | 5 => .ok (.vsin f.d f.a (Ty.ofCode f.t) f.fn)
    | 6 => .ok (.vcos f.d f.a (Ty.ofCode f.t) f.fn)
    | 7 => .ok (.vtanh f.d f.a (Ty.ofCode f.t) f.fn)
    | 8 => .ok (.vsigm f.d f.a (Ty.ofCode f.t) f.fn)
    | 9 => .ok (.vexp f.d f.a (Ty.ofCode f.t) f.fn)
    | 10 => .ok (.vgelu f.d f.a (Ty.ofCode f.t) f.fn)
    | _ => .error .selector
  | 0x3D => match f.fn.toNat with
    | 4 => rC f.b fun b => .ok (.vshlw f.d f.a b (Ty.ofCode f.t))
    | 5 => rC f.b fun b => .ok (.vshrw f.d f.a b (Ty.ofCode f.t))
    | 6 => rC f.b fun b => .ok (.vfsl f.d f.a b (Ty.ofCode f.t))
    | 7 => rC f.b fun b => .ok (.vfsr f.d f.a b (Ty.ofCode f.t))
    | _ => .error .selector
  | 0x3E => match f.b.toNat with
    | 0 => rC f.d fun d => .ok (.vredSum d f.a (Ty.ofCode f.t) f.fn)
    | 1 => rC f.d fun d => .ok (.vredMax d f.a (Ty.ofCode f.t) f.fn)
    | 2 => rC f.d fun d => .ok (.vredMin d f.a (Ty.ofCode f.t) f.fn)
    | 3 => rC f.d fun d => .ok (.vredCnt d f.a (Ty.ofCode f.t) f.fn)
    | 4 => rC f.d fun d => .ok (.vredSumc d f.a (Ty.ofCode f.t) f.fn)
    | 5 => res (f.a = 0#6) <| rC f.d fun d => .ok (.vredPopc d (Ty.ofCode f.t) f.fn)
    | 6 => res (f.a = 0#6) <| rC f.d fun d => .ok (.vredFirst d (Ty.ofCode f.t) f.fn)
    | _ => .error .selector
  | 0x3F => match (f.fn.extractLsb' 0 2).toNat with
    | 0 => res (f.b = 0#6 ∧ f.fn &&& 4#4 = 0#4) <| .ok (.vcompress f.d f.a (Ty.ofCode f.t) (f.fn.getLsbD 3))
    | 1 => res (f.b = 0#6 ∧ f.fn &&& 4#4 = 0#4) <| .ok (.vexpand f.d f.a (Ty.ofCode f.t) (f.fn.getLsbD 3))
    | 2 => res (f.fn &&& 4#4 = 0#4) <| .ok (.vperm f.d f.a f.b (Ty.ofCode f.t) (f.fn.getLsbD 3))
    | _ => .error .selector
  | 0x40 => match (f.fn.extractLsb' 0 2).toNat with
    | 0 => res (f.fn &&& 4#4 = 4#4) <| rC f.b fun b => .ok (.vslideup f.d f.a b (Ty.ofCode f.t) (f.fn.getLsbD 3))
    | 1 => res (f.fn &&& 4#4 = 4#4) <| rC f.b fun b => .ok (.vslidedn f.d f.a b (Ty.ofCode f.t) (f.fn.getLsbD 3))
    | 2 => res (f.b = 0#6 ∧ f.fn &&& 12#4 = 0#4) <| .ok (.vregroup f.d f.a (Ty.ofCode f.t))
    | _ => .error .selector
  | 0x41 => res (f.d = 0#6 ∧ f.b &&& 60#6 = 0#6) <| rC f.a fun a => .ok (.spl a (f.b.extractLsb' 0 2) (f.t ++ f.fn))
  | 0x42 => res (f.d = 0#6 ∧ f.a = 0#6) <| .ok (.splb (f.b ++ f.t ++ f.fn))
  | 0x50 => .ok (.vld f.d f.a (Sz.ofCode (f.b.extractLsb' 4 2)) (f.b.extractLsb' 0 4 ++ f.t) f.fn)
  | 0x51 => .ok (.vlds f.d f.a (Sz.ofCode (f.b.extractLsb' 4 2)) (f.b.extractLsb' 0 4 ++ f.t) f.fn)
  | 0x52 => .ok (.vst f.d f.a (Sz.ofCode (f.b.extractLsb' 4 2)) (f.b.extractLsb' 0 4 ++ f.t) f.fn)
  | 0x53 => .ok (.vsts f.d f.a (Sz.ofCode (f.b.extractLsb' 4 2)) (f.b.extractLsb' 0 4 ++ f.t) f.fn)
  | 0x54 => res (f.b = 0#6) <| rC f.a fun a => .ok (.vldw f.d a (Ty.ofCode f.t) f.fn)
  | 0x55 => rC f.b fun b => .ok (.vpermw f.d f.a b (Ty.ofCode f.t) f.fn)
  | 0x56 => rC f.a fun a => .ok (.vscatO f.d a f.b (Ty.ofCode f.t) f.fn)
  | 0x57 => rC f.a fun a => .ok (.vscatU f.d a f.b (Ty.ofCode f.t) f.fn)
  | 0x58 => match f.fn.toNat with
    | 0 => .ok (.vamoAdd f.d f.a f.b (Ty.ofCode f.t))
    | 1 => .ok (.vamoAddf f.d f.a f.b (Ty.ofCode f.t))
    | 2 => .ok (.vamoAddc f.d f.a f.b (Ty.ofCode f.t))
    | 3 => .ok (.vamoMin f.d f.a f.b (Ty.ofCode f.t))
    | 4 => .ok (.vamoMax f.d f.a f.b (Ty.ofCode f.t))
    | 5 => .ok (.vamoMinf f.d f.a f.b (Ty.ofCode f.t))
    | 6 => .ok (.vamoMaxf f.d f.a f.b (Ty.ofCode f.t))
    | 7 => .ok (.vamoAnd f.d f.a f.b (Ty.ofCode f.t))
    | 8 => .ok (.vamoOr f.d f.a f.b (Ty.ofCode f.t))
    | 9 => .ok (.vamoXor f.d f.a f.b (Ty.ofCode f.t))
    | 10 => .ok (.vamoSwap f.d f.a f.b (Ty.ofCode f.t))
    | 11 => .ok (.vamoCas f.d f.a f.b (Ty.ofCode f.t))
    | _ => .error .selector
  | 0x59 => match f.fn.toNat with
    | 0 => rC f.d fun d => rC f.a fun a => rC f.b fun b => .ok (.amoAdd d a b (Ty.ofCode f.t))
    | 1 => rC f.d fun d => rC f.a fun a => rC f.b fun b => .ok (.amoAddf d a b (Ty.ofCode f.t))
    | 2 => rC f.d fun d => rC f.a fun a => rC f.b fun b => .ok (.amoAddc d a b (Ty.ofCode f.t))
    | 3 => rC f.d fun d => rC f.a fun a => rC f.b fun b => .ok (.amoMin d a b (Ty.ofCode f.t))
    | 4 => rC f.d fun d => rC f.a fun a => rC f.b fun b => .ok (.amoMax d a b (Ty.ofCode f.t))
    | 5 => rC f.d fun d => rC f.a fun a => rC f.b fun b => .ok (.amoMinf d a b (Ty.ofCode f.t))
    | 6 => rC f.d fun d => rC f.a fun a => rC f.b fun b => .ok (.amoMaxf d a b (Ty.ofCode f.t))
    | 7 => rC f.d fun d => rC f.a fun a => rC f.b fun b => .ok (.amoAnd d a b (Ty.ofCode f.t))
    | 8 => rC f.d fun d => rC f.a fun a => rC f.b fun b => .ok (.amoOr d a b (Ty.ofCode f.t))
    | 9 => rC f.d fun d => rC f.a fun a => rC f.b fun b => .ok (.amoXor d a b (Ty.ofCode f.t))
    | 10 => rC f.d fun d => rC f.a fun a => rC f.b fun b => .ok (.amoSwap d a b (Ty.ofCode f.t))
    | 11 => rC f.d fun d => rC f.a fun a => rC f.b fun b => .ok (.amoCas d a b (Ty.ofCode f.t))
    | _ => .error .selector
  | 0x5A => match f.fn.toNat with
    | 0 => res (f.d = 0#6 ∧ f.b = 0#6 ∧ f.t = 0#3) <| rC f.a fun a => .ok (.acq a)
    | 1 => res (f.d = 0#6 ∧ f.b = 0#6 ∧ f.t = 0#3) <| rC f.a fun a => .ok (.acqSh a)
    | 2 => res (f.d = 0#6 ∧ f.b = 0#6 ∧ f.t = 0#3) <| rC f.a fun a => .ok (.rel a)
    | 3 => res (f.t = 0#3) <| rC f.d fun d => rC f.a fun a => rC f.b fun b => .ok (.bind d a b)
    | 4 => res (f.d = 0#6 ∧ f.b = 0#6 ∧ f.t = 0#3) <| rC f.a fun a => .ok (.unbind a)
    | 5 => match f.b.toNat with
      | 0 => res (f.d = 0#6 ∧ f.a = 0#6) <| rS f.t fun scope => .ok (.fenceAcq scope)
      | 1 => res (f.d = 0#6 ∧ f.a = 0#6) <| rS f.t fun scope => .ok (.fenceRel scope)
      | 2 => res (f.d = 0#6 ∧ f.a = 0#6) <| rS f.t fun scope => .ok (.fenceFull scope)
      | _ => .error .selector
    | 6 => res (f.d = 0#6 ∧ f.a = 0#6 ∧ f.b = 0#6 ∧ f.t = 0#3) <| .ok .ifence
    | 7 => res (f.b = 0#6 ∧ f.t = 0#3) <| rC f.a fun a => .ok (.bar f.d a)
    | 8 => res (f.b = 0#6 ∧ f.t = 0#3) <| rC f.a fun a => .ok (.barArrive f.d a)
    | 9 => res (f.t = 2#3) <| rC f.d fun d => .ok (.vwait d f.a f.b)
    | _ => .error .selector
  | 0x5B => rC f.a fun a => .ok (.vgath f.d a f.b (Ty.ofCode f.t) f.fn)
  | 0x60 => match f.fn.toNat with
    | 0 => res (f.b = 0#6 ∧ f.t = 0#3) <| rC f.a fun a => .ok (.vstream f.d a)
    | 1 => res (f.a = 0#6 ∧ f.b = 0#6 ∧ f.t = 0#3) <| .ok (.vunbind f.d)
    | _ => .error .selector
  | 0x61 => res (f.t = 0#3) <| rC f.a fun a => rC f.b fun b => .ok (.copy f.d a b f.fn)
  | 0x62 => match f.fn.toNat with
    | 0 => res (f.b = 0#6 ∧ f.t = 0#3) <| rC f.d fun d => rC f.a fun a => .ok (.tagwaitAny d a)
    | 1 => res (f.b = 0#6 ∧ f.t = 0#3) <| rC f.d fun d => rC f.a fun a => .ok (.tagwaitAll d a)
    | 2 => res (f.b = 0#6 ∧ f.t = 0#3) <| rC f.d fun d => rC f.a fun a => .ok (.tagffr d a)
    | _ => .error .selector
  | 0x63 => match f.fn.toNat with
    | 0 => rC f.d fun d => rC f.a fun a => rC f.b fun b => .ok (.chgo d a b f.t)
    | 1 => res (f.d = 0#6 ∧ f.b = 0#6) <| rC f.a fun a => .ok (.chwait a f.t)
    | _ => .error .selector
  | 0x64 => match f.fn.toNat with
    | 0 => res (f.b = 0#6 ∧ f.t = 0#3) <| rC f.d fun d => rC f.a fun a => .ok (.rres d a)
    | 1 => res (f.d = 0#6 ∧ f.t = 0#3) <| rC f.a fun a => rC f.b fun b => .ok (.rcom a b)
    | 2 => res (f.b = 0#6 ∧ f.t = 0#3) <| rC f.d fun d => rC f.a fun a => .ok (.rclaim d a)
    | 3 => res (f.d = 0#6 ∧ f.t = 0#3) <| rC f.a fun a => rC f.b fun b => .ok (.rfree a b)
    | _ => .error .selector
  | 0x65 => res (f.b = 0#6 ∧ f.t = 0#3) <| rC f.a fun a => .ok (.egath f.d a f.fn)
  | 0x66 => res (f.b = 0#6 ∧ f.t = 0#3) <| rC f.a fun a => .ok (.escat f.d a f.fn)
  | 0x68 => match f.fn.toNat with
    | 0 => res (f.d = 0#6 ∧ f.b = 0#6 ∧ f.t = 0#3) <| rC f.a fun a => .ok (.men a)
    | 1 => res (f.d = 0#6 ∧ f.a = 0#6 ∧ f.b = 0#6 ∧ f.t = 0#3) <| .ok .mdis
    | 2 => res (f.d = 0#6 ∧ f.t = 0#3) <| rC f.a fun a => rC f.b fun b => .ok (.mwin a b)
    | 3 => res (f.d = 0#6 ∧ f.b = 0#6 ∧ f.t = 0#3) <| rC f.a fun a => .ok (.mzero a)
    | 4 => res (f.d = 0#6 ∧ f.a = 0#6 ∧ f.b = 0#6 ∧ f.t = 0#3) <| .ok .mfence
    | _ => .error .selector
  | 0x69 => res (f.d = 0#6 ∧ f.t = 0#3) <| rC f.a fun a => rC f.b fun b => .ok (.ldw a b f.fn)
  | 0x6A => res (f.d = 0#6 ∧ f.b = 0#6 ∧ f.t = 0#3) <| rC f.a fun a => .ok (.mop a f.fn)
  | 0x6B => match f.b.toNat with
    | 0 => res (f.t = 6#3) <| rC f.a fun a => .ok (.mrdRaw f.d a f.fn)
    | 1 => res (f.t = 6#3) <| rC f.a fun a => .ok (.mrdNorm f.d a f.fn)
    | 2 => res (f.t = 2#3) <| rC f.a fun a => .ok (.mrdCnt f.d a f.fn)
    | 3 => res (f.t = 6#3) <| rC f.a fun a => .ok (.mrdPair f.d a f.fn)
    | _ => .error .selector
  | 0x6C => match f.d.toNat with
    | 0 => res (f.t = 6#3) <| rC f.a fun a => .ok (.mwrVal a f.b f.fn)
    | 3 => res (f.t = 6#3) <| rC f.a fun a => .ok (.mwrPair a f.b f.fn)
    | _ => .error .selector
  | 0x6D => match f.fn.toNat with
    | 0 => res (f.t = 0#3) <| rC f.d fun d => rC f.a fun a => rC f.b fun b => .ok (.spawn d a b)
    | 1 => res (f.d = 0#6 ∧ f.b = 0#6 ∧ f.t = 0#3) <| rC f.a fun a => .ok (.fdup a)
    | 2 => res (f.d = 0#6 ∧ f.b = 0#6 ∧ f.t = 0#3) <| rC f.a fun a => .ok (.fdrop a)
    | 3 => res (f.b = 0#6 ∧ f.t = 0#3) <| rC f.d fun d => rC f.a fun a => .ok (.fget d a)
    | 4 => res (f.b = 0#6 ∧ f.t = 0#3) <| rC f.d fun d => rC f.a fun a => .ok (.ftest d a)
    | 5 => res (f.d = 0#6 ∧ f.b = 0#6 ∧ f.t = 0#3) <| rC f.a fun a => .ok (.fret a)
    | 6 => res (f.d = 0#6 ∧ f.t = 0#3) <| rC f.a fun a => rC f.b fun b => .ok (.rpt a b)
    | 7 => res (f.d = 0#6 ∧ f.t = 0#3) <| rC f.a fun a => rC f.b fun b => .ok (.emit a b)
    | 8 => res (f.b = 0#6 ∧ f.t = 0#3) <| rC f.d fun d => rC f.a fun a => .ok (.launch d a)
    | 9 => res (f.d = 0#6 ∧ f.a = 0#6 ∧ f.b = 0#6 ∧ f.t = 0#3) <| .ok .yield
    | 10 => res (f.d = 0#6 ∧ f.b = 0#6 ∧ f.t = 0#3) <| rC f.a fun a => .ok (.lfree a)
    | _ => .error .selector
  | 0x70 => res (f.t = 2#3 ∧ f.fn &&& 3#4 = 0#4) <| rB (f.fn.getLsbD 2) f.b fun b => .ok (.vdot4X f.d f.a b (f.fn.getLsbD 3))
  | 0x78 => res (f.d = 0#6 ∧ f.a = 0#6) <| .ok (.trap (f.b ++ f.t ++ f.fn))
  | 0x79 => res (f.d = 0#6 ∧ f.a = 0#6 ∧ f.b = 0#6 ∧ f.t = 0#3 ∧ f.fn = 0#4) <| .ok .brk
  | 0x7A => res (f.t = 0#3 ∧ f.fn = 0#4) <| rC f.d fun d => rC f.a fun a => rC f.b fun b => .ok (.eret d a b)
  | 0x7B => match f.fn.toNat with
    | 0 => res (f.d = 0#6 ∧ f.t = 0#3) <| rC f.a fun a => rC f.b fun b => .ok (.tlbinvVa a b)
    | 1 => res (f.d = 0#6 ∧ f.a = 0#6 ∧ f.t = 0#3) <| rC f.b fun b => .ok (.tlbinvCtx b)
    | 2 => res (f.d = 0#6 ∧ f.a = 0#6 ∧ f.b = 0#6 ∧ f.t = 0#3) <| .ok .tlbinvAll
    | 3 => res (f.d = 0#6 ∧ f.t = 0#3) <| rC f.a fun a => rC f.b fun b => .ok (.tlbinvRetry a b)
    | 4 => res (f.d = 0#6 ∧ f.t = 0#3) <| rC f.a fun a => rC f.b fun b => .ok (.tlbinvFail a b)
    | _ => .error .selector
  | 0x7C => res (f.b = 0#6 ∧ f.t = 0#3 ∧ f.fn = 0#4) <| rC f.d fun d => rC f.a fun a => .ok (.stest d a)
  | 0x7D => res (f.t = 0#3 ∧ f.fn = 0#4) <| rC f.d fun d => rC f.a fun a => rC f.b fun b => .ok (.halt d a b)
  | 0x7E => match (f.d.extractLsb' 3 3).toNat with
    | 0 => res (f.d &&& 7#6 = 0#6) <| .ok (.pfxImm (f.a ++ f.b ++ f.t ++ f.fn))
    | 1 => res (f.d &&& 7#6 = 0#6 ∧ f.a = 0#6 ∧ f.b = 0#6 ∧ f.t &&& 6#3 = 0#3) <| rH (f.t.extractLsb' 0 1 ++ f.fn.extractLsb' 3 1) fun hint => rS (f.fn.extractLsb' 0 3) fun scope => .ok (.pfxScope hint scope)
    | _ => .error .selector
  | _ => .error .unassigned

/-- Decode one instruction word. -/
def decodeWord (w : Word32) : Decoded := decodeFields (Fields.ofWord w)

/-- The word of four bytes, the lowest address first (00 R6). -/
def wordOfBytes (b0 b1 b2 b3 : Byte) : Word32 := b3 ++ b2 ++ b1 ++ b0

/-- Decode the word at the head of a list of bytes; the rest of the list follows. Fewer than four bytes hold no word. -/
def decodeBytes : List Byte → Option (Decoded × List Byte)
  | b0 :: b1 :: b2 :: b3 :: rest => some (decodeWord (wordOfBytes b0 b1 b2 b3), rest)
  | _ => none

/-- The bytes of a word as it stands in memory (07 R186, 00 R6). -/
def bytesOfWord (w : Word32) : List Byte :=
  [w.extractLsb' 0 8, w.extractLsb' 8 8, w.extractLsb' 16 8, w.extractLsb' 24 8]

/-- The instruction that the decoder reads from a word numbered as spec/opcode_table.json numbers it. -/
def decodeTableWord (nbits w : Nat) : Option Instr :=
  match decodeBytes (bytesOfWord (BitVec.ofNat 32 (w % 2 ^ nbits))) with
  | some (.ok i, _) => some i
  | _ => none

/-- The fields of an instruction that has no word: those of the all-zero word, which is permanently illegal (07 R199). -/
def noWord : Fields := ⟨0, 0, 0, 0, 0, 0⟩

/-- The fields of an instruction, from the opcode map and the formats (07 R187, R198). -/
def encodeFields : Instr → Fields
  | .add d a b => ⟨0x01#7, d.zeroExtend 6, a.zeroExtend 6, b.zeroExtend 6, 0#3, 0#4⟩
  | .sub d a b => ⟨0x01#7, d.zeroExtend 6, a.zeroExtend 6, b.zeroExtend 6, 0#3, 1#4⟩
  | .mul d a b => ⟨0x01#7, d.zeroExtend 6, a.zeroExtend 6, b.zeroExtend 6, 0#3, 2#4⟩
  | .mulh d a b => ⟨0x01#7, d.zeroExtend 6, a.zeroExtend 6, b.zeroExtend 6, 0#3, 3#4⟩
  | .mulhu d a b => ⟨0x01#7, d.zeroExtend 6, a.zeroExtend 6, b.zeroExtend 6, 0#3, 4#4⟩
  | .and d a b => ⟨0x01#7, d.zeroExtend 6, a.zeroExtend 6, b.zeroExtend 6, 0#3, 5#4⟩
  | .or d a b => ⟨0x01#7, d.zeroExtend 6, a.zeroExtend 6, b.zeroExtend 6, 0#3, 6#4⟩
  | .xor d a b => ⟨0x01#7, d.zeroExtend 6, a.zeroExtend 6, b.zeroExtend 6, 0#3, 7#4⟩
  | .sll d a b => ⟨0x01#7, d.zeroExtend 6, a.zeroExtend 6, b.zeroExtend 6, 0#3, 8#4⟩
  | .srl d a b => ⟨0x01#7, d.zeroExtend 6, a.zeroExtend 6, b.zeroExtend 6, 0#3, 9#4⟩
  | .sra d a b => ⟨0x01#7, d.zeroExtend 6, a.zeroExtend 6, b.zeroExtend 6, 0#3, 10#4⟩
  | .slt d a b => ⟨0x01#7, d.zeroExtend 6, a.zeroExtend 6, b.zeroExtend 6, 0#3, 11#4⟩
  | .sltu d a b => ⟨0x01#7, d.zeroExtend 6, a.zeroExtend 6, b.zeroExtend 6, 0#3, 12#4⟩
  | .min d a b => ⟨0x01#7, d.zeroExtend 6, a.zeroExtend 6, b.zeroExtend 6, 0#3, 13#4⟩
  | .max d a b => ⟨0x01#7, d.zeroExtend 6, a.zeroExtend 6, b.zeroExtend 6, 0#3, 14#4⟩
  | .div d a b la => ⟨0x02#7, d.zeroExtend 6, a.zeroExtend 6, b.zeroExtend 6, 0#3, la⟩
  | .divu d a b la => ⟨0x02#7, d.zeroExtend 6, a.zeroExtend 6, b.zeroExtend 6, 1#3, la⟩
  | .rem d a b la => ⟨0x02#7, d.zeroExtend 6, a.zeroExtend 6, b.zeroExtend 6, 2#3, la⟩
  | .remu d a b la => ⟨0x02#7, d.zeroExtend 6, a.zeroExtend 6, b.zeroExtend 6, 3#3, la⟩
  | .addi d a imm => ⟨0x03#7, d.zeroExtend 6, a.zeroExtend 6, imm.extractLsb' 7 6, imm.extractLsb' 4 3, imm.extractLsb' 0 4⟩
  | .andi d a imm => ⟨0x04#7, d.zeroExtend 6, a.zeroExtend 6, imm.extractLsb' 7 6, imm.extractLsb' 4 3, imm.extractLsb' 0 4⟩
  | .ori d a imm => ⟨0x05#7, d.zeroExtend 6, a.zeroExtend 6, imm.extractLsb' 7 6, imm.extractLsb' 4 3, imm.extractLsb' 0 4⟩
  | .xori d a imm => ⟨0x06#7, d.zeroExtend 6, a.zeroExtend 6, imm.extractLsb' 7 6, imm.extractLsb' 4 3, imm.extractLsb' 0 4⟩
  | .slti d a imm => ⟨0x08#7, d.zeroExtend 6, a.zeroExtend 6, imm.extractLsb' 7 6, imm.extractLsb' 4 3, imm.extractLsb' 0 4⟩
  | .sltiu d a imm => ⟨0x09#7, d.zeroExtend 6, a.zeroExtend 6, imm.extractLsb' 7 6, imm.extractLsb' 4 3, imm.extractLsb' 0 4⟩
  | .slli d a n => ⟨0x07#7, d.zeroExtend 6, a.zeroExtend 6, (0#2) ++ 0#4, (n.extractLsb' 4 2).zeroExtend 3, n.extractLsb' 0 4⟩
  | .srli d a n => ⟨0x07#7, d.zeroExtend 6, a.zeroExtend 6, (1#2) ++ 0#4, (n.extractLsb' 4 2).zeroExtend 3, n.extractLsb' 0 4⟩
  | .srai d a n => ⟨0x07#7, d.zeroExtend 6, a.zeroExtend 6, (2#2) ++ 0#4, (n.extractLsb' 4 2).zeroExtend 3, n.extractLsb' 0 4⟩
  | .lui d imm => ⟨0x0A#7, d.zeroExtend 6, imm.extractLsb' 13 6, imm.extractLsb' 7 6, imm.extractLsb' 4 3, imm.extractLsb' 0 4⟩
  | .lpc d imm => ⟨0x0B#7, d.zeroExtend 6, imm.extractLsb' 13 6, imm.extractLsb' 7 6, imm.extractLsb' 4 3, imm.extractLsb' 0 4⟩
  | .ld d a sz off la => ⟨0x0C#7, d.zeroExtend 6, a.zeroExtend 6, sz.code ++ off.extractLsb' 3 4, off.extractLsb' 0 3, la⟩
  | .ldu d a sz off la => ⟨0x0D#7, d.zeroExtend 6, a.zeroExtend 6, sz.code ++ off.extractLsb' 3 4, off.extractLsb' 0 3, la⟩
  | .st d a sz off la => ⟨0x0E#7, d.zeroExtend 6, a.zeroExtend 6, sz.code ++ off.extractLsb' 3 4, off.extractLsb' 0 3, la⟩
  | .beq a b off => ⟨0x10#7, a.zeroExtend 6, b.zeroExtend 6, off.extractLsb' 7 6, off.extractLsb' 4 3, off.extractLsb' 0 4⟩
  | .bne a b off => ⟨0x11#7, a.zeroExtend 6, b.zeroExtend 6, off.extractLsb' 7 6, off.extractLsb' 4 3, off.extractLsb' 0 4⟩
  | .blt a b off => ⟨0x12#7, a.zeroExtend 6, b.zeroExtend 6, off.extractLsb' 7 6, off.extractLsb' 4 3, off.extractLsb' 0 4⟩
  | .bge a b off => ⟨0x13#7, a.zeroExtend 6, b.zeroExtend 6, off.extractLsb' 7 6, off.extractLsb' 4 3, off.extractLsb' 0 4⟩
  | .bltu a b off => ⟨0x14#7, a.zeroExtend 6, b.zeroExtend 6, off.extractLsb' 7 6, off.extractLsb' 4 3, off.extractLsb' 0 4⟩
  | .bgeu a b off => ⟨0x15#7, a.zeroExtend 6, b.zeroExtend 6, off.extractLsb' 7 6, off.extractLsb' 4 3, off.extractLsb' 0 4⟩
  | .jal d off => ⟨0x16#7, d.zeroExtend 6, off.extractLsb' 13 6, off.extractLsb' 7 6, off.extractLsb' 4 3, off.extractLsb' 0 4⟩
  | .jalr d a imm => ⟨0x17#7, d.zeroExtend 6, a.zeroExtend 6, imm.extractLsb' 7 6, imm.extractLsb' 4 3, imm.extractLsb' 0 4⟩
  | .fadd d a b t => ⟨0x18#7, d.zeroExtend 6, a.zeroExtend 6, b.zeroExtend 6, t.code, 0#4⟩
  | .fsub d a b t => ⟨0x18#7, d.zeroExtend 6, a.zeroExtend 6, b.zeroExtend 6, t.code, 1#4⟩
  | .fmul d a b t => ⟨0x18#7, d.zeroExtend 6, a.zeroExtend 6, b.zeroExtend 6, t.code, 2#4⟩
  | .fmin d a b t => ⟨0x18#7, d.zeroExtend 6, a.zeroExtend 6, b.zeroExtend 6, t.code, 3#4⟩
  | .fmax d a b t => ⟨0x18#7, d.zeroExtend 6, a.zeroExtend 6, b.zeroExtend 6, t.code, 4#4⟩
  | .fcmpEq d a b t => ⟨0x18#7, d.zeroExtend 6, a.zeroExtend 6, b.zeroExtend 6, t.code, 5#4⟩
  | .fcmpLt d a b t => ⟨0x18#7, d.zeroExtend 6, a.zeroExtend 6, b.zeroExtend 6, t.code, 6#4⟩
  | .fcmpLe d a b t => ⟨0x18#7, d.zeroExtend 6, a.zeroExtend 6, b.zeroExtend 6, t.code, 7#4⟩
  | .fcvt d a code t => ⟨0x18#7, d.zeroExtend 6, a.zeroExtend 6, code, t.code, 8#4⟩
  | .fdiv d a b t la => ⟨0x19#7, d.zeroExtend 6, a.zeroExtend 6, b.zeroExtend 6, t.code, la⟩
  | .fsqrt d a t la => ⟨0x1A#7, d.zeroExtend 6, a.zeroExtend 6, 0#6, t.code, la⟩
  | .fma d a b t la => ⟨0x1B#7, d.zeroExtend 6, a.zeroExtend 6, b.zeroExtend 6, t.code, la⟩
  | .setvl d a imm => ⟨0x1C#7, d.zeroExtend 6, a.zeroExtend 6, imm.extractLsb' 7 6, imm.extractLsb' 4 3, imm.extractLsb' 0 4⟩
  | .crd d n => ⟨0x1D#7, d.zeroExtend 6, 0#6, (n.extractLsb' 7 5).zeroExtend 6, n.extractLsb' 4 3, n.extractLsb' 0 4⟩
  | .cwr a n => ⟨0x1E#7, 0#6, a.zeroExtend 6, (n.extractLsb' 7 5).zeroExtend 6, n.extractLsb' 4 3, n.extractLsb' 0 4⟩
  | .vf off => ⟨0x20#7, 0#6, off.extractLsb' 13 6, off.extractLsb' 7 6, off.extractLsb' 4 3, off.extractLsb' 0 4⟩
  | .vfr a => ⟨0x21#7, 0#6, a.zeroExtend 6, 0#6, 0#3, 0#4⟩
  | .fetch off => ⟨0x22#7, 0#6, off.extractLsb' 13 6, off.extractLsb' 7 6, off.extractLsb' 4 3, off.extractLsb' 0 4⟩
  | .fetchNz a off => ⟨0x23#7, a, 0#6, off.extractLsb' 7 6, off.extractLsb' 4 3, off.extractLsb' 0 4⟩
  | .stop => ⟨0x24#7, 0#6, 0#6, 0#6, 0#3, 0#4⟩
  | .jenrol j => ⟨0x25#7, j.zeroExtend 6, 0#6, 0#6, 0#3, 0#4⟩
  | .jpark j => ⟨0x25#7, j.zeroExtend 6, 0#6, 0#6, 0#3, 1#4⟩
  | .jstrike j => ⟨0x25#7, j.zeroExtend 6, 0#6, 0#6, 0#3, 2#4⟩
  | .qput a => ⟨0x26#7, 0#6, a.zeroExtend 6, 0#6, 0#3, 0#4⟩
  | .qget d => ⟨0x26#7, d.zeroExtend 6, 0#6, 0#6, 0#3, 1#4⟩
  | .qclr => ⟨0x26#7, 0#6, 0#6, 0#6, 0#3, 2#4⟩
  | .vsend a => ⟨0x27#7, 0#6, a, 0#6, 0#3, 0#4⟩
  | .vrecv d => ⟨0x28#7, d, 0#6, 0#6, 0#3, 0#4⟩
  | .vid d a t => ⟨0x29#7, d, a, 0#6, t.code, 0#4⟩
  | .vadd d a b t p => ⟨0x30#7, d, a, b.field, t.code, bit p ++ bit b.isC ++ 0#2⟩
  | .vsub d a b t p => ⟨0x30#7, d, a, b.field, t.code, bit p ++ bit b.isC ++ 1#2⟩
  | .vmul d a b t p => ⟨0x30#7, d, a, b.field, t.code, bit p ++ bit b.isC ++ 2#2⟩
  | .vmac d a b t p => ⟨0x30#7, d, a, b.field, t.code, bit p ++ bit b.isC ++ 3#2⟩
  | .vmin d a b t p => ⟨0x31#7, d, a, b.field, t.code, bit p ++ bit b.isC ++ 0#2⟩
  | .vmax d a b t p => ⟨0x31#7, d, a, b.field, t.code, bit p ++ bit b.isC ++ 1#2⟩
  | .vabs d a t p => ⟨0x31#7, d, a, 0#6, t.code, bit p ++ 0#1 ++ 2#2⟩
  | .vneg d a t p => ⟨0x31#7, d, a, 0#6, t.code, bit p ++ 0#1 ++ 3#2⟩
  | .vand d a b t p => ⟨0x32#7, d, a, b.field, t.code, bit p ++ bit b.isC ++ 0#2⟩
  | .vor d a b t p => ⟨0x32#7, d, a, b.field, t.code, bit p ++ bit b.isC ++ 1#2⟩
  | .vxor d a b t p => ⟨0x32#7, d, a, b.field, t.code, bit p ++ bit b.isC ++ 2#2⟩
  | .vnot d a t p => ⟨0x32#7, d, a, 0#6, t.code, bit p ++ 0#1 ++ 3#2⟩
  | .vsll d a b t p => ⟨0x33#7, d, a, b.field, t.code, bit p ++ bit b.isC ++ 0#2⟩
  | .vsrl d a b t p => ⟨0x33#7, d, a, b.field, t.code, bit p ++ bit b.isC ++ 1#2⟩
  | .vsra d a b t p => ⟨0x33#7, d, a, b.field, t.code, bit p ++ bit b.isC ++ 2#2⟩
  | .vdiv d a b t p la => ⟨0x3B#7, d, a, b, t.code, bit p ++ la⟩
  | .vcmpEq a b t => ⟨0x34#7, 0#6, a, b.field, t.code, 0#1 ++ bit b.isC ++ 0#2⟩
  | .vcmpNe a b t => ⟨0x34#7, 0#6, a, b.field, t.code, 0#1 ++ bit b.isC ++ 1#2⟩
  | .vcmpLt a b t => ⟨0x34#7, 0#6, a, b.field, t.code, 0#1 ++ bit b.isC ++ 2#2⟩
  | .vcmpLe a b t => ⟨0x34#7, 0#6, a, b.field, t.code, 0#1 ++ bit b.isC ++ 3#2⟩
  | .vcmpuLt a b t => ⟨0x35#7, 0#6, a, b.field, t.code, 0#1 ++ bit b.isC ++ 0#2⟩
  | .vcmpuLe a b t => ⟨0x35#7, 0#6, a, b.field, t.code, 0#1 ++ bit b.isC ++ 1#2⟩
  | .vabsent a t => ⟨0x35#7, 0#6, a, 0#6, t.code, 2#4⟩
  | .vsel d a b t => ⟨0x35#7, d, a, b.field, t.code, 0#1 ++ bit b.isC ++ 3#2⟩
  | .vmov d a t => ⟨0x36#7, d, a, 0#6, t.code, 0#4⟩
  | .vmovScalar d b t => ⟨0x36#7, d, 0#6, b.zeroExtend 6, t.code, 4#4⟩
  | .vbcast d a b t => ⟨0x36#7, d, a, b.zeroExtend 6, t.code, 5#4⟩
  | .vext d a b t => ⟨0x36#7, d.zeroExtend 6, a, b.zeroExtend 6, t.code, 6#4⟩
  | .vsetabs d t => ⟨0x36#7, d, 0#6, 0#6, t.code, 3#4⟩
  | .vfill d t => ⟨0x37#7, d, 0#6, 0#6, t.code, 0#4⟩
  | .vfillScalar d b t => ⟨0x37#7, d, 0#6, b.zeroExtend 6, t.code, 4#4⟩
  | .vmsave d m => ⟨0x37#7, d, 0#6, m.field, 0#3, 1#4⟩
  | .vmload a m => ⟨0x37#7, 0#6, a, m.field, 0#3, 2#4⟩
  | .vomov => ⟨0x37#7, 0#6, 0#6, 0#6, 0#3, 3#4⟩
  | .vcvt d a code t la => ⟨0x38#7, d, a, code, t.code, la⟩
  | .vquant d a code t la => ⟨0x39#7, d, a, code, t.code, la⟩
  | .vdequant d a code t la => ⟨0x3A#7, d, a, code, t.code, la⟩
  | .vexp2 d a t la => ⟨0x3C#7, d, a, 0#6, t.code, la⟩
  | .vlog2 d a t la => ⟨0x3C#7, d, a, 1#6, t.code, la⟩
  | .vrcp d a t la => ⟨0x3C#7, d, a, 2#6, t.code, la⟩
  | .vrsqrt d a t la => ⟨0x3C#7, d, a, 3#6, t.code, la⟩
  | .vsqrt d a t la => ⟨0x3C#7, d, a, 4#6, t.code, la⟩
  | .vsin d a t la => ⟨0x3C#7, d, a, 5#6, t.code, la⟩
  | .vcos d a t la => ⟨0x3C#7, d, a, 6#6, t.code, la⟩
  | .vtanh d a t la => ⟨0x3C#7, d, a, 7#6, t.code, la⟩
  | .vsigm d a t la => ⟨0x3C#7, d, a, 8#6, t.code, la⟩
  | .vexp d a t la => ⟨0x3C#7, d, a, 9#6, t.code, la⟩
  | .vgelu d a t la => ⟨0x3C#7, d, a, 10#6, t.code, la⟩
  | .vshlw d a b t => ⟨0x3D#7, d, a, b.zeroExtend 6, t.code, 4#4⟩
  | .vshrw d a b t => ⟨0x3D#7, d, a, b.zeroExtend 6, t.code, 5#4⟩
  | .vfsl d a b t => ⟨0x3D#7, d, a, b.zeroExtend 6, t.code, 6#4⟩
  | .vfsr d a b t => ⟨0x3D#7, d, a, b.zeroExtend 6, t.code, 7#4⟩
  | .vredSum d a t la => ⟨0x3E#7, d.zeroExtend 6, a, 0#6, t.code, la⟩
  | .vredMax d a t la => ⟨0x3E#7, d.zeroExtend 6, a, 1#6, t.code, la⟩
  | .vredMin d a t la => ⟨0x3E#7, d.zeroExtend 6, a, 2#6, t.code, la⟩
  | .vredCnt d a t la => ⟨0x3E#7, d.zeroExtend 6, a, 3#6, t.code, la⟩
  | .vredSumc d a t la => ⟨0x3E#7, d.zeroExtend 6, a, 4#6, t.code, la⟩
  | .vredPopc d t la => ⟨0x3E#7, d.zeroExtend 6, 0#6, 5#6, t.code, la⟩
  | .vredFirst d t la => ⟨0x3E#7, d.zeroExtend 6, 0#6, 6#6, t.code, la⟩
  | .vcompress d a t f => ⟨0x3F#7, d, a, 0#6, t.code, bit f ++ 0#1 ++ 0#2⟩
  | .vexpand d a t f => ⟨0x3F#7, d, a, 0#6, t.code, bit f ++ 0#1 ++ 1#2⟩
  | .vperm d a b t f => ⟨0x3F#7, d, a, b, t.code, bit f ++ 0#1 ++ 2#2⟩
  | .vslideup d a b t f => ⟨0x40#7, d, a, b.zeroExtend 6, t.code, bit f ++ 1#1 ++ 0#2⟩
  | .vslidedn d a b t f => ⟨0x40#7, d, a, b.zeroExtend 6, t.code, bit f ++ 1#1 ++ 1#2⟩
  | .vregroup d a t => ⟨0x40#7, d, a, 0#6, t.code, 2#4⟩
  | .spl a s l => ⟨0x41#7, 0#6, a.zeroExtend 6, s.zeroExtend 6, l.extractLsb' 4 3, l.extractLsb' 0 4⟩
  | .splb off => ⟨0x42#7, 0#6, 0#6, off.extractLsb' 7 6, off.extractLsb' 4 3, off.extractLsb' 0 4⟩
  | .vld d a sz off la => ⟨0x50#7, d, a, sz.code ++ off.extractLsb' 3 4, off.extractLsb' 0 3, la⟩
  | .vlds d a sz off la => ⟨0x51#7, d, a, sz.code ++ off.extractLsb' 3 4, off.extractLsb' 0 3, la⟩
  | .vst d a sz off la => ⟨0x52#7, d, a, sz.code ++ off.extractLsb' 3 4, off.extractLsb' 0 3, la⟩
  | .vsts d a sz off la => ⟨0x53#7, d, a, sz.code ++ off.extractLsb' 3 4, off.extractLsb' 0 3, la⟩
  | .vldw d a t la => ⟨0x54#7, d, a.zeroExtend 6, 0#6, t.code, la⟩
  | .vpermw d a b t la => ⟨0x55#7, d, a, b.zeroExtend 6, t.code, la⟩
  | .vscatO d a b t la => ⟨0x56#7, d, a.zeroExtend 6, b, t.code, la⟩
  | .vscatU d a b t la => ⟨0x57#7, d, a.zeroExtend 6, b, t.code, la⟩
  | .vamoAdd d a b t => ⟨0x58#7, d, a, b, t.code, 0#4⟩
  | .vamoAddf d a b t => ⟨0x58#7, d, a, b, t.code, 1#4⟩
  | .vamoAddc d a b t => ⟨0x58#7, d, a, b, t.code, 2#4⟩
  | .vamoMin d a b t => ⟨0x58#7, d, a, b, t.code, 3#4⟩
  | .vamoMax d a b t => ⟨0x58#7, d, a, b, t.code, 4#4⟩
  | .vamoMinf d a b t => ⟨0x58#7, d, a, b, t.code, 5#4⟩
  | .vamoMaxf d a b t => ⟨0x58#7, d, a, b, t.code, 6#4⟩
  | .vamoAnd d a b t => ⟨0x58#7, d, a, b, t.code, 7#4⟩
  | .vamoOr d a b t => ⟨0x58#7, d, a, b, t.code, 8#4⟩
  | .vamoXor d a b t => ⟨0x58#7, d, a, b, t.code, 9#4⟩
  | .vamoSwap d a b t => ⟨0x58#7, d, a, b, t.code, 10#4⟩
  | .vamoCas d a b t => ⟨0x58#7, d, a, b, t.code, 11#4⟩
  | .amoAdd d a b t => ⟨0x59#7, d.zeroExtend 6, a.zeroExtend 6, b.zeroExtend 6, t.code, 0#4⟩
  | .amoAddf d a b t => ⟨0x59#7, d.zeroExtend 6, a.zeroExtend 6, b.zeroExtend 6, t.code, 1#4⟩
  | .amoAddc d a b t => ⟨0x59#7, d.zeroExtend 6, a.zeroExtend 6, b.zeroExtend 6, t.code, 2#4⟩
  | .amoMin d a b t => ⟨0x59#7, d.zeroExtend 6, a.zeroExtend 6, b.zeroExtend 6, t.code, 3#4⟩
  | .amoMax d a b t => ⟨0x59#7, d.zeroExtend 6, a.zeroExtend 6, b.zeroExtend 6, t.code, 4#4⟩
  | .amoMinf d a b t => ⟨0x59#7, d.zeroExtend 6, a.zeroExtend 6, b.zeroExtend 6, t.code, 5#4⟩
  | .amoMaxf d a b t => ⟨0x59#7, d.zeroExtend 6, a.zeroExtend 6, b.zeroExtend 6, t.code, 6#4⟩
  | .amoAnd d a b t => ⟨0x59#7, d.zeroExtend 6, a.zeroExtend 6, b.zeroExtend 6, t.code, 7#4⟩
  | .amoOr d a b t => ⟨0x59#7, d.zeroExtend 6, a.zeroExtend 6, b.zeroExtend 6, t.code, 8#4⟩
  | .amoXor d a b t => ⟨0x59#7, d.zeroExtend 6, a.zeroExtend 6, b.zeroExtend 6, t.code, 9#4⟩
  | .amoSwap d a b t => ⟨0x59#7, d.zeroExtend 6, a.zeroExtend 6, b.zeroExtend 6, t.code, 10#4⟩
  | .amoCas d a b t => ⟨0x59#7, d.zeroExtend 6, a.zeroExtend 6, b.zeroExtend 6, t.code, 11#4⟩
  | .acq a => ⟨0x5A#7, 0#6, a.zeroExtend 6, 0#6, 0#3, 0#4⟩
  | .acqSh a => ⟨0x5A#7, 0#6, a.zeroExtend 6, 0#6, 0#3, 1#4⟩
  | .rel a => ⟨0x5A#7, 0#6, a.zeroExtend 6, 0#6, 0#3, 2#4⟩
  | .bind d a b => ⟨0x5A#7, d.zeroExtend 6, a.zeroExtend 6, b.zeroExtend 6, 0#3, 3#4⟩
  | .unbind a => ⟨0x5A#7, 0#6, a.zeroExtend 6, 0#6, 0#3, 4#4⟩
  | .fenceAcq scope => ⟨0x5A#7, 0#6, 0#6, 0#6, scope.code, 5#4⟩
  | .fenceRel scope => ⟨0x5A#7, 0#6, 0#6, 1#6, scope.code, 5#4⟩
  | .fenceFull scope => ⟨0x5A#7, 0#6, 0#6, 2#6, scope.code, 5#4⟩
  | .ifence => ⟨0x5A#7, 0#6, 0#6, 0#6, 0#3, 6#4⟩
  | .bar k a => ⟨0x5A#7, k, a.zeroExtend 6, 0#6, 0#3, 7#4⟩
  | .barArrive k a => ⟨0x5A#7, k, a.zeroExtend 6, 0#6, 0#3, 8#4⟩
  | .vwait d a b => ⟨0x5A#7, d.zeroExtend 6, a, b, 2#3, 9#4⟩
  | .vgath k a b t la => ⟨0x5B#7, k, a.zeroExtend 6, b, t.code, la⟩
  | .vstream d a => ⟨0x60#7, d, a.zeroExtend 6, 0#6, 0#3, 0#4⟩
  | .vunbind d => ⟨0x60#7, d, 0#6, 0#6, 0#3, 1#4⟩
  | .copy k a b la => ⟨0x61#7, k, a.zeroExtend 6, b.zeroExtend 6, 0#3, la⟩
  | .tagwaitAny d a => ⟨0x62#7, d.zeroExtend 6, a.zeroExtend 6, 0#6, 0#3, 0#4⟩
  | .tagwaitAll d a => ⟨0x62#7, d.zeroExtend 6, a.zeroExtend 6, 0#6, 0#3, 1#4⟩
  | .tagffr d a => ⟨0x62#7, d.zeroExtend 6, a.zeroExtend 6, 0#6, 0#3, 2#4⟩
  | .chgo d a b k => ⟨0x63#7, d.zeroExtend 6, a.zeroExtend 6, b.zeroExtend 6, k, 0#4⟩
  | .chwait a k => ⟨0x63#7, 0#6, a.zeroExtend 6, 0#6, k, 1#4⟩
  | .rres d a => ⟨0x64#7, d.zeroExtend 6, a.zeroExtend 6, 0#6, 0#3, 0#4⟩
  | .rcom a b => ⟨0x64#7, 0#6, a.zeroExtend 6, b.zeroExtend 6, 0#3, 1#4⟩
  | .rclaim d a => ⟨0x64#7, d.zeroExtend 6, a.zeroExtend 6, 0#6, 0#3, 2#4⟩
  | .rfree a b => ⟨0x64#7, 0#6, a.zeroExtend 6, b.zeroExtend 6, 0#3, 3#4⟩
  | .egath k a la => ⟨0x65#7, k, a.zeroExtend 6, 0#6, 0#3, la⟩
  | .escat k a la => ⟨0x66#7, k, a.zeroExtend 6, 0#6, 0#3, la⟩
  | .men a => ⟨0x68#7, 0#6, a.zeroExtend 6, 0#6, 0#3, 0#4⟩
  | .mdis => ⟨0x68#7, 0#6, 0#6, 0#6, 0#3, 1#4⟩
  | .mwin a b => ⟨0x68#7, 0#6, a.zeroExtend 6, b.zeroExtend 6, 0#3, 2#4⟩
  | .mzero a => ⟨0x68#7, 0#6, a.zeroExtend 6, 0#6, 0#3, 3#4⟩
  | .mfence => ⟨0x68#7, 0#6, 0#6, 0#6, 0#3, 4#4⟩
  | .ldw a b la => ⟨0x69#7, 0#6, a.zeroExtend 6, b.zeroExtend 6, 0#3, la⟩
  | .mop a la => ⟨0x6A#7, 0#6, a.zeroExtend 6, 0#6, 0#3, la⟩
  | .mrdRaw d a la => ⟨0x6B#7, d, a.zeroExtend 6, 0#6, 6#3, la⟩
  | .mrdNorm d a la => ⟨0x6B#7, d, a.zeroExtend 6, 1#6, 6#3, la⟩
  | .mrdCnt d a la => ⟨0x6B#7, d, a.zeroExtend 6, 2#6, 2#3, la⟩
  | .mrdPair d a la => ⟨0x6B#7, d, a.zeroExtend 6, 3#6, 6#3, la⟩
  | .mwrVal a b la => ⟨0x6C#7, 0#6, a.zeroExtend 6, b, 6#3, la⟩
  | .mwrPair a b la => ⟨0x6C#7, 3#6, a.zeroExtend 6, b, 6#3, la⟩
  | .spawn d a b => ⟨0x6D#7, d.zeroExtend 6, a.zeroExtend 6, b.zeroExtend 6, 0#3, 0#4⟩
  | .fdup a => ⟨0x6D#7, 0#6, a.zeroExtend 6, 0#6, 0#3, 1#4⟩
  | .fdrop a => ⟨0x6D#7, 0#6, a.zeroExtend 6, 0#6, 0#3, 2#4⟩
  | .fget d a => ⟨0x6D#7, d.zeroExtend 6, a.zeroExtend 6, 0#6, 0#3, 3#4⟩
  | .ftest d a => ⟨0x6D#7, d.zeroExtend 6, a.zeroExtend 6, 0#6, 0#3, 4#4⟩
  | .fret a => ⟨0x6D#7, 0#6, a.zeroExtend 6, 0#6, 0#3, 5#4⟩
  | .rpt a b => ⟨0x6D#7, 0#6, a.zeroExtend 6, b.zeroExtend 6, 0#3, 6#4⟩
  | .emit a b => ⟨0x6D#7, 0#6, a.zeroExtend 6, b.zeroExtend 6, 0#3, 7#4⟩
  | .launch d a => ⟨0x6D#7, d.zeroExtend 6, a.zeroExtend 6, 0#6, 0#3, 8#4⟩
  | .yield => ⟨0x6D#7, 0#6, 0#6, 0#6, 0#3, 9#4⟩
  | .lfree a => ⟨0x6D#7, 0#6, a.zeroExtend 6, 0#6, 0#3, 10#4⟩
  | .vdot4X d a b p => ⟨0x70#7, d, a, b.field, 2#3, bit p ++ bit b.isC ++ 0#2⟩
  | .trap n => ⟨0x78#7, 0#6, 0#6, n.extractLsb' 7 6, n.extractLsb' 4 3, n.extractLsb' 0 4⟩
  | .brk => ⟨0x79#7, 0#6, 0#6, 0#6, 0#3, 0#4⟩
  | .eret d a b => ⟨0x7A#7, d.zeroExtend 6, a.zeroExtend 6, b.zeroExtend 6, 0#3, 0#4⟩
  | .tlbinvVa a b => ⟨0x7B#7, 0#6, a.zeroExtend 6, b.zeroExtend 6, 0#3, 0#4⟩
  | .tlbinvCtx b => ⟨0x7B#7, 0#6, 0#6, b.zeroExtend 6, 0#3, 1#4⟩
  | .tlbinvAll => ⟨0x7B#7, 0#6, 0#6, 0#6, 0#3, 2#4⟩
  | .tlbinvRetry a b => ⟨0x7B#7, 0#6, a.zeroExtend 6, b.zeroExtend 6, 0#3, 3#4⟩
  | .tlbinvFail a b => ⟨0x7B#7, 0#6, a.zeroExtend 6, b.zeroExtend 6, 0#3, 4#4⟩
  | .stest d a => ⟨0x7C#7, d.zeroExtend 6, a.zeroExtend 6, 0#6, 0#3, 0#4⟩
  | .halt d a b => ⟨0x7D#7, d.zeroExtend 6, a.zeroExtend 6, b.zeroExtend 6, 0#3, 0#4⟩
  | .pfxImm hi => ⟨0x7E#7, 0#6, hi.extractLsb' 13 6, hi.extractLsb' 7 6, hi.extractLsb' 4 3, hi.extractLsb' 0 4⟩
  | .pfxScope hint scope => ⟨0x7E#7, 8#6, 0#6, 0#6, (hint.code.extractLsb' 1 1).zeroExtend 3, hint.code.extractLsb' 0 1 ++ scope.code⟩
  | .crdVcs => noWord
  | .cwrVcs => noWord
  | .cwrVl => noWord
  | .cwrTags => noWord
  | .cwrSavePool => noWord
  | .viqEnqueue => noWord
  | .vfComplete => noWord
  | .vpIssue => noWord
  | .chordUnderflow => noWord
  | .chordOverflow => noWord
  | .pivotGrant => noWord
  | .vwaitWake => noWord
  | .vwaitTimeout => noWord
  | .streamFacetLanded => noWord
  | .copyComplete => noWord
  | .channelFillSlot => noWord
  | .channelDrainSlot => noWord
  | .channelTransferError => noWord
  | .ringReserve => noWord
  | .ringClaim => noWord
  | .pendingVoid => noWord
  | .pendingDiscard => noWord
  | .engineCommandComplete => noWord
  | .enginePageFault => noWord
  | .directoryRecall => noWord
  | .weightStoreRefresh => noWord
  | .mopStart => noWord
  | .mopComplete => noWord
  | .trapStop => noWord
  | .handlerSpawn => noWord
  | .preEmption => noWord
  | .resume => noWord
  | .groupEnd => noWord
  | .reclamation => noWord
  | .reclaimSettle => noWord
  | .weightRefill => noWord
  | .weightReturn => noWord
  | .binTimerExpiry => noWord
  | .gridRecordArrival => noWord
  | .gridShareReport => noWord
  | .temperatureSample => noWord
  | .stealRequest => noWord
  | .stealOffer => noWord
  | .stealAck => noWord
  | .stealReceiptAccepted => noWord
  | .stealReceiptStale => noWord
  | .stealNone => noWord
  | .stealTimerExpiry => noWord
  | .loc => noWord
  | .homeConfirm => noWord
  | .forwardedReferenceAction => noWord
  | .linkFailure => noWord
  | .dieReset => noWord
  | .powerGatingRequest => noWord
  | .remoteCopyComplete => noWord
  | .remoteCopyError => noWord
  | .remoteAddWithCount => noWord
  | .hostRdmaWrite => noWord
  | .hostRdmaRead => noWord
  | .ident => noWord
  | .parts => noWord
  | .context => noWord
  | .power => noWord
  | .start => noWord
  | .grid => noWord
  | .release => noWord
  | .wstore => noWord
  | .errlog => noWord
  | .nodes => noWord
  | .load => noWord
  | .translationEnd => noWord
  | .enroll => noWord
  | .keyload => noWord
  | .keyunload => noWord
  | .attest => noWord
  | .errorDetected => noWord
  | .deviceReset => noWord
  | .divideUnitResult => noWord
  | .loadedValueArrives => noWord
  | .ldwComplete => noWord
  | .targetedTestEnd => noWord
  | .remoteRdmaWrite => noWord
  | .remoteRdmaRead => noWord

/-- The word of an instruction. -/
def encode (i : Instr) : Word32 := (encodeFields i).toWord

end Sys2Proof
end

