-- ==== Sys2Proof/Machine/Classes.lean ====
section
/-! DEFINITION. What the opcode alone fixes: the issue class (01 R21), the registers an instruction names, and the opcodes
legal inside an AIB (01 R29). -/

namespace Sys2Proof.Machine

/-- Issue classes (01 R21); a step without a word has none. -/
inductive Cls where
  | ctl | vec | mem | drain | aib | pfx | event
deriving DecidableEq, Repr

/-- The issue class of an instruction (01 R21, 07 R198). -/
def clsOf : Instr → Cls
  | .add _ _ _ => .ctl
  | .sub _ _ _ => .ctl
  | .mul _ _ _ => .ctl
  | .mulh _ _ _ => .ctl
  | .mulhu _ _ _ => .ctl
  | .and _ _ _ => .ctl
  | .or _ _ _ => .ctl
  | .xor _ _ _ => .ctl
  | .sll _ _ _ => .ctl
  | .srl _ _ _ => .ctl
  | .sra _ _ _ => .ctl
  | .slt _ _ _ => .ctl
  | .sltu _ _ _ => .ctl
  | .min _ _ _ => .ctl
  | .max _ _ _ => .ctl
  | .div _ _ _ _ => .ctl
  | .divu _ _ _ _ => .ctl
  | .rem _ _ _ _ => .ctl
  | .remu _ _ _ _ => .ctl
  | .addi _ _ _ => .ctl
  | .andi _ _ _ => .ctl
  | .ori _ _ _ => .ctl
  | .xori _ _ _ => .ctl
  | .slti _ _ _ => .ctl
  | .sltiu _ _ _ => .ctl
  | .slli _ _ _ => .ctl
  | .srli _ _ _ => .ctl
  | .srai _ _ _ => .ctl
  | .lui _ _ => .ctl
  | .lpc _ _ => .ctl
  | .ld _ _ _ _ _ => .ctl
  | .ldu _ _ _ _ _ => .ctl
  | .st _ _ _ _ _ => .ctl
  | .beq _ _ _ => .ctl
  | .bne _ _ _ => .ctl
  | .blt _ _ _ => .ctl
  | .bge _ _ _ => .ctl
  | .bltu _ _ _ => .ctl
  | .bgeu _ _ _ => .ctl
  | .jal _ _ => .ctl
  | .jalr _ _ _ => .ctl
  | .fadd _ _ _ _ => .ctl
  | .fsub _ _ _ _ => .ctl
  | .fmul _ _ _ _ => .ctl
  | .fmin _ _ _ _ => .ctl
  | .fmax _ _ _ _ => .ctl
  | .fcmpEq _ _ _ _ => .ctl
  | .fcmpLt _ _ _ _ => .ctl
  | .fcmpLe _ _ _ _ => .ctl
  | .fcvt _ _ _ _ => .ctl
  | .fdiv _ _ _ _ _ => .ctl
  | .fsqrt _ _ _ _ => .ctl
  | .fma _ _ _ _ _ => .ctl
  | .setvl _ _ _ => .ctl
  | .crd _ _ => .ctl
  | .cwr _ _ => .ctl
  | .vf _ => .vec
  | .vfr _ => .vec
  | .fetch _ => .aib
  | .fetchNz _ _ => .aib
  | .stop => .aib
  | .jenrol _ => .aib
  | .jpark _ => .aib
  | .jstrike _ => .aib
  | .qput _ => .ctl
  | .qget _ => .ctl
  | .qclr => .drain
  | .vsend _ => .aib
  | .vrecv _ => .aib
  | .vid _ _ _ => .vec
  | .vadd _ _ _ _ _ => .vec
  | .vsub _ _ _ _ _ => .vec
  | .vmul _ _ _ _ _ => .vec
  | .vmac _ _ _ _ _ => .vec
  | .vmin _ _ _ _ _ => .vec
  | .vmax _ _ _ _ _ => .vec
  | .vabs _ _ _ _ => .vec
  | .vneg _ _ _ _ => .vec
  | .vand _ _ _ _ _ => .vec
  | .vor _ _ _ _ _ => .vec
  | .vxor _ _ _ _ _ => .vec
  | .vnot _ _ _ _ => .vec
  | .vsll _ _ _ _ _ => .vec
  | .vsrl _ _ _ _ _ => .vec
  | .vsra _ _ _ _ _ => .vec
  | .vdiv _ _ _ _ _ _ => .vec
  | .vcmpEq _ _ _ => .vec
  | .vcmpNe _ _ _ => .vec
  | .vcmpLt _ _ _ => .vec
  | .vcmpLe _ _ _ => .vec
  | .vcmpuLt _ _ _ => .vec
  | .vcmpuLe _ _ _ => .vec
  | .vabsent _ _ => .vec
  | .vsel _ _ _ _ => .vec
  | .vmov _ _ _ => .vec
  | .vmovScalar _ _ _ => .vec
  | .vbcast _ _ _ _ => .vec
  | .vext _ _ _ _ => .vec
  | .vsetabs _ _ => .vec
  | .vfill _ _ => .vec
  | .vfillScalar _ _ _ => .vec
  | .vmsave _ _ => .vec
  | .vmload _ _ => .vec
  | .vomov => .vec
  | .vcvt _ _ _ _ _ => .vec
  | .vquant _ _ _ _ _ => .vec
  | .vdequant _ _ _ _ _ => .vec
  | .vexp2 _ _ _ _ => .vec
  | .vlog2 _ _ _ _ => .vec
  | .vrcp _ _ _ _ => .vec
  | .vrsqrt _ _ _ _ => .vec
  | .vsqrt _ _ _ _ => .vec
  | .vsin _ _ _ _ => .vec
  | .vcos _ _ _ _ => .vec
  | .vtanh _ _ _ _ => .vec
  | .vsigm _ _ _ _ => .vec
  | .vexp _ _ _ _ => .vec
  | .vgelu _ _ _ _ => .vec
  | .vshlw _ _ _ _ => .vec
  | .vshrw _ _ _ _ => .vec
  | .vfsl _ _ _ _ => .vec
  | .vfsr _ _ _ _ => .vec
  | .vredSum _ _ _ _ => .vec
  | .vredMax _ _ _ _ => .vec
  | .vredMin _ _ _ _ => .vec
  | .vredCnt _ _ _ _ => .vec
  | .vredSumc _ _ _ _ => .vec
  | .vredPopc _ _ _ => .vec
  | .vredFirst _ _ _ => .vec
  | .vcompress _ _ _ _ => .vec
  | .vexpand _ _ _ _ => .vec
  | .vperm _ _ _ _ _ => .vec
  | .vslideup _ _ _ _ _ => .vec
  | .vslidedn _ _ _ _ _ => .vec
  | .vregroup _ _ _ => .vec
  | .spl _ _ _ => .ctl
  | .splb _ => .ctl
  | .vld _ _ _ _ _ => .mem
  | .vlds _ _ _ _ _ => .mem
  | .vst _ _ _ _ _ => .mem
  | .vsts _ _ _ _ _ => .mem
  | .vldw _ _ _ _ => .mem
  | .vpermw _ _ _ _ _ => .mem
  | .vscatO _ _ _ _ _ => .mem
  | .vscatU _ _ _ _ _ => .mem
  | .vamoAdd _ _ _ _ => .mem
  | .vamoAddf _ _ _ _ => .mem
  | .vamoAddc _ _ _ _ => .mem
  | .vamoMin _ _ _ _ => .mem
  | .vamoMax _ _ _ _ => .mem
  | .vamoMinf _ _ _ _ => .mem
  | .vamoMaxf _ _ _ _ => .mem
  | .vamoAnd _ _ _ _ => .mem
  | .vamoOr _ _ _ _ => .mem
  | .vamoXor _ _ _ _ => .mem
  | .vamoSwap _ _ _ _ => .mem
  | .vamoCas _ _ _ _ => .mem
  | .amoAdd _ _ _ _ => .ctl
  | .amoAddf _ _ _ _ => .ctl
  | .amoAddc _ _ _ _ => .ctl
  | .amoMin _ _ _ _ => .ctl
  | .amoMax _ _ _ _ => .ctl
  | .amoMinf _ _ _ _ => .ctl
  | .amoMaxf _ _ _ _ => .ctl
  | .amoAnd _ _ _ _ => .ctl
  | .amoOr _ _ _ _ => .ctl
  | .amoXor _ _ _ _ => .ctl
  | .amoSwap _ _ _ _ => .ctl
  | .amoCas _ _ _ _ => .ctl
  | .acq _ => .drain
  | .acqSh _ => .drain
  | .rel _ => .drain
  | .bind _ _ _ => .drain
  | .unbind _ => .drain
  | .fenceAcq _ => .drain
  | .fenceRel _ => .drain
  | .fenceFull _ => .drain
  | .ifence => .drain
  | .bar _ _ => .drain
  | .barArrive _ _ => .drain
  | .vwait _ _ _ => .drain
  | .vgath _ _ _ _ _ => .mem
  | .vstream _ _ => .mem
  | .vunbind _ => .mem
  | .copy _ _ _ _ => .mem
  | .tagwaitAny _ _ => .mem
  | .tagwaitAll _ _ => .mem
  | .tagffr _ _ => .mem
  | .chgo _ _ _ _ => .mem
  | .chwait _ _ => .mem
  | .rres _ _ => .mem
  | .rcom _ _ => .mem
  | .rclaim _ _ => .mem
  | .rfree _ _ => .mem
  | .egath _ _ _ => .mem
  | .escat _ _ _ => .mem
  | .men _ => .mem
  | .mdis => .mem
  | .mwin _ _ => .mem
  | .mzero _ => .mem
  | .mfence => .mem
  | .ldw _ _ _ => .mem
  | .mop _ _ => .mem
  | .mrdRaw _ _ _ => .mem
  | .mrdNorm _ _ _ => .mem
  | .mrdCnt _ _ _ => .mem
  | .mrdPair _ _ _ => .mem
  | .mwrVal _ _ _ => .mem
  | .mwrPair _ _ _ => .mem
  | .spawn _ _ _ => .mem
  | .fdup _ => .mem
  | .fdrop _ => .mem
  | .fget _ _ => .mem
  | .ftest _ _ => .mem
  | .fret _ => .mem
  | .rpt _ _ => .mem
  | .emit _ _ => .mem
  | .launch _ _ => .mem
  | .yield => .mem
  | .lfree _ => .mem
  | .vdot4X _ _ _ _ => .vec
  | .trap _ => .drain
  | .brk => .drain
  | .eret _ _ _ => .drain
  | .tlbinvVa _ _ => .drain
  | .tlbinvCtx _ => .drain
  | .tlbinvAll => .drain
  | .tlbinvRetry _ _ => .drain
  | .tlbinvFail _ _ => .drain
  | .stest _ _ => .drain
  | .halt _ _ _ => .drain
  | .pfxImm _ => .pfx
  | .pfxScope _ _ => .pfx
  | .crdVcs => .event
  | .cwrVcs => .event
  | .cwrVl => .event
  | .cwrTags => .event
  | .cwrSavePool => .event
  | .viqEnqueue => .event
  | .vfComplete => .event
  | .vpIssue => .event
  | .chordUnderflow => .event
  | .chordOverflow => .event
  | .pivotGrant => .event
  | .vwaitWake => .event
  | .vwaitTimeout => .event
  | .streamFacetLanded => .event
  | .copyComplete => .event
  | .channelFillSlot => .event
  | .channelDrainSlot => .event
  | .channelTransferError => .event
  | .ringReserve => .event
  | .ringClaim => .event
  | .pendingVoid => .event
  | .pendingDiscard => .event
  | .engineCommandComplete => .event
  | .enginePageFault => .event
  | .directoryRecall => .event
  | .weightStoreRefresh => .event
  | .mopStart => .event
  | .mopComplete => .event
  | .trapStop => .event
  | .handlerSpawn => .event
  | .preEmption => .event
  | .resume => .event
  | .groupEnd => .event
  | .reclamation => .event
  | .reclaimSettle => .event
  | .weightRefill => .event
  | .weightReturn => .event
  | .binTimerExpiry => .event
  | .gridRecordArrival => .event
  | .gridShareReport => .event
  | .temperatureSample => .event
  | .stealRequest => .event
  | .stealOffer => .event
  | .stealAck => .event
  | .stealReceiptAccepted => .event
  | .stealReceiptStale => .event
  | .stealNone => .event
  | .stealTimerExpiry => .event
  | .loc => .event
  | .homeConfirm => .event
  | .forwardedReferenceAction => .event
  | .linkFailure => .event
  | .dieReset => .event
  | .powerGatingRequest => .event
  | .remoteCopyComplete => .event
  | .remoteCopyError => .event
  | .remoteAddWithCount => .event
  | .hostRdmaWrite => .event
  | .hostRdmaRead => .event
  | .ident => .event
  | .parts => .event
  | .context => .event
  | .power => .event
  | .start => .event
  | .grid => .event
  | .release => .event
  | .wstore => .event
  | .errlog => .event
  | .nodes => .event
  | .load => .event
  | .translationEnd => .event
  | .enroll => .event
  | .keyload => .event
  | .keyunload => .event
  | .attest => .event
  | .errorDetected => .event
  | .deviceReset => .event
  | .divideUnitResult => .event
  | .loadedValueArrives => .event
  | .ldwComplete => .event
  | .targetedTestEnd => .event
  | .remoteRdmaWrite => .event
  | .remoteRdmaRead => .event

/-- Names of a b operand. -/
def bopV : BOp → List Nat
  | .v r => [r.toNat]
  | .c _ => []
def bopC : BOp → List Nat
  | .v _ => []
  | .c r => [r.toNat]

/-- The `v` register names in the fields of an instruction, which 01 R14 limits to the budget. -/
def vregsOf : Instr → List Nat
  | .fetchNz a _ => [a.toNat]
  | .vsend a => [a.toNat]
  | .vrecv d => [d.toNat]
  | .vid d _ _ => [d.toNat]
  | .vadd d a b _ _ => [d.toNat] ++ [a.toNat] ++ bopV b
  | .vsub d a b _ _ => [d.toNat] ++ [a.toNat] ++ bopV b
  | .vmul d a b _ _ => [d.toNat] ++ [a.toNat] ++ bopV b
  | .vmac d a b _ _ => [d.toNat] ++ [a.toNat] ++ bopV b
  | .vmin d a b _ _ => [d.toNat] ++ [a.toNat] ++ bopV b
  | .vmax d a b _ _ => [d.toNat] ++ [a.toNat] ++ bopV b
  | .vabs d a _ _ => [d.toNat] ++ [a.toNat]
  | .vneg d a _ _ => [d.toNat] ++ [a.toNat]
  | .vand d a b _ _ => [d.toNat] ++ [a.toNat] ++ bopV b
  | .vor d a b _ _ => [d.toNat] ++ [a.toNat] ++ bopV b
  | .vxor d a b _ _ => [d.toNat] ++ [a.toNat] ++ bopV b
  | .vnot d a _ _ => [d.toNat] ++ [a.toNat]
  | .vsll d a b _ _ => [d.toNat] ++ [a.toNat] ++ bopV b
  | .vsrl d a b _ _ => [d.toNat] ++ [a.toNat] ++ bopV b
  | .vsra d a b _ _ => [d.toNat] ++ [a.toNat] ++ bopV b
  | .vdiv d a b _ _ _ => [d.toNat] ++ [a.toNat] ++ [b.toNat]
  | .vcmpEq a b _ => [a.toNat] ++ bopV b
  | .vcmpNe a b _ => [a.toNat] ++ bopV b
  | .vcmpLt a b _ => [a.toNat] ++ bopV b
  | .vcmpLe a b _ => [a.toNat] ++ bopV b
  | .vcmpuLt a b _ => [a.toNat] ++ bopV b
  | .vcmpuLe a b _ => [a.toNat] ++ bopV b
  | .vabsent a _ => [a.toNat]
  | .vsel d a b _ => [d.toNat] ++ [a.toNat] ++ bopV b
  | .vmov d a _ => [d.toNat] ++ [a.toNat]
  | .vmovScalar d _ _ => [d.toNat]
  | .vbcast d a _ _ => [d.toNat] ++ [a.toNat]
  | .vext _ a _ _ => [a.toNat]
  | .vsetabs d _ => [d.toNat]
  | .vfill d _ => [d.toNat]
  | .vfillScalar d _ _ => [d.toNat]
  | .vmsave d _ => [d.toNat]
  | .vmload a _ => [a.toNat]
  | .vcvt d a _ _ _ => [d.toNat] ++ [a.toNat]
  | .vquant d a _ _ _ => [d.toNat] ++ [a.toNat]
  | .vdequant d a _ _ _ => [d.toNat] ++ [a.toNat]
  | .vexp2 d a _ _ => [d.toNat] ++ [a.toNat]
  | .vlog2 d a _ _ => [d.toNat] ++ [a.toNat]
  | .vrcp d a _ _ => [d.toNat] ++ [a.toNat]
  | .vrsqrt d a _ _ => [d.toNat] ++ [a.toNat]
  | .vsqrt d a _ _ => [d.toNat] ++ [a.toNat]
  | .vsin d a _ _ => [d.toNat] ++ [a.toNat]
  | .vcos d a _ _ => [d.toNat] ++ [a.toNat]
  | .vtanh d a _ _ => [d.toNat] ++ [a.toNat]
  | .vsigm d a _ _ => [d.toNat] ++ [a.toNat]
  | .vexp d a _ _ => [d.toNat] ++ [a.toNat]
  | .vgelu d a _ _ => [d.toNat] ++ [a.toNat]
  | .vshlw d a _ _ => [d.toNat] ++ [a.toNat]
  | .vshrw d a _ _ => [d.toNat] ++ [a.toNat]
  | .vfsl d a _ _ => [d.toNat] ++ [a.toNat]
  | .vfsr d a _ _ => [d.toNat] ++ [a.toNat]
  | .vredSum _ a _ _ => [a.toNat]
  | .vredMax _ a _ _ => [a.toNat]
  | .vredMin _ a _ _ => [a.toNat]
  | .vredCnt _ a _ _ => [a.toNat]
  | .vredSumc _ a _ _ => [a.toNat]
  | .vcompress d a _ _ => [d.toNat] ++ [a.toNat]
  | .vexpand d a _ _ => [d.toNat] ++ [a.toNat]
  | .vperm d a b _ _ => [d.toNat] ++ [a.toNat] ++ [b.toNat]
  | .vslideup d a _ _ _ => [d.toNat] ++ [a.toNat]
  | .vslidedn d a _ _ _ => [d.toNat] ++ [a.toNat]
  | .vregroup d a _ => [d.toNat] ++ [a.toNat]
  | .vld d _ _ _ _ => [d.toNat]
  | .vlds d _ _ _ _ => [d.toNat]
  | .vst d _ _ _ _ => [d.toNat]
  | .vsts d _ _ _ _ => [d.toNat]
  | .vldw d _ _ _ => [d.toNat]
  | .vpermw d a _ _ _ => [d.toNat] ++ [a.toNat]
  | .vscatO d _ b _ _ => [d.toNat] ++ [b.toNat]
  | .vscatU d _ b _ _ => [d.toNat] ++ [b.toNat]
  | .vamoAdd d _ b _ => [d.toNat] ++ [b.toNat]
  | .vamoAddf d _ b _ => [d.toNat] ++ [b.toNat]
  | .vamoAddc d _ b _ => [d.toNat] ++ [b.toNat]
  | .vamoMin d _ b _ => [d.toNat] ++ [b.toNat]
  | .vamoMax d _ b _ => [d.toNat] ++ [b.toNat]
  | .vamoMinf d _ b _ => [d.toNat] ++ [b.toNat]
  | .vamoMaxf d _ b _ => [d.toNat] ++ [b.toNat]
  | .vamoAnd d _ b _ => [d.toNat] ++ [b.toNat]
  | .vamoOr d _ b _ => [d.toNat] ++ [b.toNat]
  | .vamoXor d _ b _ => [d.toNat] ++ [b.toNat]
  | .vamoSwap d _ b _ => [d.toNat] ++ [b.toNat]
  | .vamoCas d _ b _ => [d.toNat] ++ [b.toNat]
  | .vwait _ a b => [a.toNat] ++ [b.toNat]
  | .vgath _ _ b _ _ => [b.toNat]
  | .vstream d _ => [d.toNat]
  | .vunbind d => [d.toNat]
  | .mrdRaw d _ _ => [d.toNat]
  | .mrdNorm d _ _ => [d.toNat]
  | .mrdCnt d _ _ => [d.toNat]
  | .mrdPair d _ _ => [d.toNat]
  | .mwrVal _ b _ => [b.toNat]
  | .mwrPair _ b _ => [b.toNat]
  | .vdot4X d a b _ => [d.toNat] ++ [a.toNat] ++ bopV b
  | _ => []

/-- The `c` register that an instruction writes. -/
def cdestOf : Instr → Option CReg
  | .add d _ _ => some d
  | .sub d _ _ => some d
  | .mul d _ _ => some d
  | .mulh d _ _ => some d
  | .mulhu d _ _ => some d
  | .and d _ _ => some d
  | .or d _ _ => some d
  | .xor d _ _ => some d
  | .sll d _ _ => some d
  | .srl d _ _ => some d
  | .sra d _ _ => some d
  | .slt d _ _ => some d
  | .sltu d _ _ => some d
  | .min d _ _ => some d
  | .max d _ _ => some d
  | .div d _ _ _ => some d
  | .divu d _ _ _ => some d
  | .rem d _ _ _ => some d
  | .remu d _ _ _ => some d
  | .addi d _ _ => some d
  | .andi d _ _ => some d
  | .ori d _ _ => some d
  | .xori d _ _ => some d
  | .slti d _ _ => some d
  | .sltiu d _ _ => some d
  | .slli d _ _ => some d
  | .srli d _ _ => some d
  | .srai d _ _ => some d
  | .lui d _ => some d
  | .lpc d _ => some d
  | .ld d _ _ _ _ => some d
  | .ldu d _ _ _ _ => some d
  | .jal d _ => some d
  | .jalr d _ _ => some d
  | .fadd d _ _ _ => some d
  | .fsub d _ _ _ => some d
  | .fmul d _ _ _ => some d
  | .fmin d _ _ _ => some d
  | .fmax d _ _ _ => some d
  | .fcmpEq d _ _ _ => some d
  | .fcmpLt d _ _ _ => some d
  | .fcmpLe d _ _ _ => some d
  | .fcvt d _ _ _ => some d
  | .fdiv d _ _ _ _ => some d
  | .fsqrt d _ _ _ => some d
  | .fma d _ _ _ _ => some d
  | .setvl d _ _ => some d
  | .crd d _ => some d
  | .qget d => some d
  | .vext d _ _ _ => some d
  | .vredSum d _ _ _ => some d
  | .vredMax d _ _ _ => some d
  | .vredMin d _ _ _ => some d
  | .vredCnt d _ _ _ => some d
  | .vredSumc d _ _ _ => some d
  | .vredPopc d _ _ => some d
  | .vredFirst d _ _ => some d
  | .amoAdd d _ _ _ => some d
  | .amoAddf d _ _ _ => some d
  | .amoAddc d _ _ _ => some d
  | .amoMin d _ _ _ => some d
  | .amoMax d _ _ _ => some d
  | .amoMinf d _ _ _ => some d
  | .amoMaxf d _ _ _ => some d
  | .amoAnd d _ _ _ => some d
  | .amoOr d _ _ _ => some d
  | .amoXor d _ _ _ => some d
  | .amoSwap d _ _ _ => some d
  | .amoCas d _ _ _ => some d
  | .tagwaitAny d _ => some d
  | .tagwaitAll d _ => some d
  | .tagffr d _ => some d
  | .chgo d _ _ _ => some d
  | .rres d _ => some d
  | .rclaim d _ => some d
  | .spawn d _ _ => some d
  | .fget d _ => some d
  | .ftest d _ => some d
  | .launch d _ => some d
  | .eret d _ _ => some d
  | .stest d _ => some d
  | .halt d _ _ => some d
  | _ => none

/-- The `c` registers that an instruction reads in the control stream (01 R22, R23). -/
def creadsOf : Instr → List Nat
  | .add _ a b => [a.toNat] ++ [b.toNat]
  | .sub _ a b => [a.toNat] ++ [b.toNat]
  | .mul _ a b => [a.toNat] ++ [b.toNat]
  | .mulh _ a b => [a.toNat] ++ [b.toNat]
  | .mulhu _ a b => [a.toNat] ++ [b.toNat]
  | .and _ a b => [a.toNat] ++ [b.toNat]
  | .or _ a b => [a.toNat] ++ [b.toNat]
  | .xor _ a b => [a.toNat] ++ [b.toNat]
  | .sll _ a b => [a.toNat] ++ [b.toNat]
  | .srl _ a b => [a.toNat] ++ [b.toNat]
  | .sra _ a b => [a.toNat] ++ [b.toNat]
  | .slt _ a b => [a.toNat] ++ [b.toNat]
  | .sltu _ a b => [a.toNat] ++ [b.toNat]
  | .min _ a b => [a.toNat] ++ [b.toNat]
  | .max _ a b => [a.toNat] ++ [b.toNat]
  | .div _ a b _ => [a.toNat] ++ [b.toNat]
  | .divu _ a b _ => [a.toNat] ++ [b.toNat]
  | .rem _ a b _ => [a.toNat] ++ [b.toNat]
  | .remu _ a b _ => [a.toNat] ++ [b.toNat]
  | .addi _ a _ => [a.toNat]
  | .andi _ a _ => [a.toNat]
  | .ori _ a _ => [a.toNat]
  | .xori _ a _ => [a.toNat]
  | .slti _ a _ => [a.toNat]
  | .sltiu _ a _ => [a.toNat]
  | .slli _ a _ => [a.toNat]
  | .srli _ a _ => [a.toNat]
  | .srai _ a _ => [a.toNat]
  | .ld _ a _ _ _ => [a.toNat]
  | .ldu _ a _ _ _ => [a.toNat]
  | .st d a _ _ _ => [d.toNat] ++ [a.toNat]
  | .beq a b _ => [a.toNat] ++ [b.toNat]
  | .bne a b _ => [a.toNat] ++ [b.toNat]
  | .blt a b _ => [a.toNat] ++ [b.toNat]
  | .bge a b _ => [a.toNat] ++ [b.toNat]
  | .bltu a b _ => [a.toNat] ++ [b.toNat]
  | .bgeu a b _ => [a.toNat] ++ [b.toNat]
  | .jalr _ a _ => [a.toNat]
  | .fadd _ a b _ => [a.toNat] ++ [b.toNat]
  | .fsub _ a b _ => [a.toNat] ++ [b.toNat]
  | .fmul _ a b _ => [a.toNat] ++ [b.toNat]
  | .fmin _ a b _ => [a.toNat] ++ [b.toNat]
  | .fmax _ a b _ => [a.toNat] ++ [b.toNat]
  | .fcmpEq _ a b _ => [a.toNat] ++ [b.toNat]
  | .fcmpLt _ a b _ => [a.toNat] ++ [b.toNat]
  | .fcmpLe _ a b _ => [a.toNat] ++ [b.toNat]
  | .fcvt _ a _ _ => [a.toNat]
  | .fdiv _ a b _ _ => [a.toNat] ++ [b.toNat]
  | .fsqrt _ a _ _ => [a.toNat]
  | .fma d a b _ _ => [d.toNat] ++ [a.toNat] ++ [b.toNat]
  | .setvl _ a _ => [a.toNat]
  | .cwr a _ => [a.toNat]
  | .vfr a => [a.toNat]
  | .qput a => [a.toNat]
  | .vid _ a _ => [a.toNat]
  | .vadd _ _ b _ _ => bopC b
  | .vsub _ _ b _ _ => bopC b
  | .vmul _ _ b _ _ => bopC b
  | .vmac _ _ b _ _ => bopC b
  | .vmin _ _ b _ _ => bopC b
  | .vmax _ _ b _ _ => bopC b
  | .vand _ _ b _ _ => bopC b
  | .vor _ _ b _ _ => bopC b
  | .vxor _ _ b _ _ => bopC b
  | .vsll _ _ b _ _ => bopC b
  | .vsrl _ _ b _ _ => bopC b
  | .vsra _ _ b _ _ => bopC b
  | .vcmpEq _ b _ => bopC b
  | .vcmpNe _ b _ => bopC b
  | .vcmpLt _ b _ => bopC b
  | .vcmpLe _ b _ => bopC b
  | .vcmpuLt _ b _ => bopC b
  | .vcmpuLe _ b _ => bopC b
  | .vsel _ _ b _ => bopC b
  | .vmovScalar _ b _ => [b.toNat]
  | .vbcast _ _ b _ => [b.toNat]
  | .vext _ _ b _ => [b.toNat]
  | .vfillScalar _ b _ => [b.toNat]
  | .vshlw _ _ b _ => [b.toNat]
  | .vshrw _ _ b _ => [b.toNat]
  | .vfsl _ _ b _ => [b.toNat]
  | .vfsr _ _ b _ => [b.toNat]
  | .vslideup _ _ b _ _ => [b.toNat]
  | .vslidedn _ _ b _ _ => [b.toNat]
  | .spl a _ _ => [a.toNat]
  | .vld _ a _ _ _ => [a.toNat]
  | .vlds _ a _ _ _ => [a.toNat]
  | .vst _ a _ _ _ => [a.toNat]
  | .vsts _ a _ _ _ => [a.toNat]
  | .vldw _ a _ _ => [a.toNat]
  | .vpermw _ _ b _ _ => [b.toNat] ++ [b.toNat + 1]
  | .vscatO _ a _ _ _ => [a.toNat]
  | .vscatU _ a _ _ _ => [a.toNat]
  | .vamoAdd _ a _ _ => [a.toNat]
  | .vamoAddf _ a _ _ => [a.toNat]
  | .vamoAddc _ a _ _ => [a.toNat]
  | .vamoMin _ a _ _ => [a.toNat]
  | .vamoMax _ a _ _ => [a.toNat]
  | .vamoMinf _ a _ _ => [a.toNat]
  | .vamoMaxf _ a _ _ => [a.toNat]
  | .vamoAnd _ a _ _ => [a.toNat]
  | .vamoOr _ a _ _ => [a.toNat]
  | .vamoXor _ a _ _ => [a.toNat]
  | .vamoSwap _ a _ _ => [a.toNat]
  | .vamoCas _ a _ _ => [a.toNat]
  | .amoAdd _ a b _ => [a.toNat] ++ [b.toNat]
  | .amoAddf _ a b _ => [a.toNat] ++ [b.toNat]
  | .amoAddc _ a b _ => [a.toNat] ++ [b.toNat]
  | .amoMin _ a b _ => [a.toNat] ++ [b.toNat]
  | .amoMax _ a b _ => [a.toNat] ++ [b.toNat]
  | .amoMinf _ a b _ => [a.toNat] ++ [b.toNat]
  | .amoMaxf _ a b _ => [a.toNat] ++ [b.toNat]
  | .amoAnd _ a b _ => [a.toNat] ++ [b.toNat]
  | .amoOr _ a b _ => [a.toNat] ++ [b.toNat]
  | .amoXor _ a b _ => [a.toNat] ++ [b.toNat]
  | .amoSwap _ a b _ => [a.toNat] ++ [b.toNat]
  | .amoCas d a b _ => [d.toNat + 1] ++ [a.toNat] ++ [b.toNat]
  | .acq a => [a.toNat]
  | .acqSh a => [a.toNat]
  | .rel a => [a.toNat]
  | .bind d a b => [d.toNat] ++ [a.toNat] ++ [b.toNat]
  | .unbind a => [a.toNat]
  | .bar _ a => [a.toNat]
  | .barArrive _ a => [a.toNat]
  | .vwait d _ _ => [d.toNat] ++ [d.toNat + 1]
  | .vgath _ a _ _ _ => [a.toNat] ++ [a.toNat + 1]
  | .vstream _ a => [a.toNat]
  | .copy _ a b _ => [a.toNat] ++ [b.toNat]
  | .tagwaitAny _ a => [a.toNat]
  | .tagwaitAll _ a => [a.toNat]
  | .tagffr _ a => [a.toNat]
  | .chgo _ a b _ => [a.toNat] ++ [b.toNat]
  | .chwait a _ => [a.toNat]
  | .rres _ a => [a.toNat]
  | .rcom a b => [a.toNat] ++ [b.toNat]
  | .rclaim _ a => [a.toNat]
  | .rfree a b => [a.toNat] ++ [b.toNat]
  | .egath _ a _ => [a.toNat]
  | .escat _ a _ => [a.toNat]
  | .men a => [a.toNat]
  | .mwin a b => [a.toNat] ++ [b.toNat]
  | .mzero a => [a.toNat]
  | .ldw a b _ => [a.toNat] ++ [b.toNat]
  | .mop a _ => [a.toNat]
  | .mrdRaw _ a _ => [a.toNat]
  | .mrdNorm _ a _ => [a.toNat]
  | .mrdCnt _ a _ => [a.toNat]
  | .mrdPair _ a _ => [a.toNat]
  | .mwrVal a _ _ => [a.toNat]
  | .mwrPair a _ _ => [a.toNat]
  | .spawn _ a b => [a.toNat] ++ [b.toNat] ++ [1, 2, 3, 4, 5, 6, 7, 8]
  | .fdup a => [a.toNat]
  | .fdrop a => [a.toNat]
  | .fget _ a => [a.toNat]
  | .ftest _ a => [a.toNat]
  | .fret a => [a.toNat]
  | .rpt a b => [a.toNat] ++ [b.toNat]
  | .emit a b => [a.toNat] ++ [b.toNat]
  | .launch _ a => [a.toNat]
  | .lfree a => [a.toNat]
  | .vdot4X _ _ b _ => bopC b
  | .eret _ a b => [a.toNat] ++ [b.toNat]
  | .tlbinvVa a b => [a.toNat] ++ [b.toNat]
  | .tlbinvCtx b => [b.toNat]
  | .tlbinvRetry a b => [a.toNat] ++ [b.toNat]
  | .tlbinvFail a b => [a.toNat] ++ [b.toNat]
  | .stest _ a => [a.toNat]
  | .halt _ a b => [a.toNat] ++ [b.toNat]
  | _ => []

/-- The opcodes legal inside an AIB (01 R29). -/
def aibLegal : Instr → Bool
  | .fetch _ => true
  | .fetchNz _ _ => true
  | .stop => true
  | .jenrol _ => true
  | .jpark _ => true
  | .jstrike _ => true
  | .vsend _ => true
  | .vrecv _ => true
  | .vid _ _ _ => true
  | .vadd _ _ _ _ _ => true
  | .vsub _ _ _ _ _ => true
  | .vmul _ _ _ _ _ => true
  | .vmac _ _ _ _ _ => true
  | .vmin _ _ _ _ _ => true
  | .vmax _ _ _ _ _ => true
  | .vabs _ _ _ _ => true
  | .vneg _ _ _ _ => true
  | .vand _ _ _ _ _ => true
  | .vor _ _ _ _ _ => true
  | .vxor _ _ _ _ _ => true
  | .vnot _ _ _ _ => true
  | .vsll _ _ _ _ _ => true
  | .vsrl _ _ _ _ _ => true
  | .vsra _ _ _ _ _ => true
  | .vdiv _ _ _ _ _ _ => true
  | .vcmpEq _ _ _ => true
  | .vcmpNe _ _ _ => true
  | .vcmpLt _ _ _ => true
  | .vcmpLe _ _ _ => true
  | .vcmpuLt _ _ _ => true
  | .vcmpuLe _ _ _ => true
  | .vabsent _ _ => true
  | .vsel _ _ _ _ => true
  | .vmov _ _ _ => true
  | .vmovScalar _ _ _ => true
  | .vbcast _ _ _ _ => true
  | .vext _ _ _ _ => true
  | .vsetabs _ _ => true
  | .vfill _ _ => true
  | .vfillScalar _ _ _ => true
  | .vmsave _ _ => true
  | .vmload _ _ => true
  | .vomov => true
  | .vcvt _ _ _ _ _ => true
  | .vquant _ _ _ _ _ => true
  | .vdequant _ _ _ _ _ => true
  | .vexp2 _ _ _ _ => true
  | .vlog2 _ _ _ _ => true
  | .vrcp _ _ _ _ => true
  | .vrsqrt _ _ _ _ => true
  | .vsqrt _ _ _ _ => true
  | .vsin _ _ _ _ => true
  | .vcos _ _ _ _ => true
  | .vtanh _ _ _ _ => true
  | .vsigm _ _ _ _ => true
  | .vexp _ _ _ _ => true
  | .vgelu _ _ _ _ => true
  | .vld _ _ _ _ _ => true
  | .vlds _ _ _ _ _ => true
  | .vst _ _ _ _ _ => true
  | .vsts _ _ _ _ _ => true
  | .vamoAdd _ _ _ _ => true
  | .vamoAddf _ _ _ _ => true
  | .vamoAddc _ _ _ _ => true
  | .vamoMin _ _ _ _ => true
  | .vamoMax _ _ _ _ => true
  | .vamoMinf _ _ _ _ => true
  | .vamoMaxf _ _ _ _ => true
  | .vamoAnd _ _ _ _ => true
  | .vamoOr _ _ _ _ => true
  | .vamoXor _ _ _ _ => true
  | .vamoSwap _ _ _ _ => true
  | .vamoCas _ _ _ _ => true
  | .pfxImm _ => true
  | .pfxScope _ _ => true
  | _ => false

/-- The `c` register that an entry of the VIQ names in field a, in field b, and implicitly (15 R372: words 5, 6 and 8). -/
def capA : Instr → Option Nat
  | .vfr a => some a.toNat
  | .vid _ a _ => some a.toNat
  | .vld _ a _ _ _ => some a.toNat
  | .vlds _ a _ _ _ => some a.toNat
  | .vst _ a _ _ _ => some a.toNat
  | .vsts _ a _ _ _ => some a.toNat
  | .vldw _ a _ _ => some a.toNat
  | .vscatO _ a _ _ _ => some a.toNat
  | .vscatU _ a _ _ _ => some a.toNat
  | .vamoAdd _ a _ _ => some a.toNat
  | .vamoAddf _ a _ _ => some a.toNat
  | .vamoAddc _ a _ _ => some a.toNat
  | .vamoMin _ a _ _ => some a.toNat
  | .vamoMax _ a _ _ => some a.toNat
  | .vamoMinf _ a _ _ => some a.toNat
  | .vamoMaxf _ a _ _ => some a.toNat
  | .vamoAnd _ a _ _ => some a.toNat
  | .vamoOr _ a _ _ => some a.toNat
  | .vamoXor _ a _ _ => some a.toNat
  | .vamoSwap _ a _ _ => some a.toNat
  | .vamoCas _ a _ _ => some a.toNat
  | .vgath _ a _ _ _ => some a.toNat
  | .vstream _ a => some a.toNat
  | .copy _ a _ _ => some a.toNat
  | .tagwaitAny _ a => some a.toNat
  | .tagwaitAll _ a => some a.toNat
  | .tagffr _ a => some a.toNat
  | .chgo _ a _ _ => some a.toNat
  | .chwait a _ => some a.toNat
  | .rres _ a => some a.toNat
  | .rcom a _ => some a.toNat
  | .rclaim _ a => some a.toNat
  | .rfree a _ => some a.toNat
  | .egath _ a _ => some a.toNat
  | .escat _ a _ => some a.toNat
  | .men a => some a.toNat
  | .mwin a _ => some a.toNat
  | .mzero a => some a.toNat
  | .ldw a _ _ => some a.toNat
  | .mop a _ => some a.toNat
  | .mrdRaw _ a _ => some a.toNat
  | .mrdNorm _ a _ => some a.toNat
  | .mrdCnt _ a _ => some a.toNat
  | .mrdPair _ a _ => some a.toNat
  | .mwrVal a _ _ => some a.toNat
  | .mwrPair a _ _ => some a.toNat
  | .spawn _ a _ => some a.toNat
  | .fdup a => some a.toNat
  | .fdrop a => some a.toNat
  | .fget _ a => some a.toNat
  | .ftest _ a => some a.toNat
  | .fret a => some a.toNat
  | .rpt a _ => some a.toNat
  | .emit a _ => some a.toNat
  | .launch _ a => some a.toNat
  | .lfree a => some a.toNat
  | _ => none
def capB : Instr → Option Nat
  | .vadd _ _ b _ _ => (bopC b).head?
  | .vsub _ _ b _ _ => (bopC b).head?
  | .vmul _ _ b _ _ => (bopC b).head?
  | .vmac _ _ b _ _ => (bopC b).head?
  | .vmin _ _ b _ _ => (bopC b).head?
  | .vmax _ _ b _ _ => (bopC b).head?
  | .vand _ _ b _ _ => (bopC b).head?
  | .vor _ _ b _ _ => (bopC b).head?
  | .vxor _ _ b _ _ => (bopC b).head?
  | .vsll _ _ b _ _ => (bopC b).head?
  | .vsrl _ _ b _ _ => (bopC b).head?
  | .vsra _ _ b _ _ => (bopC b).head?
  | .vcmpEq _ b _ => (bopC b).head?
  | .vcmpNe _ b _ => (bopC b).head?
  | .vcmpLt _ b _ => (bopC b).head?
  | .vcmpLe _ b _ => (bopC b).head?
  | .vcmpuLt _ b _ => (bopC b).head?
  | .vcmpuLe _ b _ => (bopC b).head?
  | .vsel _ _ b _ => (bopC b).head?
  | .vmovScalar _ b _ => some b.toNat
  | .vbcast _ _ b _ => some b.toNat
  | .vext _ _ b _ => some b.toNat
  | .vfillScalar _ b _ => some b.toNat
  | .vshlw _ _ b _ => some b.toNat
  | .vshrw _ _ b _ => some b.toNat
  | .vfsl _ _ b _ => some b.toNat
  | .vfsr _ _ b _ => some b.toNat
  | .vslideup _ _ b _ _ => some b.toNat
  | .vslidedn _ _ b _ _ => some b.toNat
  | .vpermw _ _ b _ _ => some b.toNat
  | .copy _ _ b _ => some b.toNat
  | .chgo _ _ b _ => some b.toNat
  | .rcom _ b => some b.toNat
  | .rfree _ b => some b.toNat
  | .mwin _ b => some b.toNat
  | .ldw _ b _ => some b.toNat
  | .spawn _ _ b => some b.toNat
  | .rpt _ b => some b.toNat
  | .emit _ b => some b.toNat
  | .vdot4X _ _ b _ => (bopC b).head?
  | _ => none
def capX : Instr → Option Nat
  | .vpermw _ _ b _ _ => some (b.toNat + 1)
  | .vgath _ a _ _ _ => some (a.toNat + 1)
  | _ => none

/-- The lookahead of an RL or IL word (07 R192). -/
def laOf : Instr → Nat
  | .div _ _ _ la => la.toNat
  | .divu _ _ _ la => la.toNat
  | .rem _ _ _ la => la.toNat
  | .remu _ _ _ la => la.toNat
  | .ld _ _ _ _ la => la.toNat
  | .ldu _ _ _ _ la => la.toNat
  | .st _ _ _ _ la => la.toNat
  | .fdiv _ _ _ _ la => la.toNat
  | .fsqrt _ _ _ la => la.toNat
  | .fma _ _ _ _ la => la.toNat
  | .vdiv _ _ _ _ _ la => la.toNat
  | .vcvt _ _ _ _ la => la.toNat
  | .vquant _ _ _ _ la => la.toNat
  | .vdequant _ _ _ _ la => la.toNat
  | .vexp2 _ _ _ la => la.toNat
  | .vlog2 _ _ _ la => la.toNat
  | .vrcp _ _ _ la => la.toNat
  | .vrsqrt _ _ _ la => la.toNat
  | .vsqrt _ _ _ la => la.toNat
  | .vsin _ _ _ la => la.toNat
  | .vcos _ _ _ la => la.toNat
  | .vtanh _ _ _ la => la.toNat
  | .vsigm _ _ _ la => la.toNat
  | .vexp _ _ _ la => la.toNat
  | .vgelu _ _ _ la => la.toNat
  | .vredSum _ _ _ la => la.toNat
  | .vredMax _ _ _ la => la.toNat
  | .vredMin _ _ _ la => la.toNat
  | .vredCnt _ _ _ la => la.toNat
  | .vredSumc _ _ _ la => la.toNat
  | .vredPopc _ _ la => la.toNat
  | .vredFirst _ _ la => la.toNat
  | .vld _ _ _ _ la => la.toNat
  | .vlds _ _ _ _ la => la.toNat
  | .vst _ _ _ _ la => la.toNat
  | .vsts _ _ _ _ la => la.toNat
  | .vldw _ _ _ la => la.toNat
  | .vpermw _ _ _ _ la => la.toNat
  | .vscatO _ _ _ _ la => la.toNat
  | .vscatU _ _ _ _ la => la.toNat
  | .vgath _ _ _ _ la => la.toNat
  | .copy _ _ _ la => la.toNat
  | .egath _ _ la => la.toNat
  | .escat _ _ la => la.toNat
  | .ldw _ _ la => la.toNat
  | .mop _ la => la.toNat
  | .mrdRaw _ _ la => la.toNat
  | .mrdNorm _ _ la => la.toNat
  | .mrdCnt _ _ la => la.toNat
  | .mrdPair _ _ la => la.toNat
  | .mwrVal _ _ la => la.toNat
  | .mwrPair _ _ la => la.toNat
  | _ => 0

end Sys2Proof.Machine
end

