-- ==== Sys2Proof/Config.lean ====
section
/-! DEFINITION. What one device fixes (fused constants) and the values the spec leaves open (log entry 10, DESIGN CHOICE): constants
without a body, so no proof can see what they are. A counter of State feeds those that may differ at every use. -/

namespace Sys2Proof.Config

/-- A free number: a choice that the spec leaves open and that the machine makes at use `n`. -/
opaque freeNat : Nat → Nat
/-- A free 64-bit value at use `n`. -/
opaque freeWord : Nat → BitVec 64
/-- A free string of bytes at use `n` (a signed attestation, an unspecified payload). -/
opaque freeBytes : Nat → List (BitVec 8)
/-- Whether a covered entry reads the old value of element `e` of register `p` (07 R192), at use `n`. -/
opaque takesOld : (n p e : Nat) → Bool
/-- The result of a special function within its bound (03 R92): the choice among the admitted results of function `fn`
in a format of `w` bits at operand bits `x`. It is a function of the operand, as a table in silicon is. -/
opaque specialPick : (fn w x : Nat) → Nat
/-- The key pair that the security controller unwraps from a message (17 R412, 18 R431): data key and tweak key. -/
opaque unwrap : List (BitVec 8) → BitVec 256 × BitVec 256
/-- Whether the security controller accepts a signed or wrapped message (18 R431): its keys are not visible. -/
opaque accepts : List (BitVec 8) → Bool
/-- What stands in the fuses of SERIAL. -/
opaque fusedSerial : BitVec 64
/-- SERIAL of the identity record: fused at manufacture, and never 0 (18 R420). -/
def serial : BitVec 64 := if fusedSerial = 0 then 1 else fusedSerial
/-- Whether modules of a context must be signed (18 R426). -/
opaque needsSignature : (ctx : Nat) → Bool
/-- Firmware stages, and the words of the SHA-384 digest of each (18 R431). -/
opaque fwStages : Nat
opaque stageDigest : (stage word : Nat) → BitVec 64
/-- LOC of an error record where the spec does not place its parts (18 R423): the unit, its bank or sector, and the word or lane. -/
opaque errorLoc : (unit place word : Nat) → BitVec 64
/-- FWVER of the identity record (18 R420). -/
opaque fwver : BitVec 32
/-- MOD of the identity record: on a module carrier (18 R420). -/
opaque onModule : Bool
/-- The stepping code of stepping A1 (00 R1, R3). -/
def stepping : BitVec 8 := 0x11

end Sys2Proof.Config
end

