-- ==== Sys2Proof/Machine/State.lean ====
section
/-! DEFINITION. The state of the device as plain data, and the state after reset. Registers, control registers and
queues follow spec/02 and spec/01; teams and cores spec/01, 05, 10 and 11; contexts, save areas and traps spec/15 and 17;
distributors, tasks and steals spec/06 and 16; the device and its host interface spec/18. -/

namespace Sys2Proof.Machine

/-- A byte memory in its one canonical form (Machine/Mem.lean): cells by rising address. -/
abbrev Memory := List Host.Cell

/-- The sticky bits of `vcs` but VONZ, which is computed from `vo` (02 R62). -/
structure Sticky where
  csat : Bool := false
  abs : Bool := false
  nv : Bool := false
  dz : Bool := false
  of : Bool := false
  uf : Bool := false
  nx : Bool := false
deriving DecidableEq, Repr

/-- A VP of a running `vf` (15 R373). -/
inductive VpSt where
  | out | stopped | ready | parked (k : JReg) | stallSend | stallRecv
deriving DecidableEq, Repr

/-- What a register held before a unit with a lookahead wrote it, or what a covered unit will write into one that it reads:
the units up to number `upto` of the stream may read it instead (07 R192). Registers are numbered as `v` registers, then `vm`,
`vo` and the accumulator rows of the team (`shadeVm`, `shadeVo`, `shadeRow`). -/
structure Shade where
  reg : Nat
  old : VReg
  upto : Nat
deriving DecidableEq, Repr

def shadeVm : Nat := 64
def shadeVo : Nat := 65
/-- Accumulator row `r`: its 128 cells, 48 bits each, the value in the low 32. -/
def shadeRow (r : Nat) : Nat := 66 + r

structure Vp where
  st : VpSt := .out
  pc : Word := 0
  /-- Words of the current AIB already executed (01 R30). -/
  cnt : Nat := 0
  /-- Prefix words of the unit already read. -/
  pfx : List (Word × Word32) := []
  /-- The number of the VP's next unit, and what its units with a lookahead have overwritten (07 R192). -/
  seq : Nat := 0
  shades : List Shade := []
  /-- The line of global memory that its unit waits for (04 R126): such a VP is not ready (01 R46). -/
  line : Option Nat := none
deriving DecidableEq, Repr

/-- A unit with what it captures at enqueue (01 R22, 15 R372). Class C and D units carry one too, while they execute. -/
structure Unit where
  /-- Address of the unit's first word; the instruction word itself stands at `ipc` (07 R197, 08 R211). -/
  addr : Word := 0
  ipc : Word := 0
  word : Word32 := 0
  /-- The prefix words of the unit, 0 for none. -/
  pimm : Word32 := 0
  pscope : Word32 := 0
  vl : BitVec 12 := 0
  /-- `vl` comes from the nearest earlier load entry (01 R24). -/
  vlp : Bool := false
  vst : Word := 0
  rm : BitVec 2 := 0
  rot : BitVec 5 := 0
  spr : BitVec 4 := 0
  /-- Enqueued while an `spl` loop ran, with the stage of its kernel word. -/
  lp : Bool := false
  stg : BitVec 2 := 0
  opA : Word := 0
  opB : Word := 0
  opD : Word := 0
  opX : Word := 0
  /-- `c1` to `c8`, captured by `spawn`. -/
  ops : List Word := []
  /-- DONE of the entry record: skipped on replay. In a VIQ: it has taken its effect before an older entry that waits (01 R27). -/
  done : Bool := false
  /-- The ring index taken by an `rres` or `rclaim` that waits (05 R152). -/
  tk : Option Word32 := none
  /-- Its number in the control stream (07 R192). -/
  seq : Nat := 0
  /-- A younger unit has written the entry's `c` destination: that write is final (07 R192). -/
  dead : Bool := false
  /-- Inside an AIB, the executing VP as it stood before this word. -/
  vp0 : Vp := {}
deriving DecidableEq, Repr

/-- Why a group waits. A wait of the control thread, or of the entry at the head of the VIQ. -/
inductive Wait where
  | acq (pa : Nat) (sh : Bool) | bar (k : Nat) | vwait (deadline : Option Nat) (d : CReg) (a b : VName) | fget (h : Word) | stest | rel | unbind
  | tlbinv | fence | inletFull | outletEmpty | tag (m : Word) (all : Bool) | tagBusy (k : Nat) | channel (k : Nat)
  | chwait (k : Nat) (i : Word32) | ring (x : Word32) (claim : Bool) (hdr : Word) | men | mwin | mdis | mfence | mopFull
  | plane | accRows | recall (line : Nat) | record (h : Word) | refill | storeFull | binFull | streamLand | vunbind | viq | viqReg (rs : List Nat) | viqFull | vl | vgathFull | trapping
deriving DecidableEq, Repr

/-- A register bound to a stream (05 R146 to R150). -/
structure Stream where
  reg : Nat
  desc : Word
  /-- Address of the entry that made the binding. -/
  entry : Word := 0
  p : Word
  c : Nat
  landed : Word := 0
  failed : Word := 0
  /-- The fault that each failed facet met: facet, cause, address, and the error record of poisoned data (18 R424). -/
  faults : List (Nat × Byte × Word × Word) := []
  /-- The facet that waits on a missing page, with its fault (17 R405). -/
  stop : Option (Nat × Word) := none
  fmt : BitVec 4 := 0
  fill : Bool := false
  base : Word := 0
  cnts : List Nat := []
  strides : List Word := []
  /-- Elements of the chunk that the engine has read for facets that have not landed, with their values (04 R125). -/
  got : List (Nat × Nat) := []
deriving DecidableEq, Repr

/-- A result of a class C unit with a lookahead that is not written yet (07 R192). -/
structure Late where
  d : CReg
  val : Word
  /-- The last unit of the stream that the lookahead covers. -/
  upto : Nat
  /-- From the divide unit, as against a load. -/
  div : Bool
  /-- The number of its unit in the stream. -/
  seq : Nat := 0
deriving DecidableEq, Repr

/-- A class C unit whose result is late (07 R192), with the flags that it raised, and global memory and scratch as they stood before
the first later store of its group (04 R108). -/
structure LateUnit where
  d : CReg
  u : Unit
  fl : Sticky := {}
  mem : Option (Memory × Memory) := none
deriving DecidableEq, Repr

/-- What a group is doing. -/
inductive Run where
  | running
  /-- `fret` was enqueued: nothing further is fetched (11 R327). -/
  | fretPending
  /-- `lfree` was enqueued: the control thread stalls until it has executed (11 R332). -/
  | lfreePending
  /-- `fret` has executed with this result: the group ends once its engine operations complete (01 R44). -/
  | returned (result : Word)
  /-- Its task or team is being reclaimed and it has stopped (06 R175); `offSlot` says whether it had given up its sector slot. -/
  | reclaimed
  /-- Saved and off its sector, with the STATE of its area: 1 pre-empted, 2 trapped, 3 length-free (15 R370). -/
  | saved (st : Nat)
  /-- Placed again by a decision, and not restored yet (15 R377). -/
  | resuming (st : Nat)
  | ended
deriving DecidableEq, Repr

/-- A group: its control thread and its vector of VPs. -/
structure Group where
  /-- The model's own identifier. -/
  id : Nat := 0
  /-- The team it belongs to, by the model's own identifier. -/
  team : Nat := 0
  role : BitVec 8 := 0
  num : BitVec 8 := 0
  sector : Nat := 0
  run : Run := .running
  offSlot : Bool := false
  cwait : Option Wait := none
  pwait : Option Wait := none
  c : Bank Word := []
  pc : Word := 0
  grant : Nat := 2048
  budget : Nat := 16
  vl : BitVec 12 := 0
  vst : Word := 0
  sticky : Sticky := {}
  rm : BitVec 2 := 0
  awb : BitVec 9 := 0
  awl : BitVec 10 := 0
  smap : Bank Word := []
  spr : BitVec 4 := 0
  splc : Word32 := 0
  rot : BitVec 5 := 0
  lfree : Bool := false
  req : Bool := false
  /-- It has reached the length-free point that REQ asked for, and resumes at the smallest grant that fits (16 R390). -/
  small : Bool := false
  loop : Bool := false
  kfirst : Word := 0
  klast : Word := 0
  nst : BitVec 3 := 0
  /-- Prefix words of the unit already read, in order (07 R196). -/
  pfx : List (Word × Word32) := []
  /-- The fetch buffer: 32-byte blocks of code by their addresses (04 R134), and the address after the last word taken. -/
  fbuf : List (Word × List Byte) := []
  ran : Word := 0
  late : List Late := []
  /-- The units whose results are late, and the sticky bits of `vcs` without what they raised (07 R192). -/
  lateUnits : List LateUnit := []
  lateRest : Sticky := {}
  /-- The number of the next unit of the control stream, and what entries with a lookahead have overwritten (07 R192). -/
  seq : Nat := 0
  shades : List Shade := []
  v : Bank VReg := []
  vm : Mask := 0
  vo : Mask := 0
  j : Bank JMask := []
  streams : List Stream := []
  inlet : List Word32 := []
  outlet : List Word32 := []
  /-- The chord link whose sender is VP e. -/
  links : Bank (List Word32) := []
  /-- The VPs of a running `vf`, by index; empty when none runs. -/
  vps : List Vp := []
  /-- The program counters at which its VPs stand, in the order of their turns (01 R31). -/
  turnPcs : List Word := []
  viq : List Unit := []
  /-- Which entries of a saved VIQ have had their `c` destination written by a younger unit (07 R192). -/
  dead : List Bool := []
  /-- Flags of completed `mop`s not yet merged (11 R308). -/
  mflags : Sticky := {}
  /-- Pivots held, by physical address; true for an exclusive hold (04 R121). -/
  holds : List (Nat × Bool) := []
  /-- Ring slots it has reserved and not committed: header and index (06 R175). -/
  slots : List (Word × Word32) := []
  /-- Ring indices that entries of a reclaimed group had taken: header, index, and a claim or not (06 R175). -/
  taken : List (Word × Word32 × Bool) := []
  /-- Poisoned 4-byte words of its registers (18 R424): physical register, word, and the address of the error record. -/
  rpoison : List (Nat × Nat × Word) := []
  /-- The selector of the test that it waits for in `stest`, and the die's clock when it began (18 R425). -/
  testSel : Word := 0
  testClk : Word := 0
  /-- The save area (15 R369), in the address space of context `areaCtx`. -/
  area : Word := 0
  areaCtx : Nat := 0
  /-- Facets that the last save wrote for each register (15 R374, R440). -/
  nfac : List Nat := []
  /-- `gid` at the last save (15 R370, R440). -/
  sgid : Word := 0
  /-- `tags` and `chdone0` to `chdone7` as the last save wrote them: what supervisor software changes there is taken up. -/
  sctl : List Word := []
  /-- `sctx` of a supervisor group (15 R360; log entry 8, DEDUCED). -/
  sctx : BitVec 12 := 0
  /-- The record that ended the last trap of the group: kept for the host (15 R364). -/
  lastTrap : Option (Byte × Word) := none
deriving DecidableEq, Repr

/-- One channel transfer that is not done (05 R156, R157). -/
structure Transfer where
  id : Word32
  op : Nat
deriving DecidableEq, Repr

structure Channel where
  queue : List Transfer := []
  next : Word32 := 0
  done : Word32 := 0
  /-- Kept status of the transfers that ended. -/
  sts : List (Word32 × BitVec 4) := []
deriving DecidableEq, Repr

structure Barrier where
  n : Nat := 0
  arrived : List Nat := []
  /-- Groups that wait in `bar` for the phase, and groups whose phase completed while they waited. -/
  waiting : List Nat := []
  passed : List Nat := []
deriving DecidableEq, Repr

/-- A cell of accumulator memory (11 R299): an f32 value and a present count. -/
structure AccCell where
  val : Word32 := 0
  cnt : BitVec 16 := 0
deriving DecidableEq, Repr

inductive TeamKind where
  | tile (grid : Word) (ordinal : Nat) | node (index : Nat) | task (h : Word)
deriving DecidableEq, Repr

/-- A team: its groups, and what it owns on its core (01 R16 to R18). See log entry 7, DEDUCED. -/
structure Team where
  /-- The model's own identifier. -/
  id : Nat := 0
  kind : TeamKind := .node 0
  ctx : Nat := 0
  priv : Bool := false
  die : Nat := 0
  core : Nat := 0
  slot : BitVec 8 := 0
  ngroups : Nat := 1
  /-- The model's identifiers of its groups, by group number. -/
  gids : List Nat := []
  scrsz : Nat := 0
  scratch : Memory := []
  /-- Zero flags, one for each 4 KiB tile (05 R145); a tile not listed reads set. -/
  zclear : List Nat := []
  /-- Poisoned words of the scratch, by their 4 bytes (18 R424). -/
  spoison : List (Nat × Word) := []
  accrows : Nat := 0
  acc : List (Nat × AccCell) := []
  /-- The rows were granted by `men` (11 R305, R309). -/
  menRows : Bool := false
  men : Bool := false
  compat : Bool := false
  ntags : Nat := 0
  nchan : Nat := 0
  nbar : Nat := 0
  tags : Word := 0
  tagSt : Bank (BitVec 4) := []
  bars : Bank Barrier := []
  chans : Bank Channel := []
  /-- Owned references (06 R168), oldest first, with the overflow blocks that hold those past the sixteenth. -/
  owned : List Word := []
  ovf : List Word := []
  root : Word := 0
  weight : Nat := 0
  pri : Nat := 0
  ecls : Nat := 0
  gated : Bool := false
  /-- Allowed grants (16 R387). -/
  gmin : Nat := 2048
  gmax : Nat := 2048
  /-- Set once its task, grid or area is reclaimed or halted: its groups stop at their next reclamation point. -/
  stopping : Bool := false
  /-- The result that `halt` gave (15 R379). -/
  halted : Option Word := none
  /-- The die to whose share of its grid a tile team counts (16 R381): it stays when the team moves. -/
  share : Nat := 0
  /-- Weight that a node team holds for other roots than its own (log entry 15, DEDUCED). -/
  extra : List (Word × Nat) := []
deriving DecidableEq, Repr

/-- A tensor layout record as read at issue (05 R138). -/
structure Tlr where
  addr : Word := 0
  base : Word := 0
  fmt : BitVec 4 := 0
  rank : Nat := 1
  fill : Bool := false
  npk : Nat := 0
  rmt : Bool := false
  op : Nat := 0
  node : Nat := 0
  ext : List Nat := []
  box : List Nat := []
  stride : List Word := []
  org : List Int := []
  rkey : Word32 := 0
deriving DecidableEq, Repr

/-- An engine gather or scatter command (05 R160). -/
structure GathCmd where
  /-- Address of the command block; for `vgath`, in the save area. -/
  addr : Word := 0
  table : Word := 0
  index : Word := 0
  data : Word := 0
  n : Nat := 0
  fmt : BitVec 4 := 0
  iw : Bool := false
  fill : Bool := false
  lim : Word := 0
  frec : Word := 0
  /-- The index values of a `vgath`, read at execution (10 R297). -/
  idxs : List Word32 := []
  isVgath : Bool := false
  /-- Elements already performed. -/
  done : List Nat := []
  cnt : Nat := 0
deriving DecidableEq, Repr

/-- The ring of a channel transfer (05 R151). -/
structure RingHdr where
  addr : Word := 0
  slotbase : Word := 0
  log2n : Nat := 0
  slotsz : Nat := 32
  prod : Nat := 0
  cons : Nat := 0
  statbase : Word := 0
deriving DecidableEq, Repr

inductive OpKind where
  | copy (src dst : Tlr)
  | gather (c : GathCmd)
  | scatter (c : GathCmd)
  | fill (t : Tlr) (r : RingHdr)
  | drain (t : Tlr) (r : RingHdr)
deriving DecidableEq, Repr

/-- An engine operation in flight (04 R125 to R131; 05). -/
structure EngOp where
  id : Nat := 0
  kind : OpKind
  g : Nat := 0
  tm : Nat := 0
  ctx : Nat := 0
  die : Nat := 0
  tag : Nat := 0
  entry : Word := 0
  /-- Elements performed (copies), or the next box position (channel transfers). -/
  done : List Nat := []
  pos : Nat := 0
  /-- The ring index a channel transfer has taken and waits on (05 R152). -/
  taken : Option Word32 := none
  /-- Its place in the order in which operations are granted lines (04 R127, R128): new when it takes its lines again. -/
  rank : Nat := 0
  /-- Global-memory lines owned, by physical address divided by 128 (04 R126). -/
  lines : List Nat := []
  /-- What it has written in scratch, the latest first: an offset and the bytes (05 R145); and the tiles of those that another agent
  has written since. -/
  writes : List (Nat × List Byte) := []
  mixed : List Nat := []
  /-- The slot of the index that a channel transfer has taken is reserved, or claimed. -/
  inSlot : Bool := false
  /-- What a remote side delivers, in linear order, and what is sent to one. -/
  rdata : List Byte := []
  rout : List (Word × List Byte) := []
  /-- Stopped on a page: INFO, the element and the address (17 R405). -/
  stop : Option (Word × Nat × Word) := none
  cnt : Nat := 0
  /-- Aligned 4-byte words of scratch that elements already performed have still to write (04 R106, R129): those of their bytes. -/
  late : List (Nat × List (Option Byte)) := []
  /-- It has ended with this status and count, and its status word waits on a line of an earlier operation (04 R127). -/
  ended : Option (Nat × Nat) := none
  /-- Facets of a dense source, or spans of a packed one, that it has read for a unit and that another unit shares: each is read once (04 R125). -/
  seen : List (Nat × List Byte) := []
  /-- Bytes of its lines that the device has written over what it has still to write there: an address and a length (04 R126). -/
  laid : List (Nat × Nat) := []
deriving DecidableEq, Repr

/-- The shadow plane's holder (11 R300). -/
inductive ShadowSt where
  | free | held (g : Nat) | claimed (g : Nat)
deriving DecidableEq, Repr

/-- A weight plane: format, depth, columns, and its codes read from the tile, by column then depth. Facet formats keep
whole facets. -/
structure Plane where
  fmt : BitVec 4 := 0
  k : Nat := 0
  ncol : Nat := 0
  cols : List (List Byte) := []
deriving DecidableEq, Repr

/-- An accepted matrix command. -/
structure Mop where
  g : Nat
  tm : Nat
  afmt : BitVec 4
  wfmt : BitVec 4
  m : Nat
  k : Nat
  n : Nat
  /-- First accumulator row, relative to the team. -/
  row : Nat
  ovw : Bool
  zskip : Bool
  reuse : Bool
  areg : Bool
  asrc : Word
  astride : Nat
  /-- With AREG = 1, the bytes of the register run, which no later entry changes before the unit has read them (11 R317). -/
  adata : List Byte := []
  started : Bool := false
  /-- Words of scratch that the unit has read for it (11 R302), with whether their tile's zero flag was set then (R316). -/
  got : List (Nat × List Byte × Bool) := []
  /-- Rows whose cells have received their last K block (11 R303). -/
  rows : Nat := 0
  /-- The last unit of the group that its lookahead covers (07 R192). -/
  upto : Nat := 0
deriving DecidableEq, Repr

/-- An `ldw` accepted and not complete (11 R302). -/
structure LdwCmd where
  g : Nat
  tm : Nat
  addr : Word
  stride : Nat
  fmt : BitVec 4
  k : Nat
  ncol : Nat
  /-- Words of scratch that the unit has read for it (11 R302). -/
  got : List (Nat × List Byte × Bool) := []
deriving DecidableEq, Repr

/-- The matrix unit of a core (11 R300, R301). -/
structure MatrixUnit where
  stationary : Plane := {}
  owner : Option Nat := none
  shadow : Plane := {}
  sst : ShadowSt := .free
  queue : List Mop := []
  ldw : Option LdwCmd := none
deriving DecidableEq, Repr

/-- A record's STATE (06 R167), and a record lost to the reset of the die where it stood, whose home slot stays taken (16
R393, R394). -/
inductive RecSt where
  | ready | running | finished | reclaiming | transit | lost
deriving DecidableEq, Repr

/-- The fields of a loop-nest record that a grid keeps (06 R184). -/
structure LoopNest where
  entry : Word := 0
  argp : Word := 0
  ext : List Nat := []
  step : List Nat := []
  ord : List Nat := []
  chunk : Nat := 1
  pg : Nat := 1
  cg : Nat := 0
  pb : Nat := 16
  cb : Nat := 16
  gmin : Nat := 2048
  gmax : Nat := 2048
  pri : Nat := 0
  ecls : Nat := 0
  tags : Nat := 0
  chn : Nat := 0
  bar : Nat := 0
  scr : Nat := 0
  acc : Nat := 0
  compat : Bool := false
deriving DecidableEq, Repr

/-- A task record (06 R167), with the shape that travels beside its words (11 R324). -/
structure TaskRec where
  handle : Word := 0
  /-- The die where the record stands, and the locator that its home slot holds (16 R394). -/
  die : Nat := 0
  loc : Nat := 0
  ctx : Nat := 0
  entry : Word := 0
  args : List Word := []
  result : Word := 0
  weight : Nat := 0
  parent : Word := 0
  root : Word := 0
  cons : Nat := 0
  st : RecSt := .ready
  pri : Nat := 0
  ecls : Nat := 0
  pin : Bool := false
  hmask : Byte := 0
  budget : Nat := 16
  gmax : Nat := 2048
  scr : Nat := 0
  /-- The team that runs it. -/
  team : Option Nat := none
  grid : Option LoopNest := none
  /-- Distributors whose share of the grid has not ended. -/
  shares : List Nat := []
  /-- Its home die was reset: CONS no longer changes (16 R393). -/
  orphan : Bool := false
deriving DecidableEq, Repr

/-- A graph by its root (06 R180, R181): POOL, what its completion event carries, and the host's hold. It outlives the
root's record, since weight may still return after the record is freed. -/
structure Graph where
  root : Word
  die : Nat
  ctx : Nat
  pool : Nat
  result : Word := 0
  reclaimed : Bool := false
  host : Bool := true
deriving DecidableEq, Repr

/-- What a distributor may place (16 R383). -/
inductive CandKind where
  | walker (grid : Word)
  | task (h : Word)
  | batch (ctx node : Nat) (recs : List (List Byte × Nat × Word))
  | saved (g : Nat) (grant : Option Nat)
deriving DecidableEq, Repr

structure Cand where
  kind : CandKind
  pri : Nat := 0
  age : Nat := 0
  deferred : Nat := 0
  /-- Decisions since it had been deferred 64 times, and since it became the reserved one (16 R389). -/
  wait64 : Nat := 0
  resv : Option Nat := none
  /-- Left out as unplaceable (16 R389): for its cost until BUDGET changes, or, where `poolless`, until a pool serves it (15 R369). -/
  skipped : Bool := false
  poolless : Bool := false
deriving DecidableEq, Repr

/-- A walker's share of a grid: the ordinals not yet enumerated, in order (16 R382), and the teams still running. -/
structure Walk where
  grid : Word
  todo : List Nat
  live : Nat := 0
  /-- Shares that it stands for: a stolen range counts as one (16 R381). -/
  parts : Nat := 1
deriving DecidableEq, Repr

/-- A bin (06 R183): records with their bytes, weight and root, oldest first, and the timer's deadline. -/
structure Bin where
  ctx : Nat
  node : Nat
  recs : List (List Byte × Nat × Word) := []
  deadline : Nat := 0
deriving DecidableEq, Repr

/-- What a steal moves (16 R391). -/
inductive StealItem where
  | tiles (grid : Word) (ords : List Nat) | record (h : Word) | group (g : Nat) (grant : Option Nat)
  /-- A finished record, which moves to balance the stores. -/
  | finished (h : Word)
deriving DecidableEq, Repr

/-- The part a distributor plays in a steal (16 R392). -/
inductive StealSt where
  | idle
  /-- It asks the die at this place of its order (R391). -/
  | asking (k : Nat)
  | acking (victim : Nat) (item : StealItem) (stg : Byte)
deriving DecidableEq, Repr

structure Shadow where
  item : StealItem
  thief : Nat
  deadline : Nat
deriving DecidableEq, Repr

/-- A message between dies (16 R381, R391 to R394). -/
inductive MsgBody where
  | grid (h : Word) | offer (item : StealItem) (stg : Byte) | ack (stg : Byte) (item : StealItem) | accepted
  | stale | none | loc (h : Word) (at_ : Nat) | confirm (h : Word) | refAct (h : Word) (delta : Int) | rpt (h : Word) (pri ecls : Nat)
  | weight (root : Word) (w : Nat)
deriving DecidableEq, Repr

structure Msg where
  src : Nat
  dst : Nat
  body : MsgBody
deriving DecidableEq, Repr

structure Die where
  clk : Word := 0
  /-- Phase of the weight-store refresh period (02 R62). -/
  phase : BitVec 16 := 0
  budget : Nat := 1000
  tlimit : Nat := 95
  /-- The latest sample, if the sensor has been sampled since die reset (16 R439). -/
  temp : Option Nat := none
  /-- Generations of the slots of the task store that differ from 1 (06 R166). -/
  gens : List (Nat × Nat) := []
  cands : List Cand := []
  walks : List Walk := []
  bins : List Bin := []
  steal : StealSt := .idle
  shadows : List Shadow := []
  stg : Byte := 0
  /-- Power-gating has been requested, and the gate has closed: not before every steal of the die has settled (16 R393). -/
  gating : Bool := false
  gated : Bool := false
  /-- The group asked for a length-free point (16 R390). -/
  moving : Option Nat := none
  /-- Groups are being moved to smaller grants (16 R390). -/
  hot : Bool := false
  /-- The group that the latest decision has pre-empted (16 R388). -/
  evict : Option Nat := none
  /-- Handler spawns that wait on a full task store, or for the stop to settle (15 R363, R365). -/
  spawns : List (Nat × List Word) := []
  /-- Forwarding entries kept until the home confirms (16 R394). -/
  fwd : List (Word × Nat) := []
deriving DecidableEq, Repr

structure Binding where
  base : Word
  len : Word
  pivot : Word
  pa : Nat
deriving DecidableEq, Repr

/-- A save area in use, with what the device keeps of its own about the group (15 R440). -/
structure Area where
  addr : Word
  poolCtx : Nat
  g : Nat
deriving DecidableEq, Repr

/-- The code heap of a module (18 R427, R429): its first address, where the stub table stands, its bytes, the functions of the module, and
the base index of its nodes; and the bodies placed there: function, address and words. -/
structure Heap where
  base : Word
  bytes : Nat
  count : Nat
  node : Nat := 0
  bodies : List (Nat × Word × Nat) := []
deriving DecidableEq, Repr

structure Context where
  root : Word := 0
  wkey : Nat := 0
  priv : Bool := false
  part : Nat := 0
  valid : Bool := false
  shent : Word := 0
  shcw : Word := 0
  spool : Word := 0
  spooln : Nat := 0
  srefp : Word := 0
  srefn : Nat := 0
  snode : Word := 0
  sroot : Word := 0
  /-- The handle in `stask`, which acts on the selected context (15 R360). -/
  stask : Word := 0
  binds : List Binding := []
  /-- Stub tables: first address and function count (18 R427). -/
  stubs : List (Word × Nat) := []
  modules : Nat := 0
  nodesUsed : Nat := 0
  /-- A LOAD whose translator has not finished: its RETRY flag, and the base of its heap. -/
  loading : Option (Bool × Word) := none
  /-- The code heaps of its modules. -/
  heaps : List Heap := []
  /-- The container that it loads, if that is well formed. -/
  container : Option Module := none
  /-- The base index of the node declarations of each module, and the digests of the containers (18 R426, R431). -/
  nodeBases : List Nat := []
  digests : List (List Word) := []
deriving DecidableEq, Repr

/-- A key slot (17 R412): its state, owning partition and XTS-AES-256 pair, the data key and the tweak key, 256 bits each. -/
inductive KeySt where
  | empty | loaded (part : Nat) (dataKey tweakKey : BitVec 256) | unloading (part : Nat)
deriving DecidableEq, Repr

structure Partition where
  shat : Word := 0
  shatn : Nat := 0
  qpt : Word := 0
  logBase : Option Word := none
  logCount : Nat := 64
  seq : Word32 := 0
deriving DecidableEq, Repr

/-- A cached translation (17 R404): of the micro-TLB of a sector, or of the banked TLB of a die; context, 64 KiB page of the
address, the leaf and its level, and the physical address of its entry. -/
structure TlbEntry where
  die : Nat
  sec : Option Nat := none
  ctx : Nat
  page : Nat
  leaf : Word
  level : Nat
  at_ : Nat := 0
deriving DecidableEq, Repr

/-- A table entry in the walk cache of a die (17 R404): its context, level and the address bits that lead to it. -/
structure WalkEntry where
  die : Nat
  ctx : Nat
  level : Nat
  tag : Nat
  e : Word
deriving DecidableEq, Repr

/-- A 16-byte block of a line that an L2 holds (17 R414), enciphered in memory under another key pair than the line's: what it was
deciphered to, and the bytes that it is the cipher of. A block that is still as deciphered goes back as it was. -/
structure Veil where
  block : Nat
  seen : List Byte
  held : List Byte
deriving DecidableEq, Repr

/-- What an atomic did to a location of global memory (04 R133): the group, with its team, die and partition (R112), the bytes before
and after, and the groups that have taken a step since. Group 0 is a remote add-with-count. -/
structure AmoRec where
  g : Nat
  tm : Nat := 0
  die : Nat := 0
  part : Nat := 0
  pa : Nat
  before : List Byte
  after : List Byte
  seen : List Nat := []
deriving DecidableEq, Repr

/-- A waiter of a pivot, in request order (04 R120). -/
structure PivotWait where
  pa : Nat
  g : Nat
  sh : Bool
deriving DecidableEq, Repr

/-- A pending void or discard of a ring index that belongs to the device (06 R175). -/
structure PendingIdx where
  x : Word32
  ring : RingHdr
  ctx : Nat
  tm : Nat
  claim : Bool
deriving DecidableEq, Repr

/-- A datagram to the host (18 R418, R421): a reply, or an event. -/
inductive ToHost where
  | reply (tag : Word32) (part op status : Nat) (body : List Word)
  | event (kind part : Nat) (w : List Word)
  | rdma (part : Nat) (nak : Bool) (data : List Byte)
  /-- What a remote put carries to a node (05 R163): addresses there with their bytes. -/
  | remote (node : Nat) (rkey : Word32) (adds : Bool) (l : List (Word × List Byte))
  /-- An answer to a remote node's operation. -/
  | remoteReply (part : Nat) (nak : Bool) (data : List Byte)
deriving DecidableEq, Repr

/-- One move of the device: which port or event comes next (log entry 4, DESIGN CHOICE). -/
inductive Choice where
  /-- The control thread of group `g` handles its next unit: class C and D execute, class V and M are enqueued. -/
  | control (g : Nat)
  /-- The entry at the head of the VIQ of group `g` executes. -/
  | port (g : Nat)
  /-- Group `g` takes one unit: its port moves where an entry waits, and, where that leaves the entry and the VPs as they
  stood, its control thread; an entry that this enqueues in an empty VIQ executes in the same step. -/
  | unit (g : Nat)
  /-- The engine performs element `i` of an operation of its own accord (04 R125). -/
  | engine (op i : Nat)
  /-- The same, but its words in scratch arrive later, each by itself (04 R106, R129). -/
  | engineLate (op i : Nat)
  /-- Word `k` of those arrives. -/
  | engineWord (op k : Nat)
  /-- The matrix unit of a core reads a word of scratch (11 R302): for its weight load (0), or for the `mop` at place `i - 1` of its
  queue. -/
  | matrixWord (core i word : Nat)
  /-- The matrix unit of a core completes a row of the `mop` that runs (11 R303). -/
  | matrixRow (core : Nat)
  /-- The engine reads element `e` of the chunk of a register bound to a stream (04 R125, 05 R147). -/
  | streamRead (g r e : Nat)
  /-- The remote access at place `n` of those held is tried again (18 R436). -/
  | retry (n : Nat)
  /-- A step without a word, with what it acts on. -/
  | event (i : Instr) (e : EvArgs)
deriving DecidableEq, Repr

structure State where
  -- the group whose step is taken, its team, and the unit being executed
  g : Group := {}
  t : Team := {}
  u : Unit := {}
  /-- Where lookaheads make it matter (07 R192), what the executing unit has written so far: registers by their numbers (`Shade`), and
  their bits. -/
  trace : Option (List (Nat × VReg)) := none
  /-- The unit executes on a port, as an entry of the VIQ, and not on the control port. -/
  port : Bool := false
  /-- The VP that executes, inside an AIB. -/
  vp : Option Nat := none
  ev : EvArgs := {}
  groups : List Group := []
  teams : List Team := []
  mats : List (Nat × MatrixUnit) := []
  dies : List Die := []
  ctxs : List (Nat × Context) := []
  parts : List (Nat × Partition) := []
  partSize : Nat := 8
  partsSet : Bool := false
  tasks : List TaskRec := []
  graphs : List Graph := []
  areas : List Area := []
  ops : List EngOp := []
  pend : List PendingIdx := []
  pivots : List Nat := []
  pwaits : List PivotWait := []
  tlb : List TlbEntry := []
  wcache : List WalkEntry := []
  /-- Atomics that one from outside their scope may still overwrite (04 R133), oldest first. -/
  amos : List AmoRec := []
  hbm : Memory := []
  wstore : Memory := []
  /-- Poisoned lines (18 R424), by physical address divided by 128, with the address of their error record. -/
  poison : List (Nat × Word) := []
  /-- Poisoned words of the weight stores, by their 32 bytes. -/
  wpoison : List (Nat × Word) := []
  /-- Key index of each line held in an L2 (17 R414). -/
  lkeys : List (Nat × Nat) := []
  /-- The key pairs under which blocks of 16 bytes are enciphered in memory (17 R414), by ranges of a first block and a count: of the
  ranges that hold a block the first counts. -/
  ekeys : List (Nat × Nat × BitVec 256 × BitVec 256) := []
  veils : List Veil := []
  keys : List (Nat × KeySt) := []
  msgs : List Msg := []
  /-- Remote accesses that wait for a line which an engine owns (18 R436, 04 R126), in order, with the context that the host-access table
  gave each when it arrived. -/
  held : List (Instr × EvArgs × Nat) := []
  nodeId : BitVec 20 := 0xFFFFF
  nodeSet : Bool := false
  hosts : List Nat := []
  enrolled : Bool := false
  fwOk : Bool := true
  toHost : List ToHost := []
  agenda : List Choice := []
  /-- The groups of each sector in the order in which each of its ports takes them (01 R20): by sector · 3 + port, in order control, vector,
  memory. -/
  turns : List (Nat × Nat) := []
  /-- Choices the spec leaves to a distributor (16 R437), one after another: plain data, read and never constrained. -/
  pick : Nat := 0
  /-- Dies on which an event calls for a decision (16 R386); the step that raised it makes the decision. -/
  due : List Nat := []
  fresh : Nat := 0
  nextId : Nat := 1
deriving DecidableEq, Repr

/-- Why the machine stops with a fault. No instruction of the device ends in one: what the spec calls a fault is a trap. -/
inductive Fault where
  /-- The agenda asks for a step without a word, and names an instruction that has one, or a part of one. Raised by `step`.
  Safe: such an agenda stands for no run of the device. -/
  | badAgenda
deriving DecidableEq, Repr

/-- Why a step has no meaning in this model. -/
inductive Refusal where
  /-- An instruction that the model does not give a meaning yet. Raised by the arms of `exec`. Safe. -/
  | notModelled (mnemonic : String)
deriving DecidableEq, Repr

/-- The outcome of a step of this machine. -/
abbrev Out := Host.Outcome State Fault Refusal

/-- The device after reset (18 R431, R432): no groups, eight dies, nothing enrolled, memory without a listed byte. See log entry 3, DESIGN CHOICE. -/
def State.reset : State := { dies := List.replicate 8 {} }

end Sys2Proof.Machine
end

