-- ==== Sys2Proof/Machine/Mem.lean ====
section
/-! DEFINITION. Byte memories as sorted lists of cells: global memory by physical address, the weight stores by die and
offset, a team's scratch by offset. An unlisted byte reads 0 (log entry 2, DESIGN CHOICE). Wider accesses are little-endian (00 R6). -/

namespace Sys2Proof.Machine

/-- What a byte that nothing has written reads as (log entry 2, DESIGN CHOICE). -/
def Memory.unlisted : Byte := 0

/-- Every cell lies above `lo`, addresses rise strictly, and no cell holds what an unlisted byte reads as. -/
def Memory.wfFrom : Nat → Memory → Bool
  | _, [] => true
  | lo, (a, b) :: m => decide (lo ≤ a) && decide (b ≠ Memory.unlisted) && Memory.wfFrom (a + 1) m

/-- The canonical form of a memory. -/
def Memory.wf (m : Memory) : Bool := Memory.wfFrom 0 m

/-- Read one byte. -/
def Memory.read : Memory → Nat → Byte
  | [], _ => Memory.unlisted
  | (a, b) :: m, x => if x = a then b else Memory.read m x

/-- Write one byte, keeping the canonical form. -/
def Memory.write : Memory → Nat → Byte → Memory
  | [], x, v => if v = Memory.unlisted then [] else [(x, v)]
  | (a, b) :: m, x, v =>
    if x < a then (if v = Memory.unlisted then (a, b) :: m else (x, v) :: (a, b) :: m)
    else if x = a then (if v = Memory.unlisted then m else (x, v) :: m)
    else (a, b) :: Memory.write m x v

/-- The `n` bytes from address `a`, the lowest first. -/
def Memory.bytes (m : Memory) (a n : Nat) : List Byte := (List.range n).map fun i => m.read (a + i)

/-- Write bytes from address `a` upwards. -/
def Memory.store (m : Memory) (a : Nat) : List Byte → Memory
  | [] => m
  | b :: bs => Memory.store (m.write a b) (a + 1) bs

/-- Clear the `n` bytes from address `a`: what follows reads 0 there. -/
def Memory.clear (m : Memory) (a n : Nat) : Memory := m.filter fun c => !(decide (a ≤ c.1) && decide (c.1 < a + n))

/-- The number that bytes hold, the lowest first (00 R6). -/
def leNat : List Byte → Nat
  | [] => 0
  | b :: bs => b.toNat + 256 * leNat bs

/-- The `n` low bytes of a number, the lowest first. -/
def natLe : Nat → Nat → List Byte
  | 0, _ => []
  | n + 1, x => BitVec.ofNat 8 x :: natLe n (x / 256)

/-- The `n`-byte number at address `a`. -/
def Memory.num (m : Memory) (a n : Nat) : Nat := leNat (m.bytes a n)

/-- Bits `lo` to `lo + w − 1` of a number. -/
def field (x lo w : Nat) : Nat := x / 2 ^ lo % 2 ^ w

/-- The signed reading of the low `w` bits of a number (00 R10). -/
def sextNat (w x : Nat) : Int :=
  let y := x % 2 ^ w
  if w = 0 then 0 else if y < 2 ^ (w - 1) then (y : Int) else (y : Int) - (2 ^ w : Nat)

/-- The `w`-bit pattern of an integer. -/
def patInt (w : Nat) (x : Int) : Nat := (x % (2 ^ w : Nat)).toNat

end Sys2Proof.Machine
end

