-- ==== Sys2Proof/Machine/Float.lean ====
section
/-! DEFINITION. Floating-point numbers (03 R70 to R74, R84, R86, R88): exact dyadic values, one rounding function for
every format and mode, and the correctly rounded operations. Bit patterns are naturals below 2 to the format's width. -/

namespace Sys2Proof.Machine

/-- A binary format: exponent and fraction widths (03 R70), absent code and canonical NaN (R71). -/
structure Fmt where
  eb : Nat
  mb : Nat
  absent : Nat
  nan : Nat
deriving DecidableEq, Repr

def Fmt.f64 : Fmt := ⟨11, 52, 0xFFF8000000000001, 0x7FF8000000000000⟩
def Fmt.f32 : Fmt := ⟨8, 23, 0xFFC00001, 0x7FC00000⟩
def Fmt.bf16 : Fmt := ⟨8, 7, 0xFFC1, 0x7FC0⟩
def Fmt.f16 : Fmt := ⟨5, 10, 0xFE01, 0x7E00⟩

def Fmt.bias (f : Fmt) : Nat := 2 ^ (f.eb - 1) - 1
def Fmt.width (f : Fmt) : Nat := f.eb + f.mb + 1
/-- Exponent of the smallest subnormal. -/
def Fmt.qmin (f : Fmt) : Int := 1 - (f.bias : Int) - f.mb
/-- The pattern of +infinity. -/
def Fmt.infBits (f : Fmt) : Nat := (2 ^ f.eb - 1) * 2 ^ f.mb
def Fmt.sign (f : Fmt) (x : Nat) : Bool := x / 2 ^ (f.eb + f.mb) % 2 = 1
def Fmt.withSign (f : Fmt) (s : Bool) (x : Nat) : Nat := if s then x + 2 ^ (f.eb + f.mb) else x

/-- A value: NaN (signalling or not), infinity, or (−1)^s · m · 2^e. -/
inductive FV where
  | nan (sig : Bool)
  | inf (s : Bool)
  | fin (s : Bool) (m : Nat) (e : Int)
deriving DecidableEq, Repr

/-- The value of a pattern, absent codes apart. -/
def Fmt.decode (f : Fmt) (x : Nat) : FV :=
  let s := f.sign x
  let e := x / 2 ^ f.mb % 2 ^ f.eb
  let m := x % 2 ^ f.mb
  if e = 2 ^ f.eb - 1 then (if m = 0 then .inf s else .nan (m / 2 ^ (f.mb - 1) = 0))
  else if e = 0 then .fin s m f.qmin else .fin s (m + 2 ^ f.mb) (f.qmin + e - 1)

/-- Rounding modes by RM (02 R62): 0 RNE, 1 RZ, 2 RUP, 3 RDN. -/
abbrev RMode := BitVec 2

/-- Whether rounding m + r/2^sh goes away from zero: `r` is the remainder, `st` says that a further bit below is set. -/
def roundsUp (rm : RMode) (s : Bool) (m r sh : Nat) (st : Bool) : Bool :=
  match rm.toNat with
  | 0 => decide (r * 2 > 2 ^ sh) || (decide (r * 2 = 2 ^ sh) && (st || decide (m % 2 = 1)))
  | 1 => false
  | 2 => !s && (decide (r ≠ 0) || st)
  | _ => s && (decide (r ≠ 0) || st)

/-- Round m·2^e (with `st` for bits below) to a multiple of 2^q: the multiple and whether it is inexact. -/
def roundAt (rm : RMode) (s : Bool) (m : Nat) (e : Int) (st : Bool) (q : Int) : Nat × Bool :=
  if q ≤ e then
    let n := m * 2 ^ (e - q).toNat
    (if roundsUp rm s n 0 0 st && decide (rm.toNat ≠ 0) then n + 1 else n, st)
  else
    let sh := (q - e).toNat
    let n := m / 2 ^ sh
    let r := m % 2 ^ sh
    (if roundsUp rm s n r sh st then n + 1 else n, decide (r ≠ 0) || st)

/-- A result with the flags it raises. -/
structure FRes where
  bits : Nat
  fl : Sticky := {}
  /-- A finite value beyond the largest finite one was rounded. -/
  ovf : Bool := false
deriving DecidableEq, Repr

/-- The overflowed result for a rounding direction (03 R73). -/
def Fmt.overflow (f : Fmt) (rm : RMode) (s : Bool) : Nat :=
  f.withSign s (match rm.toNat with
    | 0 => f.infBits
    | 1 => f.infBits - 1
    | 2 => if s then f.infBits - 1 else f.infBits
    | _ => if s then f.infBits else f.infBits - 1)

/-- Round (−1)^s · m · 2^e correctly once (03 R73): tininess after rounding, UF only when also inexact. -/
def Fmt.round (f : Fmt) (rm : RMode) (s : Bool) (m : Nat) (e : Int) (st : Bool := false) : FRes :=
  if m = 0 ∧ st = false then ⟨f.withSign s 0, {}, false⟩ else
  let qn := e + (m.log2 + 1 : Nat) - (f.mb + 1 : Nat)
  let q := max qn f.qmin
  let (n, ix) := roundAt rm s m e st q
  let bits := (q - f.qmin).toNat * 2 ^ f.mb + n
  if bits ≥ f.infBits then ⟨f.overflow rm s, { of := true, nx := true }, true⟩
  else
    let (n', _) := roundAt rm s m e st qn
    let tiny := decide ((m.log2 + 1 : Nat) + e ≤ f.qmin + f.mb) &&
      !(decide (n' = 2 ^ (f.mb + 1)) && decide (qn + 1 = f.qmin))
    ⟨f.withSign s bits, { nx := ix, uf := ix && tiny }, false⟩

def Sticky.or (a b : Sticky) : Sticky :=
  ⟨a.csat || b.csat, a.abs || b.abs, a.nv || b.nv, a.dz || b.dz, a.of || b.of, a.uf || b.uf, a.nx || b.nx⟩

/-- The canonical NaN, with NV (03 R72). -/
def Fmt.invalid (f : Fmt) : FRes := ⟨f.nan, { nv := true }, false⟩
/-- The canonical NaN for a NaN operand: NV if it signals. -/
def Fmt.nanOf (f : Fmt) (sig : Bool) : FRes := ⟨f.nan, { nv := sig }, false⟩

def Fmt.infRes (f : Fmt) (s : Bool) : FRes := ⟨f.withSign s f.infBits, {}, false⟩

/-- Whether a value is a signalling NaN. -/
def FV.snan : FV → Bool
  | .nan s => s
  | _ => false

def FV.isNan : FV → Bool
  | .nan _ => true
  | _ => false

/-- The integer m·2^(e−q) with its sign, for q at most e. -/
def scaled (s : Bool) (m : Nat) (e q : Int) : Int :=
  let x : Int := (m * 2 ^ (e - q).toNat : Nat)
  if s then -x else x

/-- Exact sum of two finite values: sign, magnitude and exponent. A zero from cancellation takes its sign from RM (R88). -/
def addFin (rm : RMode) (s1 : Bool) (m1 : Nat) (e1 : Int) (s2 : Bool) (m2 : Nat) (e2 : Int) : Bool × Nat × Int :=
  let q := min e1 e2
  let x := scaled s1 m1 e1 q + scaled s2 m2 e2 q
  if x = 0 then ((if s1 = s2 then s1 else decide (rm.toNat = 3)), 0, q) else (decide (x < 0), x.natAbs, q)

def FV.neg : FV → FV
  | .nan s => .nan s
  | .inf s => .inf (!s)
  | .fin s m e => .fin (!s) m e

/-- a + b (03 R73, R88). -/
def Fmt.addV (f : Fmt) (rm : RMode) (a b : FV) : FRes :=
  match a, b with
  | .nan x, y => f.nanOf (x || y.snan)
  | _, .nan y => f.nanOf y
  | .inf x, .inf y => if x = y then f.infRes x else f.invalid
  | .inf x, _ => f.infRes x
  | _, .inf y => f.infRes y
  | .fin s1 m1 e1, .fin s2 m2 e2 =>
    let (s, m, e) := addFin rm s1 m1 e1 s2 m2 e2
    f.round rm s m e

/-- a · b. -/
def Fmt.mulV (f : Fmt) (rm : RMode) (a b : FV) : FRes :=
  match a, b with
  | .nan x, y => f.nanOf (x || y.snan)
  | _, .nan y => f.nanOf y
  | .inf x, .inf y => f.infRes (x != y)
  | .inf x, .fin y m _ => if m = 0 then f.invalid else f.infRes (x != y)
  | .fin x m _, .inf y => if m = 0 then f.invalid else f.infRes (x != y)
  | .fin s1 m1 e1, .fin s2 m2 e2 => f.round rm (s1 != s2) (m1 * m2) (e1 + e2)

/-- a · b + c, rounded once; infinity times zero is invalid whatever c is (08 R225). -/
def Fmt.fmaV (f : Fmt) (rm : RMode) (a b c : FV) : FRes :=
  let zeroInf := match a, b with
    | .inf _, .fin _ m _ => decide (m = 0)
    | .fin _ m _, .inf _ => decide (m = 0)
    | _, _ => false
  if zeroInf then f.invalid
  else if a.isNan || b.isNan || c.isNan then f.nanOf (a.snan || b.snan || c.snan)
  else match a, b, c with
    | .fin s1 m1 e1, .fin s2 m2 e2, .fin s3 m3 e3 =>
      let (s, m, e) := addFin rm (s1 != s2) (m1 * m2) (e1 + e2) s3 m3 e3
      f.round rm s m e
    | .fin _ _ _, .fin _ _ _, .inf z => f.infRes z
    | x, y, z =>
      let s := match x, y with
        | .inf p, .inf r => p != r
        | .inf p, .fin r _ _ => p != r
        | .fin p _ _, .inf r => p != r
        | _, _ => false
      match z with
      | .inf t => if t = s then f.infRes s else f.invalid
      | _ => f.infRes s

/-- a ÷ b. -/
def Fmt.divV (f : Fmt) (rm : RMode) (a b : FV) : FRes :=
  match a, b with
  | .nan x, y => f.nanOf (x || y.snan)
  | _, .nan y => f.nanOf y
  | .inf _, .inf _ => f.invalid
  | .inf x, .fin y _ _ => f.infRes (x != y)
  | .fin x _ _, .inf y => ⟨f.withSign (x != y) 0, {}, false⟩
  | .fin s1 m1 e1, .fin s2 m2 e2 =>
    if m2 = 0 then (if m1 = 0 then f.invalid else ⟨f.withSign (s1 != s2) f.infBits, { dz := true }, false⟩)
    else
      let sh := f.mb + 4 + m2.log2
      let n := m1 * 2 ^ sh
      f.round rm (s1 != s2) (n / m2) (e1 - e2 - sh) (decide (n % m2 ≠ 0))

/-- The bits of an integer square root, from bit `i` downwards. -/
def isqrtGo (n : Nat) : Nat → Nat → Nat
  | 0, r => r
  | i + 1, r => let r' := r + 2 ^ i; isqrtGo n i (if r' * r' ≤ n then r' else r)

/-- floor(√n). -/
def isqrt (n : Nat) : Nat := isqrtGo n (n.log2 / 2 + 1) 0

/-- √a. -/
def Fmt.sqrtV (f : Fmt) (rm : RMode) (a : FV) : FRes :=
  match a with
  | .nan x => f.nanOf x
  | .inf s => if s then f.invalid else f.infRes false
  | .fin s m e =>
    if m = 0 then ⟨f.withSign s 0, {}, false⟩ else if s then f.invalid
    else
      let sh := 2 * (f.mb + 3) + (if (e % 2) = 0 then 0 else 1)
      let n := m * 2 ^ sh
      let r := isqrt n
      f.round rm false r ((e - sh) / 2) (decide (r * r ≠ n))

/-- The order of two present values that are no NaN, with −0 below +0 (03 R84): a before b. -/
def FV.key : FV → FV → Bool
  | .inf s, .inf t => s && !t
  | .inf s, _ => s
  | _, .inf t => !t
  | .fin s1 m1 e1, .fin s2 m2 e2 =>
    let q := min e1 e2
    let x := scaled s1 m1 e1 q
    let y := scaled s2 m2 e2 q
    if x = y then (decide (x = 0) && s1 && !s2) else decide (x < y)
  | _, _ => false

/-- a < b in the IEEE order, no NaN: −0 equals +0. -/
def FV.lt (a b : FV) : Bool :=
  match a, b with
  | .fin _ 0 _, .fin _ 0 _ => false
  | _, _ => a.key b

def FV.eq (a b : FV) : Bool := !a.isNan && !b.isNan && !a.lt b && !b.lt a

/-- The smaller (or the larger) of two patterns (03 R84): a NaN operand gives the canonical NaN. -/
def Fmt.minmax (f : Fmt) (big : Bool) (a b : Nat) : FRes :=
  let x := f.decode a
  let y := f.decode b
  if x.isNan || y.isNan then f.nanOf (x.snan || y.snan)
  else ⟨if (if big then x.key y else y.key x) then b else a, {}, false⟩

/-- A present pattern delivered as the result of an identity: a NaN becomes the canonical NaN, without a flag (03 R83). -/
def Fmt.canon (f : Fmt) (x : Nat) : Nat := if (f.decode x).isNan then f.nan else x

/-- Round a value to an integer under RM: the integer and whether it is inexact. -/
def toIntRound (rm : RMode) (s : Bool) (m : Nat) (e : Int) : Int × Bool :=
  let (n, ix) := roundAt rm s m e false 0
  (if s then -(n : Int) else n, ix)

/-- An integer as a value. -/
def FV.ofInt (x : Int) : FV := .fin (decide (x < 0)) x.natAbs 0

/-- The pattern of a value in a wider or equal format, exactly. -/
def Fmt.exact (f : Fmt) (v : FV) : Nat :=
  match v with
  | .nan _ => f.nan
  | .inf s => f.withSign s f.infBits
  | .fin s m e => (f.round 1 s m e).bits

end Sys2Proof.Machine
end

