-- ==== Sys2Proof/Machine/Access.lean ====
section
/-! DEFINITION. Reaching the parts of the state by their numbers: groups, teams, contexts, partitions, cores, dies. -/

namespace Sys2Proof.Machine

/-- Look up a key in an association list. -/
def assocGet {α : Type} (d : α) : List (Nat × α) → Nat → α
  | [], _ => d
  | (k, v) :: l, n => if k = n then v else assocGet d l n

/-- Write a key of an association list. -/
def assocSet {α : Type} : List (Nat × α) → Nat → α → List (Nat × α)
  | [], n, x => [(n, x)]
  | (k, v) :: l, n, x => if k = n then (k, x) :: l else (k, v) :: assocSet l n x

def State.ctx (s : State) (n : Nat) : Context := assocGet {} s.ctxs n
def State.setCtx (s : State) (n : Nat) (c : Context) : State := { s with ctxs := assocSet s.ctxs n c }
def State.prt (s : State) (n : Nat) : Partition := assocGet {} s.parts n
def State.setPrt (s : State) (n : Nat) (p : Partition) : State := { s with parts := assocSet s.parts n p }
/-- The matrix unit of a core, numbered die · 32 + core. -/
def State.mat (s : State) (n : Nat) : MatrixUnit := assocGet {} s.mats n
def State.setMat (s : State) (n : Nat) (m : MatrixUnit) : State := { s with mats := assocSet s.mats n m }
def State.dieAt (s : State) (d : Nat) : Die := s.dies.getD d {}
def State.setDie (s : State) (d : Nat) (x : Die) : State := { s with dies := s.dies.set d x }

/-- Every group but the placeholder: the current one first. -/
def State.allGroups (s : State) : List Group := (s.g :: s.groups).filter fun x => x.id ≠ 0
def State.allTeams (s : State) : List Team := (s.t :: s.teams).filter fun x => x.id ≠ 0
def State.group? (s : State) (id : Nat) : Option Group := s.allGroups.find? fun x => x.id = id
def State.team? (s : State) (id : Nat) : Option Team := s.allTeams.find? fun x => x.id = id
def State.groupD (s : State) (id : Nat) : Group := (s.group? id).getD {}
def State.teamD (s : State) (id : Nat) : Team := (s.team? id).getD {}

/-- Replace a group by its identifier, wherever it stands. -/
def State.putGroup (s : State) (x : Group) : State :=
  if x.id = s.g.id then { s with g := x }
  else { s with groups := s.groups.map fun y => if y.id = x.id then x else y }
def State.putTeam (s : State) (x : Team) : State :=
  if x.id = s.t.id then { s with t := x }
  else { s with teams := s.teams.map fun y => if y.id = x.id then x else y }
def State.updGroup (s : State) (id : Nat) (f : Group → Group) : State :=
  match s.group? id with
  | some x => s.putGroup (f x)
  | none => s
def State.updTeam (s : State) (id : Nat) (f : Team → Team) : State :=
  match s.team? id with
  | some x => s.putTeam (f x)
  | none => s

/-- Make a team the current one. -/
def State.focusTeam (s : State) (id : Nat) : State :=
  if id = s.t.id then s else
  let all := s.allTeams
  match all.find? (fun x => x.id = id) with
  | some x => { s with t := x, teams := all.filter fun y => y.id ≠ id }
  | none => { s with t := {}, teams := all }

/-- Make a group, with its team, the current one; 0 or an unknown identifier leaves no current group. See log entry 5, DESIGN CHOICE. -/
def State.focus (s : State) (id : Nat) : State :=
  let s := if id = s.g.id then s else
    let all := (s.groups ++ [s.g]).filter fun x => x.id ≠ 0
    match all.find? (fun x => x.id = id) with
    | some x => { s with g := x, groups := all.filter fun y => y.id ≠ id }
    | none => { s with g := {}, groups := all }
  s.focusTeam s.g.team

/-- The dies of a partition (17 R409): first die and count. -/
def State.partDies (s : State) (p : Nat) : List Nat :=
  ((List.range s.partSize).map fun i => p * s.partSize + i).filter fun d => d < 8
def State.partOfDie (s : State) (d : Nat) : Nat := d / s.partSize
def State.nparts (s : State) : Nat := 8 / s.partSize

/-- A free number for one use; the counter moves on (log entry 10, DESIGN CHOICE). -/
def State.free (s : State) : Nat × State := (Config.freeNat s.fresh, { s with fresh := s.fresh + 1 })

def State.task? (s : State) (h : Word) : Option TaskRec := s.tasks.find? fun r => r.handle = h
def State.updTask (s : State) (h : Word) (f : TaskRec → TaskRec) : State :=
  { s with tasks := s.tasks.map fun r => if r.handle = h then f r else r }
def State.op? (s : State) (id : Nat) : Option EngOp := s.ops.find? fun o => o.id = id
def State.updOp (s : State) (id : Nat) (f : EngOp → EngOp) : State :=
  { s with ops := s.ops.map fun o => if o.id = id then f o else o }
def State.dropOp (s : State) (id : Nat) : State := { s with ops := s.ops.filter fun o => o.id ≠ id }

/-- The sector that a group of a team stands on, as a number of the whole package. -/
def Team.sectorNo (t : Team) (x : Group) : Nat := (t.die * 32 + t.core) * 8 + x.sector

/-- Whether a group still exists: neither ended nor given back. -/
def Group.alive (x : Group) : Bool := x.id ≠ 0 && x.run ≠ .ended
/-- Whether a group occupies a sector slot (16 R385). -/
def Group.resident (x : Group) : Bool :=
  match x.run with
  | .saved _ => false
  | .ended => false
  | .reclaimed => !x.offSlot && x.id ≠ 0
  | _ => x.id ≠ 0
/-- A group is off its sector, and its area holds its state (15 R369, R377). -/
def Group.offSector (x : Group) : Bool := match x.run with | .saved _ => true | .resuming _ => true | _ => false
/-- Whether a context has a user group placed or saved: a kernel of it runs (04 R103). -/
def State.kernelRuns (s : State) (p : Nat → Bool) : Bool :=
  s.allGroups.any fun x => x.alive && (let t := s.teamD x.team; p t.ctx && !t.priv)

/-- Remember an atomic by group `g` on global memory, for those that may be performed as if before it (04 R133): groups that have
taken a step since, and the group itself, are past it. -/
def State.noteAmo (s : State) (g pa : Nat) (before after : List Byte) : State :=
  let t := s.teamD (s.groupD g).team
  let new : AmoRec := { g := g, tm := t.id, die := t.die, part := (s.ctx t.ctx).part, pa := pa, before := before, after := after }
  let l := (s.amos ++ [new]).filter fun r => s.allGroups.any fun x => x.alive && x.id ≠ r.g && !r.seen.contains x.id
  if s.amos = [] ∧ l = [] then s else { s with amos := l }

/-- Groups that a step from `s` has moved, woken or placed are past the atomics made before (04 R114). -/
def State.seenSince (q s : State) : State :=
  if q.amos = [] then q else
  let moved := (q.allGroups.filter fun y => s.group? y.id ≠ some y).map fun y => y.id
  { q with amos := q.amos.map fun r => { r with seen := moved ++ r.seen.filter fun x => !moved.contains x } }

/-- Send an event to the host (18 R421). -/
def State.hostEvent (s : State) (kind part : Nat) (w : List Word) : State :=
  { s with toHost := s.toHost ++ [.event kind part w] }

/-- Send a message to another die. -/
def State.send (s : State) (src dst : Nat) (b : MsgBody) : State := { s with msgs := s.msgs ++ [⟨src, dst, b⟩] }

end Sys2Proof.Machine
end

