-- ==== Sys2Proof/Machine/Translate.lean ====
section
/-! DEFINITION. Virtual memory (17 R395 to R404, R413, R414) and the element checks of 10 R270. -/

namespace Sys2Proof.Machine

/-- Why an access is not performed: a trap cause of 15 R362 with its INFO and the translation caches as the walks of the access
have left them (17 R403), or a line that an engine owns and that the access must recall first (04 R126). -/
inductive Fail where
  | trap (cause : Byte) (info : Word) (tlb : List TlbEntry)
  | recall (line : Nat)
deriving DecidableEq, Repr

/-- What the walks of an access that is not performed have left. -/
def Fail.walks : Fail → Option (List TlbEntry)
  | .trap _ _ w => some w
  | .recall _ => none

/-- Who makes an access. -/
structure Agent where
  ctx : Nat
  priv : Bool
  die : Nat
  tm : Nat
  /-- The engine operation that makes it, 0 for a group. -/
  op : Nat := 0
  /-- The sector whose micro-TLB it translates through, if any (17 R404), and the leaves of the pages that the access has crossed:
  address, leaf and level. -/
  sec : Option Nat := none
  memo : List (Nat × Nat × Nat) := []
deriving DecidableEq, Repr

inductive AccKind where
  | load | store | atomic | fetch | engSrc | engDst
deriving DecidableEq, Repr

/-- Where an address leads (17 R399). -/
inductive Place where
  | hbm (pa : Nat) | ws (die off : Nat) | scr (off : Nat)
deriving DecidableEq, Repr

def AccKind.writes : AccKind → Bool
  | .store => true | .atomic => true | .engDst => true | _ => false

/-- Bytes of HBM of one die. -/
def dieHbm : Nat := 0x2000000000

/-- Whether a physical address lies in the HBM of a partition (17 R395, R410). -/
def State.paIn (s : State) (part pa : Nat) : Bool := (s.partDies part).contains (pa / dieHbm)

/-- The key pair of a slot, while it is loaded. -/
def State.keyPair (s : State) (k : Nat) : Option (BitVec 256 × BitVec 256) :=
  match assocGet KeySt.empty s.keys k with | .loaded _ a b => some (a, b) | _ => none

/-- A slot that a partition may use (17 R413). -/
def State.keyLoaded (s : State) (part k : Nat) : Bool :=
  match assocGet KeySt.empty s.keys k with | .loaded p _ _ => decide (p = part) | _ => false

/-- The key pair under which a block of 16 bytes is enciphered in memory, if it has been written back (17 R414). -/
def State.blockKey (s : State) (b : Nat) : Option (BitVec 256 × BitVec 256) :=
  (s.ekeys.find? fun x => decide (x.1 ≤ b) && decide (b < x.1 + x.2.1)).map fun x => x.2.2

/-- Blocks from `lo` are enciphered under a pair. -/
def State.setKeys (s : State) (lo n : Nat) (p : BitVec 256 × BitVec 256) : State :=
  { s with ekeys := (lo, n, p) :: s.ekeys.filter fun x => !(decide (lo ≤ x.1) && decide (x.1 + x.2.1 ≤ lo + n)) }

/-- Whether a block, deciphered under key slot `k`, reads as it was written (17 R414). -/
def State.deciphers (s : State) (k b : Nat) : Bool :=
  match s.blockKey b with | some p => decide (s.keyPair k = some p) | none => true

/-- Whether the bytes at a physical address, read under key slot `k`, are those of the memory: they stand in a line that an L2 holds
under that slot, or in memory under its pair (17 R414). -/
def State.legible (s : State) (k pa : Nat) : Bool :=
  match s.lkeys.find? fun x => x.1 = pa / 128 with
  | some (_, j) => decide (j = k)
  | none => s.deciphers k (pa / 16)

/-- A line is written back under key slot `k` (17 R414): a block that is still as it was deciphered keeps its cipher. -/
def State.writeBack (s : State) (line k : Nat) : State :=
  match s.keyPair k with
  | none => s
  | some p =>
    let kept := s.veils.filter fun v => decide (v.block / 8 = line) && decide (s.hbm.bytes (16 * v.block) 16 = v.seen)
    let q := s.setKeys (8 * line) 8 p
    kept.foldl (fun q v => match s.blockKey v.block with
      | some p => { q.setKeys v.block 1 p with hbm := q.hbm.store (16 * v.block) (v.held.take 16) }
      | none => q) { q with veils := s.veils.filter fun v => v.block / 8 ≠ line }

/-- A line leaves the caches: it is enciphered under the key index it was held with (17 R414). -/
def State.evict (s : State) (line : Nat) : State :=
  match s.lkeys.find? fun x => x.1 = line with
  | none => s
  | some (_, k) => { s.writeBack line k with lkeys := s.lkeys.filter fun x => x.1 ≠ line }

/-- A line comes into an L2 under key slot `k` (17 R414): a block written under another key reads as unspecified bytes. -/
def State.fill (s : State) (line k : Nat) : State :=
  if s.lkeys.any fun x => x.1 = line then s
  else
    let bad := ((List.range 8).map fun i => 8 * line + i).filter fun b => !s.deciphers k b
    let seen := fun (b : Nat) => (List.range 16).map fun i => (Config.freeBytes (s.fresh + b % 8)).getD i 0
    let q := { s with lkeys := (line, k) :: s.lkeys }
    if bad = [] then q
    else { q with
      fresh := s.fresh + 8, veils := bad.map (fun b => ⟨b, seen b, s.hbm.bytes (16 * b) 16⟩) ++ s.veils.filter fun v => v.block / 8 ≠ line,
      hbm := bad.foldl (fun m b => m.store (16 * b) (seen b)) s.hbm }

/-- A line is held under key slot `k`, if it can be: one that an L2 still holds under another slot cannot (17 R414). Whether it has
been written back by then is the device's choice. -/
def State.lineUnder (s : State) (line k : Nat) : Option State :=
  match s.lkeys.find? fun x => x.1 = line with
  | some (_, j) => if j = k then some s else
      let (n, s) := s.free
      if n % 2 = 0 then none else some ((s.evict line).fill line k)
  | none => some (s.fill line k)

/-- The lines of `n` bytes at a physical address. -/
def linesOf (pa n : Nat) : List Nat := (List.range ((pa + n + 127) / 128 - pa / 128)).map fun i => pa / 128 + i

/-- Fields of a page table entry (17 R397). -/
def pteV (e : Nat) : Bool := field e 0 1 = 1
def pteL (e : Nat) : Bool := field e 8 1 = 1
def pteBit (e i : Nat) : Bool := field e i 1 = 1
def pteSpace (e : Nat) : Nat := field e 9 2
def ptePfn (e : Nat) : Nat := field e 16 32
def pteKey (e : Nat) : Nat := field e 52 12

/-- Malformed entries (17 R398, R399). -/
def State.malformed (s : State) (part level e : Nat) : Bool :=
  field e 48 4 ≠ 0 || field e 11 5 ≠ 0 ||
  (pteL e && level = 0) || (!pteL e && level = 2) ||
  (if pteL e then
    (level = 1 && field (ptePfn e) 0 12 ≠ 0) || pteSpace e = 3 || (pteBit e 2 && !pteBit e 1) ||
    (match pteSpace e with
      | 0 => !s.paIn part (ptePfn e * 65536)
      | 1 => field (ptePfn e) 15 17 ≠ 0 || !(s.partDies part).contains (field (ptePfn e) 12 3) || pteKey e ≠ 0 || pteBit e 3
      | _ => level ≠ 2 || ptePfn e ≠ 0 || pteKey e ≠ 0 || pteBit e 3)
   else field e 1 7 ≠ 0 || pteSpace e ≠ 0 || pteKey e ≠ 0 || !s.paIn part (ptePfn e * 65536))

/-- Index of a level (17 R396). -/
def vaIndex (level va : Nat) : Nat := field va (40 - 12 * level) 12

/-- A table entry as a walk of a context reads it, under WKEY (17 R401): unspecified where it was enciphered under another key. -/
def State.readPte (s : State) (wkey at_ : Nat) : Nat :=
  if s.legible wkey at_ then s.hbm.num at_ 8 else (Config.freeWord at_).toNat

/-- The walk (17 R401): the leaf, its level, the physical address of its entry, and the table entries on its path. `stale` gives
the table entries that a walk cache supplies in place of memory (17 R404). -/
def State.walkFrom (s : State) (part wkey : Nat) (stale : Nat → Option Nat) (va : Nat) : Nat → Nat → Nat → Option (Nat × Nat × Nat × List Nat)
  | 0, _, _ => none
  | fuel + 1, level, pa =>
    let at_ := pa + 8 * vaIndex level va
    let e := (stale level).getD (s.readPte wkey at_)
    if !pteV e || s.malformed part level e then none
    else if pteL e then some (e, level, at_, [])
    else (s.walkFrom part wkey stale va fuel (level + 1) (ptePfn e * 65536)).map fun (l, k, a, p) => (l, k, a, e :: p)

/-- A walk from the root of a context, which lies in the memory of its partition or leads nowhere (17 R410), for an address whose bits
[63:52] are zero (R396). -/
def State.walkPath (s : State) (ctx : Nat) (stale : Nat → Option Nat) (va : Nat) : Option (Nat × Nat × Nat × List Nat) :=
  let c := s.ctx ctx
  let pa := c.root.toNat * 65536
  if s.paIn c.part pa && decide (va < 2 ^ 52) then s.walkFrom c.part c.wkey stale va 3 0 pa else none

/-- A walk that no cache takes part in: the leaf, its level and the address of its entry. -/
def State.walk (s : State) (ctx va : Nat) : Option (Nat × Nat × Nat) :=
  (s.walkPath ctx (fun _ => none) va).map fun (l, k, a, _) => (l, k, a)

/-- Address bits that lead to a table entry of a level. -/
def walkTag (level va : Nat) : Nat := va / 2 ^ (40 - 12 * level)

/-- The table entry that the walk cache of a die holds for an address (17 R404). -/
def State.cachedTable (s : State) (a : Agent) (va level : Nat) : Option Nat :=
  (s.wcache.find? fun x => x.die = a.die && x.ctx = a.ctx && x.level = level && x.tag = walkTag level va).map fun x => x.e.toNat

/-- A walk of an agent: each table entry comes from memory, or from the walk cache where that makes a difference and the choice is so. -/
def State.agentWalk (s : State) (a : Agent) (va : Nat) : Option (Nat × Nat × Nat × List Nat) × State :=
  let walk := fun (n : Nat) => s.walkPath a.ctx (fun l => if n / 2 ^ l % 2 = 0 then none else s.cachedTable a va l) va
  if ([0, 1].all fun l => s.cachedTable a va l = none) || [1, 2, 3].all fun n => decide (walk n = walk 0) then (walk 0, s)
  else
    let (n, s) := s.free
    (walk n, s)

/-- Another operation than `op` owns a line, and has asked for it before `op` (04 R126, R127). -/
def State.ownedBy (s : State) (op line : Nat) : Bool :=
  let asked := fun (o : EngOp) => match s.op? op with
    | some x => !x.lines.contains line || decide (o.rank < x.rank)
    | none => true
  s.ops.any fun o => o.id ≠ op && asked o && o.lines.contains line

/-- Physical addresses of the table entries that a walk reads in memory. -/
def State.walkReads (s : State) (part wkey va : Nat) : Nat → Nat → Nat → List Nat
  | 0, _, _ => []
  | fuel + 1, level, pa =>
    let at_ := pa + 8 * vaIndex level va
    let e := s.readPte wkey at_
    at_ :: (if !pteV e || s.malformed part level e || pteL e then [] else s.walkReads part wkey va fuel (level + 1) (ptePfn e * 65536))

/-- The line of a table entry that an engine operation owns, if the walk of an agent meets one: the walk waits for it (04 R126). The
walk cache is not looked at, for an entry that it holds may have left it. -/
def State.walkHeld (s : State) (a : Agent) (va : Nat) : Option Nat :=
  if s.ops.all fun o => o.lines = [] then none else
  let c := s.ctx a.ctx
  let pa := c.root.toNat * 65536
  if s.paIn c.part pa && decide (va < 2 ^ 52) then ((s.walkReads c.part c.wkey va 3 0 pa).map fun x => x / 128).find? (s.ownedBy a.op) else none

/-- A cached translation serves an address (17 R404): a micro-TLB holds leaves whole, the banked TLB slices of 64 KiB. -/
def TlbEntry.serves (e : TlbEntry) (va : Nat) : Bool :=
  if e.sec.isSome && e.level = 1 then decide (e.page / 4096 = va / 2 ^ 28) else decide (e.page = va / 65536)

/-- The cached leaves for an address that an agent may use (17 R404): its sector's and its die's; a G = 1 leaf serves its whole
partition. -/
def State.cached (s : State) (a : Agent) (va : Nat) : List TlbEntry :=
  s.tlb.filter fun e => e.die = a.die && (e.sec = none || e.sec = a.sec) && e.serves va &&
    (e.ctx = a.ctx || (pteBit e.leaf.toNat 5 && (s.ctx e.ctx).part = (s.ctx a.ctx).part))

/-- Permission of a leaf (17 R402, in check 3 of 10 R270). See log entry 20, DEDUCED. -/
def State.permits (s : State) (a : Agent) (k : AccKind) (leaf : Nat) : Bool :=
  let sp := pteSpace leaf
  let wsOpen := decide (sp ≠ 1) || (a.priv && !s.kernelRuns fun c => (s.ctx c).part = (s.ctx a.ctx).part)
  (a.priv || pteBit leaf 4) &&
  (match k with
    | .load => pteBit leaf 1
    | .engSrc => pteBit leaf 1
    | .store => pteBit leaf 2 && wsOpen
    | .engDst => pteBit leaf 2 && wsOpen
    | .atomic => pteBit leaf 1 && pteBit leaf 2 && decide (sp ≠ 1)
    | .fetch => pteBit leaf 3 && sp = 0) &&
  (sp ≠ 0 || s.keyLoaded (s.ctx a.ctx).part (pteKey leaf))

def causeAddress : Byte := 0x07
def causeMisaligned : Byte := 0x06
def causePage : Byte := 0x08
def causeAccess : Byte := 0x09
def causeData : Byte := 0x1A

/-- Use a leaf: A when it is cached, D on a first write (17 R403); the banked TLB, the sector's micro-TLB and the walk cache take
what the walk has read. -/
def State.useLeaf (s : State) (a : Agent) (k : AccKind) (va leaf level at_ : Nat) (path : List Nat) : State :=
  let leaf' := (leaf ||| 0x40) ||| (if k.writes then 0x80 else 0)
  let s := if leaf' = leaf then s else { s with hbm := s.hbm.store at_ (natLe 8 leaf') }
  let e : TlbEntry := { die := a.die, ctx := a.ctx, page := va / 65536, leaf := BitVec.ofNat 64 leaf', level := level, at_ := at_ }
  let mine := match a.sec with | none => [e] | k => [{ e with sec := k }, e]
  let tables := path.mapIdx fun l x => (⟨a.die, a.ctx, l, walkTag l va, BitVec.ofNat 64 x⟩ : WalkEntry)
  { s with
    tlb := mine ++ s.tlb.filter fun x => !(x.die = a.die && x.ctx = a.ctx && x.serves va && (x.sec = none || x.sec = a.sec))
    wcache := tables ++ s.wcache.filter fun x => !(tables.any fun y => x.die = y.die && x.ctx = y.ctx && x.level = y.level && x.tag = y.tag) }

/-- What the walks of an access that traps have left: the caches, and A and D of the leaves placed in them (17 R403). -/
def State.walked (s : State) : Option (List TlbEntry) → State
  | none => s
  | some l => { s with tlb := l, hbm := l.foldl (fun m e => if s.tlb.contains e then m else m.store e.at_ (natLe 8 e.leaf.toNat)) s.hbm }

/-- What the walks of accesses that passed their checks have left in `q`: the caches, A and D of the leaves, and the lines (17 R403, R414). -/
def State.walkedAs (s q : State) : State :=
  { s with tlb := q.tlb, wcache := q.wcache, hbm := q.hbm, lkeys := q.lkeys, ekeys := q.ekeys, veils := q.veils, fresh := q.fresh }

/-- The leaf of a page that the access of an agent has crossed already (17 R404). -/
def Agent.crossed (a : Agent) (va : Nat) : Option (Nat × Nat) :=
  (a.memo.find? fun x => if x.2.2 = 1 then decide (x.1 / 2 ^ 28 = va / 2 ^ 28) else decide (x.1 / 2 ^ 16 = va / 2 ^ 16)).map fun x => x.2

/-- An agent that translates through a micro-TLB keeps the leaf of a page for the rest of its access (17 R404). -/
def Agent.keep (a : Agent) (va leaf level : Nat) : Agent :=
  if a.sec.isNone || (a.crossed va).isSome then a else { a with memo := (va, leaf, level) :: a.memo }

/-- The leaf an access uses: that of a page it has crossed already, the walk's, or a stale cached one where the two differ and the choice
is so (17 R404, R408). A walk that meets a line of an engine operation waits for it (04 R126). The spec does not say whether a cached
leaf serves a context whose WKEY slot has been unloaded: the model faults every access of it (log entry 38, DESIGN CHOICE). -/
def State.leafFor (s : State) (a : Agent) (k : AccKind) (va : Nat) : Except Fail (Nat × Nat × State) :=
  match a.crossed va with
  | some (leaf, level) => if s.permits a k leaf then .ok (leaf, level, s) else .error (.trap causeAccess 0 s.tlb)
  | none =>
  if !s.keyLoaded (s.ctx a.ctx).part (s.ctx a.ctx).wkey then .error (.trap causeAccess 0 s.tlb) else
  let (w, s) := s.agentWalk a va
  let fresh : Except Fail (Nat × Nat × State) := match s.walkHeld a va with
    | some line => .error (.recall line)
    | none => match w with
    | none => .error (.trap causePage 0 s.tlb)
    | some (leaf, level, at_, path) =>
      if s.permits a k leaf then .ok (leaf, level, s.useLeaf a k va leaf level at_ path) else .error (.trap causeAccess 0 s.tlb)
  let other := (s.cached a va).filter fun e => match w with
    | some (leaf, level, _) => !(decide (leaf = e.leaf.toNat) && decide (level = e.level))
    | none => true
  if other = [] then fresh
  else
    let (n, s') := s.free
    match other[n % (other.length + 1)]? with
    | none => fresh
    | some e =>
      if k.writes && !pteBit e.leaf.toNat 7 then fresh
      else if s.permits a k e.leaf.toNat then .ok (e.leaf.toNat, e.level, s') else .error (.trap causeAccess 0 s.tlb)

/-- Offset of an address in the page of a leaf at a level. -/
def pageOff (level va : Nat) : Nat := if level = 1 then va % 0x10000000 else va % 65536

/-- Byte address of a place in the weight stores. -/
def wsAddr (die off : Nat) : Nat := die * 0x10000000 + off

/-- An access of a weight store or of scratch, unless it meets poisoned data (18 R424), which is kept by words of `unit` bytes;
a write of every byte of such a word is none. -/
def State.cleanAt (s : State) (l : List (Nat × Word)) (unit o size : Nat) (k : AccKind) (p : Place) : Except Fail (Place × State) :=
  let whole := fun (x : Nat) => k.writes && decide (k ≠ .atomic) && decide (o ≤ x * unit) && decide (x * unit + unit ≤ o + size)
  match l.find? fun x => decide (x.1 * unit < o + size) && decide (o < x.1 * unit + unit) && !whole x.1 with
  | some (_, r) => .error (.trap causeData r s.tlb)
  | none => .ok (p, s)

/-- Poison that is left after a write of `n` bytes (18 R424). -/
def unpoison (l : List (Nat × Word)) (unit o n : Nat) : List (Nat × Word) :=
  l.filter fun x => !(decide (o ≤ x.1 * unit) && decide (x.1 * unit + unit ≤ o + n))

/-- A line of global memory that an access reaches under a key slot: held there, owned by no engine operation (04 R126) but the one that
makes the access or, of operations that have asked for the line, one that did so after it (R127), and not poisoned (18 R424). -/
def State.placeLine (s : State) (a : Agent) (k : AccKind) (pa size key : Nat) : Except Fail (Place × State) :=
  let line := pa / 128
  match s.lineUnder line key with
  | none => .error (.trap causeAccess 0 s.tlb)
  | some s =>
    if s.ownedBy a.op line then .error (.recall line) else
    match s.poison.find? (fun x => x.1 = line) with
      | some (_, r) => if k = .store ∧ size = 128 then .ok (.hbm pa, s) else .error (.trap causeData r s.tlb)
      | none => .ok (.hbm pa, s)

/-- Checks 4 and 5 of 10 R270 for an access through a leaf; what check 5 says of the weight-store aperture stands in 17 R402, and is
checked with the permission. R119 and R270 name stores and atomics to a pivot word; the model refuses an engine destination there too
(log entry 23, DEDUCED). See log entry 9, DESIGN CHOICE. See log entry 52, DEDUCED. -/
def State.placeLeaf (s : State) (a : Agent) (k : AccKind) (va size leaf level : Nat) : Except Fail (Place × State) :=
  match pteSpace leaf with
  | 0 =>
    let pa := ptePfn leaf * 65536 + pageOff level va
    if k.writes && s.pivots.any (fun p => decide (p < pa + size) && decide (pa < p + 8)) then .error (.trap causeAccess 0 s.tlb)
    else s.placeLine a k pa size (pteKey leaf)
  | 1 =>
    let off := field (ptePfn leaf) 0 12 * 65536 + pageOff level va
    s.cleanAt s.wpoison 32 (wsAddr (field (ptePfn leaf) 12 3) off) size k (.ws (field (ptePfn leaf) 12 3) off)
  | _ =>
    let off := va % 0x80000
    if off ≥ (s.teamD a.tm).scrsz then .error (.trap causeAccess 0 s.tlb) else s.cleanAt (s.teamD a.tm).spoison 4 off size k (.scr off)

/-- Checks 1 to 5 of 10 R270 for an access of `size` bytes, aligned to `align`: the place it reaches, and the agent as it has crossed the
page. `late` puts the check of the alignment after translation and permission, as 08 R218 states it for `ld`, `ldu` and `st`. -/
def State.placeVia (s : State) (a : Agent) (k : AccKind) (va : Word) (size align : Nat) (late : Bool := false) : Except Fail (Place × State × Agent) :=
  if va.toNat ≥ 2 ^ 52 then .error (.trap causeAddress 0 s.tlb)
  else if !late && decide (va.toNat % align ≠ 0) then .error (.trap causeMisaligned 0 s.tlb)
  else
    match s.leafFor a k va.toNat with
    | .error e => .error e
    | .ok (leaf, level, s) =>
      if va.toNat % align ≠ 0 then .error (.trap causeMisaligned 0 s.tlb) else
      match s.placeLeaf a k va.toNat size leaf level with
      | .error e => .error e
      | .ok (p, s) => .ok (p, s, a.keep va.toNat leaf level)

/-- The place that one access reaches, by the same checks. -/
def State.place (s : State) (a : Agent) (k : AccKind) (va : Word) (size align : Nat) (late : Bool := false) : Except Fail (Place × State) :=
  (s.placeVia a k va size align late).map fun (p, s, _) => (p, s)

/-- The bytes at a place. -/
def State.readPlace (s : State) (tm : Nat) (p : Place) (n : Nat) : List Byte :=
  match p with
  | .hbm pa => s.hbm.bytes pa n
  | .ws d o => s.wstore.bytes (wsAddr d o) n
  | .scr o => (s.teamD tm).scratch.bytes o n

/-- Tiles of scratch that a write of `n` bytes at offset `o` touches. -/
def tilesOf (o n : Nat) : List Nat := if (o + n - 1) / 4096 = o / 4096 then [o / 4096] else [o / 4096, (o + n - 1) / 4096]

/-- An operation has written in a tile of scratch. -/
def EngOp.touches (o : EngOp) (t : Nat) : Bool := o.writes.any fun w => (tilesOf w.1 w.2.length).contains t

/-- A write of scratch tiles by an engine operation, or by a group (0), as the other operations of the team meet it (05 R145). -/
def State.noteTiles (s : State) (tm op : Nat) (ts : List Nat) : State :=
  if s.ops = [] then s else
  { s with ops := s.ops.map fun o => if o.id ≠ op ∧ o.tm = tm then { o with mixed := ts.filter o.touches ++ o.mixed } else o }

/-- Bytes of the words that an operation has kept back, without those of a range, which it writes anew. -/
def dropLate (l : List (Nat × List (Option Byte))) (o n : Nat) : List (Nat × List (Option Byte)) :=
  (l.map fun w => (w.1, w.2.mapIdx fun i b => if o ≤ 4 * w.1 + i ∧ 4 * w.1 + i < o + n then none else b)).filter fun w => w.2.any Option.isSome

/-- An operation keeps what it has written in scratch. -/
def State.noteOwn (s : State) (op o : Nat) (bs : List Byte) : State :=
  if op = 0 then s else s.updOp op fun x => { x with writes := (o, bs) :: x.writes, late := dropLate x.late o bs.length }

/-- Store the bytes of a run that no listed range holds. -/
def storeBeside (m : Memory) (laid : List (Nat × Nat)) (pa : Nat) (bs : List Byte) : Memory :=
  if laid = [] then m.store pa bs
  else (bs.mapIdx fun i b => (pa + i, b)).foldl (fun m x => if laid.any fun r => decide (r.1 ≤ x.1) && decide (x.1 < r.1 + r.2) then m else m.write x.1 x.2) m

/-- Write bytes to a place; a write to scratch clears the zero flags of the tiles it touches (05 R145). What the device has written in a
line of the operation stands after the operation's own write (04 R126). -/
def State.writePlaceBy (s : State) (op tm : Nat) (p : Place) (bs : List Byte) : State :=
  match p with
  | .hbm pa => { s with hbm := storeBeside s.hbm (if op = 0 then [] else ((s.op? op).map EngOp.laid).getD []) pa bs }
  | .ws d o => { s with wstore := s.wstore.store (wsAddr d o) bs, wpoison := unpoison s.wpoison 32 (wsAddr d o) bs.length }
  | .scr o =>
    let ts := tilesOf o bs.length
    (s.updTeam tm fun t => { t with
      scratch := t.scratch.store o bs, spoison := unpoison t.spoison 4 o bs.length, zclear := ts ++ t.zclear.filter fun z => !ts.contains z }).noteTiles tm op ts |>.noteOwn op o bs
def State.writePlace (s : State) (tm : Nat) (p : Place) (bs : List Byte) : State := s.writePlaceBy 0 tm p bs

/-- Read `size` bytes at a virtual address as one access. -/
def State.readVA (s : State) (a : Agent) (k : AccKind) (va : Word) (size : Nat) (late : Bool := false) : Except Fail (List Byte × State) :=
  match s.place a k va size size late with
  | .error e => .error e
  | .ok (p, s) => .ok (s.readPlace a.tm p size, s)

/-- The same as one element of a vector access, with the agent as it has crossed the page (17 R404). -/
def State.readVia (s : State) (a : Agent) (k : AccKind) (va : Word) (size : Nat) : Except Fail (List Byte × State × Agent) :=
  match s.placeVia a k va size size with
  | .error e => .error e
  | .ok (p, s, a) => .ok (s.readPlace a.tm p size, s, a)

/-- Write bytes at a virtual address as one access. -/
def State.writeVA (s : State) (a : Agent) (k : AccKind) (va : Word) (bs : List Byte) (late : Bool := false) : Except Fail State :=
  match s.place a k va bs.length bs.length late with
  | .error e => .error e
  | .ok (p, s) => .ok (s.writePlace a.tm p bs)

/-- Read `n` aligned 8-byte words from a record. -/
def State.readWords (s : State) (a : Agent) (k : AccKind) (va : Word) : Nat → Except Fail (List Word × State)
  | 0 => .ok ([], s)
  | n + 1 =>
    match s.readVA a k va 8 with
    | .error e => .error e
    | .ok (bs, s) => match s.readWords a k (va + 8) n with
      | .error e => .error e
      | .ok (ws, s) => .ok (BitVec.ofNat 64 (leNat bs) :: ws, s)

/-- The agent that the current group is: through its sector's micro-TLB, or, for scatters, `vamo` and `vwait`, through the banked
TLB alone (17 R404). -/
def State.agent (s : State) : Agent := { ctx := s.t.ctx, priv := s.t.priv, die := s.t.die, tm := s.t.id, sec := some (s.t.sectorNo s.g) }
def State.bankAgent (s : State) : Agent := { s.agent with sec := none }

/-- The device reads and writes the areas that it keeps for itself (save areas, overflow blocks, tables, the error log) as an
agent of the supervisor, with the checks of a walk and of a leaf (17 R401, R402, R413), and caches no translation. See log
entry 39, DEDUCED. -/
def State.devLeaf (s : State) (ctx : Nat) (write : Bool) (va : Nat) : Option (Nat × Nat × Nat) :=
  let part := (s.ctx ctx).part
  if !s.keyLoaded part (s.ctx ctx).wkey then none else
  match s.walk ctx va with
  | some (leaf, level, at_) =>
    if pteSpace leaf = 0 ∧ pteBit leaf (if write then 2 else 1) = true ∧ s.keyLoaded part (pteKey leaf) = true then some (leaf, level, at_) else none
  | none => none

/-- A device read of an area: no fault is reported, and a byte that does not translate reads 0. -/
def State.devRead (s : State) (ctx : Nat) (va : Word) (n : Nat) : List Byte :=
  (List.range n).map fun i => match s.devLeaf ctx false (va.toNat + i) with
    | some (leaf, level, _) =>
      let pa := ptePfn leaf * 65536 + pageOff level (va.toNat + i)
      if s.legible (pteKey leaf) pa then s.hbm.read pa else (Config.freeBytes pa).headD 0
    | none => 0

def State.devWord (s : State) (ctx : Nat) (va : Word) : Word :=
  BitVec.ofNat 64 (leNat (s.devRead ctx va 8))

/-- Physical address of an address that the device may write in a context. -/
def State.devPa (s : State) (ctx : Nat) (va : Word) : Option Nat :=
  (s.devLeaf ctx true va.toNat).map fun (leaf, level, _) => ptePfn leaf * 65536 + pageOff level va.toNat

/-- The lines of a range as a device write leaves them, and A and D of the leaf set (17 R403). -/
def State.devUse (s : State) (pa n leaf at_ : Nat) : State :=
  let s := (linesOf pa n).foldl (fun s l => if s.lkeys.any (fun x => x.1 = l && x.2 ≠ pteKey leaf) then (s.evict l).fill l (pteKey leaf) else s.fill l (pteKey leaf)) s
  if leaf ||| 0xC0 = leaf then s else { s with hbm := s.hbm.store at_ (natLe 8 (leaf ||| 0xC0)) }

/-- The device writes `n` bytes at a physical address: in the lines that an engine operation owns they stand after what it has still to
write there (04 R126). -/
def State.noteLaid (s : State) (pa n : Nat) : State :=
  let here := fun (o : EngOp) => o.lines.any fun l => decide (128 * l < pa + n) && decide (pa < 128 * l + 128)
  if s.ops.any here then { s with ops := s.ops.map fun o => if here o then { o with laid := (pa, n) :: o.laid } else o } else s

/-- Write a run of bytes that lies in one page; where it does not translate, nothing is written. -/
def State.devPut (s : State) (ctx : Nat) (va : Word) (bs : List Byte) : State :=
  match s.devLeaf ctx true va.toNat with
  | some (leaf, level, at_) =>
    let pa := ptePfn leaf * 65536 + pageOff level va.toNat
    let s := (s.devUse pa bs.length leaf at_).noteLaid pa bs.length
    { s with hbm := s.hbm.store pa bs }
  | none => s

/-- A device write of at most 64 KiB, in the pages that it touches. -/
def State.devWrite (s : State) (ctx : Nat) (va : Word) (bs : List Byte) : State :=
  let k := 65536 - va.toNat % 65536
  if bs.length ≤ k then s.devPut ctx va bs else (s.devPut ctx va (bs.take k)).devPut ctx (va + BitVec.ofNat 64 k) (bs.drop k)

/-- A line that an engine operation owns among those that the device reads: it waits for the recall (04 R126). Its translation it takes as
it stands, as from a walk before (log entry 39, DEDUCED). -/
def State.devHeld (s : State) (ctx : Nat) (va : Word) (n : Nat) : Option Nat :=
  if s.ops.all fun o => o.lines = [] then none else
  (List.range (n / 65536 + 2)).findSome? fun i =>
    let lo := if i = 0 then va.toNat else (va.toNat / 65536 + i) * 65536
    let hi := min (va.toNat + n) ((va.toNat / 65536 + i + 1) * 65536)
    if hi ≤ lo then none else
    match s.devLeaf ctx false lo with
    | some (leaf, level, _) =>
      let pa := ptePfn leaf * 65536 + pageOff level lo
      (s.ops.flatMap fun o => o.lines).find? fun l => decide (128 * l < pa + (hi - lo)) && decide (pa < 128 * l + 128)
    | none => none

/-- Clear pages of 64 KiB, which are enciphered under the keys of their leaves (17 R414): what the L2s held of them is gone. -/
def State.devClear (s : State) (ctx : Nat) (va : Word) : Nat → State
  | 0 => s
  | n + 1 => match s.devLeaf ctx true va.toNat with
    | some (leaf, level, at_) =>
      let pa := ptePfn leaf * 65536 + pageOff level va.toNat
      let s := if leaf ||| 0xC0 = leaf then s else { s with hbm := s.hbm.store at_ (natLe 8 (leaf ||| 0xC0)) }
      let s := match s.keyPair (pteKey leaf) with | some p => s.setKeys (pa / 16) 4096 p | none => s
      State.devClear { s with
        hbm := s.hbm.clear pa 65536, lkeys := s.lkeys.filter (fun x => x.1 / 512 ≠ pa / 65536),
        veils := s.veils.filter fun v => v.block / 4096 ≠ pa / 65536 } ctx (va + 65536) n
    | none => State.devClear s ctx (va + 65536) n

end Sys2Proof.Machine
end

