-- ==== Sys2Proof/Machine/Store.lean ====
section
/-! DEFINITION. The task stores: handles, generations, references, weight and candidates (06 R165 to R181, 16 R383). -/

namespace Sys2Proof.Machine

/-- Fields of a handle (06 R165). -/
def hGen (h : Word) : Nat := field h.toNat 38 24
def hHome (h : Word) : Nat := field h.toNat 35 3
def hSlot (h : Word) : Nat := field h.toNat 19 16
def mkHandle (gen home slot : Nat) : Word := BitVec.ofNat 64 (gen * 2 ^ 38 + home * 2 ^ 35 + slot * 2 ^ 19)

/-- A grid whose record was lost with its die (16 R393): the shares of other dies, which have had its record, run on without it (log entry
43, DEDUCED). It takes no slot. -/
def TaskRec.remnant (r : TaskRec) : Bool := r.orphan && r.grid.isSome

/-- Records in the store of a die: those at home there and those that stand there (16 R394). -/
def State.storeCount (s : State) (d : Nat) : Nat :=
  (s.tasks.filter fun r => decide (hHome r.handle = d) && !r.remnant).length +
  (s.tasks.filter fun r => decide (r.die = d) && decide (hHome r.handle ≠ d) && decide (r.st ≠ .lost)).length
def State.storeFull (s : State) (d : Nat) : Bool := s.storeCount d ≥ 65536

/-- A handle is current (06 R166). -/
def State.current (s : State) (h : Word) : Bool :=
  decide (assocGet 1 (s.dieAt (hHome h)).gens (hSlot h) = hGen h) && (s.task? h).isSome

/-- The lowest slot of a die that holds no record. -/
def State.freeSlotFrom (s : State) (d : Nat) : Nat → Nat → Nat
  | 0, k => k
  | fuel + 1, k => if s.tasks.any (fun r => decide (hHome r.handle = d) && decide (hSlot r.handle = k) && !r.remnant) then s.freeSlotFrom d fuel (k + 1) else k

/-- A fresh handle of a die (06 R165, R166): the spec does not say which free slot a record takes, and the model takes the lowest (log
entry 61, DESIGN CHOICE). -/
def State.newHandle (s : State) (d : Nat) : Word :=
  let slot := s.freeSlotFrom d s.tasks.length 0
  mkHandle (assocGet 1 (s.dieAt d).gens slot) d slot

/-- Free a record: its slot's generation advances (06 R166), from 2^24 − 1 to 1. -/
def State.freeRecord (s : State) (h : Word) : State :=
  let d := s.dieAt (hHome h)
  let g := assocGet 1 d.gens (hSlot h)
  let s := s.setDie (hHome h) { d with gens := assocSet d.gens (hSlot h) (if g = 2 ^ 24 - 1 then 1 else g + 1) }
  { s with tasks := s.tasks.filter fun r => r.handle ≠ h }

/-- Call for a decision on a die (16 R386). -/
def State.call (s : State) (d : Nat) : State := if s.due.contains d then s else { s with due := d :: s.due }

/-- A new candidate of a die, which calls for a decision (16 R383, R386). -/
def State.addCand (s : State) (d : Nat) (k : CandKind) (pri : Nat) : State :=
  let x := s.dieAt d
  (s.setDie d { x with cands := x.cands ++ [{ kind := k, pri := pri }] }).call d

def State.dropCand (s : State) (d : Nat) (p : CandKind → Bool) : State :=
  let x := s.dieAt d
  s.setDie d { x with cands := x.cands.filter fun c => !p c.kind }

def State.updGraph (s : State) (root : Word) (f : Graph → Graph) : State :=
  { s with graphs := s.graphs.map fun x => if x.root = root then f x else x }
def State.graph? (s : State) (root : Word) : Option Graph := s.graphs.find? fun x => x.root = root

/-- An action on a record waits where it stands (06 R179, 16 R394): later ones wait behind it. -/
def State.refWaits (s : State) (r : TaskRec) : Bool :=
  decide (r.st = .transit) ||
  s.msgs.any fun m => match m.body with | .refAct h _ => decide (h = r.handle) | .rpt h _ _ => decide (h = r.handle) | _ => false

/-- One reference fewer to the root on the host's side, and the completion event, once POOL is 2^63 (06 R181). The
host's hold counts in CONS of the record: on one in transit the action waits (R179). -/
def State.graphDone (s : State) (root : Word) : State :=
  match s.graph? root with
  | some x =>
    if x.pool = 2 ^ 63 then
      let s := s.hostEvent 1 (s.partOfDie x.die) [root, x.result, if x.reclaimed then 1 else 0]
      let s := { s with graphs := s.graphs.filter fun y => y.root ≠ root }
      if x.host then
        match s.task? root with
        | some r =>
          if s.refWaits r then s.send (hHome root) (hHome root) (.refAct root (-1))
          else if r.cons ≤ 1 ∧ r.st = .finished then s.freeRecord root else s.updTask root fun r => { r with cons := r.cons - 1 }
        | none => s
      else s
    else s
  | none => s

/-- Weight sets out for the root's die (06 R181); WEIGHT_RETURN adds it to POOL. -/
def State.returnWeight (s : State) (root : Word) (w : Nat) : State :=
  if w = 0 then s else s.send (hHome root) (hHome root) (.weight root w)
/-- Weight arrives at POOL as one addition (06 R181). -/
def State.addWeight (s : State) (root : Word) (w : Nat) : State :=
  (s.updGraph root fun x => { x with pool := x.pool + w }).graphDone root

/-- A refill (06 R180): the weight after it, or none where POOL is too small. -/
def State.refill (s : State) (root : Word) (w : Nat) : Option (Nat × State) :=
  if w ≥ 2 then some (w, s)
  else match s.graph? root with
    | some x => if x.pool ≥ 2 ^ 32 then some (w + 2 ^ 32, s.updGraph root fun x => { x with pool := x.pool - 2 ^ 32 }) else none
    | none => none

/-- A grid that no tile team has started leaves every walker (06 R172, R185). -/
def State.dropGrid (s : State) (h : Word) : State :=
  let f := fun (d : Die) => { d with cands := d.cands.filter fun c => c.kind ≠ .walker h, walks := d.walks.filter fun w => w.grid ≠ h }
  { s with dies := s.dies.map f, msgs := s.msgs.filter fun m => m.body ≠ .grid h }

/-- Drop one reference to a record (06 R169, R172): CONS − 1, and what follows when it reaches 0. The references that a
freed ready record held are returned for the caller to drop in turn. -/
def State.applyDrop (s : State) (h : Word) : List Word × State :=
  match s.task? h with
  | none => ([], s)
  | some r =>
    if r.orphan || r.st = .lost then ([], s)
    else
      let n := r.cons - 1
      let s := s.updTask h fun r => { r with cons := n }
      if n ≠ 0 then ([], s)
      else match r.st with
        | .finished => ([], s.freeRecord h)
        | .ready =>
          if r.pin then ([], s) else
          let passed := ((List.range 8).filter fun k => r.hmask.getLsbD k).map fun k => r.args.getD k 0
          let s := if r.grid.isSome then s.dropGrid h else s.dropCand r.die fun k => decide (k = .task h)
          let s := (s.freeRecord h).updGraph h fun x => { x with reclaimed := true }
          (passed, s.returnWeight r.root r.weight)
        | .running =>
          if r.pin then ([], s) else
          let s := (s.updTask h fun r => { r with st := .reclaiming }).updGraph h fun x => { x with reclaimed := true }
          match r.team with
          | some tm => ([], s.updTeam tm fun t => { t with stopping := true })
          | none =>
            -- a grid: no further tile is launched, and its running tiles stop (06 R185)
            let stopT := fun (t : Team) => match t.kind with
              | .tile q _ => if q = h then { t with stopping := true } else t
              | _ => t
            let stopD := fun (d : Die) => { d with
              cands := d.cands.filter fun c => c.kind ≠ .walker h
              walks := d.walks.map fun w => if w.grid = h then { w with todo := [] } else w }
            let s := { s with teams := s.teams.map stopT, t := stopT s.t, dies := s.dies.map stopD }
            ([], s)
        | _ => ([], s)

/-- Drop one reference, at the die where the record stands (06 R169, R179); where it waits, its home has it already, and no reset of the die that
the record leaves takes it away. -/
def State.dropOne (s : State) (h : Word) : List Word × State :=
  match s.task? h with
  | none => ([], s)
  | some r => if s.refWaits r then ([], s.send (hHome h) (hHome h) (.refAct h (-1))) else s.applyDrop h

/-- Drop references in list order, with those that fall free on the way. -/
def State.dropAll : Nat → State → List Word → State
  | 0, s, _ => s
  | _, s, [] => s
  | fuel + 1, s, h :: hs =>
    let (more, s) := s.dropOne h
    State.dropAll fuel s (hs ++ more)

/-- Every record can fall free once, so this much fuel drops any list of references to the end. -/
def State.dropRefs (s : State) (hs : List Word) : State := State.dropAll (hs.length + 8 * s.tasks.length + 8) s hs

/-- Overflow blocks that n owned references need (06 R168). -/
def ovfBlocks (n : Nat) : Nat := (n - 16 + 13) / 14

/-- An owned-reference entry (06 R168). -/
def refEntry (h : Word) : Nat := 2 ^ 31 + hHome h * 2 ^ 16 + hSlot h

/-- Overflow blocks in use of a context's pool. -/
def State.ovfUsed (s : State) (c : Nat) : List Word := (s.allTeams.filter fun t => t.ctx = c).flatMap fun t => t.ovf

/-- The bytes of one overflow block: entries 0 to 13, then the next block's address. -/
def ovfImage (rs : List Word) (next : Word) : List Byte :=
  ((List.range 14).flatMap fun i => natLe 4 (match rs[i]? with | some h => refEntry h | none => 0)) ++ natLe 8 next.toNat

def State.writeOvf (s : State) (c : Nat) : List Word → List Word → State
  | [], _ => s
  | b :: bs, rs => State.writeOvf (s.devWrite c b (ovfImage (rs.take 14) (bs.headD 0))) c bs (rs.drop 14)

/-- Give the current team a new owned list, taking or returning overflow blocks: the lowest free ones, and the entries left after a drop
close up in order (log entry 61, DESIGN CHOICE); none where the limit of 1,024 or the
pool stands in the way (06 R170). -/
def State.setOwned (s : State) (rs : List Word) : Option State :=
  let need := ovfBlocks rs.length
  let have_ := s.t.ovf.length
  if rs.length > 1024 then none
  else
    let c := s.ctx s.t.ctx
    let used := s.ovfUsed s.t.ctx
    let spare := ((List.range c.srefn).map fun i => c.srefp + BitVec.ofNat 64 (64 * i)).filter fun b => !used.contains b
    let take := spare.take (need - have_)
    if have_ + take.length < need then none
    else
      let blocks := (s.t.ovf ++ take).take need
      let s := { s with t := { s.t with owned := rs, ovf := blocks } }
      some (State.writeOvf s s.t.ctx blocks (rs.drop 16))

/-- Create a record in state ready, as a candidate of its die (06 R172, R173). -/
def State.newRecord (s : State) (r : TaskRec) : State :=
  ({ s with tasks := s.tasks ++ [{ r with loc := r.die }] }).addCand r.die (.task r.handle) r.pri

/-- The word `k` of a record (06 R167), with the team that runs it. R167 gives words 1 to 8 for ready, running and finished alone: the
model shows the owned entries of a record that is being reclaimed, and of one in transit what it held before it left
(log entry 61, DESIGN CHOICE). -/
def State.recWord (s : State) (r : TaskRec) (k : Nat) : Word :=
  let own := match r.team with | some tm => (s.teamD tm).owned | none => []
  let ent := fun i => match own[i]? with | some h => refEntry h | none => 0
  match k with
  | 0 => r.entry
  | 9 => BitVec.ofNat 64 r.weight
  | 10 => r.parent
  | 11 => BitVec.ofNat 64 (hGen r.handle * 2 ^ 32 + r.cons)
  | 12 =>
    let st := match r.st with | .ready => 1 | .running => 2 | .finished => 3 | .reclaiming => 4 | .transit => 5 | .lost => 0
    BitVec.ofNat 64 (st * 2 ^ 61 + r.pri * 2 ^ 58 + r.ecls * 2 ^ 55 + (if r.pin then 2 ^ 54 else 0) +
      (if r.grid.isSome then 2 ^ 53 else 0) + (min own.length 16) * 2 ^ 48 + r.hmask.toNat * 2 ^ 40)
  | 13 => match r.team with | some tm => (s.teamD tm).ovf.headD 0 | none => 0
  | 14 => r.root
  | 15 => match s.graph? r.handle with | some g => BitVec.ofNat 64 g.pool | none => 0
  | k => match r.st with
    | .ready => r.args.getD (k - 1) 0
    | .transit => if k = 1 ∧ r.args = [] then r.result else r.args.getD (k - 1) 0
    | .finished => if k = 1 then r.result else 0
    | _ => BitVec.ofNat 64 (ent (2 * (k - 1)) + 2 ^ 32 * ent (2 * (k - 1) + 1))

end Sys2Proof.Machine
end

