-- ==== Sys2Proof/Machine/Save.lean ====
section
/-! DEFINITION. The save area of a group (15 R369 to R374): its image as words by offset, and the write of it. -/

namespace Sys2Proof.Machine

def w64 (n : Nat) : Word := BitVec.ofNat 64 n
def b2n (b : Bool) : Nat := if b then 1 else 0

/-- The sticky bits as bits 2 to 8 of `vcs` (02 R62). -/
def Sticky.bits (f : Sticky) : Nat :=
  b2n f.nx * 4 + b2n f.uf * 8 + b2n f.of * 16 + b2n f.dz * 32 + b2n f.nv * 64 + b2n f.abs * 128 + b2n f.csat * 256

def Sticky.ofBits (x : Nat) : Sticky :=
  ⟨field x 8 1 = 1, field x 7 1 = 1, field x 6 1 = 1, field x 5 1 = 1, field x 4 1 = 1, field x 3 1 = 1, field x 2 1 = 1⟩

/-- `vcs` as it reads (02 R62): VONZ follows `vo`. -/
def Group.vcs (g : Group) : Word := w64 (g.rm.toNat + g.sticky.bits + b2n (g.vo ≠ 0) * 512)

/-- `migr` as it reads. -/
def Group.migr (g : Group) : Word := w64 (b2n g.lfree * 2 + b2n g.req)

/-- `gid` as it reads (02 R62). -/
def gidOf (t : Team) (g : Group) : Word := w64 (t.die * 2 ^ 24 + g.role.toNat * 2 ^ 16 + t.slot.toNat * 2 ^ 8 + g.num.toNat)

/-- `chdonek` as it reads. -/
def Team.chdone (t : Team) (k : Nat) : Word := w64 (Bank.get {} t.chans k).done.toNat

/-- `vcp` (01 R26): the oldest entry of the VIQ, else the next instruction. -/
def Group.vcp (g : Group) : Word :=
  match g.viq with
  | e :: _ => e.addr
  | [] => match g.pfx with
    | (a, _) :: _ => a
    | [] => g.pc

def Team.handle (t : Team) : Word := match t.kind with | .task h => h | _ => 0

/-- Words placed from an offset upwards. -/
def at8 (off : Nat) (ws : List Word) : List (Nat × Word) := ws.mapIdx fun i w => (off + 8 * i, w)

/-- 32-bit values two to a word, the older in the low half (15 R371). -/
def pairs32 : List Word32 → List Word
  | [] => []
  | [a] => [w64 a.toNat]
  | a :: b :: r => w64 (a.toNat + b.toNat * 2 ^ 32) :: pairs32 r

/-- A VIQ entry record (15 R372). -/
def Unit.record (u : Unit) : List Word :=
  [u.addr, w64 u.word.toNat, w64 (u.pscope.toNat * 2 ^ 32 + u.pimm.toNat),
   w64 (b2n u.done * 2 ^ 63 + b2n u.vlp * 2 ^ 28 + u.spr.toNat * 2 ^ 24 + b2n u.lp * 2 ^ 23 + u.stg.toNat * 2 ^ 21 +
     u.rot.toNat * 2 ^ 16 + u.rm.toNat * 2 ^ 12 + u.vl.toNat), u.vst, u.opA, u.opB] ++
  (if u.ops = [] then [u.opD, u.opX, 0, 0, 0, 0, 0, 0] else u.ops) ++
  [match u.tk with | some x => w64 (2 ^ 32 + x.toNat) | none => 0]

/-- A VP state record (15 R373). -/
def Vp.record (v : Vp) : List Word :=
  let (c, j) := match v.st with
    | .out => (0, 0) | .stopped => (1, 0) | .ready => (2, 0) | .parked k => (3, k.toNat) | .stallSend => (4, 0) | .stallRecv => (5, 0)
  let pc := match v.pfx with | (a, _) :: _ => a | [] => v.pc
  [w64 (c * 2 ^ 56 + j * 2 ^ 48 + (v.cnt - v.pfx.length) * 2 ^ 32), pc]

/-- `n` words of a long bit string. -/
def bitWords (n x : Nat) : List Word := (List.range n).map fun i => w64 (x / 2 ^ (64 * i))

/-- The command block of a `vgath` as its save area holds it (05 R160, 10 R297). -/
def GathCmd.watermark (c : GathCmd) : Nat := ((List.range c.n).find? fun i => !c.done.contains i).getD c.n
def GathCmd.doneMask (c : GathCmd) : Nat :=
  ((List.range 64).map fun b => if c.done.contains (c.watermark + b) then 2 ^ b else 0).sum
def GathCmd.block (c : GathCmd) (st : Nat) : List Word :=
  [c.table, c.index, c.data, w64 (c.n * 2 ^ 32 + c.fmt.toNat * 2 ^ 28 + b2n c.iw * 2 ^ 27 + b2n c.fill * 2 ^ 26), c.lim, c.frec,
   w64 (c.watermark * 2 ^ 32 + st * 2 ^ 28 + c.cnt), w64 c.doneMask]

/-- `vgath` operations of a group, oldest first. -/
def State.vgaths (s : State) (g : Nat) : List (EngOp × GathCmd) :=
  s.ops.filterMap fun o => if o.g = g then (match o.kind with | .gather c => if c.isVgath then some (o, c) else none | _ => none) else none

/-- The image of the current group's area: STATE, trap record, and the live registers of a length-free point. VCP is that of
the trap record: after a trap at decode it names the offending word (01 R26, 07 R197). -/
def State.image (s : State) (st : Nat) (trap : List Word) (live : Option (Nat → Bool)) : List (Nat × Word) :=
  let g := s.g
  let nf := g.grant / 256
  let hdr := [w64 (0x01 * 2 ^ 56 + 0x11 * 2 ^ 48 + st * 2 ^ 40), s.t.handle, gidOf s.t g,
    w64 (b2n s.t.priv * 2 ^ 24 + g.budget * 2 ^ 16 + g.grant), g.pc, if st = 2 then trap.getD 2 g.vcp else g.vcp,
    w64 (g.vps.length * 2 ^ 32 + (s.vgaths g.id).length * 2 ^ 16 + g.streams.length * 2 ^ 8 + g.viq.length), w64 s.t.ctx]
  let ctl := [w64 g.vl.toNat, g.vst, g.vcs, w64 g.rot.toNat, w64 g.spr.toNat, w64 g.splc.toNat] ++
    ((List.range 4).map fun k => Bank.get 0 g.smap k) ++ [g.migr, s.t.tags, w64 (g.awl.toNat * 2 ^ 16 + g.awb.toNat)] ++
    ((List.range 8).map fun k => s.t.chdone k) ++
    [w64 (b2n g.loop * 2 ^ 63 + (if g.nst = 0 then 0 else g.nst.toNat - 1)), g.kfirst, g.klast]
  let io := [w64 (g.outlet.length * 16 + g.inlet.length)] ++ (pairs32 g.inlet ++ [0, 0]).take 2 ++ (pairs32 g.outlet ++ [0, 0]).take 2
  let strm := (g.streams.map fun x => [w64 (2 ^ 63 + x.reg * 2 ^ 56 + x.desc.toNat % 2 ^ 52), x.p, w64 x.c, x.landed, x.failed, 0]).flatten
  let masks := bitWords 32 (g.vm.toNat % 2 ^ (g.grant / 8)) ++ bitWords 32 (g.vo.toNat % 2 ^ (g.grant / 8)) ++
    (List.range 8).flatMap fun k => bitWords 8 ((Bank.get 0 g.j k).toNat % 2 ^ (g.grant / 32))
  let regs := (List.range g.budget).flatMap fun i =>
    let n := match live with | none => nf | some p => if p i then 1 else 0
    let size := match live with
      | none => 8 + 32 * nf
      | some _ => 8 + 32 * n
    let base := match live with
      | none => 0x9300 + size * i
      | some p => 0x9300 + ((List.range i).map fun k => if p k then 40 else 8).sum
    (base, w64 (g.grant * 2 ^ 32 + n)) :: at8 (base + 8) (bitWords (4 * n) (Bank.get 0 g.v i).toNat)
  at8 0 hdr ++ at8 0x100 ((List.range 31).map fun i => Bank.get 0 g.c (i + 1)) ++ at8 0x200 ctl ++ at8 0x300 trap ++ at8 0x340 io ++
  at8 0x380 strm ++ at8 0xF00 masks ++ at8 0x1300 (g.viq.flatMap fun u => u.record) ++ at8 0x3300 (g.vps.flatMap fun v => v.record) ++
  at8 0x5300 ((List.range g.vps.length).flatMap fun e =>
    let l := Bank.get [] g.links e
    [w64 l.length] ++ (pairs32 l ++ [0, 0]).take 2 ++ [0]) ++ regs

/-- Write words of an area whose three pages stand at known physical addresses; zero words are left cleared. -/
def storeWords (m : Memory) (pages : List (Option Nat)) : List (Nat × Word) → Memory
  | [] => m
  | (off, w) :: r =>
    if w = 0 then storeWords m pages r else
    match pages.getD (off / 65536) none with
    | some pa => storeWords (m.store (pa + off % 65536) (natLe 8 w.toNat)) pages r
    | none => storeWords m pages r

/-- Write an area of the pool of context `c`: the `vgath` records, at offsets 0x500 to 0xEFF, keep what stands there (10 R297). -/
def State.writeArea (s : State) (c : Nat) (area : Word) (img : List (Nat × Word)) : State :=
  let keep := (List.range 320).map fun i => (0x500 + 8 * i, s.devWord c (area + w64 (0x500 + 8 * i)))
  let pages := (List.range 3).map fun i => s.devPa c (area + w64 (65536 * i))
  let s := s.devClear c area 3
  let s := (pages.mapIdx fun i p => (i, p)).foldl (fun (s : State) x => match x.2 with
    | some pa => if x.1 = 0 then (s.noteLaid pa 0x500).noteLaid (pa + 0xF00) (65536 - 0xF00) else s.noteLaid pa 65536
    | none => s) s
  { s with hbm := storeWords s.hbm pages (img ++ keep) }

/-- STATE of an area, byte 5 of its first word (15 R370). -/
def State.setAreaState (s : State) (c : Nat) (area : Word) (st : Nat) : State :=
  s.devWrite c (area + 5) [BitVec.ofNat 8 st]

/-- Save the current group and take it off its sector (15 R363, R367): it withdraws a pivot request, and gives up its
slot, which calls for a decision (16 R386). An entry that has taken its effect before an older one that waits is not saved, for it must
not execute again (R377; log entry 66, DEDUCED). -/
def State.saveGroup (s : State) (st : Nat) (trap : List Word) (live : Option (Nat → Bool)) : State :=
  let g := match s.g.pfx with
    | (a, _) :: _ => { s.g with pc := a, pfx := [] }
    | [] => s.g
  let g := g.late.foldl (fun g l => { g with c := Bank.set 0 g.c l.d.toNat l.val }) { g with viq := g.viq.filter fun u => !u.done }
  let s := { s with g := g, pwaits := s.pwaits.filter fun w => w.g ≠ g.id }
  let s := s.writeArea g.areaCtx g.area (s.image st trap live)
  { s with g := { s.g with
    sgid := gidOf s.t g
    nfac := (List.range g.budget).map fun i => match live with | none => g.grant / 256 | some p => b2n (p i)
    dead := g.viq.map Unit.dead
    sctl := s.t.tags :: (List.range 8).map s.t.chdone
    run := .saved st
    cwait := none
    pwait := none
    fbuf := []
    late := []
    lateUnits := []
    shades := [] } }.call s.t.die

/-- The supervisor context of a partition (17 R400), if any. See log entry 39, DEDUCED. -/
def State.supCtx (s : State) (part : Nat) : Option Nat :=
  (s.ctxs.find? fun x => x.2.valid && x.2.priv && decide (x.2.part = part)).map fun x => x.1

/-- Spawn the handler of context `c` on a die (15 R363 step 3): none where the store is full or no weight is to be had. -/
def State.spawnHandler (s : State) (d c : Nat) (args : List Word) : Option State :=
  let x := s.ctx c
  if s.storeFull d then none else
  match s.supCtx x.part, s.refill x.sroot 0 with
  | some sc, some (w, s) =>
    let h := s.newHandle d
    let cw := x.shcw.toNat
    some (s.newRecord {
      handle := h, die := d, ctx := sc, entry := x.shent, args := (args ++ List.replicate 8 0).take 8, weight := w,
      parent := 0, root := x.sroot, cons := 0, pin := true, pri := field cw 0 3, ecls := field cw 3 3,
      budget := 16 * (field cw 26 2 + 1), gmax := 2048 * 2 ^ field cw 24 2, scr := field cw 16 8 })
  | _, _ => none

/-- Deliver a handler, or leave its spawn pending (15 R365); without a handler the host is told. -/
def State.deliver (s : State) (d c : Nat) (priv : Bool) (area : Word) (cause : Nat) (args : List Word) : State :=
  let x := s.ctx c
  if priv || x.shent = 0 || x.sroot = 0 then s.hostEvent 2 x.part [area, w64 cause]
  else match s.spawnHandler d c args with
    | some s => s
    | none => let y := s.dieAt d; s.setDie d { y with spawns := y.spawns ++ [(c, args)] }

end Sys2Proof.Machine
end

