-- ==== Sys2Proof/Machine/Ops.lean ====
section
/-! DEFINITION. The named operations that meanings are written with: registers, the outcome of a meaning, taking a trap
(15 R363, R364), and memory accesses of the executing group. -/

namespace Sys2Proof.Machine

/-- Why a meaning does not complete. A trap (15 R362, R364) carries what its record needs; a hold waits, and the unit
is executed again. -/
structure Trap where
  cause : Byte
  elem : Word := BitVec.allOnes 64
  idx : Word := 0
  addr : Word := 0
  info : Word := 0
  /-- The word VCP of the record names, where it is not the unit's first word (07 R197). -/
  vcp : Option Word := none
  /-- The translation caches as the walks of the unit's accesses have left them (17 R403). -/
  tlb : Option (List TlbEntry) := none
deriving DecidableEq, Repr

inductive Stop where
  | trap (t : Trap)
  | hold (w : Wait)
deriving DecidableEq, Repr

/-- The body of a meaning: a value, or why it stops. -/
abbrev M (α : Type) := Except Stop α

def illegal : Byte := 0x01
/-- The trap illegal-instruction at the unit. -/
def ill {α : Type} : M α := .error (.trap { cause := illegal })
/-- A trap with a cause alone. -/
def trapM {α : Type} (c : Byte) (info : Word := 0) : M α := .error (.trap { cause := c, info := info })
def holdM {α : Type} (w : Wait) : M α := .error (.hold w)
/-- Raise a trap unless a condition holds. -/
def need (p : Prop) [Decidable p] (c : Byte := illegal) (info : Word := 0) : M PUnit := if p then .ok ⟨⟩ else trapM c info

/-- Check a list of things in order. -/
def allM : List (M PUnit) → M PUnit
  | [] => .ok ⟨⟩
  | m :: r => match m with
    | .ok _ => allM r
    | .error e => .error e

/-- The failure of an access as a stop: element `e`, address `a` (15 R364). -/
def failStop (e : Word) (a : Word) : Fail → Stop
  | .trap c i w => .trap { cause := c, elem := e, addr := a, info := i, tlb := some w }
  | .recall l => .hold (.recall l)

def liftFail {α : Type} (e a : Word) : Except Fail α → M α
  | .ok x => .ok x
  | .error f => .error (failStop e a f)

/-- A meaning that goes on after accesses that walked: a trap that it takes keeps what those walks left (17 R403). -/
def State.keeping {α : Type} (s : State) (m : M α) : M α :=
  match m with
  | .error (.trap t) => .error (.trap { t with tlb := some (t.tlb.getD s.tlb) })
  | m => m

/-- No element (15 R364). -/
def noElem : Word := BitVec.allOnes 64

/-- Read a `c` register; `c0` reads 0 (02 R55). -/
def State.c (s : State) (r : CReg) : Word := if r = 0 then 0 else Bank.get 0 s.g.c r.toNat

/-- Write a `c` register; a write of `c0` is discarded, and a late result of the same register is dropped (07 R192). -/
def State.setC (s : State) (r : CReg) (x : Word) : State :=
  if r = 0 then s
  else { s with g := { s.g with c := Bank.set 0 s.g.c r.toNat x, late := s.g.late.filter fun l => l.d ≠ r } }

/-- Address of the word after the instruction word (08 R211). -/
def State.next (s : State) : Word := s.u.ipc + 4

/-- Merge flags into the sticky bits of `vcs` (02 R65). -/
def State.raise (s : State) (f : Sticky) : State := { s with g := { s.g with sticky := s.g.sticky.or f } }

/-- The record of a trap (15 R364). -/
def Trap.record (t : Trap) (pc vcp : Word) (vp : Option Nat) : List Word :=
  let e := match vp with | some v => w64 v | none => t.elem
  [w64 ((if vp.isSome then 2 ^ 8 else 0) + t.cause.toNat), pc, vcp, e, t.idx, t.addr, t.info, 0]

/-- Take a trap (15 R363 to R365): the unit is as it was before it executed, the group is saved with the trap record and
STATE 2, and the handler is spawned, or the host told. A trap on the control port resumes at the unit's first word; an
entry of the VIQ goes back to its head; a `vf` stays at the head, partly executed, and VCP names it (01 R34). -/
def State.takeTrap (s : State) (t : Trap) : State :=
  let s :=
    match s.vp with
    | some v => { s with g := { s.g with vps := s.g.vps.set v s.u.vp0 } }
    | none =>
      if s.port then { s with g := { s.g with viq := s.u :: s.g.viq } }
      else { s with g := { s.g with pc := s.u.addr, pfx := [] } }
  let pc := match s.g.pfx with | (a, _) :: _ => a | [] => s.g.pc
  let vcp := if s.vp.isSome then s.g.vcp else t.vcp.getD s.u.addr
  let t := if s.vp.isSome && decide (t.cause = illegal) then { t with addr := t.vcp.getD s.u.ipc } else t
  let rec_ := t.record pc vcp s.vp
  let s := s.saveGroup 2 rec_ none
  let s := { s with g := { s.g with lastTrap := some (t.cause, s.g.area) }, vp := none, port := false }
  s.deliver s.t.die s.t.ctx s.t.priv s.g.area t.cause.toNat [s.g.area, w64 t.cause.toNat, w64 s.t.ctx]

/-- Wait: the unit is left to be executed again (01 R23; a waiting unit has no effect of its own). -/
def State.holdUnit (s : State) (w : Wait) : State :=
  match s.vp with
  | some v => { s with g := { s.g with vps := s.g.vps.set v { s.u.vp0 with line := match w with | .recall l => some l | _ => none } } }
  | none =>
  if s.port then { s with g := { s.g with viq := s.u :: s.g.viq, pwait := some w } }
  else { s with g := { s.g with pc := s.u.addr, ran := s.u.addr, pfx := [], seq := min s.g.seq s.u.seq, cwait := some w } }

/-- A trap of the control thread is taken once every older entry of its VIQ has committed (07 R200, 15 R363). -/
def State.raiseTrap (s : State) (t : Trap) : State :=
  let s := s.walked t.tlb
  if s.vp.isNone && !s.port && decide (s.g.viq ≠ []) then s.holdUnit .trapping else s.takeTrap t

/-- The outcome of a meaning: its state, the trap it takes, or its wait. -/
def State.finish (s : State) (m : M State) : Out :=
  match m with
  | .ok s' => .next s'
  | .error (.trap t) => .next (s.raiseTrap t)
  | .error (.hold w) => .next (s.holdUnit w)

/-- Read one access of the executing group. -/
def State.load (s : State) (e va : Word) (size : Nat) (late : Bool := false) : M (Nat × State) :=
  match s.readVA s.agent .load va size late with
  | .ok (bs, s) => .ok (leNat bs, s)
  | .error f => .error (failStop e va f)

/-- Write one access of the executing group. -/
def State.storeM (s : State) (e va : Word) (size x : Nat) (late : Bool := false) : M State :=
  liftFail e va (s.writeVA s.agent .store va (natLe size x) late)

/-- Physical number of a `v` register name under a rotation (02 R57). -/
def physReg (budget rot n : Nat) : Nat := if 32 ≤ n ∧ 32 < budget then 32 + (n - 32 + rot) % (budget - 32) else n

/-- The register a name denotes for the executing unit (02 R57). -/
def State.reg (s : State) (n : Nat) : Nat := physReg s.g.budget s.u.rot.toNat n

/-- Whole vector registers by physical number. -/
def State.vphys (s : State) (n : Nat) : Nat := (Bank.get 0 s.g.v n).toNat
def State.setVphys (s : State) (n : Nat) (x : Nat) : State :=
  { s with g := { s.g with v := Bank.set 0 s.g.v n (BitVec.ofNat 16384 (x % 2 ^ s.g.grant)) } }

/-- Element `e` of width `w` of a bit string. -/
def getEl (w x e : Nat) : Nat := x / 2 ^ (w * e) % 2 ^ w
/-- A bit string with element `e` of width `w` replaced. -/
def setEl (w x e v : Nat) : Nat :=
  x - (x / 2 ^ (w * e) % 2 ^ w) * 2 ^ (w * e) + (v % 2 ^ w) * 2 ^ (w * e)

/-- VLMAX of an element width (02 R53); 256 for facets. -/
def State.vlmax (s : State) (w : Nat) : Nat := s.g.grant / w

/-- A `v` register name is within the budget (01 R14). -/
def State.inBudget (s : State) (n : Nat) : Prop := n < s.g.budget
def State.needReg (s : State) (n : Nat) : M PUnit := need (n < s.g.budget)

/-- A supervisor group (15 R359). -/
def State.isSup (s : State) : Bool := s.t.priv

/-- The engine operations of the current group that fences and `rel` wait for (04 R130). -/
def State.ownOps (s : State) : List EngOp := s.ops.filter fun o => o.g = s.g.id

end Sys2Proof.Machine
end

