-- ==== Sys2Proof/Machine/Operands.lean ====
section
/-! DEFINITION. Operand forms: immediates and prefixed immediates (07 R189, R194), lookahead results (07 R192), stage
predicates and the effective mask (02 R59), elements and runs of vector registers (09 R241), and bound registers (05 R148). -/

namespace Sys2Proof

open Sys2Proof.Machine

/-- Bytes of an access by its w field (08 R218). -/
def Sz.bytes : Sz → Nat
  | .b => 1 | .h => 2 | .w => 4 | .d => 8

/-- Bytes of an element by the w field of opcodes 0x50 to 0x53 (10 R273). -/
def Sz.vbytes : Sz → Nat
  | .b => 1 | .h => 2 | .w => 4 | .d => 32

/-- Bits of an element type (07 R190). -/
def Ty.bits : Ty → Nat
  | .i8 => 8 | .i16 => 16 | .i32 => 32 | .i64 => 64 | .f16 => 16 | .bf16 => 16 | .f32 => 32 | .f64 => 64

def Ty.fmt? : Ty → Option Fmt
  | .f16 => some .f16 | .bf16 => some .bf16 | .f32 => some .f32 | .f64 => some .f64 | _ => none

/-- The types that vector instructions admit (09 R240): the six types. -/
def Ty.six : Ty → Bool
  | .i64 => false | .f64 => false | _ => true
def Ty.isInt : Ty → Bool
  | .i8 => true | .i16 => true | .i32 => true | .i64 => true | _ => false

/-- The absent code (03 R68, R71); i64 has none. -/
def Ty.absent : Ty → Option Nat
  | .i8 => some 0x80 | .i16 => some 0x8000 | .i32 => some 0x80000000 | .i64 => none
  | .f16 => some Fmt.f16.absent | .bf16 => some Fmt.bf16.absent | .f32 => some Fmt.f32.absent | .f64 => some Fmt.f64.absent

def Ty.isAbsent (t : Ty) (x : Nat) : Bool := t.absent = some x
def Ty.absentCode (t : Ty) : Nat := t.absent.getD 0

end Sys2Proof

namespace Sys2Proof.Machine

/-- HI of a `pfx.imm` word (07 R193). -/
def pimmHi (w : Word32) : BitVec 19 := w.extractLsb' 0 19

/-- An I-format immediate (07 R189), extended by `pfx.imm` where the unit has it (07 R194). -/
def State.immI (s : State) (imm : BitVec 13) : Word :=
  if s.u.pimm = 0 then imm.signExtend 64 else (pimmHi s.u.pimm ++ imm).signExtend 64

/-- An IL offset (07 R189, R194). -/
def State.offIL (s : State) (imm : BitVec 7) (size : Nat) : Word :=
  let small := imm.signExtend 64 * w64 size
  if s.u.pimm = 0 then small else (pimmHi s.u.pimm ++ 0#13).signExtend 64 + small

/-- A branch target (07 R188): words from the instruction word. -/
def State.target (s : State) {n : Nat} (off : BitVec n) : Word := s.u.ipc + off.signExtend 64 * 4

/-- Continue at an address. -/
def State.jump (s : State) (a : Word) : State := { s with g := { s.g with pc := a } }

/-- Deliver a class C result (07 R192): at once without a lookahead, else later, behind the late results of earlier units. -/
def State.setLate (s : State) (d : CReg) (x : Word) (la : Nat) (div : Bool) : State :=
  if la = 0 then s.setC d x
  else { s with g := { s.g with late := s.g.late ++ [⟨d, x, s.u.seq + la, div, s.u.seq⟩] } }

/-- A late result is written: those of earlier units for the same register no longer are (07 R192). -/
def State.landLate (s : State) (l : Late) : State :=
  let q := s.setC l.d l.val
  { q with g := { q.g with late := s.g.late.filter fun x => decide (x.d ≠ l.d) || decide (l.seq < x.seq) } }

/-- Whether the stage predicate allows the unit (02 R59, 09 R268). See log entry 55, DEDUCED. -/
def Unit.stageOk (u : Unit) : Bool := !u.lp || u.spr.getLsbD u.stg.toNat

/-- The effective mask of element `e` (02 R59). Inside an AIB only the VP's own `vm` bit counts (09 R239). -/
def State.eff (s : State) (e : Nat) : Bool := s.g.vm.getLsbD e && s.u.stageOk && decide (e < s.u.vl.toNat)

/-- Elements below `n` that the effective mask allows, in ascending order. -/
def State.activeBelow (s : State) (n : Nat) : List Nat := (List.range n).filter fun e => s.eff e
/-- The active elements: all of them stand below `vl`. -/
def State.active (s : State) : List Nat := s.activeBelow s.u.vl.toNat

/-- `vl` is within VLMAX of a width (02 R54). -/
def State.needVl (s : State) (w : Nat) : M PUnit := need (s.u.vl.toNat ≤ s.vlmax w)

/-- Registers of a run of `n` elements of `w` bits from name `r` (09 R241). -/
def State.runRegs (s : State) (w n : Nat) : Nat := (n * w + s.g.grant - 1) / s.g.grant
def State.needRun (s : State) (r w n : Nat) : M PUnit :=
  let k := s.runRegs w n
  need (r + k ≤ s.g.budget ∧ ¬ (r ≤ 31 ∧ 32 < r + k))

/-- The other values that a lookahead admits for a register (07 R192): of the executing VP's own stream inside an AIB, else of
the control stream. -/
def State.shadesOf (s : State) (p : Nat) : List Shade :=
  (match s.vp with | some _ => s.u.vp0.shades | none => s.g.shades).filter fun x => x.reg = p && decide (s.u.seq ≤ x.upto)

/-- One of the values of a register, chosen freely for element `e`: the current one, or one that a lookahead admits. -/
def pickShade (n p e : Nat) : List Shade → Nat → Nat
  | [], x => x
  | y :: r, x => pickShade (n + 1) p e r (if Config.takesOld n p e then y.old.toNat else x)

/-- Element `e` of physical register `p` as the executing entry reads it: where a lookahead covers it, the old or the new
value, chosen for each element (07 R192). See log entry 18, DEDUCED. -/
def State.readEl (s : State) (p w e : Nat) : Nat := getEl w (pickShade s.fresh p e (s.shadesOf p) (s.vphys p)) e

/-- The bits of listed elements of `w` bits. -/
def elBits (w : Nat) (es : List Nat) : VReg := es.foldl (fun m e => m ||| (BitVec.ofNat 16384 (2 ^ w - 1) <<< (w * e))) 0
/-- The executing unit writes bits of a register, named by its number (`Shade`). -/
def State.noteWrite (s : State) (r : Nat) (m : VReg) : State :=
  match s.trace with
  | none => s
  | some l => { s with trace := some ((r, m) :: l) }
/-- The executing unit writes bits of a mask, `vm` or `vo`. -/
def State.noteMask (s : State) (m : Nat) (es : List Nat) : State := s.noteWrite m (elBits 1 es)
/-- The executing unit writes accumulator cells of one row. -/
def State.noteCells (s : State) (row : Nat) (cols : List Nat) : State := s.noteWrite (shadeRow row) (elBits 48 cols)

/-- 4-byte words that listed elements of `w` bits write in full. -/
def wordsOf (w : Nat) (es : List Nat) : List Nat :=
  if 32 ≤ w then es.flatMap fun e => (List.range (w / 32)).map fun i => e * (w / 32) + i
  else (es.map fun e => e * w / 32).filter fun k => (List.range (32 / w)).all fun i => es.contains (k * (32 / w) + i)

/-- Words of a physical register that are written in full are poisoned no more (18 R424). -/
def State.cleanReg (s : State) (p : Nat) (ks : List Nat) : State :=
  if s.g.rpoison = [] then s else { s with g := { s.g with rpoison := s.g.rpoison.filter fun x => !(decide (x.1 = p) && ks.contains x.2.1) } }

/-- A register that a unit reads at width `w`, where `base` elements of its run stand before it. It reads the active elements, or
those of `which` where the instruction reads others. -/
structure Src where
  reg : Nat
  w : Nat
  base : Nat := 0
  which : Option (List Nat) := none
deriving DecidableEq, Repr

/-- The elements that the executing entry reads of a source: those of `which`, else the active ones. An active VP reads its own, and of
a bound register the elements below `vl` are read whatever the mask (05 R148). -/
def State.srcEls (s : State) (x : Src) : List Nat :=
  match x.which, s.vp with
  | _, none =>
    let all := (List.range (s.g.grant / x.w)).map fun e => x.base + e
    if s.g.streams.any fun y => y.reg = s.reg x.reg then all.filter fun e => decide (e < s.u.vl.toNat)
    else match x.which with
      | some l => l.filter fun e => all.contains e
      | none => all.filter fun e => s.eff e
  | some l, some _ => l
  | none, some v => if s.g.vm.getLsbD v then [v] else []

/-- The first of some elements of a source with a poisoned word (18 R424), and the address of the error record. Inside an AIB an
element is the VP's 32-bit element, whatever the type (09 R239). -/
def State.poisonIn (s : State) (x : Src) : Option (Nat × Word) :=
  let w := if s.vp.isSome then 32 else x.w
  (s.srcEls x).findSome? fun e =>
    let k := e - x.base
    (s.g.rpoison.find? fun y => decide (y.1 = s.reg x.reg) && decide (y.2.1 * 32 < (k + 1) * w) && decide (k * w < (y.2.1 + 1) * 32)).map fun y => (e, y.2.2)

/-- Element `e` of a run. -/
def State.runEl (s : State) (r w e : Nat) : Nat :=
  let m := s.vlmax w
  s.readEl (s.reg (r + e / m)) w (e % m)
def State.setRunEl (s : State) (r w e v : Nat) : State :=
  let m := s.vlmax w
  let p := s.reg (r + e / m)
  ((s.cleanReg p (wordsOf w [e % m])).noteWrite p (elBits w [e % m])).setVphys p (setEl w (s.vphys p) (e % m) v)

/-- Element `e` of one register. -/
def State.el (s : State) (r w e : Nat) : Nat := s.readEl (s.reg r) w e
def State.setEl (s : State) (r w e v : Nat) : State := let p := s.reg r; ((s.cleanReg p (wordsOf w [e])).noteWrite p (elBits w [e])).setVphys p (Machine.setEl w (s.vphys p) e v)
/-- Write several elements of one register. -/
def State.setEls (s : State) (r w : Nat) (l : List (Nat × Nat)) : State :=
  let p := s.reg r
  ((s.cleanReg p (wordsOf w (l.map fun x => x.1))).noteWrite p (elBits w (l.map fun x => x.1))).setVphys p (l.foldl (fun x ev => Machine.setEl w x ev.1 ev.2) (s.vphys p))

/-- The binding of a physical register, if it is bound (05 R146). -/
def State.bound (s : State) (p : Nat) : Option Stream := s.g.streams.find? fun x => x.reg = p

/-- A register that an instruction writes is not bound (05 R149). -/
def State.needUnbound (s : State) (r : Nat) : M PUnit := need ((s.bound (s.reg r)).isNone)

/-- Width of a stream's elements by format: 256 for facets (05 R146). -/
def fmtWidth (f : BitVec 4) : Nat :=
  match f.toNat with
  | 0 => 8 | 1 => 16 | 2 => 32 | 3 => 64 | 4 => 16 | 5 => 16 | 6 => 32 | 7 => 64 | _ => 256

/-- A bound source register is read at the stream's width, with `vl` at most C, and not in an AIB (05 R148, R149). -/
def State.needBind (s : State) (x : Src) : M PUnit :=
  match s.bound (s.reg x.reg) with
  | none => .ok ⟨⟩
  | some y => need (s.vp.isNone ∧ x.w = fmtWidth y.fmt ∧ s.u.vl.toNat ≤ y.c)

/-- Facets of a bound register that hold elements below `vl` (05 R148). -/
def State.srcFacets (s : State) (x : Src) : List Nat := (List.range (s.g.grant / 256)).filter fun f => decide (f * 256 < s.u.vl.toNat * x.w)

/-- The fault of a bound source (05 R148), of its first failed facet: the trap names the first element of that facet, since the spec
does not say which of its elements (log entry 58, DESIGN CHOICE). -/
def State.facetFault (s : State) (x : Src) : Option Trap :=
  match s.bound (s.reg x.reg) with
  | none => none
  | some y => ((s.srcFacets x).find? fun f => y.failed.getLsbD f).map fun f =>
    match y.faults.find? fun z => z.1 = f with
    | some (_, c, va, rec_) => { cause := c, elem := w64 (f * 256 / x.w), addr := va, info := rec_ }
    | none => { cause := causePage, elem := w64 (f * 256 / x.w) }

/-- A source waits for a facet (05 R148). -/
def State.srcWaits (s : State) (x : Src) : Bool :=
  match s.bound (s.reg x.reg) with
  | none => false
  | some y => (s.srcFacets x).any fun f => !y.landed.getLsbD f

/-- The fault of a poisoned element that is read (18 R424). -/
def State.poisonFault (s : State) (x : Src) : Option Trap :=
  (s.poisonIn x).map fun y => { cause := causeData, elem := w64 y.1, info := y.2 }

/-- The trap of the lowest element, of equal elements the first. -/
def lowestTrap : List Trap → Option Trap
  | [] => none
  | t :: r => match lowestTrap r with
    | some u => if u.elem.toNat < t.elem.toNat then some u else some t
    | none => some t

/-- Read source registers: the checks of bound ones and the wait for their facets (05 R148), and the fault of the lowest element that
meets one, of a failed facet or of poisoned data (07 R200, 18 R424). -/
def State.srcHit (s : State) (l : List Src) : M (Option Trap) := do
  allM (l.map s.needBind)
  let failed := l.filterMap s.facetFault
  if failed = [] ∧ l.any s.srcWaits = true then holdM .streamLand
  else .ok (lowestTrap (failed ++ l.filterMap s.poisonFault))

/-- Take the fault found among the sources, if there is one. -/
def raiseHit : Option Trap → M PUnit
  | some t => .error (.trap t)
  | none => .ok ⟨⟩

/-- Whether element `e` stands before the fault of a source. -/
def beforeHit (h : Option Trap) (e : Nat) : Bool := match h with | some t => decide (e < t.elem.toNat) | none => true

def State.needSrcs (s : State) (l : List Src) : M PUnit := do raiseHit (← s.srcHit l)

/-- One source register. -/
def State.needSrc (s : State) (r w : Nat) (base : Nat := 0) (which : Option (List Nat) := none) : M PUnit := s.needSrcs [⟨r, w, base, which⟩]

/-- The register names of a run of `k` registers from name `r` (09 R241). -/
def runNames (r k : Nat) : List Nat := (List.range k).map fun i => r + i

/-- A source run read at width `w`: each of its registers that is bound is checked and awaited (05 R148). -/
def State.runSrcs (s : State) (r k w : Nat) (which : Option (List Nat) := none) : List Src :=
  (runNames r k).mapIdx fun i x => ⟨x, w, i * s.vlmax w, which⟩
def State.needRunSrc (s : State) (r k w : Nat) (which : Option (List Nat) := none) : M PUnit := s.needSrcs (s.runSrcs r k w which)

/-- Advance the bindings of the source registers that a committed instruction read (05 R148), each once. -/
def State.consume (s : State) (rs : List Nat) : State :=
  let ps := rs.map s.reg
  { s with g := { s.g with streams := s.g.streams.map fun x =>
      if (ps.contains x.reg) then { x with p := x.p + w64 s.u.vl.toNat, landed := 0, failed := 0, faults := [], stop := none, got := [] } else x } }

/-- Set bits of `vo` (02 R58). -/
def setBits (w : Nat) (m : BitVec w) (l : List Nat) : BitVec w := l.foldl (fun m e => m ||| (1#w <<< e)) m
def clearBits (w : Nat) (m : BitVec w) (l : List Nat) : BitVec w := l.foldl (fun m e => m &&& ~~~(1#w <<< e)) m
def State.setVo (s : State) (l : List Nat) : State := { s.noteMask shadeVo l with g := { s.g with vo := setBits 2048 s.g.vo l } }
/-- Write the bits of `vm` for listed elements. -/
def State.writeVm (s : State) (l : List (Nat × Bool)) : State :=
  { s.noteMask shadeVm (l.map fun x => x.1) with g := { s.g with vm := l.foldl (fun m eb => if eb.2 then m ||| (1#2048 <<< eb.1) else m &&& ~~~(1#2048 <<< eb.1)) s.g.vm } }

/-- `vl` is pending (01 R24): a load of the VIQ that is enabled has not translated its elements yet. -/
def isLoadWord (w : Word32) : Bool :=
  let op := w.toNat / 2 ^ 25
  op = 0x50 || op = 0x51 || op = 0x54
def State.vlPending (s : State) : Bool := s.g.viq.any fun e => isLoadWord e.word && e.stageOk && !e.done

/-- A load leaves `vl`: the entries up to the next load that wait for it receive it (01 R24). -/
def giveVl (v : BitVec 12) : List Unit → List Unit
  | [] => []
  | e :: r =>
    let e' := if e.vlp then { e with vl := v, vlp := false } else e
    if (isLoadWord e.word && e.stageOk && !e.done) then e' :: r else e' :: giveVl v r
def State.leaveVl (s : State) (v : BitVec 12) : State :=
  { s with g := { s.g with vl := v, viq := giveVl v s.g.viq } }

end Sys2Proof.Machine
end

