-- ==== Sys2Proof/Machine/Lookahead.lean ====
section
/-! DEFINITION. What lookahead promises expose (01 R27, 07 R192): a covered unit may read what a register held before a unit
with a lookahead wrote it, and a unit with a lookahead may read what a covered unit writes; for each element the old or the
new value. See log entry 18, DEDUCED. -/

namespace Sys2Proof.Machine

/-- The accumulator row `r` of the team as one string: 48 bits for each cell. -/
def packRow (acc : List (Nat × AccCell)) (r : Nat) : Nat :=
  ((List.range 128).map fun j =>
    let c := assocGet ({} : AccCell) acc (r * 128 + j)
    (c.val.toNat + c.cnt.toNat * 2 ^ 32) * 2 ^ (48 * j)).sum
/-- A cell of a packed row. -/
def unpackCell (x : Nat) : AccCell := ⟨BitVec.ofNat 32 x, BitVec.ofNat 16 (x / 2 ^ 32)⟩

/-- Rows that cells are listed for. -/
def rowsOf (acc : List (Nat × AccCell)) : List Nat := ((acc.map fun x => x.1 / 128).eraseDups)

/-- The value of a register by its number (`Shade`). -/
def State.regVal (s : State) (r : Nat) : VReg :=
  if r = shadeVm then s.g.vm.setWidth 16384
  else if r = shadeVo then s.g.vo.setWidth 16384
  else if shadeVo < r then BitVec.ofNat 16384 (packRow s.t.acc (r - 66))
  else Bank.get 0 s.g.v r

/-- The state in which what the next unit writes is noted. -/
def State.tracing (s : State) : State := { s with trace := some [] }
/-- The registers that the executing unit has written, and the bits of one of them. -/
def State.wrote (s : State) : List Nat := ((s.trace.getD []).map fun x => x.1).eraseDups
def State.wroteBits (s : State) (r : Nat) : VReg := (s.trace.getD []).foldl (fun m x => if x.1 = r then m ||| x.2 else m) 0

/-- What units after number `n` may still read in place of what stands in the registers, once that unit, with lookahead `la`, has led
from `s` to `q` (07 R192): what it overwrote, and what older units had; but a unit that it does not cover reads what it wrote. -/
def State.shadesAfter (s q : State) (n la : Nat) (old : List Shade) : List Shade :=
  let keep := fun (x : Shade) =>
    let m := q.wroteBits x.reg
    let x' := { x with old := (x.old &&& ~~~m) ||| (q.regVal x.reg &&& m) }
    if m = 0 then [x] else (if la = 0 then [] else [{ x with upto := min x.upto (n + la) }]) ++ [x']
  (if la = 0 then [] else q.wrote.map fun r => ⟨r, s.regVal r, n + la⟩) ++
    ((old.filter fun x => decide (n < x.upto)).flatMap keep).filter fun x => x.old ≠ q.regVal x.reg

/-- A unit between `s` and `q` has taken effect: it neither trapped nor waits. -/
def State.clean (s q : State) : Bool :=
  decide (q.g.id = s.g.id) && decide (q.g.pwait = none) && (match q.g.run with | .saved _ => false | _ => true) &&
  (match s.vp with | some e => decide ((q.g.vps.getD e {}).cnt ≠ s.u.vp0.cnt) | none => decide (q.g.viq.length ≤ s.g.viq.length))

/-- Instructions that write `vm` or `vo` as data, that read `vo`, and that read accumulator rows. -/
def writesMask : Instr → Bool
  | .vcmpEq _ _ _ | .vcmpNe _ _ _ | .vcmpLt _ _ _ | .vcmpLe _ _ _ | .vcmpuLt _ _ _ | .vcmpuLe _ _ _ => true
  | .vabsent _ _ => true
  | .vomov => true
  | .vpermw _ _ _ _ _ => true
  | _ => false
def readsVo : Instr → Bool
  | .vomov => true
  | .vmsave _ .vo => true
  | _ => false
def readsRows : Instr → Bool
  | .mrdRaw _ _ _ | .mrdNorm _ _ _ | .mrdCnt _ _ _ | .mrdPair _ _ _ => true
  | _ => false
/-- Instructions whose mask is read as it stands: they write `vm` beyond their active elements. -/
def wholeMask : Instr → Bool
  | .vmload _ _ => true
  | .lfree _ => true
  | _ => false

/-- A mask with each bit the current one or one that a lookahead admits. -/
def State.mixMask (s : State) (r n cur : Nat) : Nat :=
  match s.shadesOf r with
  | [] => cur
  | l => ((List.range n).map fun e => getEl 1 (pickShade s.fresh r e l cur) e * 2 ^ e).sum

/-- Accumulator cells, each the current one or one that a lookahead admits. -/
def State.mixRows (s : State) (rs : List Nat) : List (Nat × AccCell) :=
  rs.foldl (fun acc r =>
    let cur := packRow s.t.acc (r - 66)
    (List.range 128).foldl (fun acc j => assocSet acc ((r - 66) * 128 + j) (unpackCell (getEl 48 (pickShade s.fresh r j (s.shadesOf r) cur) j))) acc) s.t.acc

/-- All values that lookaheads admit for the executing unit. -/
def State.shadesHere (s : State) : List Shade :=
  (match s.vp with | some _ => s.u.vp0.shades | none => s.g.shades).filter fun x => decide (s.u.seq ≤ x.upto)

/-- The state as the unit sees it: `vm`, `vo` and the accumulator rows that it reads are mixed. -/
def State.view (s : State) (i : Instr) : State :=
  let vm := if wholeMask i then s.g.vm else BitVec.ofNat 2048 (s.mixMask shadeVm 2048 s.g.vm.toNat)
  let vo := if readsVo i then BitVec.ofNat 2048 (s.mixMask shadeVo 2048 s.g.vo.toNat) else s.g.vo
  let acc := if readsRows i then s.mixRows ((s.shadesHere.map fun x => x.reg).filter fun r => decide (shadeVo < r)) else s.t.acc
  { s with g := { s.g with vm := vm, vo := vo }, t := { s.t with acc := acc } }

/-- The state after the unit, from the view `v` and its outcome `q`: what the unit did not write is as it stood in `s`. -/
def State.unview (s v q : State) (i : Instr) : State :=
  let act := setBits 2048 0 (match s.vp with | some e => [e] | none => v.active)
  let vm := if wholeMask i then q.g.vm else if writesMask i then (q.g.vm &&& act) ||| (s.g.vm &&& ~~~act) else s.g.vm
  let vo := if readsVo i then (if writesMask i then s.g.vo &&& ~~~act else s.g.vo) else q.g.vo
  { q with g := { q.g with vm := vm, vo := vo, shades := s.g.shades }, t := if readsRows i then { q.t with acc := s.t.acc } else q.t, u := s.u,
           fresh := q.fresh + 1 }

/-- The state with further admitted values. -/
def State.withShades (s : State) (l : List Shade) : State :=
  match s.vp with
  | some _ => { s with u := { s.u with vp0 := { s.u.vp0 with shades := l ++ s.u.vp0.shades } } }
  | none => { s with g := { s.g with shades := l ++ s.g.shades } }

/-- Execute a unit by the meanings `run`, with what lookaheads admit; `ahead` is what covered units will write. Where a mixed
view would stop the unit, it executes on what stands. -/
def State.looked (run : Instr → State → Out) (ahead : List Shade) (i : Instr) (s : State) : Out :=
  let w := s.withShades ahead
  if w.shadesHere = [] then run i s
  else
    let v := w.view i
    match run i v with
    | .next q => if v.clean q then .next (s.unview v q i) else run i s
    | _ => run i s

/-- An entry takes effect: its stage is on (09 R268), or it is a `vmsave` or `vmload`, of which R253 says that they ignore the stage predicate
(log entry 55, DEDUCED). -/
def Unit.enabled (u : Unit) : Bool :=
  u.stageOk || (match decodeWord u.word with | .ok (.vmsave _ _) => true | .ok (.vmload _ _) => true | _ => false)

/-- What the covered entries of a VIQ will write, one after another (07 R192): the promise ends at a `vf`. -/
def State.aheadIn (run : Instr → State → Out) (s : State) (upto : Nat) (c : State) : List Unit → List Shade
  | [] => []
  | f :: r =>
    match decodeWord f.word with
    | .error _ => []
    | .ok i =>
      if upto < f.seq || (match i with | .vf _ => true | .vfr _ => true | _ => false) then []
      else if f.done || !f.enabled then State.aheadIn run s upto c r
      else
        let b := { c with u := f, port := true, vp := none, g := { c.g with viq := r } }.tracing
        match run i b with
        | .next q => if b.clean q then (q.wrote.map fun k => ⟨k, q.regVal k, s.u.seq⟩) ++ State.aheadIn run s upto q r else []
        | _ => []

/-- Instructions whose mask a covered `vmload` does not reach before they count it: 12 R341 fixes the count of `vred.popc` under a
lookahead that covers one, where 07 R192 would admit the old or the new bits (log entry 18, DEDUCED). -/
def fixedMask : Instr → Bool
  | .vredPopc _ _ _ => true
  | _ => false

/-- An entry executes (01 R25, R27, 07 R192). Where a younger unit has written its `c` destination, that write stays. -/
def State.entry (run : Instr → State → Out) (i : Instr) (s : State) : Out :=
  let la := laOf i
  let ahead := (if la = 0 then [] else State.aheadIn run s (s.u.seq + la) s s.g.viq).filter fun x => !(fixedMask i && decide (x.reg = shadeVm))
  let plain := decide (s.g.shades = []) && decide (la = 0)
  match State.looked run ahead i (if plain then s else s.tracing) with
  | .next q =>
    let q := if plain then q else { q with g := { q.g with shades := s.shadesAfter q s.u.seq la q.g.shades }, trace := none }
    let q := if s.u.dead then { q with g := { q.g with c := s.g.c, late := s.g.late } } else q
    .next { q with port := false }
  | o => o

end Sys2Proof.Machine
end

