-- ==== Sys2Proof/Machine/Issue.lean ====
section
/-! DEFINITION. How a unit comes to execute: the fetch buffer (04 R134, 07 R186), the checks of 07 R200, the stalls of
01 R23, the capture at enqueue (01 R22), the head of the VIQ (01 R25), and the word at one program counter of a running
`vf` (01 R28 to R34). What a unit does is not decided here: each of these answers with the instruction to execute. -/

namespace Sys2Proof.Machine

def causeMis : Byte := causeMisaligned

/-- The 32-byte block of an address (04 R134). -/
def blockOf (va : Word) : Word := va &&& ~~~31#64

/-- The word at an address in a block. -/
def blockWord (bs : List Byte) (va : Word) : Word32 :=
  BitVec.ofNat 32 (leNat ((bs.drop (va.toNat % 32)).take 4))

/-- Read a block of code and keep it in the fetch buffer. -/
def State.readBlock (s : State) (va : Word) : Except Fail (Word32 × State) :=
  match s.place s.agent .fetch va 4 4 with
  | .error e => .error e
  | .ok (p, s) =>
    match p with
    | .hbm pa =>
      let bs := s.hbm.bytes (pa / 32 * 32) 32
      .ok (blockWord bs va, { s with g := { s.g with fbuf := (blockOf va, bs) :: s.g.fbuf.filter fun x => x.1 ≠ blockOf va } })
    | _ => .error (.trap causeAccess 0 s.tlb)

/-- The control thread, or a VP, is in the middle of a block of code: it has taken a word of it and goes on behind that. -/
def Group.midBlock (g : Group) (b : Word) : Bool :=
  let inside := fun (pc : Word) => decide (pc.toNat % 32 ≠ 0) && decide (blockOf pc = b)
  (inside g.pc && decide (g.ran = g.pc)) ||
  g.vps.any fun v => inside v.pc && decide (v.cnt ≠ 0) && (match v.st with | .out => false | .stopped => false | _ => true)

/-- Fetch a word of code: a buffered block may serve it, or be read again (04 R134); which is free, but a run of words within
one block is of one reading. See log entry 19, DEDUCED. -/
def State.fetchWord (s : State) (va : Word) : Except Fail (Word32 × State) :=
  match s.g.fbuf.find? fun x => x.1 = blockOf va with
  | none => s.readBlock va
  | some x =>
    let (n, s') := s.free
    if n % 2 = 0 || s.g.midBlock (blockOf va) then .ok (blockWord x.2 va, s') else s.readBlock va

/-- Opcode of a word. -/
def opOf (w : Word32) : Nat := w.toNat / 2 ^ 25

/-- Opcodes that accept `pfx.imm` (07 R194) and `pfx.scope` (07 R195). -/
def takesImm (op : Nat) : Bool :=
  (3 ≤ op && op ≤ 6) || op = 8 || op = 9 || op = 0x17 || (0xC ≤ op && op ≤ 0xE) || (0x50 ≤ op && op ≤ 0x53)
def takesScope (op : Nat) : Bool := (0xC ≤ op && op ≤ 0xE) || (0x50 ≤ op && op ≤ 0x54) || (0x56 ≤ op && op ≤ 0x59)

/-- Kind of a prefix word (07 R193): 0 `pfx.imm`, 1 `pfx.scope`. -/
def pfxKind (w : Word32) : Nat := field w.toNat 22 3

/-- The first prefix that an instruction with this opcode does not accept (07 R196): of two prefixes before an unassigned opcode the
first (log entry 48, DEDUCED). -/
def badPrefix (op : Nat) (pfx : List (Word × Word32)) : Option Word :=
  (pfx.find? fun p => if pfxKind p.2 = 0 then !takesImm op else !takesScope op).map fun p => p.1

def prefixWord (k : Nat) (pfx : List (Word × Word32)) : Word32 :=
  match pfx.find? fun p => pfxKind p.2 = k with
  | some p => p.2
  | none => 0

/-- A v register, in an AIB any register (01 R29), that the budget does not reach (01 R14). -/
def State.budgetOk (s : State) (i : Instr) : Bool := (vregsOf i).all fun r => decide (r < s.g.budget)

/-- The stage of the unit at `ipc` in a running `spl` loop (02 R62, 09 R268). -/
def State.stageAt (s : State) (ipc : Word) : BitVec 2 :=
  let i := (ipc.toNat - s.g.kfirst.toNat) / 4
  BitVec.ofNat 2 (field (Bank.get 0 s.g.smap (i / 32)).toNat (2 * (i % 32)) 2)

/-- The address that illegality of the unit names (07 R196, R200 step 2), if it is illegal in the control stream. A malformed
X word after a prefix is named itself (log entry 48, DEDUCED). -/
def State.illegalAt (s : State) (w : Word32) (d : Decoded) : Option Word :=
  let pc := s.g.pc
  let near := match s.g.pfx.reverse with | (a, _) :: _ => a | [] => pc
  match d with
  | .error _ => some (if opOf w = 0x7E then pc else (badPrefix (opOf w) s.g.pfx).getD near)
  | .ok i =>
    if clsOf i = .pfx then (if s.g.loop && !(s.g.kfirst.ule pc && pc.ule s.g.klast) then some pc else none)
    else match badPrefix (opOf w) s.g.pfx with
      | some a => some a
      | none =>
        if clsOf i = .aib || clsOf i = .event || !s.budgetOk i || (match capA i with | some r => decide (31 < r) | none => false) ||
            (match capX i with | some r => decide (31 < r) | none => false) ||
            (s.g.loop && !(s.g.kfirst.ule pc && pc.ule s.g.klast)) then some near
        else none

/-- Privileged opcodes (07 R200 step 3). -/
def privOp (op : Nat) : Bool := 0x7A ≤ op && op ≤ 0x7D

/-- Whether a unit starts an AIB. -/
def isVf (w : Word32) : Bool := opOf w = 0x20 || opOf w = 0x21

/-- The unit that the control thread is about to take, with what an entry captures (01 R22, 15 R372). A `vf` or `vfr` at which a promise
ends is itself still covered by it (07 R192): the base that `vfr` captures may be the old value of a late result, or of an entry's
destination (log entry 18, DEDUCED). -/
def State.capture (s : State) (w : Word32) (i : Instr) : Unit :=
  let c := fun (o : Option Nat) => match o with | some r => if r < 32 then s.c (BitVec.ofNat 5 r) else 0 | none => 0
  let addr := match s.g.pfx with | (a, _) :: _ => a | [] => s.g.pc
  { addr := addr, ipc := s.g.pc, word := w, pimm := prefixWord 0 s.g.pfx, pscope := prefixWord 1 s.g.pfx,
    vl := s.g.vl, vlp := s.vlPending, vst := s.g.vst, rm := s.g.rm, rot := s.g.rot, spr := s.g.spr,
    lp := s.g.loop, stg := if s.g.loop then s.stageAt s.g.pc else 0,
    opA := c (capA i), opB := c (capB i), opX := c (capX i),
    ops := (match i with | .spawn _ _ _ => (List.range 8).map fun k => s.c (BitVec.ofNat 5 (k + 1)) | _ => []),
    seq := s.g.seq + (if isVf w then 16 else 0) }

/-- Registers that entries of the VIQ will write, but for those whose lookahead covers unit `n` (01 R23, 07 R192). -/
def Group.viqWrites (g : Group) (n : Nat) : List Nat :=
  g.viq.filterMap fun e => if !e.stageOk || e.done then none else
    match decodeWord e.word with
    | .ok i => if n ≤ e.seq + laOf i then none else (cdestOf i).map fun r => r.toNat
    | _ => none

/-- The `c` registers that a unit reads and that await an entry of the VIQ (01 R23). -/
def State.awaited (s : State) (i : Instr) : List Nat :=
  (creadsOf i).filter fun r => decide (r ≠ 0) && (s.g.viqWrites s.g.seq).contains r
def State.awaitsViq (s : State) (i : Instr) : Bool := decide (s.awaited i ≠ [])

/-- A younger unit has written a `c` register: what older entries of the VIQ write to it is dropped (07 R192). -/
def State.supersede (s : State) (i : Instr) : State :=
  match cdestOf i with
  | none => s
  | some d =>
    if d = 0 || s.g.viq = [] then s else
    let f := fun (u : Unit) => match decodeWord u.word with | .ok k => if cdestOf k = some d then { u with dead := true } else u | .error _ => u
    { s with g := { s.g with viq := s.g.viq.map f } }

/-- Results whose lookahead has run out are delivered before the next unit, in the order of their units (07 R192). -/
def State.deliverLate (s : State) : State := (s.g.late.filter fun l => decide (l.upto < s.g.seq)).foldl State.landLate s

/-- What comes of a move of a group: an outcome, or an instruction to execute. -/
inductive Issue where
  | done (o : Out)
  | enqueued (s : State)
  | run (i : Instr) (s : State)

/-- Enqueue a unit of class V or M (01 R22), which clears LFREE of `migr` (02 R62). An entry that its stage predicate disables
takes no effect at all (09 R268). -/
def State.enqueue (s : State) (u : Unit) (i : Instr) : State :=
  let run := match i with
    | .fret _ => if u.stageOk then Run.fretPending else s.g.run
    | .lfree _ => if u.stageOk then Run.lfreePending else s.g.run
    | _ => s.g.run
  { s with g := { s.g with viq := s.g.viq ++ [u], run := run, lfree := false } }

/-- The control thread takes the word at its program counter (01 R21 to R26, 07 R196 to R200). A class C or D unit, or a
prefix word, is to be executed with the program counter past it; a class V or M unit is enqueued. See log entry 21, DEDUCED. -/
def State.controlIssue (s : State) : Issue :=
  let s := { (s.deliverLate) with port := false, vp := none }
  let s := { s with g := { s.g with cwait := none } }
  let pc := s.g.pc
  let first := match s.g.pfx with | (a, _) :: _ => a | [] => pc
  let here := { s with u := { addr := first, ipc := pc, seq := s.g.seq } }
  match s.fetchWord pc with
  | .error f => .done (here.finish (.error (failStop noElem pc f)))
  | .ok (w, s) =>
    let d := decodeWord w
    let u0 := { addr := first, ipc := pc, word := w, seq := s.g.seq : Unit }
    match s.illegalAt w d with
    | some a => .done ({ s with u := u0 }.finish (.error (.trap { cause := illegal, vcp := some a })))
    | none =>
      match d with
      | .error _ => .done (.next s)
      | .ok i =>
        let u := s.capture w i
        let s := { s with u := u }
        let past := fun (s : State) => { s with g := { s.g with pc := pc + 4, ran := pc + 4, pfx := [], seq := u.seq + 1 } }
        if privOp (opOf w) && !s.isSup then
          .done (s.finish (trapM 0x02))
        else if clsOf i = .pfx then .run i { s with g := { s.g with pc := pc + 4, ran := pc + 4 } }
        else if s.awaitsViq i then .done (s.finish (holdM (.viqReg (s.awaited i))))
        else if clsOf i = .vec || clsOf i = .mem then
          if opOf w = 0x21 && u.opA.toNat % 4 ≠ 0 then .done (s.finish (.error (.trap { cause := causeMis, addr := u.opA })))
          else if 64 ≤ s.g.viq.length then .done (s.finish (holdM .viqFull))
          else .enqueued (past (s.enqueue u i))
        else if clsOf i = .drain && s.g.viq ≠ [] then .done (s.finish (holdM .viq))
        else .run i (past s)

/-- Where a VP receives from (01 R37): none is the inlet; and whether a VP sends to the outlet. -/
def takingPart (vps : List Vp) : List Nat := (List.range vps.length).filter fun e => (vps.getD e {}).st ≠ .out
def State.feeder (s : State) (e : Nat) : Option Nat := ((takingPart s.g.vps).filter fun k => k < e).getLast?
def State.taker (s : State) (e : Nat) : Option Nat := (takingPart s.g.vps).find? fun k => e < k
/-- The queue a VP pops, and the queue it pushes. -/
def State.sourceQ (s : State) (e : Nat) : List Word32 :=
  match s.feeder e with | some k => Bank.get [] s.g.links k | none => s.g.inlet
def State.sinkQ (s : State) (e : Nat) : List Word32 :=
  match s.taker e with | some _ => Bank.get [] s.g.links e | none => s.g.outlet
def State.setSource (s : State) (e : Nat) (q : List Word32) : State :=
  match s.feeder e with
  | some k => { s with g := { s.g with links := Bank.set [] s.g.links k q } }
  | none => { s with g := { s.g with inlet := q } }
def State.setSink (s : State) (e : Nat) (q : List Word32) : State :=
  match s.taker e with
  | some _ => { s with g := { s.g with links := Bank.set [] s.g.links e q } }
  | none => { s with g := { s.g with outlet := q } }

/-- The control thread is stalled in a wait that cannot end before the running `vf` completes (01 R40): until the VIQ is
empty, for a register that an entry of the VIQ will write, or for room in the VIQ, at whose head the `vf` stands. -/
def Group.waitsForVf (g : Group) : Bool :=
  decide (g.run = .fretPending) || decide (g.run = .lfreePending) ||
  (match g.cwait with
    | some .viq => decide (g.viq ≠ [])
    | some (.viqReg rs) => (g.viqWrites g.seq).any rs.contains
    | some .viqFull => decide (64 ≤ g.viq.length)
    | _ => false)

/-- VP `e` is stalled where its source can never supply, or its sink never drain (01 R40). -/
def State.underflows (s : State) (e : Nat) : Bool :=
  decide ((s.g.vps.getD e {}).st = .stallRecv) && decide (s.sourceQ e = []) &&
  (match s.feeder e with
    | some k => decide ((s.g.vps.getD k {}).st = .stopped)
    | none => s.g.waitsForVf)
def State.overflows (s : State) (e : Nat) : Bool :=
  decide ((s.g.vps.getD e {}).st = .stallSend) && decide (4 ≤ (s.sinkQ e).length) &&
  (match s.taker e with
    | some k => decide ((s.g.vps.getD k {}).st = .stopped)
    | none => s.g.waitsForVf)

/-- Stalled VPs whose queue has room or a value are ready again (01 R39), and so are those whose line is free (04 R126). -/
def State.wakeVps (s : State) : State :=
  let f := fun (e : Nat) (v : Vp) =>
    let v := if v.line.any fun k => s.ops.any fun o => o.lines.contains k then v else { v with line := none }
    match v.st with
    | .stallSend => if (s.sinkQ e).length < 4 then { v with st := .ready } else v
    | .stallRecv => if s.sourceQ e ≠ [] then { v with st := .ready } else v
    | _ => v
  { s with g := { s.g with vps := s.g.vps.mapIdx f } }

/-- A `vf` is running. -/
def Group.vfRuns (g : Group) : Bool := decide (g.vps ≠ [])
def Group.vfDone (g : Group) : Bool := g.vps.all fun v => v.st = .out || v.st = .stopped
/-- The distinct program counters at which ready VPs stand (01 R31): a VP that waits for memory is not ready (R46). -/
def readyPcs (vps : List Vp) : List Word := ((vps.filter fun v => v.st = .ready && v.line.isNone).map fun v => v.pc).eraseDups
/-- Those program counters in the order of their turns: one where VPs have newly come waits behind the others (01 R31, R46). -/
def Group.pcOrder (g : Group) : List Word :=
  let l := readyPcs g.vps
  let old := g.turnPcs.filter fun p => l.contains p
  old ++ l.filter fun p => !old.contains p
/-- The running `vf` can move: an issue, a chord trap, or its completion. -/
def State.vfMoves (s : State) : Bool :=
  let s := s.wakeVps
  s.g.vfDone || (readyPcs s.g.vps ≠ [] : Bool) || (List.range s.g.vps.length).any fun e => s.underflows e || s.overflows e

/-- The oldest entry of the VIQ executes (01 R25). Of a running `vf`, one issue is made: a chord trap, its completion, or
the word at a program counter where ready VPs stand, each in its turn (01 R31, R46). -/
def State.portIssue (s : State) : Issue :=
  match s.g.viq with
  | [] => .done (.next s)
  | u :: rest =>
    let s := { s with g := { s.g with pwait := none }, vp := none }
    if s.g.vfRuns then
      let s := s.wakeVps
      match (List.range s.g.vps.length).find? s.underflows, (List.range s.g.vps.length).find? s.overflows with
      | some e, _ => .run .chordUnderflow { s with ev := { g := s.g.id, e := e } }
      | _, some e => .run .chordOverflow { s with ev := { g := s.g.id, e := e } }
      | none, none =>
        if s.g.vfDone then .run .vfComplete { s with ev := { g := s.g.id } }
        else
          match s.g.pcOrder with
          | [] => .done (.next s)
          | p :: r => .run .vpIssue { s with g := { s.g with turnPcs := r }, ev := { g := s.g.id, pc := p } }
    else if u.done || !u.enabled then .done (.next { s with g := { s.g with viq := rest } })
    else match decodeWord u.word with
      | .error _ => .done (.next { s with g := { s.g with viq := rest } })
      | .ok i => .run i { s with u := u, port := true, g := { s.g with viq := rest } }

/-- The word at a VP's program counter is taken for VP `e` alone (01 R29 to R31): its checks, and its execution by `run`. ADDR of
aib-overrun is the address of the 33rd word (log entry 48, DEDUCED). -/
def State.takeVp (run : Instr → State → Out) (s : State) (e : Nat) : Out :=
  let v := s.g.vps.getD e {}
  let head := s.g.viq.headD {}
  let near := match v.pfx.reverse with | (a, _) :: _ => a | [] => v.pc
  let u := { addr := (match v.pfx with | (a, _) :: _ => a | [] => v.pc), ipc := v.pc, vp0 := v, vl := head.vl, vst := head.vst,
             rm := head.rm, rot := head.rot, pimm := prefixWord 0 v.pfx, pscope := prefixWord 1 v.pfx,
             seq := v.seq : Unit }
  let s := { s with u := u, vp := some e, port := true }
  if 32 ≤ v.cnt then s.finish (.error (.trap { cause := 0x03, addr := v.pc }))
  else match s.fetchWord v.pc with
  | .error f => s.finish (.error (failStop noElem v.pc f))
  | .ok (w, s) =>
    let s := { s with u := { u with word := w } }
    match decodeWord w with
    | .error _ => s.finish (.error (.trap { cause := illegal, vcp := some (if opOf w = 0x7E then v.pc else (badPrefix (opOf w) v.pfx).getD near) }))
    | .ok i =>
      match (if clsOf i = .pfx then none else badPrefix (opOf w) v.pfx) with
      | some a => s.finish (.error (.trap { cause := illegal, vcp := some a }))
      | none =>
        if !aibLegal i || !s.budgetOk i || (match capA i with | some r => decide (s.g.budget ≤ r) | none => false) then
          s.finish (.error (.trap { cause := illegal, vcp := some near }))
        else 
          let v' := { v with pc := v.pc + 4, cnt := v.cnt + 1, pfx := (if clsOf i = .pfx then v.pfx else []) : Vp }
          run i { s with g := { s.g with vps := s.g.vps.set e v' } }

/-- What the next `n` units of VP `e`, of at most two prefix words each, will write, one after another (07 R192): the promise ends with the AIB. -/
def State.aheadVp (run : Instr → State → Out) (s : State) (e : Nat) (c : State) : Nat → Nat → List Shade
  | 0, _ => []
  | _, 0 => []
  | fuel + 1, n + 1 =>
    match c.tracing.takeVp run e with
    | .next q =>
      let v := c.g.vps.getD e {}
      let v' := q.g.vps.getD e {}
      if q.g.resident && decide (q.g.viq.length = c.g.viq.length) && decide (v.cnt < v'.cnt) && decide (v'.st = .ready) then
        (q.wrote.map fun k => ⟨k, q.regVal k, s.u.seq⟩) ++ State.aheadVp run s e q fuel (if v'.pfx = [] then n else n + 1)
      else []
    | _ => []

/-- A VP's unit between `s` and `q` counts in its stream, and leaves what it has overwritten. -/
def State.countVp (s q : State) (e la : Nat) : State :=
  let v := q.g.vps.getD e {}
  if q.g.vps = [] || v.cnt = s.u.vp0.cnt || v.pfx ≠ [] then q
  else
    let v' := { v with seq := s.u.seq + 1, shades := if v.cnt = 0 then [] else s.shadesAfter q s.u.seq la v.shades : Vp }
    { q with g := { q.g with vps := q.g.vps.set e v' } }

/-- The word at a VP's program counter executes for VP `e` alone (01 R29 to R31), by the meanings `run`, with what lookaheads
admit (07 R192). -/
def State.issueVp (run : Instr → State → Out) (s : State) (e : Nat) : Out :=
  s.takeVp (fun i s =>
    let ahead := if laOf i = 0 then [] else State.aheadVp run s e s (3 * laOf i) (laOf i)
    let plain := decide (s.u.vp0.shades = []) && decide (laOf i = 0)
    match State.looked run ahead i (if plain then s else s.tracing) with
    | .next q => .next { s.countVp q e (laOf i) with trace := none }
    | o => o) e

/-- The ready VPs that stand at a program counter, in index order (01 R31). -/
def Group.readyAt (g : Group) (pc : Word) : List Nat :=
  (List.range g.vps.length).filter fun e => let v := g.vps.getD e {}; v.st = .ready && v.line.isNone && decide (v.pc = pc)

/-- The word at a program counter executes for the VPs that stood ready there when it was chosen (01 R31): one that is released meanwhile
issues later, with all that are released with it (R35). A trap of one ends the issue, as the group stops. -/
def State.issueVps (run : Instr → State → Out) : List Nat → State → Out
  | [], s => .next { s with vp := none, port := false }
  | e :: es, s =>
    match s.issueVp run e with
    | .next s' => if s'.g.resident then State.issueVps run es s' else .next { s' with vp := none, port := false }
    | o => o

/-- A group whose control thread can try its next unit: waits that only an event ends are left to that event. -/
def Wait.polled : Wait → Bool
  | .acq _ _ => false
  | .bar _ => false
  | .vwait _ _ _ _ => false
  | .stest => false
  | _ => true
def Group.controlReady (g : Group) : Bool :=
  g.id ≠ 0 && decide (g.run = .running) && (match g.cwait with | some w => w.polled | none => true)
def Group.portReady (g : Group) : Bool :=
  g.id ≠ 0 && (match g.run with | .running => true | .fretPending => true | .lfreePending => true | _ => false) && decide (g.viq ≠ [])

/-- The port that the entry at the head of a VIQ issues on (01 R20): 1 vector, 2 memory. -/
def Group.portKind (g : Group) : Nat :=
  match g.viq with
  | u :: _ => (match decodeWord u.word with | .ok i => if clsOf i = .mem then 2 else 1 | .error _ => 1)
  | [] => 1

/-- The sector that a group stands on, as a number. -/
def State.sectorOf (s : State) (x : Group) : Nat := (s.teamD x.team).sectorNo x

/-- A step without a word that the agenda may name: not one that is a part of `crd` or `cwr` (95), or of a port's turn. -/
def agendaEvent (i : Instr) : Bool :=
  decide (clsOf i = .event) &&
  (match i with | .crdVcs => false | .cwrVcs => false | .cwrVl => false | .cwrTags => false | .cwrSavePool => false | .viqEnqueue => false | .vpIssue => false | _ => true)

/-- The clocks advance (02 R62, log entry 11, DESIGN CHOICE): `clk`, and the phase that `wsref` reads. -/
def State.tick (s : State) : State := { s with dies := s.dies.map fun d => { d with clk := d.clk + 1, phase := d.phase + 1 } }

end Sys2Proof.Machine
end

