-- ==== Sys2Proof/Machine/Flags.lean ====
section
/-! DEFINITION. Absent codes, strict and pass propagation (03 R83), conversion (R86), integer saturation (R69) and the
flags they raise. A result carries its pattern, its flags and whether it sets its `vo` bit. -/

namespace Sys2Proof.Machine

structure Res where
  bits : Nat
  fl : Sticky := {}
  vo : Bool := false
deriving DecidableEq, Repr

def Res.abs (r : Res) : Res := { r with fl := { r.fl with abs := true } }

/-- The largest present integer of a width (03 R68). -/
def satMax (w : Nat) : Int := 2 ^ (w - 1) - 1

/-- Saturation of an exact integer to a width (03 R69). -/
def satInt (w : Nat) (x : Int) : Res :=
  if x > satMax w then ⟨patInt w (satMax w), {}, true⟩
  else if x < -satMax w then ⟨patInt w (-satMax w), {}, true⟩
  else ⟨patInt w x, {}, false⟩

def FRes.toRes (r : FRes) : Res := ⟨r.bits, r.fl, false⟩

/-- The operations of 09 R245 and R248 that take two operands. -/
inductive BinOp where
  | add | sub | mul | min | max | div | and | or | xor | sll | srl | sra
deriving DecidableEq, Repr

/-- Operations that act on raw patterns (09 R247). -/
def BinOp.raw : BinOp → Bool
  | .and => true | .or => true | .xor => true | .sll => true | .srl => true | .sra => true | _ => false

/-- Two present operands (09 R245 to R248). -/
def BinOp.eval (o : BinOp) (t : Ty) (rm : RMode) (a b : Nat) : Res :=
  let w := t.bits
  match o with
  | .and => ⟨a &&& b, {}, false⟩
  | .or => ⟨a ||| b, {}, false⟩
  | .xor => ⟨a ^^^ b, {}, false⟩
  | .sll => ⟨if b ≥ w then 0 else a * 2 ^ b % 2 ^ w, {}, false⟩
  | .srl => ⟨if b ≥ w then 0 else a / 2 ^ b, {}, false⟩
  | .sra => ⟨patInt w (sextNat w a / (2 ^ (if b ≥ w then w else b) : Nat)), {}, false⟩
  | o => match t.fmt? with
    | some f =>
      let x := f.decode a
      let y := f.decode b
      (match o with
        | .add => f.addV rm x y
        | .sub => f.addV rm x y.neg
        | .mul => f.mulV rm x y
        | .div => f.divV rm x y
        | .min => f.minmax false a b
        | _ => f.minmax true a b).toRes
    | none =>
      let x := sextNat w a
      let y := sextNat w b
      match o with
      | .add => satInt w (x + y)
      | .sub => satInt w (x - y)
      | .mul => satInt w (x * y)
      | .div => if y = 0 then ⟨patInt w (if x > 0 then satMax w else if x < 0 then -satMax w else 0), {}, true⟩
        else ⟨patInt w (x.tdiv y), {}, false⟩
      | .min => ⟨if x ≤ y then a else b, {}, false⟩
      | _ => ⟨if x ≥ y then a else b, {}, false⟩

/-- The other operand delivered as an identity result (03 R83). -/
def deliver (o : BinOp) (t : Ty) (x : Nat) : Nat :=
  if o.raw then x else match t.fmt? with | some f => f.canon x | none => x

/-- −b for sub with a absent in pass mode (03 R83). -/
def negPat (t : Ty) (x : Nat) : Nat :=
  match t.fmt? with
  | some f => if (f.decode x).isNan then f.nan else x ^^^ 2 ^ (f.eb + f.mb)
  | none => patInt t.bits (-(sextNat t.bits x))

/-- A two-operand element operation in mode P (03 R83, 09 R243). -/
def BinOp.run (o : BinOp) (t : Ty) (p : Bool) (rm : RMode) (a b : Nat) : Res :=
  let xa := t.isAbsent a
  let xb := t.isAbsent b
  if !xa && !xb then o.eval t rm a b
  else if !p || (xa && xb) then ({ bits := t.absentCode } : Res).abs
  else if xa then
    (match o with
      | .sub => ({ bits := negPat t b } : Res)
      | .div => { bits := t.absentCode }
      | .sll => { bits := t.absentCode }
      | .srl => { bits := t.absentCode }
      | .sra => { bits := t.absentCode }
      | _ => { bits := deliver o t b }).abs
  else ({ bits := deliver o t a } : Res).abs

/-- a · b + d (09 R245), with 03 R83 for each position. -/
def macRun (t : Ty) (p : Bool) (rm : RMode) (a b d : Nat) : Res :=
  let xa := t.isAbsent a
  let xb := t.isAbsent b
  let xd := t.isAbsent d
  let full : Res := match t.fmt? with
    | some f => (f.fmaV rm (f.decode a) (f.decode b) (f.decode d)).toRes
    | none => satInt t.bits (sextNat t.bits a * sextNat t.bits b + sextNat t.bits d)
  if !xa && !xb && !xd then full
  else if !p then ({ bits := t.absentCode } : Res).abs
  else if xa || xb then ({ bits := if xd then t.absentCode else deliver .add t d } : Res).abs
  else (BinOp.eval .mul t rm a b).abs

/-- A one-operand element operation: an absent operand gives an absent result in both modes (03 R83). -/
def unRun (t : Ty) (f : Nat → Res) (a : Nat) : Res :=
  if t.isAbsent a then ({ bits := t.absentCode } : Res).abs else f a

/-- |a| (09 R246). A NaN of either kind gives the canonical NaN and no flag: "they raise no flag" is taken over the general
words of 03 R72 (log entry 57, DEDUCED). -/
def absEval (t : Ty) (a : Nat) : Res :=
  match t.fmt? with
  | some f => ⟨if (f.decode a).isNan then f.nan else a % 2 ^ (f.eb + f.mb), {}, false⟩
  | none => ⟨patInt t.bits (sextNat t.bits a).natAbs, {}, false⟩
/-- −a (09 R246), as `absEval`. -/
def negEval (t : Ty) (a : Nat) : Res :=
  match t.fmt? with
  | some f => ⟨if (f.decode a).isNan then f.nan else a ^^^ 2 ^ (f.eb + f.mb), {}, false⟩
  | none => ⟨patInt t.bits (-(sextNat t.bits a)), {}, false⟩

/-- Conditions of comparisons (09 R249). -/
inductive Cond where
  | eq | ne | lt | le | ult | ule
deriving DecidableEq, Repr

/-- A comparison of present patterns: its truth and its flags (03 R84, 09 R249). -/
def Cond.eval (o : Cond) (t : Ty) (a b : Nat) : Bool × Sticky :=
  match o with
  | .ult => (decide (a < b), {})
  | .ule => (decide (a ≤ b), {})
  | o => match t.fmt? with
    | some f =>
      let x := f.decode a
      let y := f.decode b
      let nan := x.isNan || y.isNan
      let sig := x.snan || y.snan
      match o with
      | .eq => (x.eq y, { nv := sig })
      | .ne => (!x.eq y, { nv := sig })
      | .lt => (!nan && x.lt y, { nv := nan })
      | _ => (!nan && !y.lt x, { nv := nan })
    | none =>
      let x := sextNat t.bits a
      let y := sextNat t.bits b
      match o with
      | .eq => (decide (x = y), {})
      | .ne => (decide (x ≠ y), {})
      | .lt => (decide (x < y), {})
      | _ => (decide (x ≤ y), {})

/-- Conversion of one element from type `t` to type `tt` (03 R86). `vo` stands for the saturation that sets `vo` in a
vector and NV on the control thread. -/
def convert (tt t : Ty) (rm : RMode) (a : Nat) : Res :=
  if t.isAbsent a then
    (match tt with
      | .i64 => ({ bits := 2 ^ 63, fl := { nv := true } } : Res)
      | _ => { bits := tt.absentCode }).abs
  else match t.fmt?, tt.fmt? with
    | none, none =>
      let x := sextNat t.bits a
      if tt = .i64 then ⟨patInt 64 x, {}, false⟩ else satInt tt.bits x
    | none, some f =>
      let x := sextNat t.bits a
      let big := Fmt.exact f (.fin false (2 ^ (f.mb + 1) - 1) (2 ^ f.eb - 2 + f.qmin - 1))
      let r := f.round rm (decide (x < 0)) x.natAbs 0
      let lim := f.decode big
      if lim.lt (.fin false x.natAbs 0) then ⟨f.withSign (decide (x < 0)) (f.infBits - 1), { of := true, nx := true }, true⟩
      else ⟨if x = 0 then 0 else r.bits, r.fl, false⟩
    | some f, none =>
      let w := tt.bits
      let lo : Int := if tt = .i64 then -2 ^ 63 else -satMax w
      let hi : Int := satMax w
      match f.decode a with
      | .nan _ => ⟨0, { nv := true }, tt ≠ .i64⟩
      | .inf s => ⟨patInt w (if s then lo else hi), { nv := true }, tt ≠ .i64⟩
      | .fin s m e =>
        let (x, ix) := toIntRound rm s m e
        if x > hi then ⟨patInt w hi, { nx := true, nv := decide (tt = .i64) }, tt ≠ .i64⟩
        else if x < lo then ⟨patInt w lo, { nx := true, nv := decide (tt = .i64) }, tt ≠ .i64⟩
        else ⟨patInt w x, { nx := ix }, false⟩
    | some f, some g =>
      match f.decode a with
      | .nan sig => ⟨g.nan, { nv := sig }, false⟩
      | .inf s => ⟨g.withSign s g.infBits, {}, false⟩
      | .fin s m e =>
        let r := g.round rm s m e
        if r.ovf then ⟨g.withSign s (g.infBits - 1), r.fl, true⟩ else ⟨r.bits, r.fl, false⟩

end Sys2Proof.Machine

namespace Sys2Proof

open Sys2Proof.Machine

/-- A result of type `t` as a `c` register holds it (02 R55, 08 R224, 09 R254). -/
def Ty.toC (t : Ty) (x : Nat) : Word := if t.isInt then BitVec.ofInt 64 (sextNat t.bits x) else w64 x

end Sys2Proof
end

