-- ==== Sys2Proof/Machine/Scalar.lean ====
section
/-! DEFINITION. The scalar instructions of the control thread (08 R213 to R226). Each meaning starts with the program
counter past its unit and its operands in the `c` registers; only a transfer of control writes the program counter. -/

namespace Sys2Proof.Machine

/-- Divisions, rounded towards zero, with the exceptional results of 08 R214. -/
def divS (x y : Word) : Word := if y = 0 then BitVec.allOnes 64 else BitVec.ofInt 64 (x.toInt.tdiv y.toInt)
def divU (x y : Word) : Word := if y = 0 then BitVec.allOnes 64 else w64 (x.toNat / y.toNat)
def remS (x y : Word) : Word := if y = 0 then x else BitVec.ofInt 64 (x.toInt.tmod y.toInt)
def remU (x y : Word) : Word := if y = 0 then x else w64 (x.toNat % y.toNat)

/-- The floating-point format of a type; an integer type raises illegal-instruction (08 R222, R225). -/
def fmtM (t : Ty) : M Fmt := match t.fmt? with | some f => .ok f | none => ill

/-- Strict propagation on the control thread (08 R223): an absent operand gives the absent code, with ABS alone. -/
def strict (t : Ty) (xs : List Nat) (r : FRes) : FRes :=
  if xs.any t.isAbsent then { bits := t.absentCode, fl := { abs := true } } else r

/-- `fadd` to `fmax` (08 R222, R223). -/
def State.farith (s : State) (o : BinOp) (t : Ty) (d a b : CReg) : M State := do
  let _ ← fmtM t
  let r := o.run t false s.g.rm ((s.c a).toNat % 2 ^ t.bits) ((s.c b).toNat % 2 ^ t.bits)
  .ok ((s.setC d (w64 r.bits)).raise r.fl)

/-- `fcmp` (08 R222, R223). -/
def State.fcompare (s : State) (o : Cond) (t : Ty) (d a b : CReg) : M State := do
  let _ ← fmtM t
  let x := (s.c a).toNat % 2 ^ t.bits
  let y := (s.c b).toNat % 2 ^ t.bits
  if t.isAbsent x || t.isAbsent y then .ok ((s.setC d 0).raise { abs := true })
  else
    let (v, f) := o.eval t x y
    .ok ((s.setC d (w64 (b2n v))).raise f)

/-- `add` (08 R213). -/
def execAdd (d a b : CReg) (s : State) : Out :=
  .next (s.setC d (s.c a + s.c b))

/-- `sub` (08 R213). -/
def execSub (d a b : CReg) (s : State) : Out :=
  .next (s.setC d (s.c a - s.c b))

/-- `mul` (08 R213). -/
def execMul (d a b : CReg) (s : State) : Out :=
  .next (s.setC d (s.c a * s.c b))

/-- `mulh`: the upper half of the exact signed product (08 R213). -/
def execMulh (d a b : CReg) (s : State) : Out :=
  .next (s.setC d (((s.c a).signExtend 128 * (s.c b).signExtend 128).extractLsb' 64 64))

/-- `mulhu`: the upper half of the exact unsigned product (08 R213). -/
def execMulhu (d a b : CReg) (s : State) : Out :=
  .next (s.setC d (((s.c a).zeroExtend 128 * (s.c b).zeroExtend 128).extractLsb' 64 64))

/-- `and` (08 R213). -/
def execAnd (d a b : CReg) (s : State) : Out :=
  .next (s.setC d (s.c a &&& s.c b))

/-- `or` (08 R213). -/
def execOr (d a b : CReg) (s : State) : Out :=
  .next (s.setC d (s.c a ||| s.c b))

/-- `xor` (08 R213). -/
def execXor (d a b : CReg) (s : State) : Out :=
  .next (s.setC d (s.c a ^^^ s.c b))

/-- `sll`: by the low six bits (08 R213). -/
def execSll (d a b : CReg) (s : State) : Out :=
  .next (s.setC d (s.c a <<< ((s.c b).toNat % 64)))

/-- `srl` (08 R213). -/
def execSrl (d a b : CReg) (s : State) : Out :=
  .next (s.setC d (s.c a >>> ((s.c b).toNat % 64)))

/-- `sra` (08 R213). -/
def execSra (d a b : CReg) (s : State) : Out :=
  .next (s.setC d ((s.c a).sshiftRight ((s.c b).toNat % 64)))

/-- `slt` (08 R213). -/
def execSlt (d a b : CReg) (s : State) : Out :=
  .next (s.setC d (w64 (b2n ((s.c a).slt (s.c b)))))

/-- `sltu` (08 R213). -/
def execSltu (d a b : CReg) (s : State) : Out :=
  .next (s.setC d (w64 (b2n ((s.c a).ult (s.c b)))))

/-- `min`, signed (08 R213). -/
def execMin (d a b : CReg) (s : State) : Out :=
  .next (s.setC d (if (s.c a).slt (s.c b) then s.c a else s.c b))

/-- `max`, signed (08 R213). -/
def execMax (d a b : CReg) (s : State) : Out :=
  .next (s.setC d (if (s.c a).slt (s.c b) then s.c b else s.c a))

/-- `div` (08 R214). -/
def execDiv (d a b : CReg) (la : BitVec 4) (s : State) : Out :=
  .next (s.setLate d (divS (s.c a) (s.c b)) la.toNat true)

/-- `divu` (08 R214). -/
def execDivu (d a b : CReg) (la : BitVec 4) (s : State) : Out :=
  .next (s.setLate d (divU (s.c a) (s.c b)) la.toNat true)

/-- `rem` (08 R214). -/
def execRem (d a b : CReg) (la : BitVec 4) (s : State) : Out :=
  .next (s.setLate d (remS (s.c a) (s.c b)) la.toNat true)

/-- `remu` (08 R214). -/
def execRemu (d a b : CReg) (la : BitVec 4) (s : State) : Out :=
  .next (s.setLate d (remU (s.c a) (s.c b)) la.toNat true)

/-- `addi` (08 R215). -/
def execAddi (d a : CReg) (imm : BitVec 13) (s : State) : Out :=
  .next (s.setC d (s.c a + s.immI imm))

/-- `andi` (08 R215). -/
def execAndi (d a : CReg) (imm : BitVec 13) (s : State) : Out :=
  .next (s.setC d (s.c a &&& s.immI imm))

/-- `ori` (08 R215). -/
def execOri (d a : CReg) (imm : BitVec 13) (s : State) : Out :=
  .next (s.setC d (s.c a ||| s.immI imm))

/-- `xori` (08 R215). -/
def execXori (d a : CReg) (imm : BitVec 13) (s : State) : Out :=
  .next (s.setC d (s.c a ^^^ s.immI imm))

/-- `slti` (08 R215). -/
def execSlti (d a : CReg) (imm : BitVec 13) (s : State) : Out :=
  .next (s.setC d (w64 (b2n ((s.c a).slt (s.immI imm)))))

/-- `sltiu` (08 R215). -/
def execSltiu (d a : CReg) (imm : BitVec 13) (s : State) : Out :=
  .next (s.setC d (w64 (b2n ((s.c a).ult (s.immI imm)))))

/-- `slli` (08 R216). -/
def execSlli (d a : CReg) (n : BitVec 6) (s : State) : Out :=
  .next (s.setC d (s.c a <<< n.toNat))

/-- `srli` (08 R216). -/
def execSrli (d a : CReg) (n : BitVec 6) (s : State) : Out :=
  .next (s.setC d (s.c a >>> n.toNat))

/-- `srai` (08 R216). -/
def execSrai (d a : CReg) (n : BitVec 6) (s : State) : Out :=
  .next (s.setC d ((s.c a).sshiftRight n.toNat))

/-- `lui` (08 R217). -/
def execLui (d : CReg) (imm : BitVec 19) (s : State) : Out :=
  .next (s.setC d (imm.signExtend 64 <<< 13))

/-- `lpc` (08 R217): from the address of the instruction word. -/
def execLpc (d : CReg) (imm : BitVec 19) (s : State) : Out :=
  .next (s.setC d (s.u.ipc + (imm.signExtend 64 <<< 13)))

/-- `ld` (08 R218, R219): sign-extended; with d = 0 the access is performed and the value discarded. -/
def execLd (d a : CReg) (sz : Sz) (off : BitVec 7) (la : BitVec 4) (s : State) : Out :=
  s.finish do
    let ea := s.c a + s.offIL off sz.bytes
    let (x, s') ← s.load noElem ea sz.bytes true
    .ok (s'.setLate d (BitVec.ofInt 64 (sextNat (8 * sz.bytes) x)) la.toNat false)

/-- `ldu` (08 R218, R219): zero-extended. -/
def execLdu (d a : CReg) (sz : Sz) (off : BitVec 7) (la : BitVec 4) (s : State) : Out :=
  s.finish do
    need (sz ≠ .d)
    let ea := s.c a + s.offIL off sz.bytes
    let (x, s') ← s.load noElem ea sz.bytes true
    .ok (s'.setLate d (w64 x) la.toNat false)

/-- `st` (08 R218, R219); its lookahead changes no outcome. -/
def execSt (d a : CReg) (sz : Sz) (off : BitVec 7) (_la : BitVec 4) (s : State) : Out :=
  s.finish (s.storeM noElem (s.c a + s.offIL off sz.bytes) sz.bytes (s.c d).toNat true)

/-- `beq` (08 R220). -/
def execBeq (a b : CReg) (off : BitVec 13) (s : State) : Out :=
  .next (if s.c a = s.c b then s.jump (s.target off) else s)

/-- `bne` (08 R220). -/
def execBne (a b : CReg) (off : BitVec 13) (s : State) : Out :=
  .next (if s.c a ≠ s.c b then s.jump (s.target off) else s)

/-- `blt` (08 R220). -/
def execBlt (a b : CReg) (off : BitVec 13) (s : State) : Out :=
  .next (if (s.c a).slt (s.c b) then s.jump (s.target off) else s)

/-- `bge` (08 R220). -/
def execBge (a b : CReg) (off : BitVec 13) (s : State) : Out :=
  .next (if !(s.c a).slt (s.c b) then s.jump (s.target off) else s)

/-- `bltu` (08 R220). -/
def execBltu (a b : CReg) (off : BitVec 13) (s : State) : Out :=
  .next (if (s.c a).ult (s.c b) then s.jump (s.target off) else s)

/-- `bgeu` (08 R220). -/
def execBgeu (a b : CReg) (off : BitVec 13) (s : State) : Out :=
  .next (if !(s.c a).ult (s.c b) then s.jump (s.target off) else s)

/-- `jal` (08 R221). -/
def execJal (d : CReg) (off : BitVec 19) (s : State) : Out :=
  .next ((s.setC d s.next).jump (s.target off))

/-- `jalr` (08 R221): a target that is no multiple of 4 traps and writes nothing (07 R186). -/
def execJalr (d a : CReg) (imm : BitVec 13) (s : State) : Out :=
  s.finish do
    let t := s.c a + s.immI imm
    if t.toNat % 4 ≠ 0 then .error (.trap { cause := causeMisaligned, addr := t }) else .ok ((s.setC d s.next).jump t)

/-- `fadd` (08 R222, R223). -/
def execFadd (d a b : CReg) (t : Ty) (s : State) : Out :=
  s.finish (s.farith .add t d a b)

/-- `fsub` (08 R222, R223). -/
def execFsub (d a b : CReg) (t : Ty) (s : State) : Out :=
  s.finish (s.farith .sub t d a b)

/-- `fmul` (08 R222, R223). -/
def execFmul (d a b : CReg) (t : Ty) (s : State) : Out :=
  s.finish (s.farith .mul t d a b)

/-- `fmin` (08 R222, R223). -/
def execFmin (d a b : CReg) (t : Ty) (s : State) : Out :=
  s.finish (s.farith .min t d a b)

/-- `fmax` (08 R222, R223). -/
def execFmax (d a b : CReg) (t : Ty) (s : State) : Out :=
  s.finish (s.farith .max t d a b)

/-- `fcmp.eq` (08 R222, R223). -/
def execFcmpEq (d a b : CReg) (t : Ty) (s : State) : Out :=
  s.finish (s.fcompare .eq t d a b)

/-- `fcmp.lt` (08 R222, R223). -/
def execFcmpLt (d a b : CReg) (t : Ty) (s : State) : Out :=
  s.finish (s.fcompare .lt t d a b)

/-- `fcmp.le` (08 R222, R223). -/
def execFcmpLe (d a b : CReg) (t : Ty) (s : State) : Out :=
  s.finish (s.fcompare .le t d a b)

/-- `fcvt` from type t to the type coded in b (08 R224). -/
def execFcvt (d a : CReg) (code : BitVec 6) (t : Ty) (s : State) : Out :=
  s.finish do
    need (code.toNat < 8 ∧ code.toNat ≠ t.code.toNat)
    let tt := Ty.ofCode (code.truncate 3)
    let r := convert tt t s.g.rm ((s.c a).toNat % 2 ^ t.bits)
    .ok ((s.setC d (tt.toC r.bits)).raise { r.fl with nv := r.fl.nv || r.vo })

/-- `fdiv` (08 R225). -/
def execFdiv (d a b : CReg) (t : Ty) (la : BitVec 4) (s : State) : Out :=
  s.finish do
    let f ← fmtM t
    let x := (s.c a).toNat % 2 ^ t.bits
    let y := (s.c b).toNat % 2 ^ t.bits
    let r := strict t [x, y] (f.divV s.g.rm (f.decode x) (f.decode y))
    .ok ((s.raise r.fl).setLate d (w64 r.bits) la.toNat true)

/-- `fsqrt` (08 R225). -/
def execFsqrt (d a : CReg) (t : Ty) (la : BitVec 4) (s : State) : Out :=
  s.finish do
    let f ← fmtM t
    let x := (s.c a).toNat % 2 ^ t.bits
    let r := strict t [x] (f.sqrtV s.g.rm (f.decode x))
    .ok ((s.raise r.fl).setLate d (w64 r.bits) la.toNat true)

/-- `fma` (08 R225): reads c[d] as its addend before it writes c[d]. -/
def execFma (d a b : CReg) (t : Ty) (la : BitVec 4) (s : State) : Out :=
  s.finish do
    let f ← fmtM t
    let x := (s.c a).toNat % 2 ^ t.bits
    let y := (s.c b).toNat % 2 ^ t.bits
    let z := (s.c d).toNat % 2 ^ t.bits
    let r := strict t [x, y, z] (f.fmaV s.g.rm (f.decode x) (f.decode y) (f.decode z))
    .ok ((s.raise r.fl).setLate d (w64 r.bits) la.toNat true)

/-- `setvl` (08 R226): stalls while `vl` is pending (01 R23). -/
def execSetvl (d a : CReg) (imm : BitVec 13) (s : State) : Out :=
  s.finish do
    need (imm.toNat = 8 ∨ imm.toNat = 16 ∨ imm.toNat = 32 ∨ imm.toNat = 256)
    if s.vlPending then holdM .vl else
    let v := min (s.c a).toNat (s.vlmax imm.toNat)
    .ok (({ s with g := { s.g with vl := BitVec.ofNat 12 v } } : State).setC d (w64 v))

end Sys2Proof.Machine
end

