-- ==== Sys2Proof/Machine/Vector.lean ====
section
/-! DEFINITION. The two contexts of a vector instruction (09 R239): the elements of the control stream, or the one
element of the executing VP; and the shared shape of element-wise instructions (09 R243). -/

namespace Sys2Proof

/-- Types of the shifts and of `vcmpu` (09 R240). -/
def Ty.shiftable (t : Ty) : Bool := t.six && t.isInt

end Sys2Proof

namespace Sys2Proof.Machine

/-- An operand element: in an AIB the low bits of the VP's 32-bit element (01 R13). -/
def State.opEl (s : State) (r w e : Nat) : Nat :=
  match s.vp with
  | none => s.el r w e
  | some v => s.el r 32 v % 2 ^ w

/-- Write result elements; in an AIB the upper bits of the VP's element are undisturbed (01 R13), and a word that is not written in full
stays poisoned (log entry 52, DEDUCED). -/
def State.setOpEls (s : State) (r w : Nat) (l : List (Nat × Nat)) : State :=
  match s.vp with
  | none => s.setEls r w l
  | some v =>
    let q := s.setEls r 32 (l.map fun ev => (v, getEl 32 (s.vphys (s.reg r)) v / 2 ^ w * 2 ^ w + ev.2 % 2 ^ w))
    if w < 32 then { q with g := { q.g with rpoison := s.g.rpoison } } else q

/-- The elements an instruction acts on. -/
def State.actives (s : State) : List Nat :=
  match s.vp with
  | none => s.active
  | some v => if s.g.vm.getLsbD v then [v] else []

/-- The elements of an instruction that reads or writes `vm` as data: always active in an AIB (09 R239). -/
def State.dataActives (s : State) : List Nat :=
  match s.vp with
  | none => s.active
  | some v => [v]

/-- A b operand: an element, or the broadcast value (07 R191), which does not exist in an AIB. -/
def State.bEl (s : State) (b : BOp) (w e : Nat) : Nat :=
  match b with
  | .v r => s.opEl r.toNat w e
  | .c _ => s.u.opB.toNat % 2 ^ w

/-- Registers of a b operand. -/
def bReg : BOp → List Nat
  | .v r => [r.toNat]
  | .c _ => []

/-- S is not admitted in an AIB (07 R191). -/
def State.needB (s : State) (b : BOp) : M PUnit :=
  match b with
  | .v _ => .ok ⟨⟩
  | .c _ => need (s.vp.isNone = true)

/-- Source registers of one width. -/
def srcsOf (w : Nat) (src : List Nat) (which : Option (List Nat) := none) : List Src := src.map fun r => ⟨r, w, 0, which⟩

/-- The checks of an instruction that reads registers `src` and writes registers `dst` at width `w` which need no element: the budget
(01 R14), `vl` (02 R54), and bound registers (05 R148, R149). Inside an AIB `vl` plays no part. -/
def State.vlegal (s : State) (w : Nat) (src dst : List Nat) : M PUnit := do
  allM ((src ++ dst).map s.needReg)
  if s.vp.isNone then s.needVl w else pure ⟨⟩
  allM (dst.map s.needUnbound)
  allM ((srcsOf w src).map s.needBind)

/-- The same with the reading of the sources: the active elements, or those of `which`. -/
def State.vcheck (s : State) (w : Nat) (src dst : List Nat) (which : Option (List Nat) := none) : M PUnit := do
  s.vlegal w src dst
  s.needSrcs (srcsOf w src which)

/-- The elements that an instruction reads which is always active in an AIB (09 R239). -/
def State.always (s : State) : Option (List Nat) := s.vp.map fun v => [v]

/-- All flags of a list of results. -/
def flagsOf (l : List (Nat × Res)) : Sticky := l.foldl (fun f r => f.or r.2.fl) {}

/-- Deliver results to elements of register `d`, their `vo` bits and flags (09 R243). -/
def State.putRes (s : State) (d w : Nat) (l : List (Nat × Res)) : State :=
  ((s.setOpEls d w (l.map fun r => (r.1, r.2.bits))).setVo ((l.filter fun r => r.2.vo).map fun r => r.1)).raise (flagsOf l)

/-- An element-wise instruction on types `adm`: checks, then `f` at every active element (09 R243). -/
def State.elementwise (s : State) (adm : Bool) (t : Ty) (d : VName) (src : List Nat) (f : Nat → Res) : M State := do
  need (adm = true)
  s.vcheck t.bits src [d.toNat]
  .ok ((s.putRes d.toNat t.bits (s.actives.map fun e => (e, f e))).consume src)

/-- A two-operand instruction of 09 R245. -/
def State.vbin (s : State) (o : BinOp) (adm : Ty → Bool) (d a : VName) (b : BOp) (t : Ty) (p : Bool) : M State := do
  s.needB b
  s.elementwise (adm t) t d (a.toNat :: bReg b) fun e => o.run t p s.u.rm (s.opEl a.toNat t.bits e) (s.bEl b t.bits e)

/-- A one-operand instruction of 09 R245. -/
def State.vun (s : State) (f : Ty → Nat → Res) (d a : VName) (t : Ty) : M State :=
  s.elementwise t.six t d [a.toNat] fun e => unRun t (f t) (s.opEl a.toNat t.bits e)



/-- A comparison (09 R249): writes `vm` at the active elements; an absent operand gives 0, with ABS. -/
def State.vcmp (s : State) (o : Cond) (adm : Bool) (a : VName) (b : BOp) (t : Ty) : M State := do
  s.needB b
  need (adm = true)
  let src := a.toNat :: bReg b
  s.vcheck t.bits src [] s.always
  let rs := s.dataActives.map fun e =>
    let x := s.opEl a.toNat t.bits e
    let y := s.bEl b t.bits e
    if t.isAbsent x || t.isAbsent y then (e, false, ({ abs := true } : Sticky))
    else let r := o.eval t x y; (e, r.1, r.2)
  .ok (((s.writeVm (rs.map fun r => (r.1, r.2.1))).raise (rs.foldl (fun f r => f.or r.2.2) {})).consume src)

end Sys2Proof.Machine
end

