-- ==== Sys2Proof/Machine/VectorArith.lean ====
section
/-! DEFINITION. Vector arithmetic, logic, comparison, selection, moves and fills (09 R245 to R255). A meaning executes its
entry with the operands captured in `State.u`; the port removes the entry from the VIQ. -/

namespace Sys2Proof

/-- Types that moves admit (09 R240): the six types and the facet type, written t = 111. -/
def Ty.moves (t : Ty) : Bool := decide (t ≠ .i64)
/-- Width that a move counts in. -/
def Ty.mwidth (t : Ty) : Nat := if t = .f64 then 256 else t.bits

end Sys2Proof

namespace Sys2Proof.Machine

/-- size(m) of a mask (09 R253). -/
def State.maskSize (s : State) : MaskSel → Nat
  | .j _ => s.vlmax 32
  | _ => s.vlmax 8
/-- A mask as a number. -/
def State.maskOf (s : State) (m : MaskSel) : Nat :=
  (match m with
    | .vm => s.g.vm.toNat
    | .vo => s.g.vo.toNat
    | .j k => (Bank.get 0 s.g.j k.toNat).toNat) % 2 ^ s.maskSize m
/-- Write the first size(m) bits of a mask. -/
def State.setMask (s : State) (m : MaskSel) (x : Nat) : State :=
  let n := s.maskSize m
  let mix := fun (old : Nat) => old / 2 ^ n * 2 ^ n + x % 2 ^ n
  let s := match m with
    | .vm => s.noteMask shadeVm (List.range n)
    | .vo => s.noteMask shadeVo (List.range n)
    | .j _ => s
  match m with
  | .vm => { s with g := { s.g with vm := BitVec.ofNat 2048 (mix s.g.vm.toNat) } }
  | .vo => { s with g := { s.g with vo := BitVec.ofNat 2048 (mix s.g.vo.toNat) } }
  | .j k => { s with g := { s.g with j := Bank.set 0 s.g.j k.toNat (BitVec.ofNat 512 (mix (Bank.get 0 s.g.j k.toNat).toNat)) } }

def causeIndex : Byte := 0x0A

/-- The index in c[b] is below `vl`, else index-range (09 R254). -/
def State.needIndex (s : State) : M PUnit :=
  if s.u.opB.toNat < s.u.vl.toNat then .ok ⟨⟩ else .error (.trap { cause := causeIndex, idx := s.u.opB })

/-- `vadd` (09 R245 to R247). -/
def execVadd (d a : VName) (b : BOp) (t : Ty) (p : Bool) (s : State) : Out :=
  s.finish (s.vbin .add Ty.six d a b t p)

/-- `vsub` (09 R245 to R247). -/
def execVsub (d a : VName) (b : BOp) (t : Ty) (p : Bool) (s : State) : Out :=
  s.finish (s.vbin .sub Ty.six d a b t p)

/-- `vmul` (09 R245 to R247). -/
def execVmul (d a : VName) (b : BOp) (t : Ty) (p : Bool) (s : State) : Out :=
  s.finish (s.vbin .mul Ty.six d a b t p)

/-- `vmin` (09 R245 to R247). -/
def execVmin (d a : VName) (b : BOp) (t : Ty) (p : Bool) (s : State) : Out :=
  s.finish (s.vbin .min Ty.six d a b t p)

/-- `vmax` (09 R245 to R247). -/
def execVmax (d a : VName) (b : BOp) (t : Ty) (p : Bool) (s : State) : Out :=
  s.finish (s.vbin .max Ty.six d a b t p)

/-- `vand` (09 R245 to R247). -/
def execVand (d a : VName) (b : BOp) (t : Ty) (p : Bool) (s : State) : Out :=
  s.finish (s.vbin .and Ty.six d a b t p)

/-- `vor` (09 R245 to R247). -/
def execVor (d a : VName) (b : BOp) (t : Ty) (p : Bool) (s : State) : Out :=
  s.finish (s.vbin .or Ty.six d a b t p)

/-- `vxor` (09 R245 to R247). -/
def execVxor (d a : VName) (b : BOp) (t : Ty) (p : Bool) (s : State) : Out :=
  s.finish (s.vbin .xor Ty.six d a b t p)

/-- `vsll` (09 R245 to R247). -/
def execVsll (d a : VName) (b : BOp) (t : Ty) (p : Bool) (s : State) : Out :=
  s.finish (s.vbin .sll Ty.shiftable d a b t p)

/-- `vsrl` (09 R245 to R247). -/
def execVsrl (d a : VName) (b : BOp) (t : Ty) (p : Bool) (s : State) : Out :=
  s.finish (s.vbin .srl Ty.shiftable d a b t p)

/-- `vsra` (09 R245 to R247). -/
def execVsra (d a : VName) (b : BOp) (t : Ty) (p : Bool) (s : State) : Out :=
  s.finish (s.vbin .sra Ty.shiftable d a b t p)

/-- `vmac` (09 R245, R246): reads d as its third operand. -/
def execVmac (d a : VName) (b : BOp) (t : Ty) (p : Bool) (s : State) : Out :=
  s.finish do
    s.needB b
    s.elementwise t.six t d (a.toNat :: d.toNat :: bReg b) fun e =>
      macRun t p s.u.rm (s.opEl a.toNat t.bits e) (s.bEl b t.bits e) (s.opEl d.toNat t.bits e)

/-- `vabs` (09 R245 to R247); P is admitted and has no effect. -/
def execVabs (d a : VName) (t : Ty) (_p : Bool) (s : State) : Out :=
  s.finish (s.vun (absEval) d a t)

/-- `vneg` (09 R245 to R247); P is admitted and has no effect. -/
def execVneg (d a : VName) (t : Ty) (_p : Bool) (s : State) : Out :=
  s.finish (s.vun (negEval) d a t)

/-- `vnot` (09 R245 to R247); P is admitted and has no effect. -/
def execVnot (d a : VName) (t : Ty) (_p : Bool) (s : State) : Out :=
  s.finish (s.vun (fun t x => ⟨2 ^ t.bits - 1 - x, {}, false⟩) d a t)

/-- `vdiv` (09 R248). -/
def execVdiv (d a b : VName) (t : Ty) (p : Bool) (_la : BitVec 3) (s : State) : Out :=
  s.finish (s.vbin .div Ty.six d a (.v b) t p)

/-- A comparison (09 R249). -/
def execVcmpEq (a : VName) (b : BOp) (t : Ty) (s : State) : Out :=
  s.finish (s.vcmp .eq (t.six) a b t)

/-- A comparison (09 R249). -/
def execVcmpNe (a : VName) (b : BOp) (t : Ty) (s : State) : Out :=
  s.finish (s.vcmp .ne (t.six) a b t)

/-- A comparison (09 R249). -/
def execVcmpLt (a : VName) (b : BOp) (t : Ty) (s : State) : Out :=
  s.finish (s.vcmp .lt (t.six) a b t)

/-- A comparison (09 R249). -/
def execVcmpLe (a : VName) (b : BOp) (t : Ty) (s : State) : Out :=
  s.finish (s.vcmp .le (t.six) a b t)

/-- A comparison (09 R249). -/
def execVcmpuLt (a : VName) (b : BOp) (t : Ty) (s : State) : Out :=
  s.finish (s.vcmp .ult (t.shiftable) a b t)

/-- A comparison (09 R249). -/
def execVcmpuLe (a : VName) (b : BOp) (t : Ty) (s : State) : Out :=
  s.finish (s.vcmp .ule (t.shiftable) a b t)

/-- `vabsent` (09 R250). -/
def execVabsent (a : VName) (t : Ty) (s : State) : Out :=
  s.finish do
    need (t.six = true)
    s.vcheck t.bits [a.toNat] [] s.always
    let rs := s.dataActives.map fun e => (e, t.isAbsent (s.opEl a.toNat t.bits e))
    .ok (((s.writeVm rs).raise { abs := rs.any fun r => r.2 }).consume [a.toNat])

/-- `vsel` (09 R251): `vm` selects, and leaves the mask; raw patterns move. -/
def execVsel (d a : VName) (b : BOp) (t : Ty) (s : State) : Out :=
  s.finish do
    s.needB b
    need (t.moves = true ∧ (t = .f64 → s.vp.isNone ∧ bReg b ≠ []))
    let w := t.mwidth
    let src := a.toNat :: bReg b
    s.vlegal w src [d.toNat]
    let es := match s.vp with
      | some v => [v]
      | none => if s.u.stageOk then List.range s.u.vl.toNat else []
    s.needSrcs (⟨a.toNat, w, 0, some (es.filter fun e => s.g.vm.getLsbD e)⟩ :: srcsOf w (bReg b) (some (es.filter fun e => !s.g.vm.getLsbD e)))
    .ok ((s.setOpEls d.toNat w (es.map fun e => (e, if s.g.vm.getLsbD e then s.opEl a.toNat w e else s.bEl b w e))).consume src)

/-- `vomov` (09 R252). -/
def execVomov (s : State) : Out :=
  let es := s.dataActives
  let s' := s.writeVm (es.map fun e => (e, s.g.vo.getLsbD e))
  .next { s'.noteMask shadeVo es with g := { s'.g with vo := clearBits 2048 s'.g.vo es } }

/-- `vmsave` (09 R253): the whole mask, whatever `vl`, `vm` and the stage predicate say. -/
def execVmsave (d : VName) (m : MaskSel) (s : State) : Out :=
  s.finish do
    need (s.vp.isNone = true)
    s.needReg d.toNat
    s.needUnbound d.toNat
    let p := s.reg d.toNat
    .ok (((s.cleanReg p (List.range 512)).noteWrite p (BitVec.allOnes 16384)).setVphys p (s.maskOf m))

/-- `vmload` (09 R253): the first size(m) bits of the register, whatever `vl`, `vm` and the stage predicate say. -/
def execVmload (a : VName) (m : MaskSel) (s : State) : Out :=
  s.finish do
    need (s.vp.isNone = true)
    s.needReg a.toNat
    s.needSrc a.toNat 8 0 (some (List.range ((s.maskSize m + 7) / 8)))
    .ok ((s.setMask m (s.vphys (s.reg a.toNat))).consume [a.toNat])

/-- `vmov` (09 R254). -/
def execVmov (d a : VName) (t : Ty) (s : State) : Out :=
  s.finish do
    need (t.moves = true ∧ (t = .f64 → s.vp.isNone))
    s.vcheck t.mwidth [a.toNat] [d.toNat]
    .ok ((s.setOpEls d.toNat t.mwidth (s.actives.map fun e => (e, s.opEl a.toNat t.mwidth e))).consume [a.toNat])

/-- `vmov` of a `c` register (09 R254): not in an AIB, and not of the facet type. -/
def execVmovScalar (d : VName) (_b : CReg) (t : Ty) (s : State) : Out :=
  s.finish do
    need (t.six = true ∧ s.vp.isNone)
    s.vcheck t.bits [] [d.toNat]
    .ok (s.setEls d.toNat t.bits (s.active.map fun e => (e, s.u.opB.toNat)))

/-- `vbcast` (09 R254): its range check applies even when no element is active. -/
def execVbcast (d a : VName) (_b : CReg) (t : Ty) (s : State) : Out :=
  s.finish do
    need (t.moves = true ∧ s.vp.isNone)
    s.vlegal t.mwidth [a.toNat] [d.toNat]
    s.needIndex
    s.needSrc a.toNat t.mwidth 0 (some (if s.active = [] then [] else [s.u.opB.toNat]))
    .ok ((s.setEls d.toNat t.mwidth (s.active.map fun e => (e, s.el a.toNat t.mwidth s.u.opB.toNat))).consume [a.toNat])

/-- `vext` (09 R254): ignores `vm`; a disabled stage disables it whole (09 R268). -/
def execVext (d : CReg) (a : VName) (_b : CReg) (t : Ty) (s : State) : Out :=
  s.finish do
    need (t.six = true ∧ s.vp.isNone)
    s.vlegal t.bits [a.toNat] []
    s.needIndex
    s.needSrc a.toNat t.bits 0 (some [s.u.opB.toNat])
    .ok ((s.setC d (t.toC (s.el a.toNat t.bits s.u.opB.toNat))).consume [a.toNat])

/-- `vsetabs` (09 R254). -/
def execVsetabs (d : VName) (t : Ty) (s : State) : Out :=
  s.finish do
    need (t.six = true)
    s.vcheck t.bits [] [d.toNat]
    .ok (s.setOpEls d.toNat t.bits (s.actives.map fun e => (e, t.absentCode)))

/-- `vfill` (09 R255): writes exactly the elements that are not active. -/
def execVfill (d : VName) (t : Ty) (s : State) : Out :=
  s.finish do
    need (t.six = true ∧ s.vp.isNone)
    s.vcheck t.bits [] [d.toNat]
    .ok (s.setEls d.toNat t.bits (((List.range (s.vlmax t.bits)).filter fun e => !s.eff e).map fun e => (e, t.absentCode)))

/-- `vfill` (09 R255): writes exactly the elements that are not active. -/
def execVfillScalar (d : VName) (_b : CReg) (t : Ty) (s : State) : Out :=
  s.finish do
    need (t.six = true ∧ s.vp.isNone)
    s.vcheck t.bits [] [d.toNat]
    .ok (s.setEls d.toNat t.bits (((List.range (s.vlmax t.bits)).filter fun e => !s.eff e).map fun e => (e, s.u.opB.toNat)))

end Sys2Proof.Machine
end

