-- ==== Sys2Proof/Machine/VectorMem.lean ====
section
/-! DEFINITION. Vector loads and stores (10 R270 to R276), the windowed gather (10 R277, R278, 05 R158, R159), scatters
(10 R279, 04 R132) and atomics (10 R280 to R284, 04 R133). -/

namespace Sys2Proof.Machine

/-- The base of an AIB access: a register pair (10 R271), neither of them bound (05 R149). -/
def State.pairBase (s : State) (a : BitVec 6) (v : Nat) : M Word := do
  need (a ≠ 31#6 ∧ a ≠ 63#6 ∧ a.toNat + 1 < s.g.budget)
  s.needSrcs (srcsOf 32 [a.toNat, a.toNat + 1])
  .ok (w64 (s.el a.toNat 32 v + s.el (a.toNat + 1) 32 v * 2 ^ 32))

/-- Read the listed elements in order, each page translated once (17 R404). The answer stops at the first element that faults. -/
def State.readEls (s : State) (g : Agent) (size : Nat) : List (Nat × Word) → List (Nat × Nat) × Option (Nat × Word × Fail) × State
  | [] => ([], none, s)
  | (e, a) :: r =>
    match s.readVia g .load a size with
    | .error f => ([], some (e, a, f), s)
    | .ok (bs, s, g) =>
      let (l, f, s) := s.readEls g size r
      ((e, leNat bs) :: l, f, s)

/-- A fault by the checks of 10 R270, as against poisoned data and a line that is recalled. -/
def Fail.isFault : Fail → Bool
  | .trap c _ _ => decide (c ≠ causeData)
  | .recall _ => false

/-- A fault-only-first load (10 R274, 01 R24) of elements at addresses: `unit` elements count as one of `vl`. It answers
the elements read, and the state with the `vl` that the load leaves; the walks of the element that faults stand too (17 R403). -/
def State.faultFirst (s : State) (size unit : Nat) (l : List (Nat × Word)) : M (List (Nat × Nat) × State) :=
  match s.readEls s.agent size l with
  | (xs, none, s') => .ok (xs, s'.leaveVl s.u.vl)
  | (xs, some (e, a, f), s') =>
    if f.isFault && decide (unit ≤ e) then .ok (xs, (s'.walked f.walks).leaveVl (BitVec.ofNat 12 (e / unit)))
    else .error (failStop (w64 (e / unit)) a f)

/-- A load or store of 0x50 to 0x53 in the control stream: the width counts. -/
def State.vmemCheck (s : State) (sz : Sz) : M PUnit := s.needVl (8 * sz.vbytes)

/-- Addresses of the active elements (10 R274). -/
def State.vaddrs (s : State) (off stride : Word) : List (Nat × Word) :=
  s.active.map fun e => (e, s.u.opA + off + w64 e * stride)

/-- `vld` and `vlds` in the control stream (10 R274). -/
def State.vload (s : State) (d : VName) (sz : Sz) (off stride : Word) : M State := do
  s.needReg d.toNat
  s.vmemCheck sz
  s.needUnbound d.toNat
  let (xs, s') ← s.faultFirst sz.vbytes 1 (s.vaddrs off stride)
  .ok (s'.setEls d.toNat (8 * sz.vbytes) xs)

/-- `vld` inside an AIB (10 R276). -/
def State.vpLoad (s : State) (v : Nat) (d : VName) (a : BitVec 6) (sz : Sz) (off : Word) : M State := do
  need (sz ≠ .d)
  s.needReg d.toNat
  let base ← s.pairBase a v
  s.needUnbound d.toNat
  if s.g.vm.getLsbD v then do
    let (x, s') ← s.load (w64 v) (base + off) sz.bytes
    .ok (s'.setOpEls d.toNat (8 * sz.bytes) [(v, x)])
  else .ok s

/-- `vld` (10 R273, R274, R276). -/
def execVld (d : VName) (a : BitVec 6) (sz : Sz) (off : BitVec 7) (_la : BitVec 4) (s : State) : Out :=
  let o := s.offIL off sz.vbytes
  s.finish (match s.vp with
    | some v => s.vpLoad v d a sz o
    | none => s.vload d sz o (w64 sz.vbytes))

/-- `vlds` (10 R273, R274, R276). -/
def execVlds (d : VName) (a : BitVec 6) (sz : Sz) (off : BitVec 7) (_la : BitVec 4) (s : State) : Out :=
  let o := s.offIL off sz.vbytes
  s.finish (match s.vp with
    | some v => s.vpLoad v d a sz o
    | none => s.vload d sz o s.u.vst)

/-- The place of one stored element; a store whose elements write the element's whole line may clear its poison (18 R424). -/
def State.storePlace (s : State) (g : Agent) (k : AccKind) (a : Word) (size : Nat) (whole : Bool) : Except Fail (Place × State × Agent) :=
  match s.placeVia g k a size size with
  | .ok r => .ok r
  | .error f =>
    match f with
    | .trap c _ _ =>
      if c = causeData && whole then
        match ({ s with poison := [] } : State).placeVia g k a size size with
        | .ok (.hbm pa, s', g) => .ok (.hbm pa, { s' with poison := s.poison.filter fun x => x.1 ≠ pa / 128 }, g)
        | .ok (p, s', g) => .ok (p, { s' with poison := s.poison }, g)
        | .error f => .error f
      else .error f
    | f => .error f

/-- Whether the elements together write every byte of the 128-byte line of an address. -/
def coversLine (l : List (Nat × Word)) (size : Nat) (a : Word) : Bool :=
  let line := a.toNat / 128
  (List.range 128).all fun i => l.any fun x => decide (x.2.toNat ≤ line * 128 + i) && decide (line * 128 + i < x.2.toNat + size)

/-- Check every listed element, in ascending order, before any is written (10 R275); an agent of a micro-TLB translates each page once
(17 R404). -/
def State.storePlaces (s : State) (g : Agent) (k : AccKind) (size : Nat) (all : List (Nat × Word)) : List (Nat × Word) → M (List (Nat × Place) × State)
  | [] => .ok ([], s)
  | (e, a) :: r =>
    match s.storePlace g k a size (decide (k = .store) && s.poison ≠ [] && coversLine all size a) with
    | .error f => .error (failStop (w64 e) a f)
    | .ok (p, s, g) =>
      match s.storePlaces g k size all r with
      | .error x => .error x
      | .ok (l, s) => .ok ((e, p) :: l, s)

/-- Write elements in list order. -/
def State.writeEls (s : State) (size : Nat) (l : List (Place × Nat)) : State :=
  l.foldl (fun s x => s.writePlace s.t.id x.1 (natLe size x.2)) s

/-- `vst` and `vsts` in the control stream (10 R275, R272): the lowest element that faults decides, its data before its access
(log entry 52, DEDUCED); the highest-numbered of elements on one location stays. -/
def State.vstore (s : State) (d : VName) (sz : Sz) (off stride : Word) : M State := do
  s.needReg d.toNat
  s.vmemCheck sz
  let h ← s.srcHit [⟨d.toNat, 8 * sz.vbytes, 0, none⟩]
  let l := s.vaddrs off stride
  let (ps, s') ← s.storePlaces s.agent .store sz.vbytes l (l.filter fun x => beforeHit h x.1)
  s'.keeping (raiseHit h)
  .ok ((s'.writeEls sz.vbytes (ps.map fun x => (x.2, s.el d.toNat (8 * sz.vbytes) x.1))).consume [d.toNat])

/-- `vst` inside an AIB (10 R276). -/
def State.vpStore (s : State) (v : Nat) (d : VName) (a : BitVec 6) (sz : Sz) (off : Word) : M State := do
  need (sz ≠ .d)
  s.needReg d.toNat
  let base ← s.pairBase a v
  s.needSrc d.toNat 32
  if s.g.vm.getLsbD v then s.storeM (w64 v) (base + off) sz.bytes (s.el d.toNat 32 v) else .ok s

/-- `vst` (10 R273, R275, R276). -/
def execVst (d : VName) (a : BitVec 6) (sz : Sz) (off : BitVec 7) (_la : BitVec 4) (s : State) : Out :=
  let o := s.offIL off sz.vbytes
  s.finish (match s.vp with
    | some v => s.vpStore v d a sz o
    | none => s.vstore d sz o (w64 sz.vbytes))

/-- `vsts` (10 R273, R275, R276). -/
def execVsts (d : VName) (a : BitVec 6) (sz : Sz) (off : BitVec 7) (_la : BitVec 4) (s : State) : Out :=
  let o := s.offIL off sz.vbytes
  s.finish (match s.vp with
    | some v => s.vpStore v d a sz o
    | none => s.vstore d sz o s.u.vst)

/-- The registers of a window (10 R277). -/
def windowRegs (d : Nat) : List Nat := [d, d + 1, d + 2, d + 3]
def State.needWindow (s : State) (d : Nat) : M PUnit := need (d + 3 < s.g.budget ∧ ¬ (d ≤ 31 ∧ 32 ≤ d + 3))

/-- `vldw` (10 R277, 05 R158). -/
def execVldw (d : VName) (_a : CReg) (t : Ty) (_la : BitVec 4) (s : State) : Out :=
  s.finish do
    need (s.vp.isNone = true ∧ t.six = true)
    s.needWindow d.toNat
    s.needVl t.bits
    allM ((windowRegs d.toNat).map s.needUnbound)
    let size := t.bits / 8
    let l := if s.active = [] then [] else (List.range (4 * s.u.vl.toNat)).map fun i => (i, s.u.opA + w64 (i * size))
    let (xs, s') ← s.faultFirst size 4 l
    let n := if s.active = [] then 0 else 4 * s'.g.vl.toNat
    .ok ((xs.filter fun x => x.1 < n).foldl (fun q x => q.setEl (d.toNat + x.1 % 4) t.bits (x.1 / 4) x.2) s')

/-- `vpermw` (10 R278, 05 R159). -/
def execVpermw (d a : VName) (b : CReg) (t : Ty) (_la : BitVec 4) (s : State) : Out :=
  s.finish do
    need (s.vp.isNone = true ∧ t.six = true ∧ b ≠ 31)
    s.needReg d.toNat
    s.needWindow a.toNat
    need (d.toNat ∉ windowRegs a.toNat)
    let w := t.bits
    s.needVl w
    s.needUnbound d.toNat
    let h ← s.srcHit (⟨d.toNat, w, 0, none⟩ :: srcsOf w (windowRegs a.toNat) (some []))
    let it : Ty := if w = 8 then .i8 else if w = 16 then .i16 else .i32
    let org := s.u.opB.toInt
    let lim : Int := s.u.opX.toNat
    let n : Int := 4 * s.u.vl.toNat
    let xs := s.active.map fun e => (e, s.el d.toNat w e)
    let bad := (xs.filter fun x => beforeHit h x.1 && !it.isAbsent x.2).findSome? fun x =>
      let i := sextNat w x.2
      let k := (i - org).toNat
      if i < 0 ∨ lim ≤ i then some ({ cause := causeIndex, elem := w64 x.1, idx := BitVec.ofInt 64 i } : Trap)
      else if org ≤ i ∧ i < org + n then s.poisonFault ⟨a.toNat + k % 4, w, 0, some [k / 4]⟩
      else none
    match bad.or h with
    | some t => .error (.trap t)
    | none => do
      let served := xs.filterMap fun x =>
        if it.isAbsent x.2 then some (x.1, t.absentCode)
        else
          let i := sextNat w x.2
          if org ≤ i ∧ i < org + n then
            let k := (i - org).toNat
            some (x.1, s.el (a.toNat + k % 4) w (k / 4))
          else none
      let s' := (s.setEls d.toNat w served).writeVm (xs.map fun x => (x.1, !(served.any fun y => y.1 = x.1)))
      .ok ((s'.raise { abs := xs.any fun x => it.isAbsent x.2 }).consume (windowRegs a.toNat))

/-- A run of `vl` i32 indices at v[b] (10 R279): its checks and its registers, none where `vl` is 0 (09 R241). It is read with the
data, for the lowest element that faults decides (07 R200). -/
def State.needIdx (s : State) (b : Nat) : M Nat := do
  let n := s.u.vl.toNat
  s.needReg b
  s.needRun b 32 n
  .ok (s.runRegs 32 n)

/-- Keep one write for each place, chosen freely among its duplicates (04 R132). -/
def pickOne (n : Nat) : List (Place × Nat) → List (Place × Nat)
  | [] => []
  | (p, x) :: r =>
    let dup := (r.filter fun y => y.1 = p).length
    if dup = 0 ∨ Config.freeNat (n + r.length) % (dup + 1) = 0 then (p, x) :: (pickOne n r).filter fun y => y.1 ≠ p
    else pickOne n r

/-- A scatter (10 R279): `keep` leaves one write for each location. -/
def State.scatter (s : State) (keep : State → List (Place × Nat) → List (Place × Nat)) (d b : VName) (t : Ty) : M State := do
  need (s.vp.isNone = true ∧ t.six = true)
  s.needReg d.toNat
  let w := t.bits
  s.needVl w
  let k ← s.needIdx b.toNat
  need (¬ (b.toNat ≤ d.toNat ∧ d.toNat < b.toNat + k))
  let h ← s.srcHit (⟨d.toNat, w, 0, none⟩ :: s.runSrcs b.toNat k 32)
  let xs := s.active.map fun e => (e, s.runEl b.toNat 32 e)
  let present := xs.filter fun x => !Ty.i32.isAbsent x.2
  let size := w / 8
  let l := present.map fun x => (x.1, s.u.opA + BitVec.ofInt 64 (sextNat 32 x.2 * size))
  match s.storePlaces s.bankAgent .store size l (l.filter fun x => beforeHit h x.1) with
  | .error (.trap tr) =>
    let x := s.runEl b.toNat 32 tr.elem.toNat
    .error (.trap { tr with idx := BitVec.ofInt 64 (sextNat 32 x) })
  | .error e => .error e
  | .ok (ps, s') => do
    s'.keeping (raiseHit h)
    let ws := keep s (ps.map fun x => (x.2, s.el d.toNat w x.1))
    let s' := { s' with fresh := s'.fresh + ws.length }
    .ok (((s'.writeEls size ws).raise { abs := xs.any fun x => Ty.i32.isAbsent x.2 }).consume (d.toNat :: runNames b.toNat k))

/-- `vscat.o` (10 R279): the highest-numbered element of a location stays. -/
def execVscatO (d : VName) (_a : CReg) (b : VName) (t : Ty) (_la : BitVec 4) (s : State) : Out :=
  s.finish (s.scatter (fun _ l => l) d b t)

/-- `vscat.u` (10 R279): one element of a location stays. -/
def execVscatU (d : VName) (_a : CReg) (b : VName) (t : Ty) (_la : BitVec 4) (s : State) : Out :=
  s.finish (s.scatter (fun s l => pickOne s.fresh l) d b t)

end Sys2Proof.Machine
end

