-- ==== Sys2Proof/Machine/Atomics.lean ====
section
/-! DEFINITION. Atomics (10 R280 to R284, 04 R133): their functions, `vamo` and `amo`. -/

namespace Sys2Proof.Machine

/-- The functions of 10 R280. -/
inductive AmoFn where
  | add | addf | addc | min | max | minf | maxf | and | or | xor | swap | cas
deriving DecidableEq, Repr

/-- Types admitted (10 R280): `v` for `vamo`. -/
def AmoFn.admits (f : AmoFn) (v : Bool) (t : Ty) : Bool :=
  match f with
  | .addf => t = .f32 || (!v && t = .f64)
  | .minf => t = .f32 || (!v && t = .f64)
  | .maxf => t = .f32 || (!v && t = .f64)
  | .addc => t = .i32 || t = .f32
  | .swap => t = .i32 || t = .f32 || (!v && (t = .i64 || t = .f64))
  | .cas => t = .i32 || t = .f32 || (!v && (t = .i64 || t = .f64))
  | _ => t = .i32 || (!v && t = .i64)

/-- Size of the location: 8 bytes for `addc`. -/
def AmoFn.size (f : AmoFn) (t : Ty) : Nat := if f = .addc then 8 else t.bits / 8

/-- Functions that read their operand as a number (10 R281), so that an absent one sets ABS. -/
def AmoFn.numeric : AmoFn → Bool
  | .and => false | .or => false | .xor => false | .swap => false | .cas => false | _ => true

/-- Add-with-count (05 R142): the old 8-byte word and the addend. -/
def addCount (t : Ty) (m x : Nat) : Nat :=
  let val := m % 2 ^ 32
  let cnt := m / 2 ^ 32
  if t.isAbsent x then m
  else if t.isAbsent val then x + 2 ^ 32
  else (BinOp.eval .add t 0 val x).bits + min (cnt + 1) (2 ^ 32 - 1) * 2 ^ 32

/-- The new value of a location (10 R280, R281). -/
def AmoFn.new (f : AmoFn) (t : Ty) (m x x2 : Nat) : Nat :=
  match f with
  | .addc => addCount t m x
  | .and => m &&& x
  | .or => m ||| x
  | .xor => m ^^^ x
  | .swap => x
  | .cas => if m = x then x2 else m
  | .add => if t = .i64 then (m + x) % 2 ^ 64 else (BinOp.run .add t true 0 m x).bits
  | .addf => (BinOp.run .add t true 0 m x).bits
  | .min => (BinOp.run .min t true 0 m x).bits
  | .minf => (BinOp.run .min t true 0 m x).bits
  | .max => (BinOp.run .max t true 0 m x).bits
  | .maxf => (BinOp.run .max t true 0 m x).bits

/-- Whether the issuer of an atomic belongs to scope `sc` of the executing group (04 R112, by the codes of 07 R193), as it stood when
it issued. A remote add-with-count is atomic towards .dev (04 R131). -/
def State.inScope (s : State) (sc : Nat) (r : AmoRec) : Bool :=
  match sc with
  | 0 => decide (r.g = s.g.id)
  | 1 => decide (r.g ≠ 0 ∧ r.tm = s.g.team)
  | 2 => decide (r.g ≠ 0 ∧ r.die = s.t.die)
  | 3 => decide (r.g = 0 ∨ r.part = (s.ctx s.t.ctx).part)
  | _ => true

/-- The scope of the executing unit's atomics: .dev where it has no `pfx.scope` (04 R133, 07 R195). -/
def Unit.scope (u : Unit) : Nat := if u.pscope = 0 then 3 else field u.pscope.toNat 0 3

/-- What an atomic of scope `sc` may read in place of the current bytes of a location of global memory, newest first (04 R133):
the bytes before atomics from outside its scope that came after the group's last step. -/
def State.staleAt (s : State) (sc pa : Nat) : List AmoRec → List Byte → List (List Byte)
  | [], _ => []
  | r :: l, cur =>
    if r.pa ≠ pa then s.staleAt sc pa l cur
    else if r.after = cur ∧ r.g ≠ s.g.id ∧ s.g.id ∉ r.seen ∧ s.inScope sc r = false then r.before :: s.staleAt sc pa l r.before
    else []

/-- One atomic at a checked place: the old value. An atomic from outside its scope may be lost against it (04 R133). -/
def State.amoAt (s : State) (f : AmoFn) (t : Ty) (p : Place) (x x2 : Nat) : Nat × State :=
  let n := f.size t
  let cur := s.readPlace s.t.id p n
  match p with
  | .hbm pa =>
    let l := s.staleAt s.u.scope pa s.amos.reverse cur
    let (b, s) := if l = [] then (cur, s) else
      let (k, s) := s.free
      (l.getD (k % (l.length + 1)) cur, s)
    let new := natLe n (f.new t (leNat b) x x2)
    (leNat b, (s.writePlace s.t.id p new).noteAmo s.g.id pa cur new)
  | p => (leNat cur, s.writePlace s.t.id p (natLe n (f.new t (leNat cur) x x2)))

/-- Take the elements of a list in a free order (04 R133). -/
def freeOrder {α : Type} : Nat → Nat → List α → List α
  | 0, _, l => l
  | _, _, [] => []
  | k + 1, n, x :: r =>
    let i := Config.freeNat n % (r.length + 1)
    (x :: r).getD i x :: freeOrder k (n + 1) ((x :: r).eraseIdx i)

/-- Whether two elements name one place. -/
def hasDup (l : List (Nat × Place)) : Bool := l.any fun x => l.any fun y => decide (x.1 ≠ y.1) && decide (x.2 = y.2)

/-- Perform atomics one after another: element, old value. -/
def State.amoAll (s : State) (f : AmoFn) (t : Ty) (arg : Nat → Nat × Nat) : List (Nat × Place) → List (Nat × Nat) × State
  | [] => ([], s)
  | (e, p) :: r =>
    let (m, s) := s.amoAt f t p (arg e).1 (arg e).2
    let (l, s) := s.amoAll f t arg r
    ((e, m) :: l, s)

/-- Old values into v[d], and for `addc` their counts into v(d+1) (10 R282). -/
def State.putOld (s : State) (f : AmoFn) (d : Nat) (l : List (Nat × Nat)) : State :=
  if f = .addc then (s.setEls d 32 l).setEls (d + 1) 32 (l.map fun x => (x.1, x.2 / 2 ^ 32)) else s.setEls d 32 l

/-- Functions with a second register: `cas` reads v(d+1), and `addc` writes it (10 R282). -/
def AmoFn.two (f : AmoFn) : Bool := f = .cas || f = .addc

/-- The registers that `vamo` writes are not bound (05 R149); those that it reads may be, and then advance (R148). `idx` are the
registers of its indices. -/
def State.amoRegs (s : State) (f : AmoFn) (d : Nat) (idx : List Src) : M (Option Trap) := do
  allM ((if f = .addc then [d, d + 1] else [d]).map s.needUnbound)
  s.srcHit (srcsOf 32 (if f = .cas then [d, d + 1] else [d]) ++ idx)

/-- `vamo` (10 R282, R283). See log entry 53, DEDUCED. -/
def State.vamo (s : State) (f : AmoFn) (d : VName) (a : BitVec 6) (b : VName) (t : Ty) : M State := do
  need (f.admits true t = true)
  let d1 := d.toNat + 1
  s.needReg d.toNat
  need (f.two = true → d1 < s.g.budget ∧ d.toNat ≠ 31)
  match s.vp with
  | some v => do
    need (b = 0)
    let base ← s.pairBase a v
    raiseHit (← s.amoRegs f d.toNat [])
    if s.g.vm.getLsbD v then do
      let x := s.el d.toNat 32 v
      let (p, s') ← liftFail (w64 v) base (s.place s.agent .atomic base (f.size t) (f.size t))
      let (m, s') := s'.amoAt f t p x (s.el d1 32 v)
      .ok ((s'.putOld f d.toNat [(v, m)]).raise { abs := f.numeric && t.isAbsent x })
    else .ok s
  | none => do
    s.needVl 32
    let k ← s.needIdx b.toNat
    need (¬ (b.toNat ≤ d.toNat ∧ d.toNat < b.toNat + k) ∧ ¬ (f.two = true ∧ b.toNat ≤ d1 ∧ d1 < b.toNat + k))
    let h ← s.amoRegs f d.toNat (s.runSrcs b.toNat k 32)
    let xs := s.active.map fun e => (e, s.runEl b.toNat 32 e)
    let present := xs.filter fun x => !Ty.i32.isAbsent x.2
    let absent := xs.filter fun x => Ty.i32.isAbsent x.2
    let l := present.map fun x => (x.1, s.u.opA + BitVec.ofInt 64 (sextNat 32 x.2 * f.size t))
    let (ps, s') ← s.storePlaces s.bankAgent .atomic (f.size t) [] (l.filter fun x => beforeHit h x.1)
    s'.keeping (raiseHit h)
    let order := if hasDup ps then freeOrder ps.length s'.fresh ps else ps
    let (old, s') := { s' with fresh := s'.fresh + ps.length }.amoAll f t (fun e => (s.el d.toNat 32 e, s.el d1 32 e)) order
    let s' := s'.putOld f d.toNat (old ++ absent.map fun x => (x.1, t.absentCode))
    let abs := decide (absent ≠ []) || (f.numeric && present.any fun x => t.isAbsent (s.el d.toNat 32 x.1))
    .ok ((s'.raise { abs := abs }).consume ((if f = .cas then [d1] else []) ++ runNames b.toNat k))

/-- `amo` (10 R284). -/
def State.amo (s : State) (f : AmoFn) (d a b : CReg) (t : Ty) : M State := do
  need (f.admits false t = true ∧ (f = .cas → d ≠ 31))
  let x2 := if f = .cas then (s.c (d + 1)).toNat % 2 ^ t.bits else 0
  let (p, s') ← liftFail noElem (s.c a) (s.place s.agent .atomic (s.c a) (f.size t) (f.size t))
  let (m, s') := s'.amoAt f t p ((s.c b).toNat % 2 ^ t.bits) x2
  .ok (s'.setC d (if f = .addc then w64 m else t.toC m))

/-- `vamo.add` (10 R282, R283). -/
def execVamoAdd (d : VName) (a : BitVec 6) (b : VName) (t : Ty) (s : State) : Out := s.finish (s.vamo .add d a b t)
/-- `amo.add` (10 R284). -/
def execAmoAdd (d a b : CReg) (t : Ty) (s : State) : Out := s.finish (s.amo .add d a b t)

/-- `vamo.addf` (10 R282, R283). -/
def execVamoAddf (d : VName) (a : BitVec 6) (b : VName) (t : Ty) (s : State) : Out := s.finish (s.vamo .addf d a b t)
/-- `amo.addf` (10 R284). -/
def execAmoAddf (d a b : CReg) (t : Ty) (s : State) : Out := s.finish (s.amo .addf d a b t)

/-- `vamo.addc` (10 R282, R283). -/
def execVamoAddc (d : VName) (a : BitVec 6) (b : VName) (t : Ty) (s : State) : Out := s.finish (s.vamo .addc d a b t)
/-- `amo.addc` (10 R284). -/
def execAmoAddc (d a b : CReg) (t : Ty) (s : State) : Out := s.finish (s.amo .addc d a b t)

/-- `vamo.min` (10 R282, R283). -/
def execVamoMin (d : VName) (a : BitVec 6) (b : VName) (t : Ty) (s : State) : Out := s.finish (s.vamo .min d a b t)
/-- `amo.min` (10 R284). -/
def execAmoMin (d a b : CReg) (t : Ty) (s : State) : Out := s.finish (s.amo .min d a b t)

/-- `vamo.max` (10 R282, R283). -/
def execVamoMax (d : VName) (a : BitVec 6) (b : VName) (t : Ty) (s : State) : Out := s.finish (s.vamo .max d a b t)
/-- `amo.max` (10 R284). -/
def execAmoMax (d a b : CReg) (t : Ty) (s : State) : Out := s.finish (s.amo .max d a b t)

/-- `vamo.minf` (10 R282, R283). -/
def execVamoMinf (d : VName) (a : BitVec 6) (b : VName) (t : Ty) (s : State) : Out := s.finish (s.vamo .minf d a b t)
/-- `amo.minf` (10 R284). -/
def execAmoMinf (d a b : CReg) (t : Ty) (s : State) : Out := s.finish (s.amo .minf d a b t)

/-- `vamo.maxf` (10 R282, R283). -/
def execVamoMaxf (d : VName) (a : BitVec 6) (b : VName) (t : Ty) (s : State) : Out := s.finish (s.vamo .maxf d a b t)
/-- `amo.maxf` (10 R284). -/
def execAmoMaxf (d a b : CReg) (t : Ty) (s : State) : Out := s.finish (s.amo .maxf d a b t)

/-- `vamo.and` (10 R282, R283). -/
def execVamoAnd (d : VName) (a : BitVec 6) (b : VName) (t : Ty) (s : State) : Out := s.finish (s.vamo .and d a b t)
/-- `amo.and` (10 R284). -/
def execAmoAnd (d a b : CReg) (t : Ty) (s : State) : Out := s.finish (s.amo .and d a b t)

/-- `vamo.or` (10 R282, R283). -/
def execVamoOr (d : VName) (a : BitVec 6) (b : VName) (t : Ty) (s : State) : Out := s.finish (s.vamo .or d a b t)
/-- `amo.or` (10 R284). -/
def execAmoOr (d a b : CReg) (t : Ty) (s : State) : Out := s.finish (s.amo .or d a b t)

/-- `vamo.xor` (10 R282, R283). -/
def execVamoXor (d : VName) (a : BitVec 6) (b : VName) (t : Ty) (s : State) : Out := s.finish (s.vamo .xor d a b t)
/-- `amo.xor` (10 R284). -/
def execAmoXor (d a b : CReg) (t : Ty) (s : State) : Out := s.finish (s.amo .xor d a b t)

/-- `vamo.swap` (10 R282, R283). -/
def execVamoSwap (d : VName) (a : BitVec 6) (b : VName) (t : Ty) (s : State) : Out := s.finish (s.vamo .swap d a b t)
/-- `amo.swap` (10 R284). -/
def execAmoSwap (d a b : CReg) (t : Ty) (s : State) : Out := s.finish (s.amo .swap d a b t)

/-- `vamo.cas` (10 R282, R283). -/
def execVamoCas (d : VName) (a : BitVec 6) (b : VName) (t : Ty) (s : State) : Out := s.finish (s.vamo .cas d a b t)
/-- `amo.cas` (10 R284). -/
def execAmoCas (d a b : CReg) (t : Ty) (s : State) : Out := s.finish (s.amo .cas d a b t)

end Sys2Proof.Machine
end

