-- ==== Sys2Proof/Machine/Special.lean ====
section
/-! DEFINITION. The special-function pipe (03 R92, R93): approximations with 128 fraction bits, and the free choice among
the values within the bound of each function (log entry 14, DEDUCED). -/

namespace Sys2Proof.Machine

/-- Fraction bits of the fixed-point numbers below. -/
def fxBits : Nat := 128
def fxOne : Int := 2 ^ 128
/-- ln 2, π, 1/ln 2 and 1/√(2π) with 128 fraction bits, rounded down. -/
def fxLn2 : Int := 0xB17217F7D1CF79ABC9E3B39803F2F6AF
def fxPi : Int := 0x3243F6A8885A308D313198A2E03707344
def fxInvLn2 : Int := 0x171547652B82FE1777D0FFDA0D23A7D11
def fxInvSqrt2Pi : Int := 0x662114CF50D942343F2CF1402EAE38BF

def fxMul (a b : Int) : Int := a * b / fxOne

/-- Σ tᵏ/k! from term `k` with value `t`. -/
def fxExpSum (r : Int) : Nat → Int → Int → Int
  | 0, _, _ => 0
  | n + 1, k, t => t + fxExpSum r n (k + 1) (fxMul t r / k)
/-- e^r for |r| at most 1. -/
def fxExp (r : Int) : Int := fxExpSum r 40 1 fxOne
/-- 2^y: mantissa in [1, 2) with 128 fraction bits, and exponent. -/
def fxExp2 (y : Int) : Int × Int := (fxExp (fxMul (y % fxOne) fxLn2), y / fxOne)

/-- The fraction bits of log2 of x in [1, 2), by repeated squaring. -/
def fxLog2Frac : Nat → Int → Int
  | 0, _ => 0
  | n + 1, x =>
    let y := fxMul x x
    if y ≥ 2 * fxOne then 2 ^ n + fxLog2Frac n (y / 2) else fxLog2Frac n y

/-- Alternating Σ of sine (or cosine) terms. -/
def fxTrigSum (r2 : Int) : Nat → Int → Int → Int
  | 0, _, _ => 0
  | n + 1, k, t => t + fxTrigSum r2 n (k + 2) (-(fxMul t r2 / (k * (k + 1))))
def fxSin (r : Int) : Int := fxTrigSum (fxMul r r) 30 2 r
def fxCos (r : Int) : Int := fxTrigSum (fxMul r r) 30 1 fxOne

/-- Σ x^(2k+1)/(2k+1)!! from a term. -/
def fxPhiSum (x2 : Int) : Nat → Int → Int → Int
  | 0, _, _ => 0
  | n + 1, k, t => t + fxPhiSum x2 n (k + 2) (fxMul t x2 / k)

/-- m · 2^e as fixed point, rounded down. -/
def fxOf (s : Bool) (m : Nat) (e : Int) : Int :=
  let e' := e + 128
  let v : Int := if e' ≥ 0 then m * 2 ^ e'.toNat else (m / 2 ^ (-e').toNat : Nat)
  if s then -v else v

/-- e^x for any fixed-point x, as a mantissa and an exponent. -/
def fxExpAny (x : Int) : Int × Int := fxExp2 (fxMul x fxInvLn2)
def fxShift (m : Int) (e : Int) : Int := if e ≥ 0 then m * 2 ^ e.toNat else m / 2 ^ (-e).toNat

/-- Φ(x), the normal distribution function, for |x| below 10. -/
def fxPhi (x : Int) : Int :=
  let (m, e) := fxExpAny (-(fxMul x x) / 2)
  fxOne / 2 + fxMul (fxMul fxInvSqrt2Pi (fxShift m e)) (fxPhiSum (fxMul x x) 260 3 x)

/-- t + k/(t + (k+1)/(t + …)), `n` levels deep: the continued fraction of φ(t)/Φ(−t). -/
def fxTail (t : Int) : Nat → Int → Int
  | 0, _ => t
  | n + 1, k => t + k * fxOne * fxOne / fxTail t n (k + 1)

/-- The functions of 09 R259, by their b code. -/
inductive SFn where
  | exp2 | log2 | rcp | rsqrt | sqrt | sin | cos | tanh | sigm | exp | gelu
deriving DecidableEq, Repr

def SFn.code : SFn → Nat
  | .exp2 => 0 | .log2 => 1 | .rcp => 2 | .rsqrt => 3 | .sqrt => 4 | .sin => 5 | .cos => 6 | .tanh => 7 | .sigm => 8
  | .exp => 9 | .gelu => 10

/-- The value of a function at a finite operand within its domain, as (sign, magnitude, exponent), far more exact than one
unit in the last place of any target format. -/
def SFn.approx (f : SFn) (s : Bool) (m : Nat) (e : Int) : Bool × Nat × Int :=
  let fx := fun (x : Int) => (decide (x < 0), x.natAbs, (-128 : Int))
  let x := fxOf s m e
  let top := (m.log2 : Int) + e
  let big := decide (top ≥ 12)
  match f with
  | .rcp => (s, 2 ^ (m.log2 + 130) / m, -e - (m.log2 + 130 : Nat))
  | .rsqrt =>
    let sh := m.log2 + 260
    let m' := if e % 2 = 0 then m else 2 * m
    let e' := if e % 2 = 0 then e else e - 1
    (false, isqrt (2 ^ (2 * sh) / m'), -(sh : Int) - e' / 2)
  | .sqrt => (false, isqrt (m * 2 ^ (if e % 2 = 0 then 260 else 261)), (e - (if e % 2 = 0 then 260 else 261)) / 2)
  | .log2 =>
    let l := m.log2
    fx ((l + e) * fxOne + fxLog2Frac 128 (fxOf false m (-l)))
  | .exp2 =>
    if big then (false, 1, if s then -1000000 else 1000000) else
    let (a, b) := fxExp2 x
    (false, a.natAbs, b - 128)
  | .exp =>
    if big then (false, 1, if s then -1000000 else 1000000) else
    let (a, b) := fxExpAny x
    (false, a.natAbs, b - 128)
  | .sin =>
    let k := (2 * x + fxPi / 2) / fxPi
    let r := x - k * fxPi / 2
    fx (match (k % 4).toNat with | 0 => fxSin r | 1 => fxCos r | 2 => -fxSin r | _ => -fxCos r)
  | .cos =>
    let k := (2 * x + fxPi / 2) / fxPi
    let r := x - k * fxPi / 2
    fx (match (k % 4).toNat with | 0 => fxCos r | 1 => -fxSin r | 2 => -fxCos r | _ => fxSin r)
  | .tanh =>
    if x.natAbs < 2 ^ 88 then (s, m, e) else
    if top ≥ 6 then fx (if s then -fxOne else fxOne) else
    let (a, b) := fxExpAny (-2 * x.natAbs)
    let q := fxShift a b
    (s, ((fxOne - q) * fxOne / (fxOne + q)).natAbs, -128)
  | .sigm =>
    if top ≥ 7 then fx (if s then 0 else fxOne) else
    let (a, b) := fxExpAny (-x.natAbs)
    let q := fxShift a b
    if s then (false, (a * fxOne / (fxOne + q)).natAbs, b - 128) else fx (fxOne * fxOne / (fxOne + q))
  | .gelu =>
    if top ≥ 6 || decide (x ≥ 10 * fxOne) then (s, if s then 0 else m, e) else
    if x ≤ -8 * fxOne then
      let (a, b) := fxExpAny (-(fxMul x x) / 2)
      (true, m * (fxMul fxInvSqrt2Pi a * fxOne / fxTail (-x) 60 1).natAbs, e + b - 128)
    else (s, m * (fxPhi x).natAbs, e - 128)

/-- One unit in the last place of a value in a format (03 R92), as an exponent. -/
def Fmt.ulp (g : Fmt) (m : Nat) (e : Int) : Int := if m = 0 then g.qmin else max ((m.log2 : Int) + e - g.mb) g.qmin

/-- The bound of a function in a target format (03 R92) at exact value m·2^e, in units of 2^(−200): an absolute bound counts
where it is the smaller one. -/
def SFn.bound (f : SFn) (g : Fmt) (near1 : Bool) (m : Nat) (e : Int) : Int :=
  let u := fun (k : Nat) => let q := g.ulp m e + 200; if q ≥ 0 then (k * 2 ^ q.toNat : Int) else 0
  let trig : Int := if g = .bf16 then 2 ^ 192 else if g = .f16 then 2 ^ 190 else 2 ^ 179
  match f with
  | .sqrt => 0
  | .rcp => u 1
  | .rsqrt => u 1
  | .sin => trig
  | .cos => trig
  | f => if g ≠ .f32 then u 1 else match f with
    | .log2 => if near1 then 2 ^ 178 else u 2
    | .tanh => min (u 2) (2 ^ 178)
    | .sigm => min (u 2) (2 ^ 178)
    | .gelu => min (u 4) (2 ^ 180)
    | _ => u 2

def in200 (s : Bool) (m : Nat) (e : Int) : Int :=
  let v : Int := if e + 200 ≥ 0 then (m * 2 ^ (e + 200).toNat : Nat) else (m / 2 ^ (-(e + 200)).toNat : Nat)
  if s then -v else v

/-- Whether a pattern of a format lies within the bound of a function whose exact value is `v`. -/
def SFn.within (f : SFn) (g : Fmt) (near1 : Bool) (v : Bool × Nat × Int) (p : Nat) : Bool :=
  match g.decode p with
  | .fin s m e => decide (p ≠ g.absent) &&
      decide (((in200 s m e - in200 v.1 v.2.1 v.2.2).natAbs : Int) ≤ f.bound g near1 v.2.1 v.2.2)
  | _ => false

/-- An f32 result rounded to a target format, under RNE (03 R92). -/
def Fmt.ofF32 (g : Fmt) (r : Nat) : Nat :=
  match Fmt.f32.decode r with
  | .fin s m e => (g.round 0 s m e).bits
  | v => g.exact v

/-- The result of a function at a finite operand (03 R92): any f32 value within the f32 bound that, rounded to the target,
lies within the target's bound too, the choice left open (log entry 14, DEDUCED); at the least the nearest one. -/
def SFn.evalFin (f : SFn) (g : Fmt) (s : Bool) (m : Nat) (e : Int) : Nat :=
  let v := f.approx s m e
  let near := (Fmt.f32.round 0 v.1 v.2.1 v.2.2).bits
  let near1 := decide (f = .log2 ∧ (in200 s m e - 2 ^ 200).natAbs < 2 ^ 195)
  let p := Config.specialPick f.code g.width (Fmt.f32.exact (.fin s m e)) % 2 ^ 32
  g.ofF32 (if near % 2 ^ 31 < Fmt.f32.infBits ∧ f.within .f32 near1 v p ∧ f.within g near1 v (g.ofF32 p) then p else near)

/-- One element of a special function in format `g` (03 R92, R93): special cases, else f32 evaluation and one rounding to
the target under RNE, without a flag. exp2 and exp of +infinity are exact and no result above range: they raise no flag (log
entry 57, DEDUCED). -/
def SFn.eval (f : SFn) (g : Fmt) (x : Nat) : Res :=
  let inf := fun (s : Bool) => g.withSign s g.infBits
  match g.decode x with
  | .nan sig => ⟨g.nan, { nv := sig }, false⟩
  | .inf s => match f with
    | .exp2 => ⟨if s then 0 else inf false, {}, false⟩
    | .exp => ⟨if s then 0 else inf false, {}, false⟩
    | .log2 => if s then ⟨g.nan, { nv := true }, false⟩ else ⟨inf false, {}, false⟩
    | .rcp => ⟨g.withSign s 0, {}, false⟩
    | .rsqrt => if s then ⟨g.nan, { nv := true }, false⟩ else ⟨0, {}, false⟩
    | .sqrt => if s then ⟨g.nan, { nv := true }, false⟩ else ⟨inf false, {}, false⟩
    | .sin => ⟨g.nan, { nv := true }, false⟩
    | .cos => ⟨g.nan, { nv := true }, false⟩
    | .tanh => ⟨g.exact (.fin s 1 0), {}, false⟩
    | .sigm => ⟨if s then 0 else g.exact (.fin false 1 0), {}, false⟩
    | .gelu => ⟨if s then g.withSign true 0 else inf false, {}, false⟩
  | .fin s m e =>
    let go : Res := ⟨f.evalFin g s m e, {}, false⟩
    match f with
    | .rcp => if m = 0 then ⟨inf s, { dz := true }, false⟩ else go
    | .rsqrt => if m = 0 then ⟨inf s, { dz := true }, false⟩ else if s then ⟨g.nan, { nv := true }, false⟩ else go
    | .log2 => if m = 0 then ⟨inf true, { dz := true }, false⟩ else if s then ⟨g.nan, { nv := true }, false⟩ else go
    | .sqrt => if m ≠ 0 ∧ s then ⟨g.nan, { nv := true }, false⟩ else ⟨(g.sqrtV 0 (.fin s m e)).bits, {}, false⟩
    | .sin => if Fmt.f32.exact (.fin false m e) > 0x47800000 then ⟨g.nan, { nv := true }, false⟩ else go
    | .cos => if Fmt.f32.exact (.fin false m e) > 0x47800000 then ⟨g.nan, { nv := true }, false⟩ else go
    | .exp2 => if !s && go.bits ≥ g.infBits then ⟨inf false, { of := true, nx := true }, false⟩ else go
    | .exp => if !s && go.bits ≥ g.infBits then ⟨inf false, { of := true, nx := true }, false⟩ else go
    | _ => go

end Sys2Proof.Machine
end

