-- ==== Sys2Proof/Machine/Facet.lean ====
section
/-! DEFINITION. Facets (03 R75 to R82): 32-byte block-scaled frames. A facet is a list of 32 bytes, the lowest first. -/

namespace Sys2Proof.Machine

/-- The facet formats by their codes 0x8, 0x9 and 0xA (03 R67). -/
inductive FacetFmt where
  | e4m3 | e5m2 | e2m1
deriving DecidableEq, Repr

def FacetFmt.ofCode (c : Nat) : Option FacetFmt :=
  match c with | 8 => some .e4m3 | 9 => some .e5m2 | 10 => some .e2m1 | _ => none

/-- Elements of a facet (03 R67). -/
def FacetFmt.count : FacetFmt → Nat
  | .e2m1 => 60 | _ => 30
def FacetFmt.emax : FacetFmt → Int
  | .e4m3 => 8 | .e5m2 => 15 | .e2m1 => 2
/-- Fraction bits and the exponent of the smallest subnormal of E4M3 and E5M2. -/
def FacetFmt.mb : FacetFmt → Nat
  | .e4m3 => 3 | .e5m2 => 2 | .e2m1 => 1
def FacetFmt.qmin : FacetFmt → Int
  | .e4m3 => -9 | .e5m2 => -16 | .e2m1 => -1
/-- Code of the largest finite magnitude. -/
def FacetFmt.top : FacetFmt → Nat
  | .e4m3 => 0x7E | .e5m2 => 0x7B | .e2m1 => 7

/-- A magnitude code as m · 2^e (03 R70). -/
def FacetFmt.mag (f : FacetFmt) (c : Nat) : Nat × Int :=
  let k := c / 2 ^ f.mb
  if k = 0 then (c, f.qmin) else (c % 2 ^ f.mb + 2 ^ f.mb, f.qmin + k - 1)

/-- The value of an E4M3 or E5M2 code, absent codes apart. Every NaN code is quiet (log entry 49, DEDUCED). -/
def FacetFmt.decode8 (f : FacetFmt) (c : Nat) : FV :=
  let s := decide (c / 128 = 1)
  let a := c % 128
  match f with
  | .e4m3 => if a = 0x7F then .nan false else .fin s (f.mag a).1 (f.mag a).2
  | _ => if a = 0x7C then .inf s else if a > 0x7C then .nan false else .fin s (f.mag a).1 (f.mag a).2

def FV.scale (v : FV) (k : Int) : FV := match v with | .fin s m e => .fin s m (e + k) | v => v

/-- The code of element `i`. -/
def FacetFmt.codeAt (f : FacetFmt) (b : List Byte) (i : Nat) : Nat :=
  match f with
  | .e2m1 => field (b.getD (2 + i / 2) 0).toNat (4 * (i % 2)) 4
  | _ => (b.getD (2 + i) 0).toNat

/-- An element of a facet (03 R76, R77, R82): none is absent. -/
def FacetFmt.elem (f : FacetFmt) (b : List Byte) (i : Nat) : Option FV :=
  let sc := (b.getD 0 0).toNat
  let k : Int := sc - 127
  let c := f.codeAt b i
  if sc = 0xFF then some (.nan false)
  else match f with
  | .e2m1 =>
    if c = 8 then
      let x := (b.getD 1 0).toNat
      if x = 0 ∨ x = 0x80 then none else some ((FacetFmt.decode8 FacetFmt.e4m3 x).scale k)
    else some ((FV.fin (decide (c / 8 = 1)) (f.mag (c % 8)).1 (f.mag (c % 8)).2).scale k)
  | f => if c = 0x80 then none else some ((f.decode8 c).scale k)

/-- Facets from codes. -/
def FacetFmt.pack (f : FacetFmt) (sc sp : Nat) (cs : List Nat) : List Byte :=
  BitVec.ofNat 8 sc :: BitVec.ofNat 8 sp :: (match f with
    | .e2m1 => (List.range 30).map fun i => BitVec.ofNat 8 (cs.getD (2 * i) 0 + 16 * cs.getD (2 * i + 1) 0)
    | _ => (List.range 30).map fun i => BitVec.ofNat 8 (cs.getD i 0))

def FacetFmt.absCode : FacetFmt → Nat
  | .e2m1 => 8 | _ => 0x80
/-- The all-absent and the all-zero facet (03 R78). -/
def FacetFmt.allAbsent (f : FacetFmt) : List Byte := f.pack 0x7F 0 (List.replicate f.count f.absCode)
def FacetFmt.allZero (f : FacetFmt) : List Byte := f.pack 0x7F 0 []

/-- One E4M3 or E5M2 code of (−1)^s·m·2^e under RM (03 R79): the code, inexact, saturated. -/
def FacetFmt.code8 (f : FacetFmt) (rm : RMode) (s : Bool) (m : Nat) (e : Int) : Nat × Bool × Bool :=
  let sg := fun c => if s ∧ c ≠ 0 then c + 128 else c
  if m = 0 then (0, false, false)
  else if (FV.fin false (f.mag f.top).1 (f.mag f.top).2).lt (.fin false m e) then (sg f.top, true, true)
  else
    let q := max ((m.log2 : Int) + e - f.mb) f.qmin
    let (n, ix) := roundAt rm s m e false q
    (sg ((q - f.qmin).toNat * 2 ^ f.mb + n), ix, false)

/-- An integer in units of 2^q, for q at most e. -/
def unitsOf (s : Bool) (m : Nat) (e q : Int) : Int := scaled s m e q

/-- The best of a list by a strict order. -/
def bestOf (lt : (Int × Nat) → (Int × Nat) → Bool) : List (Int × Nat) → Option (Int × Nat)
  | [] => none
  | x :: r => match bestOf lt r with
    | none => some x
    | some y => if lt y x then some y else some x

/-- One E2M1 code (03 R81): `vx` is the extra value in extra mode, with block code 8. -/
def code4 (rm : RMode) (vx : Option FV) (s : Bool) (m : Nat) (e : Int) : Nat × Bool × Bool :=
  let q := min e (-9)
  let y := unitsOf s m e q
  let base : List (Int × Nat) := (List.range 16).filterMap fun c =>
    if c = 8 then none else
    let (mm, ee) := FacetFmt.mag FacetFmt.e2m1 (c % 8)
    some (unitsOf (decide (c / 8 = 1)) mm ee q, c)
  let v := base ++ (match vx with | some (.fin t mm ee) => [(unitsOf t mm ee q, 8)] | _ => [])
  let same := v.filter fun x => if y < 0 then decide (x.1 ≤ 0) else decide (x.1 ≥ 0)
  let far := bestOf (fun a b => decide (a.1.natAbs > b.1.natAbs)) same
  let evn := fun (c : Nat) => decide (c % 2 = 0) && decide (c ≠ 8)
  let pick : Option (Int × Nat) :=
    match rm.toNat with
    | 0 => bestOf (fun a b =>
        let da := (a.1 - y).natAbs
        let db := (b.1 - y).natAbs
        decide (da < db) || (decide (da = db) && ((decide (b.2 = 8) && decide (a.2 ≠ 8)) || (decide (a.2 ≠ 8) && evn a.2 && !evn b.2)))) v
    | 1 => bestOf (fun a b => decide (a.1.natAbs > b.1.natAbs)) (same.filter fun x => decide (x.1.natAbs ≤ y.natAbs))
    | 2 => bestOf (fun a b => decide (a.1 < b.1)) (v.filter fun x => decide (x.1 ≥ y))
    | _ => bestOf (fun a b => decide (a.1 > b.1)) (v.filter fun x => decide (x.1 ≤ y))
  match far with
  | some (fv, fc) => if y.natAbs > fv.natAbs then (fc, true, true) else
    match pick with
    | some (pv, pc) => (if pv = 0 then 0 else pc, decide (pv ≠ y), false)
    | none => (fc, true, true)
  | none => (0, false, false)

/-- Whether a magnitude is one of the E2M1 magnitudes. -/
def isE2M1Mag (m : Nat) (e : Int) : Bool :=
  (List.range 8).any fun c => (FV.fin false (FacetFmt.mag FacetFmt.e2m1 c).1 (FacetFmt.mag FacetFmt.e2m1 c).2).eq (.fin false m e)

/-- Quantise the source values of one facet (03 R78 to R81): its bytes, its flags and whether an element saturated. An
absent source is `none`. Where a source is NaN or infinite the scale is 0xFF, and the special byte, which R78 does not give, is 0
(log entry 49, DEDUCED). -/
def FacetFmt.quantise (f : FacetFmt) (rm : RMode) (xs : List (Option FV)) : List Byte × Sticky × Bool :=
  let abs := xs.any fun x => x.isNone
  let pres := xs.filterMap id
  let bad := pres.any fun v => match v with | .fin _ _ _ => false | _ => true
  if bad then (f.pack 0xFF 0 [], { nv := true, abs := abs }, false)
  else
    let fins := pres.filterMap fun v => match v with | .fin s m e => some (s, m, e) | _ => none
    let amax := fins.foldl (fun (a : Bool × Nat × Int) x => if (FV.fin false a.2.1 a.2.2).lt (.fin false x.2.1 x.2.2) then x else a) (false, 0, 0)
    let am := amax.2.1
    if am = 0 then
      (f.pack 0x7F 0 (xs.map fun x => if x.isNone then f.absCode else 0), { abs := abs }, false)
    else
      let se := max ((am.log2 : Int) + amax.2.2 - f.emax) (-127)
      let qm := amax.2.2 - se
      let special : Nat :=
        if f ≠ FacetFmt.e2m1 ∨ abs = true ∨ isE2M1Mag am qm = true then 0
        else
          let (c, _, _) := FacetFmt.code8 FacetFmt.e4m3 rm false am qm
          if isE2M1Mag (FacetFmt.mag FacetFmt.e4m3 c).1 (FacetFmt.mag FacetFmt.e4m3 c).2 then 0
          else if amax.1 then c + 128 else c
      let vx := if special = 0 then none else some (FacetFmt.decode8 FacetFmt.e4m3 special)
      let rs := xs.map fun x => match x with
        | some (.fin s m e) => if f = FacetFmt.e2m1 then code4 rm vx s m (e - se) else f.code8 rm s m (e - se)
        | _ => (f.absCode, false, false)
      (f.pack (se + 127).toNat special (rs.map fun r => r.1),
        { nx := rs.any (fun r => r.2.1), abs := abs }, rs.any fun r => r.2.2)

/-- Whether a facet counts as zero for the zero flags (05 R145), or as all absent. -/
def FacetFmt.isZero (f : FacetFmt) (b : List Byte) : Bool :=
  (List.range f.count).all fun i => let c := f.codeAt b i; decide (c = 0)
def FacetFmt.isAbsent (f : FacetFmt) (b : List Byte) : Bool := (List.range f.count).all fun i => (f.elem b i).isNone

end Sys2Proof.Machine
end

