-- ==== Sys2Proof/Machine/Tlr.lean ====
section
/-! DEFINITION. Tensor layout records (05 R138 to R140): their fields, the geometry of their boxes, and the checks at issue. -/

namespace Sys2Proof.Machine

def causeDescriptor : Byte := 0x0B

/-- Fields of a record (05 R138) from its first fifteen words. -/
def Tlr.ofWords (addr : Word) (ws : List Word) : Tlr :=
  let w := fun i => (ws.getD i 0).toNat
  { addr := addr, base := ws.getD 0 0, fmt := BitVec.ofNat 4 (field (w 1) 60 4), rank := field (w 1) 57 3,
    fill := field (w 1) 56 1 = 1, npk := field (w 1) 52 4, rmt := field (w 1) 51 1 = 1, op := field (w 1) 48 3,
    node := field (w 1) 0 20, ext := (List.range 5).map fun i => field (w (2 + i)) 32 32,
    box := (List.range 5).map fun i => field (w (2 + i)) 0 32, stride := (List.range 5).map fun i => ws.getD (7 + i) 0,
    org := [sextNat 32 (w 12), sextNat 32 (w 12 / 2 ^ 32), sextNat 32 (w 13), sextNat 32 (w 13 / 2 ^ 32), sextNat 32 (w 14)],
    rkey := BitVec.ofNat 32 (field (w 14) 32 32) }

/-- Read a record as the issuing group reads it; its reserved field comes with it. -/
def State.readTlr (s : State) (addr : Word) : M (Tlr × Bool × State) := do
  need (addr.toNat % 128 = 0) causeDescriptor addr
  match s.readWords s.agent .load addr 15 with
  | .error f => .error (failStop noElem addr f)
  | .ok (ws, s') => .ok (Tlr.ofWords addr ws, decide (field (ws.getD 1 0).toNat 20 28 = 0), s')

/-- Bytes of an element (03 R67): facets are 32 bytes. -/
def fmtBytes (f : BitVec 4) : Nat := fmtWidth f / 8

def Tlr.packed (t : Tlr) : Bool := t.fmt = 0xB || t.fmt = 0xC
/-- The dense type of a format. -/
def denseOf (f : BitVec 4) : BitVec 4 := if f = 0xB then 5 else if f = 0xC then 8 else f
/-- Elements that pack together: a group of 12, or a block of 60 (03 R95, R96). -/
def Tlr.span (t : Tlr) : Nat := if t.fmt = 0xB then 12 else 60
/-- Bytes of a packed group or block. -/
def Tlr.spanBytes (t : Tlr) : Nat := if t.fmt = 0xB then 2 + 2 * t.npk else 12 + 5 * t.npk

def prodL (l : List Nat) : Nat := l.foldl (· * ·) 1

/-- Elements of the box: facets for the dense facet formats, dense values on a packed side (05 R138). -/
def Tlr.boxSize (t : Tlr) : Nat := prodL t.box
/-- Elements, with a facet counted as 30 against a packed side (05 R140). -/
def Tlr.count30 (t other : Tlr) : Nat := if other.packed && !t.packed && t.fmt.toNat = 8 then 30 * t.boxSize else t.boxSize

/-- Box indices of linear index L, dimension 0 fastest (05 R139). -/
def unlin : List Nat → Nat → List Nat
  | [], _ => []
  | b :: bs, l => l % b :: unlin bs (l / b)

def Tlr.coords (t : Tlr) (l : Nat) : List Int := (unlin t.box l).zipWith (fun j o => o + (j : Int)) t.org
def Tlr.inBounds (t : Tlr) (c : List Int) : Bool := (c.zip t.ext).all fun x => decide (0 ≤ x.1) && decide (x.1 < x.2)
/-- The address of coordinates (05 R139). -/
def Tlr.at_ (t : Tlr) (c : List Int) : Word :=
  t.base + BitVec.ofInt 64 ((c.zip t.stride).map fun x => x.1 * x.2.toInt).sum

/-- Bytes of an element at this side: 8 for add-with-count. -/
def Tlr.elBytes (t : Tlr) : Nat := if t.op = 1 then 8 else fmtBytes t.fmt

/-- Spans in a packed row, and the spans of a packed box. -/
def Tlr.perRow (t : Tlr) : Nat := (t.box.getD 0 1 + t.span - 1) / t.span
def Tlr.spans (t : Tlr) : Nat := t.perRow * prodL (t.box.drop 1)
/-- First linear index of a span, its length, and its coordinates. -/
def Tlr.spanAt (t : Tlr) (u : Nat) : Nat × Nat × List Int :=
  let b0 := t.box.getD 0 1
  let g := u % t.perRow
  let l := u / t.perRow * b0 + g * t.span
  (l, min t.span (b0 - g * t.span), t.coords l)
/-- Address of a span: the rows by their strides, and the spans of a row one after another. -/
def Tlr.spanAddr (t : Tlr) (c : List Int) : Word :=
  t.base + BitVec.ofInt 64 (((c.zip t.stride).drop 1).map fun x => x.1 * x.2.toInt).sum +
    BitVec.ofInt 64 (c.headD 0 / t.span * t.spanBytes)

/-- Addresses and bytes of what the box holds within its extents. -/
def Tlr.places (t : Tlr) : List (Word × Nat) :=
  if t.packed then (List.range t.spans).filterMap fun u => let c := (t.spanAt u).2.2; if t.inBounds c then some (t.spanAddr c, t.spanBytes) else none
  else (List.range t.boxSize).filterMap fun l => let c := t.coords l; if t.inBounds c then some (t.at_ c, t.elBytes) else none

/-- The space of the page that an address of a context lies on, if it is mapped. -/
def State.spaceOf (s : State) (ctx : Nat) (va : Word) : Option Nat :=
  (s.walk ctx va.toNat).map fun w => pteSpace w.1
/-- The first of listed places of a context of which a byte lies in a space. -/
def State.inSpace (s : State) (ctx sp : Nat) (l : List (Word × Nat)) : Option Word :=
  (l.find? fun x => decide (s.spaceOf ctx x.1 = some sp) || decide (s.spaceOf ctx (x.1 + w64 (x.2 - 1)) = some sp)).map fun x => x.1

/-- The conditions of 05 R140 on one record, in order: the first eight hold before those on both. -/
def Tlr.badOne (t : Tlr) (res src : Bool) : Bool :=
  let dims := List.range 5
  !res || 13 ≤ t.fmt.toNat ||
  t.rank = 0 || 5 < t.rank ||
  dims.any (fun i => decide (t.rank ≤ i) && (decide (t.ext.getD i 0 ≠ 1) || decide (t.box.getD i 0 ≠ 1) || decide (t.org.getD i 0 ≠ 0))) ||
  (t.npk ≠ 0 && !t.packed) || (t.npk = 0 && t.packed) ||
  (src && t.op ≠ 0)

def Tlr.badAlign (t : Tlr) : Bool :=
  let sz := if t.op = 1 then 8 else if t.packed then 1 else fmtBytes t.fmt
  t.base.toNat % sz ≠ 0 || (List.range 5).any fun i => decide (i < t.rank) && decide ((t.stride.getD i 0).toNat % sz ≠ 0)

def Tlr.badPack (t : Tlr) : Bool :=
  t.packed && (let o := t.org.getD 0 0; let b := t.box.getD 0 0
    decide (o % t.span ≠ 0) || (decide (b % t.span ≠ 0) && decide (o + b ≠ t.ext.getD 0 0)))

def Tlr.badRange (t : Tlr) : Bool :=
  t.ext.contains 0 || t.box.contains 0 || decide (1 < t.op) || decide (6 < t.npk) || (t.fill && decide (t.fmt.toNat = 3))

/-- The checks of 05 R140 on the two records of a copy: the address of the record at fault, none where both pass. Where a remote
side lies is asked of the issuing context's own pages. See log entry 27, DEDUCED. -/
def State.badTlrs (s : State) (a b : Tlr) (ra rb : Bool) : Option Word :=
  let lies := fun (t : Tlr) (sp : Nat) => (s.inSpace s.t.ctx sp t.places).isSome
  if a.badOne ra true then some a.addr else if b.badOne rb false then some b.addr
  else if a.fmt ≠ b.fmt ∧ ¬ (a.packed ≠ b.packed ∧ denseOf a.fmt = denseOf b.fmt) then some a.addr
  else if a.count30 b ≠ b.count30 a then some a.addr
  else if a.badPack then some a.addr else if b.badPack then some b.addr
  else if a.badAlign then some a.addr else if b.badAlign then some b.addr
  else if a.badRange then some a.addr else if b.badRange then some b.addr
  else if a.rmt && b.rmt then some b.addr
  else if b.op = 1 ∧ a.fmt.toNat ≠ 2 ∧ a.fmt.toNat ≠ 6 then some b.addr
  else if a.rmt && lies a 2 then some a.addr else if b.rmt && lies b 2 then some b.addr
  else if !b.rmt && lies b 1 && !s.isSup then some b.addr
  else none

/-- The absent pattern of a dense format, or the facet of absents (05 R141). -/
def fillBytes (f : BitVec 4) (absent : Bool) : List Byte :=
  match f.toNat with
  | 8 => if absent then FacetFmt.allAbsent .e4m3 else FacetFmt.allZero .e4m3
  | 9 => if absent then FacetFmt.allAbsent .e5m2 else FacetFmt.allZero .e5m2
  | 10 => if absent then FacetFmt.allAbsent .e2m1 else FacetFmt.allZero .e2m1
  | n => natLe (fmtBytes f) (if absent then (Ty.ofCodeN n).absentCode else 0)
where
  /-- Types by code (03 R67). -/
  Ty.ofCodeN (n : Nat) : Ty :=
    match n with | 0 => .i8 | 1 => .i16 | 2 => .i32 | 3 => .i64 | 4 => .f16 | 5 => .bf16 | 6 => .f32 | _ => .f64

/-- An element as an engine writes it: the special byte of an e4m3f or e5m2f facet is 0 (03 R76). See log entry 49, DEDUCED. -/
def facetOut (f : BitVec 4) (bs : List Byte) : List Byte := if f = 8 ∨ f = 9 then bs.take 1 ++ 0 :: bs.drop 2 else bs

/-- Whether the bytes of one element are ±0, or absent (05 R145). -/
def elIsZero (f : BitVec 4) (b : List Byte) : Bool :=
  match FacetFmt.ofCode f.toNat with
  | some ff => ff.isZero b
  | none => let x := leNat b; decide (x = 0) || (decide (4 ≤ f.toNat) && decide (x = 2 ^ (8 * b.length - 1)))
def elIsAbsent (f : BitVec 4) (b : List Byte) : Bool :=
  match FacetFmt.ofCode f.toNat with
  | some ff => ff.isAbsent b
  | none => decide (f.toNat ≠ 3) && decide (b = fillBytes f true)

end Sys2Proof.Machine
end

