-- ==== Sys2Proof/Machine/Engine.lean ====
section
/-! DEFINITION. Engine operations in flight (04 R125 to R131; 05 R141 to R145, R160 to R162; 17 R405): one element at a
time, completion, ownership of lines, and stops on a missing page. -/

namespace Sys2Proof.Machine

/-- Who an engine operation acts as (04 R130). -/
def State.opAgent (s : State) (o : EngOp) : Agent := { ctx := o.ctx, priv := (s.ctx o.ctx).priv, die := o.die, tm := o.tm, op := o.id }

/-- Slot and phase of an index (05 R152). -/
def RingHdr.slot (r : RingHdr) (x : Nat) : Nat := x % 2 ^ r.log2n
def RingHdr.phase (r : RingHdr) (x : Nat) : Nat := x / 2 ^ r.log2n % 2
def RingHdr.slotAt (r : RingHdr) (x : Nat) : Word := r.slotbase + w64 (r.slot x * r.slotsz)
def RingHdr.statAt (r : RingHdr) (x : Nat) : Word := r.statbase + w64 (r.slot x)

/-- What becomes of one element of an operation. -/
inductive UnitRes where
  | ok (s : State) (o : EngOp)
  /-- An access fails at an address; `dst` says on which side. -/
  | fail (f : Fail) (va : Word) (dst : Bool)
  /-- A malformed packed group (03 R97), with the linear index of its first element, and the state as its reading has left it. -/
  | bad (s : State) (l : Nat)

/-- A value, or the failure of an access with its address and side. -/
abbrev Acc (α : Type) := Except (Fail × Word × Bool) α

/-- Read an element of `n` bytes as an engine does. -/
def State.engRead (s : State) (a : Agent) (va : Word) (n : Nat) : Acc (List Byte × State) :=
  match s.readVA a .engSrc va n with | .ok r => .ok r | .error f => .error (f, va, false)
/-- Write an element as an engine does. -/
def State.engWrite (s : State) (a : Agent) (va : Word) (bs : List Byte) : Acc State :=
  match s.place a .engDst va bs.length bs.length with
  | .ok (p, s) => .ok (s.writePlaceBy a.op a.tm p bs)
  | .error f => .error (f, va, true)

/-- Packed groups have no alignment: their bytes are accessed one by one. -/
def State.engReadB (s : State) (a : Agent) (va : Word) : Nat → Acc (List Byte × State)
  | 0 => .ok ([], s)
  | n + 1 => do
    let (b, s) ← s.engRead a va 1
    let (r, s) ← s.engReadB a (va + 1) n
    .ok (b ++ r, s)
def State.engWriteB (s : State) (a : Agent) (va : Word) : List Byte → Acc State
  | [] => .ok s
  | b :: r => do
    let s ← s.engWrite a va [b]
    s.engWriteB a (va + 1) r

/-- Element L of the source of a copy (05 R141): a remote source is what the node delivered. -/
def State.srcEl (s : State) (a : Agent) (o : EngOp) (t : Tlr) (l : Nat) : Acc (List Byte × State) :=
  let c := t.coords l
  if !t.inBounds c then .ok (fillBytes t.fmt t.fill, s)
  else if t.rmt then .ok ((o.rdata.drop (l * fmtBytes t.fmt)).take (fmtBytes t.fmt), s)
  else s.engRead a (t.at_ c) (fmtBytes t.fmt)

/-- Type of an add-with-count (05 R142). -/
def addTy (f : BitVec 4) : Ty := if f = 2 then .i32 else .f32

/-- Write element L of the destination, or add to it (05 R141, R142). -/
def State.dstEl (s : State) (a : Agent) (o : EngOp) (t : Tlr) (l : Nat) (x : List Byte) : Acc (State × EngOp) :=
  let c := t.coords l
  let x := facetOut t.fmt x
  if !t.inBounds c then .ok (s, o)
  else if t.rmt then .ok (s, { o with rout := o.rout ++ [(t.at_ c, x)] })
  else if t.op = 1 then
    let va := t.at_ c
    match s.place a .atomic va 8 8 with
    | .error f => .error (f, va, true)
    | .ok (p, s) =>
      let old := s.readPlace a.tm p 8
      let new := natLe 8 (addCount (addTy t.fmt) (leNat old) (leNat x))
      let s := s.writePlaceBy a.op a.tm p new
      .ok (match p with | .hbm pa => s.noteAmo o.g pa old new | _ => s, o)
  else do
    let s ← s.engWrite a (t.at_ c) x
    .ok (s, o)

/-- The span that dense element `l` of a packed box falls in, and its place there (05 R139). -/
def Tlr.spanOf (t : Tlr) (l : Nat) : Nat × Nat :=
  let b0 := t.box.getD 0 1
  (l / b0 * t.perRow + l % b0 / t.span, l % b0 % t.span)

/-- The rank of a value for packing (03 R98): NaN, infinity, finite by magnitude, absent. -/
def packAbove (a b : Option FV) : Bool :=
  let cls := fun (x : Option FV) => match x with | none => 0 | some (.nan _) => 3 | some (.inf _) => 2 | some (.fin _ _ _) => 1
  if cls a ≠ cls b then decide (cls a > cls b)
  else match a, b with
    | some (.fin _ m e), some (.fin _ m' e') => (FV.fin false m' e').lt (.fin false m e)
    | _, _ => false

/-- One dense element of a packed side (03 R95 to R98): its code, its value, whether pack stores it, and its facet's scale. -/
structure DenseEl where
  code : Nat := 0
  val : Option FV := none
  cand : Bool := false
  scale : Nat := 0x7F
deriving DecidableEq, Repr

def bf16El (x : Nat) : DenseEl :=
  { code := x, val := if x = Fmt.bf16.absent then none else some (Fmt.bf16.decode x), cand := decide (x % 2 ^ 15 ≠ 0) }
/-- An e4m3 code in a facet of scale `sc`: with scale 0xFF every element is NaN, and none is ±0 (03 R76). -/
def e4m3El (sc c : Nat) : DenseEl :=
  { code := c, scale := sc, cand := decide (c ≠ 0) || decide (sc = 0xFF),
    val := if sc = 0xFF then some (.nan false) else if c = 0x80 then none else some ((FacetFmt.decode8 .e4m3 c).scale ((sc : Int) - 127)) }
def denseEl (fmt : BitVec 4) (sc c : Nat) : DenseEl := if fmt = 0xB then bf16El c else e4m3El sc c

/-- A group of 12: its mask, its slots, and how many candidates are dropped (03 R95, R98). -/
def packGroup (n : Nat) (xs : List DenseEl) : Nat × List Nat × Nat :=
  let c := (xs.mapIdx fun i x => (i, x)).filter fun x => x.2.cand
  let kept := c.filter fun x => decide ((c.filter fun y => packAbove y.2.val x.2.val ||
    (!packAbove x.2.val y.2.val && decide (y.1 < x.1))).length < n)
  ((kept.map fun x => 2 ^ x.1).sum, kept.map (fun x => x.2.code) ++ List.replicate (n - kept.length) 0, c.length - kept.length)

/-- Read what units share, a facet or a span, once (04 R125): `k` names it, and `f` reads it. -/
def readOnce (o : EngOp) (k : Nat) (s : State) (f : Acc (List Byte × State)) : Acc (List Byte × State × EngOp) :=
  match o.seen.find? fun y => y.1 = k with
  | some y => .ok (y.2, s, o)
  | none => f.map fun (b, s) => (b, s, { o with seen := (k, b) :: o.seen })

/-- `n` dense elements of a dense side, from linear index `l`: bf16 values, or codes of e4m3 facets, facet `l / 30` (05 R139). -/
def State.spanElems (s : State) (a : Agent) (o : EngOp) (src : Tlr) (l : Nat) : Nat → Acc (List DenseEl × State × EngOp)
  | 0 => .ok ([], s, o)
  | n + 1 => do
    let (x, s, o) ← if src.fmt = 8 then (do
        let (b, s, o) ← readOnce o (l / 30) s (s.srcEl a o src (l / 30))
        pure (e4m3El (b.getD 0 0).toNat (b.getD (2 + l % 30) 0).toNat, s, o))
      else (do
        let (b, s) ← s.srcEl a o src l
        pure (bf16El (leNat b), s, o))
    let (r, s, o) ← s.spanElems a o src (l + 1) n
    .ok (x :: r, s, o)

/-- Groups of 12 of a list. -/
def twelves {α : Type} : Nat → List α → List (List α)
  | 0, _ => []
  | n + 1, l => l.take 12 :: twelves n (l.drop 12)

/-- Elements of a group of 12 with its slots; none where the mask is malformed (03 R97). -/
def unpackGroup (n : Nat) (mask : Nat) (slots : List Nat) : Option (List Nat) :=
  let set := (List.range 16).filter fun i => field mask i 1 = 1
  if set.any (fun i => decide (12 ≤ i)) || decide (n < set.length) then none
  else some ((List.range 12).map fun i => match set.findIdx? (fun j => j = i) with | some k => slots.getD k 0 | none => 0)

/-- The groups of a span's bytes. -/
def unpackGroups (n w : Nat) : Nat → List Byte → Option (List Nat)
  | 0, _ => some []
  | k + 1, b =>
    let slots := (List.range n).map fun j => leNat ((b.drop (2 + w * j)).take w)
    match unpackGroup n (leNat (b.take 2)) slots, unpackGroups n w k (b.drop (2 + w * n)) with
    | some x, some r => some (x ++ r)
    | _, _ => none

/-- Write listed destination elements in order. -/
def State.dstEls (s : State) (a : Agent) (o : EngOp) (t : Tlr) : List (Nat × List Byte) → Acc (State × EngOp)
  | [] => .ok (s, o)
  | (l, x) :: r => do
    let (s, o) ← s.dstEl a o t l x
    s.dstEls a o t r

/-- Read one packed span, or fill where the row begins past its extent; none where it is malformed. -/
def State.readSpan (s : State) (a : Agent) (o : EngOp) (t : Tlr) (u : Nat) : Acc (Option (Nat × Nat × List Nat) × State × EngOp) := do
  let (_, n, c) := t.spanAt u
  let fillC := if t.fmt = 0xB then leNat (fillBytes 5 t.fill) else (if t.fill then 0x80 else 0)
  if !t.inBounds c then .ok (some (0x7F, 0x7F, List.replicate t.span fillC), s, o) else do
    let (b, s, o) ← if t.rmt then pure ((o.rdata.drop (u * t.spanBytes)).take t.spanBytes, s, o)
      else readOnce o u s (s.engReadB a (t.spanAddr c) t.spanBytes)
    let (h, body, w) := if t.fmt = 0xB then (0, b, 2) else (2, b.drop 2, 1)
    match unpackGroups t.npk w (t.span / 12) body with
    | none => .ok (none, s, o)
    | some xs =>
      let xs := (xs.take n).mapIdx fun i x => if t.inBounds ((c.headD 0 + (i : Int)) :: c.tail) then x else fillC
      .ok (some (if h = 0 then 0 else (b.getD 0 0).toNat, if h = 0 then 0 else (b.getD 1 0).toNat, xs), s, o)

/-- `n` dense elements of a packed side from linear index `l`, through every span that they fall in; or the linear index of the
first element of a malformed one (03 R97). -/
def State.readDense (s : State) (a : Agent) (o : EngOp) (t : Tlr) : Nat → Nat → Nat → Acc ((Nat ⊕ List DenseEl) × State × EngOp)
  | 0, _, _ => .ok (.inr [], s, o)
  | fuel + 1, l, n => if n = 0 then .ok (.inr [], s, o) else do
    let (u, off) := t.spanOf l
    let k := min n ((t.spanAt u).2.1 - off)
    let (r, s, o) ← s.readSpan a o t u
    match r with
    | none => .ok (.inl (t.spanAt u).1, s, o)
    | some (h0, h1, xs) =>
      let mine := (List.range k).map fun i => denseEl t.fmt (if off + i < 30 then h0 else h1) (xs.getD (off + i) 0)
      let (rest, s, o) ← s.readDense a o t fuel (l + k) (n - k)
      .ok (match rest with | .inl b => .inl b | .inr ys => .inr (mine ++ ys), s, o)

/-- The dense elements that a copy with a packed side moves together, from either side. -/
def State.readRange (s : State) (a : Agent) (o : EngOp) (src : Tlr) (l n : Nat) : Acc ((Nat ⊕ List DenseEl) × State × EngOp) :=
  if src.packed then s.readDense a o src n l n
  else do
    let (xs, s, o) ← s.spanElems a o src l n
    .ok (.inr xs, s, o)

/-- Pack one span of dense elements (03 R95 to R98): positions beyond the row's extent stay clear. Each scale byte is that of
the source facet of its facet's first element, and 0x7F where the row holds no second facet (log entry 59, DEDUCED). -/
def State.packSpan (s : State) (a : Agent) (o : EngOp) (dst : Tlr) (u : Nat) (xs : List DenseEl) : Acc (State × EngOp) := do
  let c := (dst.spanAt u).2.2
  let inb := fun (i : Nat) => dst.inBounds ((c.headD 0 + (i : Int)) :: c.tail)
  let all := (xs.mapIdx fun i x => if inb i then x else ({} : DenseEl)) ++ List.replicate (dst.span - xs.length) ({} : DenseEl)
  let gs := (twelves (dst.span / 12) all).map (packGroup dst.npk)
  let w := if dst.fmt = 0xB then 2 else 1
  let body := gs.flatMap fun g => natLe 2 g.1 ++ g.2.1.flatMap (natLe w)
  let sc := fun (i : Nat) => BitVec.ofNat 8 (all.getD i {}).scale
  let head := if dst.fmt = 0xB then [] else [sc 0, sc 30]
  let o := { o with cnt := o.cnt + (gs.map fun g => g.2.2).sum }
  if !(inb 0) then .ok (s, o)
  else if dst.rmt then .ok (s, { o with rout := o.rout ++ [(dst.spanAddr c, head ++ body)] })
  else do
    let s ← s.engWriteB a (dst.spanAddr c) (head ++ body)
    .ok (s, o)

/-- The dense elements of a destination that `n` values from linear index `l` make (03 R99): bf16 values, or whole e4m3 facets, each
with the scale of its first element's block. -/
def unpackEls (fmt : BitVec 4) (l : Nat) (xs : List DenseEl) : List (Nat × List Byte) :=
  if fmt = 5 then xs.mapIdx fun i x => (l + i, natLe 2 x.code)
  else (List.range ((xs.length + 29) / 30)).map fun k =>
    let ys := (xs.drop (30 * k)).take 30
    (l / 30 + k, FacetFmt.pack .e4m3 (ys.headD {}).scale 0 (ys.map fun x => x.code))

/-- Every span of a packed box begins at a facet of the dense side. -/
def Tlr.spansWhole (t : Tlr) : Bool := t.fmt = 0xB || t.box.getD 0 1 % 30 = 0 || t.perRow = t.spans

/-- The units of a copy, which are performed one by one: elements; with a packed side the spans of the destination, else of the
source, or the facets of the destination where the spans do not begin at one (05 R139). -/
def copyUnits (src dst : Tlr) : Nat :=
  if dst.packed then dst.spans else if src.packed && src.spansWhole then src.spans else dst.boxSize
/-- First linear index of a unit with a packed side, in dense elements, and how many it holds. -/
def copyRange (src dst : Tlr) (u : Nat) : Nat × Nat :=
  if dst.packed then ((dst.spanAt u).1, (dst.spanAt u).2.1)
  else if src.packed then (if src.spansWhole then ((src.spanAt u).1, (src.spanAt u).2.1) else (30 * u, 30))
  else (u, 1)

/-- Units of an operation. -/
def EngOp.units (o : EngOp) : Nat :=
  match o.kind with
  | .copy a b => copyUnits a b
  | .gather c => c.n
  | .scatter c => c.n
  | _ => 0

/-- One unit of a copy. -/
def State.copyUnit (s : State) (o : EngOp) (src dst : Tlr) (u : Nat) : UnitRes :=
  let a := s.opAgent o
  let (l, n) := copyRange src dst u
  if src.packed || dst.packed then
    match s.readRange a o src l n with
    | .error (f, va, d) => .fail f va d
    | .ok (.inl b, s, _) => .bad s b
    | .ok (.inr xs, s, o) => match if dst.packed then s.packSpan a o dst u xs else s.dstEls a o dst (unpackEls dst.fmt l xs) with
      | .ok (s, o) => .ok s { o with done := u :: o.done }
      | .error (f, va, d) => .fail f va d
  else match (do
      let (x, s) ← s.srcEl a o src u
      s.dstEl a o dst u x : Acc (State × EngOp)) with
    | .ok (s, o) => .ok s { o with done := u :: o.done }
    | .error (f, va, d) => .fail f va d

/-- Index of element i of a gather or scatter (05 R160): none where it is absent. -/
def State.gathIdx (s : State) (a : Agent) (c : GathCmd) (i : Nat) : Acc (Option Int × State) :=
  let f := fun (x : Nat) => if c.iw then some (sextNat 64 x) else if x = 0x80000000 then none else some (sextNat 32 x)
  if c.isVgath then .ok (f (c.idxs.getD i 0).toNat, s) else do
    let n := if c.iw then 8 else 4
    let (b, s) ← s.engRead a (c.index + w64 (i * n)) n
    .ok (f (leNat b), s)

def GathCmd.tableAt (c : GathCmd) (x : Int) : Word := c.table + BitVec.ofInt 64 (x * fmtBytes c.fmt)
def GathCmd.dataAt (c : GathCmd) (i : Nat) : Word := c.data + w64 (i * fmtBytes c.fmt)

/-- One element of a gather or scatter (05 R161): the count goes up where the index is out of range. -/
def State.gathUnit (s : State) (o : EngOp) (c : GathCmd) (scatter : Bool) (i : Nat) : UnitRes :=
  let a := s.opAgent o
  let n := fmtBytes c.fmt
  let r : Acc (State × Nat) := do
    let (x, s) ← s.gathIdx a c i
    match x with
    | none => if scatter then pure (s, 0) else do
      let s ← s.engWrite a (c.dataAt i) (fillBytes c.fmt true)
      pure (s, 0)
    | some x =>
      if x < 0 ∨ (c.lim.toNat : Int) ≤ x then (if scatter then pure (s, 1) else do
        let s ← s.engWrite a (c.dataAt i) (fillBytes c.fmt c.fill)
        pure (s, 1))
      else do
        let (src, dst) := if scatter then (c.dataAt i, c.tableAt x) else (c.tableAt x, c.dataAt i)
        let (b, s) ← s.engRead a src n
        let s ← s.engWrite a dst (facetOut c.fmt b)
        pure (s, 0)
  match r with
  | .error (f, va, d) => .fail f va d
  | .ok (s, k) =>
    let c' := { c with done := i :: c.done, cnt := min (c.cnt + k) (2 ^ 28 - 1) }
    .ok s { o with done := i :: o.done, kind := if scatter then .scatter c' else .gather c' }

/-- Addresses and bytes that unit `i` of an operation writes on this device. -/
def State.unitDst (s : State) (o : EngOp) (i : Nat) : List (Word × Nat) :=
  let els := fun (t : Tlr) (ls : List Nat) => ls.filterMap fun l => let c := t.coords l; if t.inBounds c then some (t.at_ c, t.elBytes) else none
  match o.kind with
  | .copy a b =>
    if b.rmt then []
    else if b.packed then (let c := (b.spanAt i).2.2; if b.inBounds c then [(b.spanAddr c, b.spanBytes)] else [])
    else if a.packed then
      let (l, n) := copyRange a b i
      els b (if b.fmt = 5 then (List.range n).map fun j => l + j else (List.range ((n + 29) / 30)).map fun j => l / 30 + j)
    else els b [i]
  | .gather c => [(c.dataAt i, fmtBytes c.fmt)]
  | .scatter c => match s.gathIdx (s.opAgent o) c i with
    | .ok (some x, _) => if 0 ≤ x ∧ x < (c.lim.toNat : Int) then [(c.tableAt x, fmtBytes c.fmt)] else []
    | _ => []
  | .drain t _ => els t [i]
  | .fill _ _ => []

/-- Addresses and bytes that unit `i` of a copy reads on this device. -/
def unitSrc (a b : Tlr) (i : Nat) : List (Word × Nat) :=
  if a.rmt then [] else
  let (l, n) := copyRange a b i
  if a.packed then ((List.range n).map fun j => (a.spanOf (l + j)).1).dedup.map fun u => (a.spanAddr (a.spanAt u).2.2, a.spanBytes)
  else ((List.range n).map fun j => if a.fmt = 8 && b.packed then (l + j) / 30 else l + j).dedup.map fun e => (a.at_ (a.coords e), fmtBytes a.fmt)

/-- Lines of global memory that hold any of listed bytes (04 R126). -/
def State.gmLines (s : State) (ctx : Nat) (l : List (Word × Nat)) : List Nat :=
  (l.flatMap fun x => [x.1.toNat, x.1.toNat + (x.2 - 1)].filterMap fun va => match s.walk ctx va with
    | some (leaf, level, _) => if pteSpace leaf = 0 then some ((ptePfn leaf * 65536 + pageOff level va) / 128) else none
    | none => none).dedup

/-- One element of an operation, if it may be performed now: below the watermark plus 64 (05 R162). -/
def State.opUnit (s : State) (o : EngOp) (i : Nat) : UnitRes :=
  match o.kind with
  | .copy a b => s.copyUnit o a b i
  | .gather c => s.gathUnit o c false i
  | .scatter c => s.gathUnit o c true i
  | _ => .ok s o

/-- The command of a gather or scatter. -/
def EngOp.cmd (o : EngOp) : Option GathCmd := match o.kind with | .gather c => some c | .scatter c => some c | _ => none

/-- The context whose pages hold the engine's records: a `vgath`'s stand in the save area. -/
def State.recCtx (s : State) (o : EngOp) : Nat :=
  match o.cmd with | some c => if c.isVgath then (s.groupD o.g).areaCtx else o.ctx | none => o.ctx

/-- What becomes of a write of a word of an operation's record (05 R144). -/
inductive WriteRes where
  | done (s : State)
  /-- A check of 10 R270 fails, and the word is left as it was; what the walk has left stands (17 R403). -/
  | kept (s : State)
  /-- The line belongs to an earlier operation: the write waits (04 R127). -/
  | wait (line : Nat)

/-- Write a word of an operation's record. -/
def State.opWrite (s : State) (o : EngOp) (va w : Word) : WriteRes :=
  if (match o.cmd with | some c => c.isVgath | none => false) then .done (s.devWrite (s.recCtx o) va (natLe 8 w.toNat)) else
  match s.engWrite (s.opAgent o) va (natLe 8 w.toNat) with
  | .ok s => .done s
  | .error (.recall l, _, _) => .wait l
  | .error (f, _, _) => .kept (s.walked f.walks)

/-- WM, status, CNT and DONE of a gather or scatter, in its block (05 R160, R162): what becomes of word 6. -/
def State.writeMarks (s : State) (o : EngOp) (st : Nat) : WriteRes :=
  match o.cmd with
  | none => .done s
  | some c =>
    let b := c.block st
    let last := fun (s : State) => match s.opWrite o (c.addr + 56) (b.getD 7 0) with | .done s => s | .kept s => s | .wait _ => s
    match s.opWrite o (c.addr + 48) (b.getD 6 0) with
    | .done s => .done (last s)
    | r => r

/-- Put an operation back; what it has written in scratch, and has kept back, stands as the state has it. -/
def State.putOp (s : State) (o : EngOp) : State :=
  { s with ops := s.ops.map fun x => if x.id = o.id then { o with writes := x.writes, mixed := x.mixed, late := x.late } else x }

/-- The lines of a scatter's element are its own from its translation on (04 R126). -/
def State.ownLines (s : State) (o : EngOp) (i : Nat) : EngOp :=
  match o.kind with
  | .scatter _ => { o with lines := (s.gmLines o.ctx (s.unitDst o i)).filter (fun l => !o.lines.contains l) ++ o.lines }
  | _ => o

/-- Perform one unit that is not done. An answer without one leaves the state as it was. -/
def State.perform (s : State) (o : EngOp) (i : Nat) : UnitRes :=
  if o.done.contains i || decide (o.units ≤ i) then .ok s o
  else match s.opUnit o i with
    | .ok q o' =>
      let o' := s.ownLines o' i
      (match (q.putOp o').writeMarks o' 0 with
        | .done q => .ok q o'
        | .kept q => .ok q o'
        | .wait l => .fail (.recall l) 0 true)
    | r => r

/-- Perform listed units, all of them or none. -/
def State.performAll (s : State) (o : EngOp) : List Nat → Option (State × EngOp)
  | [] => some (s, o)
  | i :: r => match s.perform o i with
    | .ok s o => s.performAll o r
    | _ => none

/-- Units that are not done, in order. -/
def EngOp.todo (o : EngOp) : List Nat := if o.ended.isSome then [] else (List.range o.units).filter fun i => !o.done.contains i

/-- A copy's remote source has been delivered, or there is none. -/
def EngOp.supplied (o : EngOp) : Bool :=
  match o.kind with
  | .copy a _ => !a.rmt || decide (o.rdata.length = if a.packed then a.spans * a.spanBytes else a.boxSize * fmtBytes a.fmt)
  | _ => true

/-- Aligned 4-byte words of scratch that hold any of listed bytes of a context. -/
def State.scrWords (s : State) (ctx : Nat) (l : List (Word × Nat)) : List Nat :=
  (l.filter fun x => decide (s.spaceOf ctx x.1 = some 2)).flatMap fun x =>
    (List.range ((x.1.toNat + x.2 + 3) / 4 - x.1.toNat / 4)).map fun k => x.1.toNat / 4 + k

/-- Of listed units, those of `m` and those linked to them by shared words of scratch, in a chain of at most `n` links. -/
def matesFrom (words : Nat → List Nat) (l : List Nat) : Nat → List Nat → List Nat
  | 0, m => m
  | n + 1, m =>
    let ws := m.flatMap words
    let m' := l.filter fun j => m.contains j || (words j).any ws.contains
    if m'.length = m.length then m else matesFrom words l n m'

/-- Of listed units, `i` and those linked to it by shared words of scratch: they write those words together (04 R106). -/
def matesOf (words : Nat → List Nat) (i : Nat) (l : List Nat) : List Nat := matesFrom words l l.length (l.filter fun j => j = i)

/-- Units linked to unit `i` by aligned 4-byte words of scratch that they write. -/
def State.wordMates (s : State) (o : EngOp) (i : Nat) : List Nat := matesOf (fun j => s.scrWords o.ctx (s.unitDst o j)) i o.todo

/-- A unit of a copy that is stopped depends on the page of its stop (17 R405). -/
def State.onStop (s : State) (o : EngOp) (i : Nat) : Bool :=
  match o.stop, o.kind with
  | none, _ => false
  | some (_, _, va), .copy a b => (unitSrc a b i ++ s.unitDst o i).any fun x =>
      decide (x.1.toNat / 65536 ≤ va.toNat / 65536) && decide (va.toNat / 65536 ≤ (x.1.toNat + (x.2 - 1)) / 65536)
  | _, _ => true

/-- An engine performs a unit of an operation of its own accord, between issue and completion (04 R125), with those that share a
word of scratch with it; of a gather or scatter below the watermark plus 64 (05 R162); of a copy from a node once the data have come. -/
def State.engineMove (s : State) (op i : Nat) : State :=
  match s.op? op with
  | none => s
  | some o =>
    let l := s.wordMates o i
    let lim := match o.cmd with | some c => c.watermark + 64 | none => o.units
    if !l.contains i || l.any (fun j => decide (lim ≤ j) || s.onStop o j) || !o.supplied then s
    else match s.performAll o l with
      | some (s, _) => s
      | none => s

/-- One more byte of scratch is kept back. -/
def keepLate (l : List (Nat × List (Option Byte))) (at_ : Nat) (b : Byte) : List (Nat × List (Option Byte)) :=
  let w := ((l.find? fun x => x.1 = at_ / 4).map fun x => x.2).getD (List.replicate 4 none)
  l.filter (fun x => x.1 ≠ at_ / 4) ++ [(at_ / 4, w.set (at_ % 4) (some b))]

/-- An operation that adds with counts (05 R142): its accesses are atomics, which no word of splits. -/
def EngOp.adds (o : EngOp) : Bool :=
  match o.kind with | .copy _ d => decide (d.op = 1) | .drain d _ => decide (d.op = 1) | _ => false

/-- `q` is `s` after a move of an operation: the words of scratch of `keep` that it wrote are kept back (04 R106, R129), and what stood
there stands. -/
def State.withholdIf (keep : Nat → Bool) (s q : State) (op : Nat) : State :=
  match s.op? op, q.op? op with
  | some p, some o =>
    if o.adds then q else
    let l := (((o.writes.take (o.writes.length - p.writes.length)).reverse).flatMap fun w => w.2.mapIdx fun i b => (w.1 + i, b)).filter fun x => keep (x.1 / 4)
    if l = [] then q else
    let t := s.teamD o.tm
    let back := t.spoison.filter fun x => l.any fun y => decide (y.1 / 4 = x.1)
    (q.updTeam o.tm fun y => { y with
      scratch := l.foldl (fun m x => m.write x.1 (t.scratch.read x.1)) y.scratch
      spoison := back ++ y.spoison.filter fun x => !back.contains x }).updOp op fun x =>
      let mine := fun (z : Nat × List (Option Byte)) => l.any fun y => decide (y.1 / 4 = z.1)
      { x with late := l.foldl (fun k x => keepLate k x.1 x.2) (p.late.filter mine ++ x.late.filter fun z => !mine z) }
  | _, _ => q
def State.withhold (s q : State) (op : Nat) : State := State.withholdIf (fun _ => true) s q op

/-- Words of scratch that a draining transfer has still to write in part: elements of this slot or of later ones fall in them. -/
def State.openWords (s : State) (o : EngOp) : List Nat :=
  match o.kind with
  | .drain t _ => s.scrWords o.ctx (((List.range t.boxSize).filter fun l => decide (o.pos ≤ l) && !o.done.contains l).flatMap (s.unitDst o))
  | _ => []

/-- A draining transfer has moved from `s` to `q`: a word of scratch that it has still to write in part, or has kept back a part of, is
kept back until the whole of it is there (04 R106, R129). -/
def State.joinWords (s q : State) (op : Nat) : State :=
  match s.op? op, q.op? op with
  | some p, some o =>
    let l := q.openWords o
    State.withholdIf (fun w => l.contains w || p.late.any fun z => z.1 = w) s q op
  | _, _ => q

/-- Bytes of word `w` of a team's scratch arrive together. -/
def Team.landWord (t : Team) (w : Nat) (bs : List (Option Byte)) : Team :=
  { t with
    scratch := (bs.mapIdx fun i b => (i, b)).foldl (fun m x => match x.2 with | some b => m.write (4 * w + x.1) b | none => m) t.scratch
    spoison := if bs.all Option.isSome then unpoison t.spoison 4 (4 * w) 4 else t.spoison
    zclear := (4 * w / 4096) :: t.zclear.filter fun z => z ≠ 4 * w / 4096 }

/-- Word `k` of those kept back arrives. -/
def State.landWord (s : State) (op k : Nat) : State :=
  match (s.op? op).bind fun o => o.late[k]?.map fun w => (o, w) with
  | some (o, w, b) => ((s.updTeam o.tm fun t => t.landWord w b).noteTiles o.tm op [4 * w / 4096]).updOp op fun x => { x with late := x.late.eraseIdx k }
  | none => s

/-- Word `k` arrives of its own accord, unless a part of it is still to come. -/
def State.wordArrives (s : State) (op k : Nat) : State :=
  match (s.op? op).bind fun o => o.late[k]?.map fun w => (o, w) with
  | some (o, w, _) => if (s.openWords o).contains w then s else s.landWord op k
  | none => s

/-- Every word that an operation has kept back arrives. -/
def State.landAll (s : State) (o : EngOp) : State :=
  match s.op? o.id with
  | some x => (List.range x.late.length).foldl (fun s _ => s.landWord o.id 0) s
  | none => s

/-- Every such word that is whole arrives: an operation stops. -/
def State.landWhole (s : State) (o : EngOp) : State :=
  match s.op? o.id with
  | some x => (List.range x.late.length).foldl (fun s i => s.wordArrives o.id (x.late.length - 1 - i)) s
  | none => s

/-- How the rest of an operation goes, in index order: completed with a status and a count, or held up at a line. -/
inductive RestRes where
  | fin (s : State) (o : EngOp) (st cnt : Nat)
  | held (line : Nat)
  | page (i : Nat)

/-- CNT of a copy whose status is not 1 (05 R138): of a pack, the candidates it has dropped. -/
def EngOp.dropped (o : EngOp) : Nat := match o.kind with | .copy _ _ => o.cnt | _ => 0

/-- The rest of an operation, in index order. The order in which an engine comes to a fault is open (05 R141): the model performs the lower
elements first, so that an access-fault ends the operation once all below it are done, and one that waits for a page comes before it (log
entry 31, DESIGN CHOICE). -/
def State.performRest (s : State) (o : EngOp) : List Nat → RestRes
  | [] => .fin s o 0 o.dropped
  | i :: r =>
    match s.perform o i with
    | .ok s o => s.performRest o r
    | .bad s l => .fin s o 1 l
    | .fail (.recall l) _ _ => .held l
    | .fail (.trap c _ w) _ _ => if c = causePage then .page i else .fin (s.walked (some w)) o 2 o.dropped

/-- The elements that an operation has written in a tile of scratch, of the format of layout `t`, cover it, and all of them are ±0, or
all absent (05 R145). -/
def EngOp.tileZero (o : EngOp) (t : Tlr) (tile : Nat) : Bool :=
  let n := fmtBytes t.fmt
  let els := o.writes.filter fun w => (tilesOf w.1 w.2.length).contains tile
  els.all (fun e => decide (e.2.length = n)) && (els.all (fun e => elIsZero t.fmt e.2) || els.all fun e => elIsAbsent t.fmt e.2) &&
  (List.range (4096 / n)).all fun k => els.any fun e => decide (e.1 ≤ tile * 4096 + n * k) && decide (tile * 4096 + n * k < e.1 + n)

/-- Zero flags that a completed copy, unpack or channel transfer sets (05 R145). -/
def State.setZeroFlags (s : State) (o : EngOp) (t : Tlr) : State :=
  if t.op = 1 || t.packed || (t.rmt && (match o.kind with | .copy _ _ => true | _ => false)) then s else
  match s.op? o.id with
  | none => s
  | some x =>
    let ts := (List.range 128).filter fun q => x.touches q && !x.mixed.contains q && x.tileZero t q
    if ts = [] then s else s.updTeam o.tm fun tm => { tm with zclear := tm.zclear.filter fun z => !ts.contains z }

/-- Set a tag with the status that the engine keeps (05 R144). -/
def State.setTag (s : State) (tm k st : Nat) : State :=
  s.updTeam tm fun t => { t with tags := t.tags ||| (1#64 <<< k), tagSt := Bank.set 0 t.tagSt k (BitVec.ofNat 4 st) }

/-- The first address that an operation has still to write and that lies in the weight-store aperture (04 R103). -/
def State.wsDest (s : State) (o : EngOp) : Option Word :=
  let l := match o.kind with
    | .fill _ r => (List.range (2 ^ r.log2n)).map fun x => (r.slotAt x, r.slotsz)
    | .drain t _ => (List.range t.boxSize).flatMap (s.unitDst o)
    | _ => o.todo.flatMap (s.unitDst o)
  s.inSpace o.ctx 1 l

/-- The weight-store address that an operation may not write when it is issued (04 R103): any for a user group, and for a
supervisor group while a kernel runs. -/
def State.wsBreak (s : State) (o : EngOp) : Option Word :=
  if (s.ctx o.ctx).priv && !s.kernelRuns (fun c => (s.ctx c).part = (s.ctx o.ctx).part) then none else s.wsDest o

/-- Such an operation raises access-fault when it is issued (04 R103). -/
def State.needWs (s : State) (o : EngOp) : M PUnit :=
  match s.wsBreak o with
  | some va => .error (.trap { cause := causeAccess, addr := va })
  | none => .ok ⟨⟩

/-- A write of the weight store is in flight for a partition: no kernel of it is launched (04 R103). -/
def State.wsBusy (s : State) (part : Nat) : Bool := s.ops.any fun o => decide ((s.ctx o.ctx).part = part) && (s.wsDest o).isSome

/-- A copy, gather or scatter completes (05 R141, R144): its last words in scratch, its status word, its kept status, its tag.
Where the line of the status word belongs to an earlier operation, it has ended, and completes later. See log entry 31, DEDUCED. -/
def State.endOp (s : State) (o : EngOp) (st cnt : Nat) : State :=
  let s := s.landAll o
  let fin := fun (s : State) (st : Nat) =>
    let s := match o.kind with | .copy _ d => s.setZeroFlags o d | _ => s
    let s := match o.kind with
      | .copy _ d => if o.rout = [] then s else { s with toHost := s.toHost ++ [ToHost.remote d.node d.rkey (decide (d.op = 1)) o.rout] }
      | _ => s
    (s.dropOp o.id).setTag o.tm o.tag st
  match (match o.kind with
    | .copy _ d => s.opWrite o (d.addr + 120) (w64 (st * 2 ^ 60 + cnt % 2 ^ 32))
    | _ => s.writeMarks o st) with
  | .done s => fin s st
  | .kept s => fin s (if st = 0 then 2 else st)
  | .wait _ => s.putOp { o with ended := some (st, cnt), stop := none, lines := [], late := [] }

/-- An operation that is not stopped performs what is left and completes; where an element waits on a line of an earlier
operation or meets a missing page, nothing happens yet. -/
def State.complete (s : State) (o : EngOp) : State :=
  match o.ended with
  | some (st, cnt) => s.endOp o st cnt
  | none =>
    if o.stop.isSome then s else
    match s.performRest o o.todo with
    | .fin s' o st cnt => s'.endOp o st cnt
    | _ => s

/-- Lines of the dense global destination that an operation has still to write (04 R126); a scatter takes its lines one by one. -/
def State.destLines (s : State) (o : EngOp) : List Nat :=
  match o.kind with
  | .copy _ d => if d.rmt || d.packed then [] else s.gmLines o.ctx (o.todo.flatMap (s.unitDst o))
  | .gather _ => s.gmLines o.ctx (o.todo.flatMap (s.unitDst o))
  | .drain t _ => s.gmLines o.ctx (((List.range t.boxSize).filter fun l => decide (o.pos ≤ l) && !o.done.contains l).flatMap (s.unitDst o))
  | _ => []

/-- Start an operation (04 R125, R126): it takes its identifier and its lines, and the tag's bit is cleared (05 R143). -/
def State.startOp (s : State) (o : EngOp) : State :=
  let o := { o with id := s.nextId, rank := s.nextId }
  let o := { o with lines := s.destLines o }
  { s with ops := s.ops ++ [o], nextId := s.nextId + 1 }

def State.clearTag (s : State) (k : Nat) : State :=
  { s with t := { s.t with tags := s.t.tags &&& ~~~(1#64 <<< k), tagSt := Bank.set 0 s.t.tagSt k 0 } }

/-- A tag of the current team has an operation in flight (05 R143). -/
def State.tagBusy (s : State) (k : Nat) : Bool :=
  s.ops.any fun o => o.tm = s.t.id && o.tag = k && (match o.kind with | .copy _ _ => true | .gather _ => true | .scatter _ => true | _ => false)

/-- Units that are not done and write into a line. -/
def State.unitsIn (s : State) (o : EngOp) (line : Nat) : List Nat := o.todo.filter fun i => (s.gmLines o.ctx (s.unitDst o i)).contains line

/-- The units that must be performed before a line is given up: those that write into it and, as a gather or scatter goes no further
than 64 elements above the watermark (05 R162), those before them. -/
def State.unitsFor (s : State) (o : EngOp) (line : Nat) : List Nat :=
  let l := s.unitsIn o line
  if o.cmd.isSome then o.todo.filter fun i => l.any fun j => decide (i ≤ j) else l

/-- A directory recall (04 R126, R127): the owner writes every element of the line, and gives the line up. A transfer of a channel
gives up a line once its slots have brought every element of it, and a copy from a node once the data have come. -/
def State.recallLine (s : State) (o : EngOp) (line : Nat) : State :=
  let give := fun (s : State) => s.updOp o.id fun x => { x with lines := x.lines.filter fun l => l ≠ line }
  match o.kind with
  | .drain _ _ => if (s.destLines o).contains line then s else give s
  | _ =>
    let l := s.unitsFor o line
    if l ≠ [] && !o.supplied then s
    else match s.performAll o l with
      | some (s, _) => give s
      | none => s

/-- Whether an access would meet a missing page: its address then, and what the walk has left (17 R403). -/
def State.pageAt (s : State) (a : Agent) (k : AccKind) (va : Word) (n : Nat) : List Word × State :=
  match s.place a k va n n with
  | .ok (_, q) => ([], q)
  | .error (.trap x _ w) => (if x = causePage then [va] else [], s.walked (some w))
  | .error (.recall _) => ([], s)

/-- Addresses of element i that meet a missing page, found without an access (05 R162), with the state as the walks leave it. None where
its index stands in a line that another operation owns, whose data the read must wait for (04 R127). -/
def State.missing (s : State) (o : EngOp) (i : Nat) : Option (List Word × State) :=
  match o.cmd with
  | none => some ([], s)
  | some c =>
    let a := s.opAgent o
    match s.gathIdx a c i with
    | .error (.trap x _ w, va, _) => some (if x = causePage then [va] else [], s.walked (some w))
    | .error (.recall _, _, _) => none
    | .ok (x, s) => some <|
      let n := fmtBytes c.fmt
      let scat := match o.kind with | .scatter _ => true | _ => false
      let ok := match x with | some x => decide (0 ≤ x) && decide (x < (c.lim.toNat : Int)) | none => false
      let l := if scat then (if ok then [(AccKind.engSrc, c.dataAt i), (.engDst, c.tableAt (x.getD 0))] else [])
        else (AccKind.engDst, c.dataAt i) :: (if ok then [(AccKind.engSrc, c.tableAt (x.getD 0))] else [])
      l.foldl (fun r y => let m := r.2.pageAt a y.1 y.2 n; (r.1 ++ m.1, m.2)) ([], s)

/-- The missing pages of listed elements. -/
def State.missingAll (s : State) (o : EngOp) : List Nat → Option (List (Nat × List Word) × State)
  | [] => some ([], s)
  | i :: r => do
    let (m, s) ← s.missing o i
    let (l, s) ← s.missingAll o r
    some ((i, m) :: l, s)

/-- Insert a number in ascending order, once. -/
def insNat (x : Nat) : List Nat → List Nat
  | [] => [x]
  | y :: r => if x < y then x :: y :: r else if x = y then y :: r else y :: insNat x r

/-- The fault record of a gather or scatter (05 R162), by the addresses at which its remaining elements meet missing pages. -/
def faultRecord (c : GathCmd) (miss : List (Nat × List Word)) : List Word :=
  let pages := miss.foldl (fun l x => x.2.foldl (fun l va => insNat (va.toNat / 65536 * 65536) l) l) []
  let mask := ((List.range 64).map fun b => if miss.any (fun x => decide (x.1 = c.watermark + b) && decide (x.2 ≠ [])) then 2 ^ b else 0).sum
  [c.addr, w64 (c.watermark * 2 ^ 32), w64 mask, w64 ((if 64 < pages.length then 2 ^ 63 else 0) + min pages.length 64), 0, 0, 0, 0] ++
    (List.range 64).map fun k => w64 (pages.getD k 0)

/-- Write consecutive words of an operation's fault record; none where a line of it belongs to another operation, which the write waits
for (04 R127). The spec does not say what follows where the write of a word fails a check of 10 R270 (05 R144 speaks of words 15 and 6
alone): the model leaves that word as it was, writes the others and sends the notice (log entry 58, DESIGN CHOICE). -/
def State.writeRec (s : State) (o : EngOp) (va : Word) : List Word → Option State
  | [] => some s
  | w :: r => match s.opWrite o va w with
    | .done s => State.writeRec s o (va + 8) r
    | .kept s => State.writeRec s o (va + 8) r
    | .wait _ => none

/-- The fault record of an operation that stops, written (05 R162); of a copy there is none. None where something it needs waits. -/
def State.recordFault (s : State) (o : EngOp) : Option State :=
  match o.cmd with
  | none => some s
  | some g => do
    let (miss, s) ← s.missingAll o o.todo
    s.writeRec o g.frec (faultRecord g miss)

/-- The notice of a stop (17 R405): the handler is spawned with cause 0x19, and the group goes on. -/
def State.notice (s : State) (g : Group) (ctx die : Nat) (entry : Word) (i : Nat) (va info : Word) : State :=
  s.deliver die ctx (s.ctx ctx).priv g.area 0x19
    [g.area, 0x19, w64 ctx, w64 (2 ^ 9 + 0x19), entry, w64 i, va, info]

/-- A group has been reclaimed: what stops at a fault then is abandoned (06 R175 step 3). -/
def State.abandons (s : State) (g : Nat) : Bool := decide ((s.groupD g).run = .reclaimed)

/-- The linear index, in the layout on the side of a failure, of the element of unit `u` of a copy that holds an address (05 R139): of a
byte of a packed group, the first element of the group; of a scale, the first of its facet. -/
def faultEl (src dst : Tlr) (u : Nat) (va : Word) (side : Bool) : Nat :=
  let (l, n) := copyRange src dst u
  let t := if side then dst else src
  if !src.packed && !dst.packed then l
  else if t.packed then
    match ((List.range n).map fun i => (t.spanOf (l + i)).1).find? fun q => (va - t.spanAddr (t.spanAt q).2.2).toNat < t.spanBytes with
    | some q =>
      let k := (va - t.spanAddr (t.spanAt q).2.2).toNat
      let i := if t.fmt = 0xB then 12 * (k / (2 + 2 * t.npk)) else if k < 2 then 30 * k else 12 * ((k - 2) / (2 + t.npk))
      (t.spanAt q).1 + min i ((t.spanAt q).2.1 - 1)
    | none => l
  else
    let el := fun (i : Nat) => if t.fmt = 8 then (l + i) / 30 else l + i
    (((List.range n).map el).find? fun e => t.at_ (t.coords e) = va).getD (el 0)

/-- An operation stops at unit i, if that meets a missing page (17 R405): the elements already performed stand, its fault record is
written first, and its lines are given up (04 R128). The notice carries the linear index of the faulting element. -/
def State.stopOp (s : State) (o : EngOp) (i : Nat) : State :=
  if o.stop.isSome || !o.todo.contains i then s else
  match s.opUnit o i with
  | .fail (.trap c _ w) va dst =>
    if c ≠ causePage then s
    else if s.abandons o.g then (s.landAll o).dropOp o.id
    else
    let info := match o.kind with
      | .copy a b => if dst then b.addr else a.addr
      | .gather g => g.frec
      | .scatter g => g.frec
      | _ => 0
    let at_ := match o.kind with | .copy a b => faultEl a b i va dst | _ => i
    match ((s.walked (some w)).landAll o).recordFault o with
    | none => s
    | some s =>
      let s := s.updOp o.id fun x => { x with stop := some (info, i, va), lines := [], laid := [] }
      s.notice (s.groupD o.g) o.ctx o.die o.entry at_ va info
  | _ => s

/-- Lines that an operation takes again when it resumes (04 R128): of a scatter too, those it has still to write. -/
def State.linesLeft (s : State) (o : EngOp) : List Nat :=
  match o.kind with | .scatter _ => s.gmLines o.ctx (o.todo.flatMap (s.unitDst o)) | _ => s.destLines o

/-- The operation goes on after `tlbinv.retry` (17 R406): it takes again the lines it has still to write (04 R128), after the
operations that were granted lines meanwhile (R127). -/
def State.retryOp (s : State) (o : EngOp) : State :=
  { s.updOp o.id fun x => { x with stop := none, lines := s.linesLeft x, laid := [], rank := s.nextId } with nextId := s.nextId + 1 }

/-- Bytes that an operation writes in global memory meet a range of addresses of its context (04 R117, R120, R130). -/
def State.destMeets (s : State) (o : EngOp) (ctx : Nat) (base len : Word) : Bool :=
  let hit := fun (x : Word × Nat) => decide (x.1.toNat < base.toNat + len.toNat) && decide (base.toNat < x.1.toNat + x.2) &&
    !((s.spaceOf ctx x.1).any fun sp => decide (sp ≠ 0))
  decide (o.ctx = ctx) &&
  (match o.kind with
    | .fill _ r => [(r.slotbase, r.slotsz * 2 ^ r.log2n), (r.statbase, 2 ^ r.log2n), (r.addr, 64)].any hit
    | .drain t _ => (List.range t.boxSize).any fun i => (s.unitDst o i).any hit
    | .scatter c => (List.range c.n).any fun i => (s.unitDst o i).any hit || (match s.gathIdx (s.opAgent o) c i with | .error _ => true | _ => false)
    | _ => (List.range o.units).any fun i => (s.unitDst o i).any hit)

end Sys2Proof.Machine
end

