-- ==== Sys2Proof/Machine/Copy.lean ====
section
/-! DEFINITION. Copies, tags, engine gathers and scatters (10 R292, R293, R296, R297), and the completion of what they
start (05 R141, R144, R162, R163; 04 R126, R131). -/

namespace Sys2Proof.Machine

def causeEngine : Byte := 0x0C

/-- The operation that the executing entry starts, with tag `k`. -/
def State.newOp (s : State) (k : Nat) (kind : OpKind) : EngOp :=
  { kind := kind, g := s.g.id, tm := s.t.id, ctx := s.t.ctx, die := s.t.die, tag := k, entry := s.u.addr }

/-- Issue with tag `k` (05 R143): the entry waits while an operation of the tag is in flight. -/
def State.issueTag (s : State) (k : Nat) (kind : OpKind) : M State :=
  if s.tagBusy k then holdM (.tagBusy k) else do
    s.needWs (s.newOp k kind)
    .ok ((s.clearTag k).startOp (s.newOp k kind))

/-- `copy` (10 R292, 05 R140, R141). -/
def execCopy (k : BitVec 6) (_a _b : CReg) (_la : BitVec 4) (s : State) : Out :=
  s.finish do
    need (k.toNat < s.t.ntags)
    need (s.u.opA.toNat % 128 = 0) causeDescriptor s.u.opA
    need (s.u.opB.toNat % 128 = 0) causeDescriptor s.u.opB
    let (x, rx, s') ← s.readTlr s.u.opA
    let (y, ry, s') ← s'.readTlr s.u.opB
    s'.keeping (match s'.badTlrs x y rx ry with
      | some a => trapM causeDescriptor a
      | none => s'.issueTag k.toNat (.copy x y))

/-- Fields of a command block from its first six words (05 R160). -/
def GathCmd.ofWords (addr : Word) (ws : List Word) : GathCmd :=
  let w3 := (ws.getD 3 0).toNat
  { addr := addr, table := ws.getD 0 0, index := ws.getD 1 0, data := ws.getD 2 0, n := field w3 32 32,
    fmt := BitVec.ofNat 4 (field w3 28 4), iw := field w3 27 1 = 1, fill := field w3 26 1 = 1, lim := ws.getD 4 0, frec := ws.getD 5 0 }

/-- The checks of 10 R296; `res` holds the reserved bits of word 3. -/
def GathCmd.bad (c : GathCmd) (res : Nat) : Bool :=
  res ≠ 0 || c.n = 0 || !(c.fmt.toNat ≤ 2 || (4 ≤ c.fmt.toNat && c.fmt.toNat ≤ 6)) || c.frec.toNat % 64 ≠ 0 ||
  c.table.toNat % fmtBytes c.fmt ≠ 0 || c.data.toNat % fmtBytes c.fmt ≠ 0

/-- Read and check a command block, and start it (10 R296). -/
def State.startGath (s : State) (k : Nat) (scatter : Bool) : M State := do
  need (k < s.t.ntags)
  let a := s.u.opA
  need (a.toNat % 64 = 0) causeDescriptor a
  match s.readWords s.agent .load a 6 with
  | .error f => .error (failStop noElem a f)
  | .ok (ws, s') =>
    let c := GathCmd.ofWords a ws
    s'.keeping do
      need (c.bad (field (ws.getD 3 0).toNat 0 26) = false) causeDescriptor a
      s'.issueTag k (if scatter then .scatter c else .gather c)

/-- `egath` (10 R296). -/
def execEgath (k : BitVec 6) (_a : CReg) (_la : BitVec 4) (s : State) : Out := s.finish (s.startGath k.toNat false)
/-- `escat` (10 R296). -/
def execEscat (k : BitVec 6) (_a : CReg) (_la : BitVec 4) (s : State) : Out := s.finish (s.startGath k.toNat true)

/-- Format code of a type (03 R67). -/
def Ty.code : Ty → BitVec 4
  | .i8 => 0 | .i16 => 1 | .i32 => 2 | .i64 => 3 | .f16 => 4 | .bf16 => 5 | .f32 => 6 | .f64 => 7

/-- A free `vgath` record of the group's save area (15 R369): of several the spec names none, and the model takes the lowest (log entry
67, DESIGN CHOICE). -/
def State.vgathSlot (s : State) : Option Word :=
  ((List.range 4).map fun i => s.g.area + w64 (0x500 + 640 * i)).find? fun a => !(s.vgaths s.g.id).any fun x => x.2.addr = a

/-- `vgath` (10 R297): an implicit command block in the save area; an inactive element is done at issue. The spec does not say whether
the checks of R296 are made of that block: the model makes none, so that misaligned elements end with ST = 2, and a `vgath` at `vl` = 0
completes at once (log entry 67, DESIGN CHOICE). -/
def execVgath (k : BitVec 6) (a : CReg) (b : VName) (t : Ty) (_la : BitVec 4) (s : State) : Out :=
  s.finish do
    need (s.vp.isNone = true ∧ t.six = true ∧ a ≠ 31 ∧ k.toNat < s.t.ntags)
    s.needVl t.bits
    let r ← s.needIdx b.toNat
    let n := s.u.vl.toNat
    if s.tagBusy k.toNat then holdM (.tagBusy k.toNat) else
    match s.vgathSlot with
    | none => holdM .vgathFull
    | some at_ =>
      let off := (List.range n).filter fun e => !s.eff e
      let abs := s.active.any fun e => Ty.i32.isAbsent (s.runEl b.toNat 32 e)
      let c : GathCmd := { addr := at_, table := s.u.opA, data := s.u.opX, n := n, fmt := Ty.code t, lim := 2 ^ 31, frec := at_ + 64,
                           idxs := (List.range n).map (fun e => BitVec.ofNat 32 (s.runEl b.toNat 32 e)), isVgath := true, done := off }
      s.needWs { s.newOp k.toNat (.gather c) with done := off }
      let s' := s.devWrite s.g.areaCtx at_ ((c.block 0).flatMap fun w => natLe 8 w.toNat)
      .ok ((((s'.clearTag k.toNat).startOp { s'.newOp k.toNat (.gather c) with done := off }).raise { abs := abs }).consume (runNames b.toNat r))

/-- A tag mask names only tags of the team (10 R293). -/
def State.maskOk (s : State) (m : Word) : Prop := m.toNat / 2 ^ s.t.ntags = 0

/-- The lowest tag of `m` whose operation ended with ST ≠ 0 (05 R144). -/
def State.badTag (s : State) (m : Word) : Option Nat :=
  (List.range 64).find? fun k => m.getLsbD k && Bank.get 0 s.t.tagSt k ≠ 0

/-- What a wait for tags returns (10 R293). -/
def State.tagResult (s : State) (d : CReg) (x : Word) : M State :=
  match s.badTag x with
  | some k => trapM causeEngine (w64 k)
  | none => .ok (s.setC d x)

/-- `tagwait.any` (10 R293). -/
def execTagwaitAny (d _a : CReg) (s : State) : Out :=
  s.finish do
    let m := s.u.opA
    need (m.toNat / 2 ^ s.t.ntags = 0 ∧ m ≠ 0)
    if s.t.tags &&& m = 0 then holdM (.tag m false) else s.tagResult d (s.t.tags &&& m)

/-- `tagwait.all` (10 R293). -/
def execTagwaitAll (d _a : CReg) (s : State) : Out :=
  s.finish do
    let m := s.u.opA
    need (m.toNat / 2 ^ s.t.ntags = 0)
    if s.t.tags &&& m ≠ m then holdM (.tag m true) else s.tagResult d (s.t.tags &&& m)

/-- `tagffr` (10 R293): the lowest set bit, and an error only where that tag's operation ended with ST ≠ 0. -/
def execTagffr (d _a : CReg) (s : State) : Out :=
  s.finish do
    let m := s.u.opA
    need (m.toNat / 2 ^ s.t.ntags = 0)
    match (List.range 64).find? fun k => (s.t.tags &&& m).getLsbD k with
    | none => .ok (s.setC d (BitVec.allOnes 64))
    | some k => if Bank.get 0 s.t.tagSt k ≠ 0 then trapM causeEngine (w64 k) else .ok (s.setC d (w64 k))

/-- A copy whose other side is a node. -/
def EngOp.remote (o : EngOp) : Bool := match o.kind with | .copy a b => a.rmt || b.rmt | _ => false

/-- A copy writes its status and sets its tag (05 R141, R144). -/
def execCopyComplete (s : State) : Out :=
  .next (match s.op? s.ev.op with
    | some o => (match o.kind with | .copy _ _ => if o.remote then s else s.complete o | _ => s)
    | none => s)

/-- A gather or scatter completes (05 R162). -/
def execEngineCommandComplete (s : State) : Out :=
  .next (match s.op? s.ev.op with
    | some o => (match o.kind with | .gather _ => s.complete o | .scatter _ => s.complete o | _ => s)
    | none => s)

/-- Bytes that a remote source delivers (05 R163). -/
def Tlr.remoteBytes (t : Tlr) : Nat := if t.packed then t.spans * t.spanBytes else t.boxSize * fmtBytes t.fmt

/-- The device has a node identifier, and the partition's queue-pair table a valid entry for a node (18 R417). -/
def State.peerOk (s : State) (part node : Nat) : Bool :=
  s.nodeSet && (match s.supCtx part with
    | some c =>
      let a := (s.prt part).qpt + w64 (32 * node)
      decide ((s.devWord c a).toNat / 2 ^ 40 = 2 ^ 23) && decide (s.devWord c (a + 8) = 0)
    | none => false)
/-- A line of that entry is an engine operation's: the device waits for the recall (04 R126). -/
def State.peerHeld (s : State) (part node : Nat) : Bool :=
  (s.supCtx part).any fun c => (s.devHeld c ((s.prt part).qpt + w64 (32 * node)) 32).isSome

/-- The node acknowledges a remote copy, with the data of a get, and the copy completes (04 R131). -/
def execRemoteCopyComplete (s : State) : Out :=
  .next (match s.op? s.ev.op with
    | some o => (match o.kind with
      | .copy a b =>
        let part := (s.ctx o.ctx).part
        let node := if a.rmt then a.node else b.node
        if !o.remote || s.peerHeld part node || !s.peerOk part node || (a.rmt && decide (s.ev.data.length ≠ a.remoteBytes)) then s
        else
          let o := if a.rmt then { o with rdata := s.ev.data } else o
          (s.updOp o.id fun x => { x with rdata := o.rdata }).complete o
      | _ => s)
    | none => s)

/-- A NAK, or retries that are exhausted, complete a remote copy with ST = 4 (05 R163). -/
def execRemoteCopyError (s : State) : Out :=
  .next (match s.op? s.ev.op with
    | some o => if o.remote && o.stop.isNone then s.endOp { o with rout := [] } 4 o.dropped else s
    | none => s)

/-- A recall of a line that an operation owns (04 R126, R127). -/
def execDirectoryRecall (s : State) : Out :=
  .next (match s.op? s.ev.op with
    | some o => if o.lines.contains s.ev.line && o.stop.isNone then s.recallLine o s.ev.line else s
    | none => s)

end Sys2Proof.Machine
end

