-- ==== Sys2Proof/Machine/Sync.lean ====
section
/-! DEFINITION. Pivots and bindings (04 R117 to R124; 10 R286, R287), fences (R288), named barriers (R289), and `vwait`
(R290). -/

namespace Sys2Proof.Machine

def causeBinding : Byte := 0x0E
def causePivot : Byte := 0x0F
def causeBarrier : Byte := 0x10

/-- Fields of a pivot word (04 R119). -/
def pivX (w : Nat) : Bool := field w 63 1 = 1
def pivShr (w : Nat) : Nat := field w 32 16
def pivSeq (w : Nat) : Nat := field w 0 32
def pivWord (x : Bool) (shr seq : Nat) : Nat := b2n x * 2 ^ 63 + shr * 2 ^ 32 + seq % 2 ^ 32

/-- A request can be granted (04 R120). -/
def pivFree (w : Nat) (sh : Bool) : Bool := !pivX w && (if sh then decide (pivShr w < 65535) else decide (pivShr w = 0))

def State.setPivot (s : State) (pa w : Nat) : State := { s with hbm := s.hbm.store pa (natLe 8 w) }

/-- Grant a pivot to a group (04 R120). -/
def State.grantPivot (s : State) (pa g : Nat) (sh : Bool) : State :=
  let w := s.hbm.num pa 8
  let s := s.setPivot pa (if sh then pivWord false (pivShr w + 1) (pivSeq w) else pivWord true 0 (pivSeq w))
  s.updGroup g fun x => { x with holds := x.holds ++ [(pa, !sh)] }

/-- Release a pivot that a group holds (04 R120). -/
def State.releasePivot (s : State) (pa g : Nat) (excl : Bool) : State :=
  let w := s.hbm.num pa 8
  let s := s.setPivot pa (if excl then pivWord false (pivShr w) (pivSeq w + 1) else pivWord (pivX w) (pivShr w - 1) (pivSeq w))
  s.updGroup g fun x => { x with holds := x.holds.filter fun h => h.1 ≠ pa }

/-- The pivot that an address names (04 R121, 10 R286), with the state after its translation. -/
def State.pivotAt (s : State) (va : Word) : M (Nat × State) := do
  let (p, s') ← liftFail noElem va (s.place s.agent .load va 8 8)
  s'.keeping (match p with
    | .hbm pa => if s.pivots.contains pa then .ok (pa, s') else trapM causePivot va
    | _ => trapM causePivot va)

/-- `acq` and `acq.sh`: granted at once where the pivot is free and no request came before (04 R120, R121). See log entry 23, DEDUCED. -/
def State.acquire (s : State) (va : Word) (sh : Bool) : M State := do
  let (pa, s') ← s.pivotAt va
  s'.keeping do
    need ((s.g.holds.any fun h => h.1 = pa) = false ∧ s.g.holds.length < 8) causePivot va
    if !(s.pwaits.any fun w => w.pa = pa) && pivFree (s.hbm.num pa 8) sh then .ok (s'.grantPivot pa s.g.id sh)
    else .ok ({ s' with pwaits := s'.pwaits ++ [PivotWait.mk pa s.g.id sh] }.holdUnit (.acq pa sh))

/-- `acq` (10 R286). A request that waits stands in the order of its arrival (04 R120); its walk is done (17 R403). -/
def execAcq (a : CReg) (s : State) : Out := s.finish (s.acquire (s.c a) false)
/-- `acq.sh` (10 R286). -/
def execAcqSh (a : CReg) (s : State) : Out := s.finish (s.acquire (s.c a) true)

/-- The unit at which a group waits, as the unit being executed. -/
def State.waitUnit (s : State) : State :=
  { s with u := { addr := s.g.pc, ipc := s.g.pc, seq := s.g.seq, vl := s.g.vl, vst := s.g.vst, rm := s.g.rm, rot := s.g.rot }, port := false, vp := none }
/-- The waiting unit completes: the group continues after it. -/
def State.passUnit (s : State) : State := { s with g := { s.g with pc := s.g.pc + 4, seq := s.g.seq + 1, cwait := none } }

/-- The first waiter of a pivot is granted it (04 R120), also where the last binding has been removed meanwhile, of which R124 says
nothing (log entry 63, DESIGN CHOICE). -/
def execPivotGrant (s : State) : Out :=
  .next (match s.pwaits.find? fun w => w.pa = s.ev.pa with
    | none => s
    | some w =>
      if pivFree (s.hbm.num w.pa 8) w.sh then
        (({ s with pwaits := s.pwaits.erase w }.focus w.g).grantPivot w.pa w.g w.sh).passUnit
      else s)

/-- Regions of a pivot in a context. -/
def State.regionsOf (s : State) (pa : Nat) : List (Nat × Binding) :=
  s.ctxs.flatMap fun c => (c.2.binds.filter fun b => b.pa = pa).map fun b => (c.1, b)

/-- `rel` (04 R120, R121): an exclusive release waits for the group's engine operations that write a region of the pivot. -/
def execRel (a : CReg) (s : State) : Out :=
  s.finish do
    let (pa, s') ← s.pivotAt (s.c a)
    s'.keeping (match s.g.holds.find? fun h => h.1 = pa with
      | none => trapM causePivot (s.c a)
      | some (_, excl) =>
        if excl && (s.ownOps.any fun o => (s.regionsOf pa).any fun b => s.destMeets o b.1 b.2.base b.2.len) then holdM .rel
        else .ok (s'.releasePivot pa s.g.id excl))

/-- Two ranges of addresses share a byte. -/
def meets (a n b m : Nat) : Bool := decide (a < b + m) && decide (b < a + n)

/-- The conditions of 04 R118, in their order. A region that holds one byte of a pivot word contains it, and the pivot lies in it (log
entry 23, DEDUCED). See log entry 22, DEDUCED. -/
def State.bindBad (c : Context) (base len pivot : Word) (space : Nat) : Bool :=
  let inReg := fun (r : Word × Word) => meets r.1.toNat r.2.toNat pivot.toNat 8
  decide (1024 ≤ c.binds.length) ||
  decide (len = 0) || decide (2 ^ 40 < len.toNat) ||
  (c.binds.any fun b => meets b.base.toNat b.len.toNat base.toNat len.toNat) ||
  decide (pivot.toNat % 8 ≠ 0) ||
  inReg (base, len) || (c.binds.any fun b => inReg (b.base, b.len)) ||
  (c.binds.any fun b => meets base.toNat len.toNat b.pivot.toNat 8) ||
  decide (2 ^ 52 < base.toNat + len.toNat) ||
  decide (space ≠ 0)

/-- `bind` (04 R117 to R119, 10 R287). Its write of a new pivot is an access to the pivot's line (04 R126, 17 R414, 18 R424). -/
def execBind (d a b : CReg) (s : State) : Out :=
  s.finish do
    let pivot := s.c d
    let base := s.c a
    let len := s.c b
    if 2 ^ 52 ≤ pivot.toNat then .error (.trap { cause := causeAddress, addr := pivot }) else do
    let (leaf, level, s') ← liftFail noElem pivot (s.leafFor s.agent .store pivot.toNat)
    let c := s.ctx s.t.ctx
    s'.keeping (need (State.bindBad c base len pivot (pteSpace leaf) = false) causeBinding base)
    let pa := ptePfn leaf * 65536 + pageOff level pivot.toNat
    let s' := s'.setCtx s.t.ctx { c with binds := c.binds ++ [⟨base, len, pivot, pa⟩] }
    if s'.pivots.contains pa then .ok s' else
    let (_, s') ← liftFail noElem pivot (s'.placeLine s.agent .store pa 8 (pteKey leaf))
    .ok { s'.setPivot pa 0 with pivots := pa :: s'.pivots }

/-- `unbind` (04 R124, 10 R287). -/
def execUnbind (a : CReg) (s : State) : Out :=
  s.finish do
    let base := s.c a
    let c := s.ctx s.t.ctx
    match c.binds.find? fun b => b.base = base with
    | none => trapM causeBinding base
    | some b => do
      need ((s.g.holds.any fun h => h.1 = b.pa) = false) causePivot b.pivot
      if s.groups.any fun x => x.holds.any fun h => h.1 = b.pa then holdM .unbind
      else
        let s' := s.setCtx s.t.ctx { c with binds := c.binds.filter fun x => x.base ≠ base }
        .ok (if s'.regionsOf b.pa = [] then { s' with pivots := s'.pivots.filter fun p => p ≠ b.pa } else s')

/-- Copies, gathers and scatters of the group, which `fence.rel` and `fence.full` wait for (04 R130). -/
def State.fenceWaitsOf (s : State) (g : Nat) : Bool :=
  (s.ops.filter fun o => o.g = g).any fun o => match o.kind with | .copy _ _ => true | .gather _ => true | .scatter _ => true | _ => false
def State.fenceWaits (s : State) : Bool := s.fenceWaitsOf s.g.id

/-- `fence.acq` (10 R288): the machine performs one access at a time, so that nothing is left to order (log entry 6, DEDUCED). -/
def execFenceAcq (_sc : Scope) (s : State) : Out := .next s
/-- `fence.rel` (10 R288, 04 R130). -/
def execFenceRel (_sc : Scope) (s : State) : Out := s.finish (if s.fenceWaits then holdM .fence else .ok s)
/-- `fence.full` (10 R288, 04 R130). -/
def execFenceFull (_sc : Scope) (s : State) : Out := s.finish (if s.fenceWaits then holdM .fence else .ok s)
/-- `ifence` (04 R135): the fetch buffer is discarded. -/
def execIfence (s : State) : Out := .next { s with g := { s.g with fbuf := [] } }

/-- Groups that wait at barrier `k` of a team may try again. -/
def State.wakeBar (s : State) (k : Nat) : State :=
  let f := fun (x : Group) => if x.team = s.t.id ∧ x.cwait = some (.bar k) then { x with cwait := none } else x
  { s with g := f s.g, groups := s.groups.map f }

/-- An arrival at a barrier (10 R289); `w` says that the group waits for the phase. -/
def Barrier.arrive (b : Barrier) (n g : Nat) (w : Bool) : Barrier :=
  let b := { b with n := n, arrived := b.arrived ++ [g], waiting := if w then b.waiting ++ [g] else b.waiting }
  if b.arrived.length = n then { passed := b.passed ++ b.waiting } else b

/-- `bar` and `bar.arrive` (10 R289). A group that has entered the phase waits, whatever its n (log entry 71, DEDUCED). -/
def State.arriveBar (s : State) (k : Nat) (cnt : Word) (w : Bool) : M (Bool × State) := do
  need (k < s.t.nbar)
  let b := Bank.get {} s.t.bars k
  let put := fun (s : State) (b : Barrier) => { s with t := { s.t with bars := Bank.set {} s.t.bars k b } }
  if w && b.passed.contains s.g.id then .ok (true, put s { b with passed := b.passed.erase s.g.id })
  else if w && b.waiting.contains s.g.id then .ok (false, s)
  else do
    let n := if cnt = 0 then s.t.ngroups else cnt.toNat
    need (n ≤ s.t.ngroups) causeBarrier (w64 k)
    if b.arrived.contains s.g.id then .ok (false, s) else do
    need (b.arrived = [] ∨ b.n = n) causeBarrier (w64 k)
    let b' := b.arrive n s.g.id w
    let s' := put s b'
    if b'.arrived = [] then
      .ok (true, (put s { b' with passed := b'.passed.erase s.g.id }).wakeBar k)
    else .ok (!w, s')

/-- The outcome at a barrier: past it, or a wait in which the arrival stands. -/
def State.finishBar (s : State) (k : Nat) (m : M (Bool × State)) : Out :=
  match m with
  | .ok (true, s') => .next s'
  | .ok (false, s') => .next (s'.holdUnit (.bar k))
  | .error e => s.finish (.error e)

/-- `bar` (10 R289). -/
def execBar (k : BitVec 6) (a : CReg) (s : State) : Out := s.finishBar k.toNat (s.arriveBar k.toNat (s.c a) true)
/-- `bar.arrive` (10 R289). -/
def execBarArrive (k : BitVec 6) (a : CReg) (s : State) : Out := s.finishBar k.toNat (s.arriveBar k.toNat (s.c a) false)

/-- Read the watched words (10 R290) through the banked TLB (17 R404): for each element, whether it is met. See log entry 24, DEDUCED. -/
def State.watch (s : State) (base : Word) (a b : Nat) : List Nat → M (List (Nat × Bool) × Bool × State)
  | [] => .ok ([], false, s)
  | e :: r => do
    match (s.poisonIn ⟨a, 32, 0, some [e]⟩).or (s.poisonIn ⟨b, 32, 0, some [e]⟩) with
    | some (_, rec_) => .error (.trap { cause := causeData, elem := w64 e, info := rec_ })
    | none =>
    let o := s.el a 32 e
    if Ty.i32.isAbsent o then do
      let (l, _, s) ← s.watch base a b r
      .ok ((e, true) :: l, true, s)
    else do
      let va := base + BitVec.ofInt 64 (sextNat 32 o)
      let (x, s) ← liftFail (w64 e) va (s.readVA s.bankAgent .load va 4)
      let (l, abs, s) ← s.watch base a b r
      .ok ((e, decide (leNat x = s.el b 32 e)) :: l, abs, s)

/-- Active elements of `vwait`: the stage predicate has no part in it. -/
def State.watched (s : State) : List Nat := (List.range s.g.vl.toNat).filter fun e => s.g.vm.getLsbD e

/-- `vwait` completes (10 R290). -/
def State.watchEnd (s : State) (l : List (Nat × Bool)) (abs : Bool) : State :=
  (s.writeVm (l.map fun x => (x.1, !x.2))).raise { abs := abs }

/-- `vwait` (10 R290): where an element is not met, the group waits, with what its walks have left (17 R403). -/
def execVwait (d : CReg) (a b : VName) (s : State) : Out :=
  match (do
    need (d ≠ 31)
    s.needReg a.toNat
    s.needReg b.toNat
    s.needVl 32
    s.watch (s.c d) a.toNat b.toNat s.watched : M (List (Nat × Bool) × Bool × State)) with
  | .ok (l, abs, s') =>
    let t := (s.c (d + 1)).toNat
    .next (if l.all fun x => x.2 then s'.watchEnd l abs
      else s'.holdUnit (.vwait (if t = 0 then none else some ((s.dieAt s.t.die).clk.toNat + t)) d a b))
  | .error e => s.finish (.error e)

/-- The group that waits in `vwait` continues, if its words allow it or, for a timeout, in any case. -/
def State.wakeWatch (s : State) (timeout : Bool) : State :=
  let q := s.focus s.ev.g
  match q.g.cwait with
  | some (.vwait dl d a b) =>
    let due := match dl with | some t => decide (t ≤ (q.dieAt q.t.die).clk.toNat) | none => false
    if timeout && !due then s else
    let q := q.waitUnit
    (match q.watch (q.c d) a.toNat b.toNat q.watched with
      | .ok (l, abs, q') => if timeout || l.all (fun x => x.2) then (q'.watchEnd l abs).passUnit else s.walkedAs q'
      | .error (.trap t) => q.raiseTrap t
      | .error (.hold _) => s)
  | _ => s

/-- A watched line has changed, and every element is met (10 R290). -/
def execVwaitWake (s : State) : Out := .next (s.wakeWatch false)
/-- The timeout of a `vwait` expires (10 R290). -/
def execVwaitTimeout (s : State) : Out := .next (s.wakeWatch true)

end Sys2Proof.Machine
end

