-- ==== Sys2Proof/Machine/Streams.lean ====
section
/-! DEFINITION. Registers bound to streams (05 R146 to R150, 10 R291): binding, unbinding, the landing of a facet, and
the stop of a fill on a missing page (17 R405). -/

namespace Sys2Proof.Machine

/-- Formats of a stream (05 R146). -/
def streamFmt (f : Nat) : Bool := f ≤ 2 || (4 ≤ f && f ≤ 6) || (8 ≤ f && f ≤ 10)

/-- Read a stream descriptor (05 R146): its counts and strides below the rank. "Misalignment" is read of the descriptor's own 64
bytes; a BASE or STRIDE that leads to misaligned elements fails their facets (log entry 58, DESIGN CHOICE). -/
def State.readStream (s : State) (desc : Word) : M (Stream × State) := do
  need (desc.toNat % 64 = 0) causeDescriptor desc
  match s.readWords s.agent .load desc 8 with
  | .error f => .error (failStop noElem desc f)
  | .ok (ws, s') =>
    let w := fun i => (ws.getD i 0).toNat
    let rank := field (w 1) 58 2 + 1
    let cnts := [field (w 2) 0 32, field (w 2) 32 32, field (w 3) 0 32, field (w 3) 32 32].take rank
    s'.keeping (need (field (w 1) 0 57 = 0 ∧ streamFmt (field (w 1) 60 4) = true ∧ cnts.contains 0 = false) causeDescriptor desc)
    .ok ({ reg := 0, desc := desc, p := 0, c := 0, fmt := BitVec.ofNat 4 (field (w 1) 60 4), fill := field (w 1) 57 1 = 1, base := ws.getD 0 0,
           cnts := cnts, strides := (ws.drop 4).take rank }, s')

/-- `vstream` (10 R291, 05 R149): a register that is bound already is bound anew. The checks of the descriptor come after those that
need none of it (07 R200). -/
def execVstream (d : VName) (_a : CReg) (s : State) : Out :=
  s.finish do
    need (s.vp.isNone = true)
    s.needReg d.toNat
    let n := s.u.vl.toNat
    let r := s.reg d.toNat
    let others := s.g.streams.filter fun y => y.reg ≠ r
    need (others.length < 8 ∧ n ≠ 0)
    let (x, s') ← s.readStream s.u.opA
    s'.keeping (need (n ≤ s.vlmax (fmtWidth x.fmt)))
    .ok { s' with g := { s'.g with streams := others ++ [{ x with reg := r, c := n, entry := s.u.addr }] } }

/-- Facets of the register that hold elements of the chunk. -/
def Stream.facets (x : Stream) : List Nat := List.range ((x.c * fmtWidth x.fmt + 255) / 256)
/-- A fill is in flight: a facet has neither landed nor failed. -/
def Stream.filling (x : Stream) : Bool := x.facets.any fun f => !x.landed.getLsbD f && !x.failed.getLsbD f

/-- `vunbind` (05 R149, 10 R291). -/
def execVunbind (d : VName) (s : State) : Out :=
  s.finish do
    s.needReg d.toNat
    let r := s.reg d.toNat
    match s.bound r with
    | none => .ok s
    | some x => if x.filling then holdM .vunbind else .ok { s with g := { s.g with streams := s.g.streams.filter fun y => y.reg ≠ r } }

/-- Address of stream element n (05 R146). -/
def Stream.at_ (x : Stream) (n : Nat) : Word :=
  x.base + BitVec.ofInt 64 (((unlin x.cnts n).zip x.strides).map fun y => (y.1 : Int) * y.2.toInt).sum
def Stream.total (x : Stream) : Nat := prodL x.cnts

/-- Elements of facet `f` with their values, as the engine reads them, or has read them (04 R125): those read before a failure come with
it. -/
def State.fillFacet (s : State) (a : Agent) (x : Stream) : List Nat → List (Nat × Nat) × Option (Fail × Word) × State
  | [] => ([], none, s)
  | e :: r =>
    let n := x.p.toNat + e
    if x.total ≤ n then
      let (l, q, s) := s.fillFacet a x r
      ((e, leNat (fillBytes x.fmt x.fill)) :: l, q, s)
    else match x.got.find? fun y => y.1 = e with
    | some y =>
      let (l, q, s) := s.fillFacet a x r
      (y :: l, q, s)
    | none => match s.readVA a .engSrc (x.at_ n) (fmtBytes x.fmt) with
      | .error f => ([], some (f, x.at_ n), s)
      | .ok (b, s) =>
        let (l, q, s) := s.fillFacet a x r
        ((e, leNat (facetOut x.fmt b)) :: l, q, s)

/-- Elements of the chunk in a facet. -/
def Stream.elems (x : Stream) (f : Nat) : List Nat :=
  let w := fmtWidth x.fmt
  (List.range x.c).filter fun e => decide (e * w / 256 = f)

/-- Facet `f` waits on the page of an address: it has neither landed nor failed, and an element of it lies there (17 R405). -/
def Stream.waits (x : Stream) (va : Word) (f : Nat) : Bool :=
  let n := fmtBytes x.fmt
  !x.landed.getLsbD f && !x.failed.getLsbD f && (x.elems f).any fun e => decide (x.p.toNat + e < x.total) &&
    (let a := (x.at_ (x.p.toNat + e)).toNat; decide (a / 65536 = va.toNat / 65536) || decide ((a + n - 1) / 65536 = va.toNat / 65536))

/-- Write listed elements of a physical register; `pick` leaves each 4-byte word old or new, freely (05 R149). -/
def State.putPhys (s : State) (p w : Nat) (l : List (Nat × Nat)) (pick : Bool) : State :=
  let old := s.vphys p
  let new := l.foldl (fun x ev => Machine.setEl w x ev.1 ev.2) old
  if pick then
    let mix := (List.range (s.g.grant / 32)).foldl (fun x i => if Config.takesOld s.fresh p i then x else Machine.setEl 32 x i (getEl 32 new i)) old
    { s with fresh := s.fresh + 1 }.setVphys p mix
  else s.setVphys p new

def State.updStream (s : State) (r : Nat) (f : Stream → Stream) : State :=
  { s with g := { s.g with streams := s.g.streams.map fun x => if x.reg = r then f x else x } }

/-- Facet `f` is being filled: it has neither landed nor failed, and waits on no missing page. -/
def Stream.fills (x : Stream) (f : Nat) : Bool :=
  x.facets.contains f && !x.landed.getLsbD f && !x.failed.getLsbD f && !(match x.stop with | some (k, va) => decide (k = f) || x.waits va f | none => false)

/-- The engine reads an element of a fill that goes on, at a moment of its own (04 R125): a fault shows when the facet lands. -/
def State.streamRead (s : State) (g r e : Nat) : State :=
  let q := s.focus g
  match q.bound r with
  | none => s
  | some x =>
    let n := x.p.toNat + e
    if !q.g.alive || decide (x.c ≤ e) || decide (x.total ≤ n) || !x.fills (e * fmtWidth x.fmt / 256) || x.got.any (fun y => y.1 = e) then s
    else match q.readVA q.bankAgent .engSrc (x.at_ n) (fmtBytes x.fmt) with
      | .ok (b, q) => q.updStream r fun y => { y with got := (e, leNat (facetOut x.fmt b)) :: y.got }
      | .error _ => s

/-- A facet of a bound register lands (05 R147); one that meets a fault other than a missing page is marked failed
(17 R405). See log entry 25, DEDUCED. -/
def State.landFacet (s : State) (r f : Nat) : State :=
  match s.bound r with
  | none => s
  | some x =>
    if !x.fills f then s
    else match s.fillFacet s.bankAgent x (x.elems f) with
      | (l, none, q) =>
        let w := fmtWidth x.fmt
        ((q.cleanReg r (wordsOf w (l.map fun y => y.1))).putPhys r w l false).updStream r fun y => { y with landed := y.landed ||| (1#64 <<< f) }
      | (l, some (.trap c rec_ w, va), q) =>
        if c = causePage then s
        else ((q.walked (some w)).putPhys r (fmtWidth x.fmt) l true).updStream r fun y =>
          { y with failed := y.failed ||| (1#64 <<< f), faults := (f, c, va, rec_) :: y.faults }
      | (_, some (.recall _, _), _) => s

/-- A facet lands: `e` is the physical register, `i` the facet (05 R147). -/
def execStreamFacetLanded (s : State) : Out :=
  let q := s.focus s.ev.g
  .next (if q.g.alive then q.landFacet s.ev.e s.ev.i else s)

/-- A fill stops at a facet that meets a missing page (17 R405); that of a reclaimed group is abandoned (06 R175). Each word of a facet
that waits on the page is old or what the engine wrote there up to its first missing element (05 R149; log entry 25, DEDUCED). -/
def State.stopFacet (s : State) (g r f : Nat) : State :=
  let q := s.focus g
  match q.bound r with
  | none => s
  | some x =>
    if x.stop.isSome || s.abandons g || !x.facets.contains f || x.landed.getLsbD f || x.failed.getLsbD f then s
    else match q.fillFacet q.bankAgent x (x.elems f) with
      | (_, some (.trap c _ w, va), q') =>
        if c ≠ causePage then s else
        let fs := x.facets.filter fun k => decide (k = f) || x.waits va k
        let u := fs.foldl (fun u k => match u.fillFacet u.bankAgent x (x.elems k) with
          | (l, some (.trap _ _ w, _), v) => (v.walked (some w)).putPhys r (fmtWidth x.fmt) l true
          | (l, _, v) => v.putPhys r (fmtWidth x.fmt) l true) (q'.walked (some w))
        (u.updStream r fun y => { y with stop := some (f, va) }).notice q'.g q'.t.ctx q'.t.die x.entry f va x.desc
      | _ => s

/-- `tlbinv.retry` and `tlbinv.fail` for the fills of a group that stopped under `info` (17 R406): a failure marks every
facet that waits on the page. Its words stay as the stop left them (`State.stopFacet`). -/
def resumeStream (retry : Bool) (info : Word) (x : Stream) : Stream :=
  match x.stop with
  | some (f, va) =>
    if x.desc ≠ info then x
    else if retry then { x with stop := none }
    else
      let fs := x.facets.filter fun k => decide (k = f) || x.waits va k
      { x with stop := none, failed := fs.foldl (fun m k => m ||| (1#64 <<< k)) x.failed, faults := fs.map (fun k => (k, causePage, va, 0)) ++ x.faults }
  | none => x

end Sys2Proof.Machine
end

