-- ==== Sys2Proof/Machine/Rings.lean ====
section
/-! DEFINITION. Rings (05 R151 to R155, 10 R295), channel transfers (05 R156, R157, R434; 10 R294), indices that belong to
the device (06 R175), and the stop of an engine operation on a missing page (17 R405). -/

namespace Sys2Proof.Machine

def causeRing : Byte := 0x0D

/-- Party codes that are reserved (05 R151). -/
def badParty (p : Nat) : Bool := 3 ≤ p && p ≤ 7

/-- Why a ring operation stops: a header or a status byte that is malformed, with what the walks have left, or an access. -/
inductive RingErr where
  | malformed (tlb : List TlbEntry)
  | acc (f : Fail) (va : Word)

/-- Read a ring header (05 R151): its shape, RES and CLM. -/
def State.readRing (s : State) (a : Agent) (k : AccKind) (h : Word) : Except RingErr (RingHdr × Nat × Nat × State) :=
  if h.toNat % 64 ≠ 0 then .error (.malformed s.tlb) else
  match s.readWords a k h 8 with
  | .error f => .error (.acc f h)
  | .ok (ws, s') =>
    let w := fun i => (ws.getD i 0).toNat
    let r : RingHdr := { addr := h, slotbase := ws.getD 0 0, log2n := field (w 1) 60 4, slotsz := field (w 1) 40 20,
                         prod := field (w 1) 36 4, cons := field (w 1) 32 4, statbase := ws.getD 2 0 }
    if field (w 1) 0 32 ≠ 0 ∨ (ws.drop 4).any (fun x => decide (x ≠ 0)) ∨ r.slotsz = 0 ∨ r.slotsz % 32 ≠ 0 ∨ 524288 < r.slotsz ∨
        badParty r.prod = true ∨ badParty r.cons = true ∨ (8 ≤ r.prod ∧ 8 ≤ r.cons) then .error (.malformed s'.tlb)
    else .ok (r, field (w 3) 32 32, field (w 3) 0 32, s')

/-- ST of a status byte: 0 empty, 1 reserved, 2 full, 3 claimed. -/
def stOf (b : Nat) : Nat := field b 5 2
def phOf (b : Nat) : Nat := field b 7 1
def statByte (ph st v : Nat) : Nat := ph * 128 + st * 32 + v * 16

/-- Read the status byte of an index. -/
def State.readStat (s : State) (a : Agent) (k : AccKind) (r : RingHdr) (x : Nat) : Except RingErr (Nat × State) :=
  match s.readVA a k (r.statAt x) 1 with
  | .error f => .error (.acc f (r.statAt x))
  | .ok (b, s') => if leNat b % 16 ≠ 0 then .error (.malformed s'.tlb) else .ok (leNat b, s')

/-- Write as a group or an engine does: `op` names the operation, 0 for a group. -/
def State.ringWrite (s : State) (a : Agent) (va : Word) (bs : List Byte) : Except RingErr State :=
  match s.place a (if a.op = 0 then .store else .engDst) va bs.length bs.length with
  | .error f => .error (.acc f va)
  | .ok (p, s') => .ok (s'.writePlaceBy a.op a.tm p bs)

def State.writeStat (s : State) (a : Agent) (r : RingHdr) (x b : Nat) : Except RingErr State := s.ringWrite a (r.statAt x) (natLe 1 b)

/-- Advance RES or CLM (05 R152). -/
def State.advance (s : State) (a : Agent) (r : RingHdr) (res clm : Nat) : Except RingErr State :=
  s.ringWrite a (r.addr + 24) (natLe 8 (res % 2 ^ 32 * 2 ^ 32 + clm % 2 ^ 32))

/-- The slot of an index is ready to reserve, or to claim (05 R152). -/
def RingHdr.ready (r : RingHdr) (claim : Bool) (x b : Nat) : Bool :=
  if claim then stOf b = 2 && phOf b = r.phase x else stOf b = 0 && phOf b ≠ r.phase x

/-- Status after the slot of an index is reserved, or claimed. -/
def RingHdr.took (r : RingHdr) (claim : Bool) (x b : Nat) : Nat := if claim then statByte (phOf b) 3 (field b 4 1) else statByte (r.phase x) 1 0

/-- A ring fault of the executing group (05 R153), or the fault of an access. -/
def ringStop (h : Word) : RingErr → Stop
  | .malformed w => .trap { cause := causeRing, info := h, tlb := some w }
  | .acc f va => failStop noElem va f

def liftRing {α : Type} (h : Word) : Except RingErr α → M α
  | .ok x => .ok x
  | .error e => .error (ringStop h e)

/-- Kind of access of an agent to a header or a status byte. -/
def ringKind (a : Agent) : AccKind := if a.op = 0 then .load else .engSrc

/-- Take an index, or go on with the one taken, and its slot if it is ready: true with V where the slot is taken. -/
def State.takeSlot (s : State) (a : Agent) (claim : Bool) (tk : Option Word32) (r : RingHdr) (res clm : Nat) :
    Except RingErr (Nat × Option Nat × State) := do
  let x := match tk with | some x => x.toNat | none => if claim then clm else res
  let (b, s) ← s.readStat a (ringKind a) r x
  let s ← match tk with
    | some _ => .ok s
    | none => if claim then s.advance a r res (clm + 1) else s.advance a r (res + 1) clm
  if r.ready claim x b then do
    let s ← s.writeStat a r x (r.took claim x b)
    .ok (x, some (field b 4 1), s)
  else .ok (x, none, s)

/-- `rres` and `rclaim` (10 R295): the index, with V, or a wait that keeps the index taken (05 R152). -/
def State.ringTake (s : State) (claim : Bool) (d : CReg) : M (Bool × State) := do
  let h := s.u.opA
  let (r, res, clm, s') ← liftRing h (s.readRing s.agent .load h)
  s'.keeping (need ((if claim then r.cons else r.prod) = s.g.role.toNat) causeRing h)
  let (x, v, s') ← liftRing h (s'.takeSlot s.agent claim s.u.tk r res clm)
  match v with
  | some v =>
    let s' := s'.setC d (w64 (x + (if claim then v * 2 ^ 32 else 0)))
    .ok (true, if claim then s' else { s' with g := { s'.g with slots := s'.g.slots ++ [(h, BitVec.ofNat 32 x)] } })
  | none => .ok (false, { s' with u := { s.u with tk := some (BitVec.ofNat 32 x) } })

def State.finishTake (s : State) (claim : Bool) (m : M (Bool × State)) : Out :=
  match m with
  | .ok (true, s') => .next s'
  | .ok (false, s') => .next (s'.holdUnit (.ring (s'.u.tk.getD 0) claim s.u.opA))
  | .error e => s.finish (.error e)

/-- `rres` (10 R295). -/
def execRres (d _a : CReg) (s : State) : Out := s.finishTake false (s.ringTake false d)
/-- `rclaim` (10 R295). -/
def execRclaim (d _a : CReg) (s : State) : Out := s.finishTake true (s.ringTake true d)

/-- A slot that a group of the team reserved is committed. -/
def State.dropSlot (s : State) (h : Word) (x : Nat) : State :=
  let f := fun (g : Group) => if g.team = s.t.id then { g with slots := g.slots.filter fun y => !(decide (y.1 = h) && decide (y.2.toNat = x)) } else g
  { s with g := f s.g, groups := s.groups.map f }

/-- `rcom` and `rfree` (10 R295). -/
def State.ringGive (s : State) (claim : Bool) : M State := do
  let h := s.u.opA
  let (r, _, _, s') ← liftRing h (s.readRing s.agent .load h)
  s'.keeping (need ((if claim then r.cons else r.prod) = s.g.role.toNat) causeRing h)
  let x := s.u.opB.toNat % 2 ^ 32
  let (b, s') ← liftRing h (s'.readStat s.agent .load r x)
  s'.keeping (need (stOf b = (if claim then 3 else 1) ∧ phOf b = r.phase x) causeRing h)
  let s' ← liftRing h (s'.writeStat s.agent r x (statByte (phOf b) (if claim then 0 else 2) (field b 4 1)))
  .ok (if claim then s' else s'.dropSlot h x)

/-- `rcom` (10 R295). -/
def execRcom (_a _b : CReg) (s : State) : Out := s.finish (s.ringGive false)
/-- `rfree` (10 R295). -/
def execRfree (_a _b : CReg) (s : State) : Out := s.finish (s.ringGive true)

/-- The entry that waits for a slot tries again (05 R152). Where a younger unit has written its destination, that write stays (07
R192). -/
def State.retryTake (s : State) (claim : Bool) : State :=
  let q := s.focus s.ev.g
  match q.g.pwait, q.g.viq with
  | some (.ring _ c _), u :: rest =>
    if c ≠ claim || !q.g.portReady then s
    else
      let q := { q with u := u, port := true, vp := none, g := { q.g with viq := rest, pwait := none } }
      let d := match decodeWord u.word with | .ok (.rres d _) => d | .ok (.rclaim d _) => d | _ => 0
      (match q.ringTake claim d with
        | .ok (true, q') => { q' with port := false, g := if u.dead then { q'.g with c := q.g.c, late := q.g.late } else q'.g }
        | _ => s)
  | _, _ => s

/-- A waiting `rres` takes its slot (05 R152). -/
def execRingReserve (s : State) : Out := .next (s.retryTake false)
/-- A waiting `rclaim` takes its slot (05 R152). -/
def execRingClaim (s : State) : Out := .next (s.retryTake true)

/-- Who acts for an index that belongs to the device. -/
def State.pendAgent (s : State) (p : PendingIdx) : Agent :=
  { ctx := p.ctx, priv := (s.ctx p.ctx).priv, die := (s.teamD p.tm).die, tm := p.tm }

/-- Item `n` of the pending indices, if its slot allows it, is used (06 R175): a reserve is committed void, a claim freed. -/
def State.settleIdx (s : State) (n : Nat) (claim : Bool) : State :=
  match s.pend[n]? with
  | none => s
  | some p =>
    if p.claim ≠ claim then s else
    let a := s.pendAgent p
    let x := p.x.toNat
    match s.readStat a .load p.ring x with
    | .error _ => s
    | .ok (b, q) =>
      if p.ring.ready claim x b then
        (match q.writeStat a p.ring x (if claim then statByte (phOf b) 0 (field b 4 1) else statByte (p.ring.phase x) 2 1) with
          | .ok q => { q with pend := q.pend.eraseIdx n }
          | .error _ => s)
      else s

/-- A pending void is reserved and committed void (06 R175). -/
def execPendingVoid (s : State) : Out := .next (s.settleIdx s.ev.n false)
/-- A pending discard is claimed and freed (06 R175). -/
def execPendingDiscard (s : State) : Out := .next (s.settleIdx s.ev.n true)

/-- The channel of the current team. -/
def State.chan (s : State) (k : Nat) : Channel := Bank.get {} s.t.chans k

/-- `chgo` (10 R294): the checks of R140 and R156 on the layout in its role. A layout with RMT = 1 is refused: only a copy
travels to a node (05 R163; log entry 30, DEDUCED). -/
def Tlr.badChannel (t : Tlr) (res src lies : Bool) : Bool :=
  t.badOne res src || t.packed || t.badAlign || t.badRange || t.rmt || (t.op = 1 && t.fmt.toNat ≠ 2 && t.fmt.toNat ≠ 6) || lies

/-- `chgo` (10 R294, 05 R156, R157). -/
def execChgo (d _a _b : CReg) (k : BitVec 3) (s : State) : Out :=
  s.finish do
    need (k.toNat < s.t.nchan)
    let h := s.u.opB
    let (r, _, _, s') ← liftRing h (s.readRing s.agent .load h)
    let me := 8 + k.toNat
    s'.keeping (need (r.prod = me ∨ r.cons = me) causeRing h)
    let fill := decide (r.prod = me)
    let (t, res, s') ← s'.readTlr s.u.opA
    s'.keeping do
      let lies := !fill && !s.isSup && (s'.inSpace s.t.ctx 1 t.places).isSome
      need (t.badChannel res fill lies = false) causeDescriptor t.addr
      let c := s.chan k.toNat
      if 8 ≤ c.queue.length then holdM (.channel k.toNat) else
      let op := s'.newOp k.toNat (if fill then .fill t r else .drain t r)
      s'.needWs op
      let c' := { c with queue := c.queue ++ [⟨c.next, s'.nextId⟩], next := c.next + 1 }
      let s' := s'.startOp op
      .ok ({ s' with t := { s'.t with chans := Bank.set {} s'.t.chans k.toNat c' } }.setC d (c.next.setWidth 64))

/-- `chwait` (10 R294, 05 R157). -/
def execChwait (_a : CReg) (k : BitVec 3) (s : State) : Out :=
  s.finish do
    need (k.toNat < s.t.nchan)
    let c := s.chan k.toNat
    let i : Word32 := s.u.opA.setWidth 32
    let ahead := (c.done - i).toNat
    if 1 ≤ ahead ∧ ahead ≤ 2 ^ 31 then
      (match c.sts.find? fun x => x.1 = i with
        | some (_, st) => if st ≠ 0 then trapM causeEngine (w64 (0x100 + k.toNat)) else .ok s
        | none => .ok s)
    else holdM (.chwait k.toNat i)

/-- The layout and the ring of a channel transfer, and whether it drains. -/
def EngOp.chan (o : EngOp) : Option (Tlr × RingHdr × Bool) :=
  match o.kind with | .fill t r => some (t, r, false) | .drain t r => some (t, r, true) | _ => none

/-- What becomes of one slot of a transfer. -/
inductive SlotRes where
  | done (s : State) (o : EngOp)
  /-- The slot of the index taken is not ready. -/
  | waits (s : State) (o : EngOp)
  /-- An error with its status (05 R434). -/
  | err (s : State) (o : EngOp) (st : Nat)
  /-- A missing page, at a linear index and an address. -/
  | page (s : State) (o : EngOp) (i : Nat) (va : Word)
  | held (line : Nat)

/-- A failure of a transfer that has come to position `i`. -/
def slotFail (s : State) (o : EngOp) (i : Nat) : RingErr → SlotRes
  | .malformed w => .err (s.walked (some w)) o 5
  | .acc (.recall l) _ => .held l
  | .acc (.trap c _ w) va => if c = causePage then .page (s.walked (some w)) o i va else .err (s.walked (some w)) o 2

/-- One element of a slot (05 R156): `j` counts in the slot, from position `pos` of the box. -/
def State.slotEl (s : State) (o : EngOp) (t : Tlr) (r : RingHdr) (drain : Bool) (x j : Nat) : Acc (State × EngOp) := do
  let a := s.opAgent o
  let n := fmtBytes t.fmt
  let va := r.slotAt x + w64 (j * n)
  let l := o.pos + j
  if drain then
    if t.boxSize ≤ l then .ok (s, o) else do
    let (b, s) ← s.engRead a va n
    s.dstEl a o t l b
  else do
    let (b, s) ← if t.boxSize ≤ l then pure (fillBytes t.fmt t.fill, s) else s.srcEl a o t l
    let s ← s.engWrite a va (facetOut t.fmt b)
    .ok (s, o)

/-- Elements of a slot, each once: those done before a stop are left alone. -/
def State.slotEls (s : State) (o : EngOp) (t : Tlr) (r : RingHdr) (drain : Bool) (x : Nat) : List Nat → SlotRes
  | [] => .done s o
  | j :: js =>
    if o.done.contains (o.pos + j) then s.slotEls o t r drain x js
    else match s.slotEl o t r drain x j with
      | .ok (s, o) => s.slotEls { o with done := (o.pos + j) :: o.done } t r drain x js
      | .error (f, va, _) => slotFail s o (o.pos + j) (.acc f va)

/-- The slot that a transfer is at: the ring as it reads now, the index, and V where the slot is its own. -/
def State.slotTurn (s : State) (o : EngOp) (r0 : RingHdr) (drain : Bool) : Except RingErr (RingHdr × Nat × Option Nat × State) := do
  let a := s.opAgent o
  let (r, res, clm, s) ← s.readRing a .engSrc r0.addr
  match o.inSlot, o.taken with
  | true, some x => .ok (r, x.toNat, some 0, s)
  | _, _ => do
    let (x, v, s) ← s.takeSlot a drain o.taken r res clm
    .ok (r, x, v, s)

/-- The next slot of a transfer (05 R156): its index, its slot, its elements, and the commit or the release; a void slot writes nothing.
See log entry 26, DEDUCED. -/
def State.nextSlot (s : State) (o : EngOp) : SlotRes :=
  match o.chan with
  | none => .held 0
  | some (t, r0, drain) =>
      let a := s.opAgent o
      match s.slotTurn o r0 drain with
      | .error e => slotFail s o o.pos e
      | .ok (_, x, none, s) => .waits s { o with taken := some (BitVec.ofNat 32 x) }
      | .ok (r, x, some v, s) =>
        let o := { o with taken := some (BitVec.ofNat 32 x), inSlot := true }
        let per := r.slotsz / fmtBytes t.fmt
        let els := if drain && v = 1 then .done s o else s.slotEls o t r drain x (List.range per)
        match els with
        | .done s o =>
          let s := if drain then s else s.landAll o
          (match s.readStat a .engSrc r x with
            | .error e => slotFail s o o.pos e
            | .ok (b, s) =>
              if stOf b ≠ (if drain then 3 else 1) ∨ phOf b ≠ r.phase x then .err s o 5
              else match s.writeStat a r x (statByte (phOf b) (if drain then 0 else 2) (if drain then field b 4 1 else 0)) with
                | .error e => slotFail s o o.pos e
                | .ok s => .done s { o with pos := o.pos + per, taken := none, inSlot := false, done := [] })
        | q => q

/-- A transfer is done (05 R157): its status in word 15 of its layout (05 R144), and the channel's count. Where the line of that word
belongs to an earlier operation, the transfer has ended, and is done later (04 R127). -/
def State.endTransfer (s : State) (o : EngOp) (t : Tlr) (st : Nat) : State :=
  let fin := fun (s : State) (st : Nat) =>
    let s := s.setZeroFlags o t
    let f := fun (c : Channel) =>
      let id := match c.queue with | q :: _ => q.id | [] => 0
      { c with queue := c.queue.tail, done := id + 1,
               sts := (if st = 0 then [] else [(id, BitVec.ofNat 4 st)]) ++ c.sts.filter fun y => y.1 ≠ id : Channel }
    (s.dropOp o.id).updTeam o.tm fun tm => { tm with chans := Bank.set {} tm.chans o.tag (f (Bank.get {} tm.chans o.tag)) }
  let s := s.landAll o
  match s.opWrite o (t.addr + 120) (w64 (st * 2 ^ 60)) with
  | .done s => fin s st
  | .kept s => fin s (if st = 0 then 2 else st)
  | .wait _ => s.putOp { o with ended := some (st, 0), stop := none, lines := [] }

/-- An access of a ring waits for a line that an engine owns (04 R126). -/
def RingErr.waits : RingErr → Bool
  | .acc (.recall _) _ => true
  | _ => false

/-- The status byte of a slot that a group or a channel holds is given a new one (05 R155): a byte that is not as the holder left it
stays as it is found (R434). None where an access waits for a line. The bytes of a void slot stay (log entry 56, DEDUCED). -/
def State.giveSlot (s : State) (a : Agent) (k : AccKind) (r : RingHdr) (drain : Bool) (x : Nat) : Option State :=
  let or := fun (e : RingErr) => if e.waits then none else some s
  match s.readStat a k r x with
  | .error e => or e
  | .ok (b, q) =>
    if stOf b ≠ (if drain then 3 else 1) ∨ phOf b ≠ r.phase x then some s
    else match q.writeStat a r x (if drain then statByte (phOf b) 0 (field b 4 1) else statByte (phOf b) 2 1) with
      | .ok q => some q
      | .error e => or e

/-- Give up the index that a transfer has taken (05 R434, 06 R175): a slot it holds becomes void, or free; an index without
a slot belongs to the device. None where an access waits for a line. -/
def State.dropIndex (s : State) (o : EngOp) : Option State :=
  match o.chan, o.taken with
  | some (_, r0, drain), some x =>
    let a := s.opAgent o
    let ring := match s.readRing a .engSrc r0.addr with
      | .ok (r, _, _, _) => some r
      | .error e => if e.waits then none else some r0
    ring.bind fun r =>
      (if o.inSlot then s.giveSlot a .engSrc r drain x.toNat else some { s with pend := s.pend ++ [⟨x, r, o.ctx, o.tm, drain⟩] }).map fun q =>
        q.updOp o.id fun y => { y with taken := none, inSlot := false }
  | _, _ => some s

/-- A transfer ends in error (05 R434); where an access to its ring waits for a line it has ended, and is done later (04 R127). -/
def State.failTransfer (s : State) (o : EngOp) (st : Nat) : State :=
  match o.chan with
  | some (t, _, _) =>
    let s := s.landAll o
    (match s.dropIndex o with
      | some q => q.endTransfer ((q.op? o.id).getD o) t st
      | none => s.putOp { o with ended := some (st, 0), stop := none, lines := [] })
  | none => s

/-- A transfer of a reclaimed group does nothing more, but for a drain that has claimed its slot, which finishes it (06 R175). -/
def State.inert (s : State) (o : EngOp) : Bool :=
  o.chan.isSome && s.abandons o.g && !((match o.kind with | .drain _ _ => true | _ => false) && o.inSlot && o.stop.isNone)

/-- The transfer that channel `k` of a team runs, if it is not stopped. -/
def State.runningOp (s : State) (tm k : Nat) : Option EngOp :=
  match (Bank.get {} (s.teamD tm).chans k).queue with
  | q :: _ => (s.op? q.op).bind fun o => if o.stop.isSome || s.inert o then none else some o
  | [] => none

/-- Put a transfer back, with the lines it still has to write. -/
def State.putTransfer (s : State) (o : EngOp) : State := s.putOp { o with lines := s.destLines o }

/-- A channel moves one slot (05 R156); where the slot is not ready the index stays taken. -/
def State.channelMove (s : State) (tm k : Nat) (drain : Bool) : State :=
  match s.runningOp tm k with
  | none => s
  | some o =>
    match o.chan with
    | none => s
    | some (t, _, dr) =>
      if dr ≠ drain then s else
      match o.ended with
      | some (st, _) => s.failTransfer o st
      | none =>
      match s.nextSlot o with
      | .done q o =>
        let q := s.joinWords (q.putTransfer o) o.id
        if t.boxSize ≤ o.pos && !q.abandons o.g then q.endTransfer o t 0 else q
      | .waits q o => q.putOp o
      | _ => s

/-- A channel performs element `j` of the slot that it is at (05 R156), with those that share a word of scratch with it (04 R106): of
its own accord, before it commits or frees the slot (04 R125). -/
def State.channelEl (s : State) (o : EngOp) (j : Nat) : State :=
  match o.chan with
  | none => s
  | some (t, r0, drain) =>
    if (s.runningOp o.tm o.tag).map EngOp.id ≠ some o.id || o.ended.isSome then s else
    match s.slotTurn o r0 drain with
    | .ok (r, x, some v, q) =>
      let o := { o with taken := some (BitVec.ofNat 32 x), inSlot := true }
      let n := fmtBytes t.fmt
      let words := fun (j : Nat) => s.scrWords o.ctx (if drain then s.unitDst o (o.pos + j) else [(r.slotAt x + w64 (j * n), n)])
      let l := matesOf words j ((List.range (r.slotsz / n)).filter fun j => !o.done.contains (o.pos + j))
      if (drain && v = 1) || !l.contains j then s
      else match q.slotEls o t r drain x l with
        | .done q o => s.joinWords (q.putTransfer o) o.id
        | _ => s
    | _ => s

/-- An engine performs an element of an operation of its own accord (04 R125): of a channel transfer, an element of its slot. -/
def State.engineStep (s : State) (op i : Nat) : State :=
  match s.op? op with
  | some o => if o.chan.isSome then s.channelEl o i else s.engineMove op i
  | none => s

/-- A filling channel commits one slot (05 R156). -/
def execChannelFillSlot (s : State) : Out := .next (s.channelMove s.ev.tm s.ev.k false)
/-- A draining channel frees one slot (05 R156). -/
def execChannelDrainSlot (s : State) : Out := .next (s.channelMove s.ev.tm s.ev.k true)

/-- A transfer that meets an error with this status ends (05 R434); one of a reclaimed group is never done (06 R175). -/
def execChannelTransferError (s : State) : Out :=
  .next (match s.runningOp s.ev.tm s.ev.k with
    | none => s
    | some o => if o.ended.isSome then s else match s.nextSlot o with
      | .err q o st =>
        if st ≠ s.ev.st.toNat then s
        else if q.abandons o.g then q.putOp { o with stop := some (0, o.pos, 0) }
        else (q.putOp o).failTransfer o st
      | _ => s)

/-- A transfer stops on a missing page at position `i` (17 R405). -/
def State.stopTransfer (s : State) (o : EngOp) (i : Nat) : State :=
  if o.stop.isSome || o.ended.isSome then s else
  match o.chan, s.nextSlot o with
  | some (t, _, _), .page q o' j va =>
    if j ≠ i then s
    else if q.abandons o.g then q.putOp { o' with stop := some (t.addr, i, va), lines := [] }
    else
    ((q.landWhole o).putOp { o' with stop := some (t.addr, i, va), lines := [] }).notice (q.groupD o.g) o.ctx o.die o.entry i va t.addr
  | _, _ => s

/-- An engine operation meets a missing page and stops (17 R405): an operation by its identifier, or a stream fill by its
group, register and facet where that is 0. -/
def execEnginePageFault (s : State) : Out :=
  .next (if s.ev.op = 0 then s.stopFacet s.ev.g s.ev.e s.ev.i
    else match s.op? s.ev.op with
      | none => s
      | some o => if o.chan.isSome then (if (s.runningOp o.tm o.tag).map EngOp.id = some o.id then s.stopTransfer o s.ev.i else s)
        else s.stopOp o s.ev.i)

end Sys2Proof.Machine
end

