-- ==== Sys2Proof/Machine/VectorConv.lean ====
section
/-! DEFINITION. Conversion, quantisation (09 R256 to R258) and the special functions (09 R259). -/

namespace Sys2Proof.Machine

/-- Overlap of the registers of two runs (09 R242). -/
def runsMeet (r n r' n' : Nat) : Bool := decide (r < r' + n') && decide (r' < r + n)

/-- No register of a destination run is bound (05 R149). -/
def State.needRunFree (s : State) (r k : Nat) : M PUnit := allM ((runNames r k).map s.needUnbound)

/-- `vcvt` (09 R256): counts in the narrower type. -/
def execVcvt (d a : VName) (code : BitVec 6) (t : Ty) (_la : BitVec 4) (s : State) : Out :=
  s.finish do
    need (code.toNat < 8 ∧ code.toNat ≠ t.code.toNat)
    let tt := Ty.ofCode (code.truncate 3)
    need (t.six = true ∧ tt.six = true)
    match s.vp with
    | some v => do
      s.vcheck 32 [a.toNat] [d.toNat]
      need (a = d → t.bits = tt.bits)
      .ok (s.putRes d.toNat tt.bits (if s.g.vm.getLsbD v then [(v, convert tt t s.u.rm (s.opEl a.toNat t.bits v))] else []))
    | none => do
      s.needVl (min t.bits tt.bits)
      let n := s.u.vl.toNat
      s.needRun a.toNat t.bits n
      s.needRun d.toNat tt.bits n
      s.needReg a.toNat
      s.needReg d.toNat
      need (¬ (runsMeet a.toNat (s.runRegs t.bits n) d.toNat (s.runRegs tt.bits n) ∧ ¬ (a = d ∧ t.bits = tt.bits)) = true)
      s.needRunFree d.toNat (s.runRegs tt.bits n)
      s.needRunSrc a.toNat (s.runRegs t.bits n) t.bits
      let rs := s.active.map fun e => (e, convert tt t s.u.rm (s.runEl a.toNat t.bits e))
      let s' := rs.foldl (fun q r => q.setRunEl d.toNat tt.bits r.1 r.2.bits) s
      .ok (((s'.setVo ((rs.filter fun r => r.2.vo).map fun r => r.1)).raise (flagsOf rs)).consume (runNames a.toNat (s.runRegs t.bits n)))

/-- A float type that quantisation takes (09 R240). -/
def quantTy (t : Ty) : M Fmt := match t with | .f16 => .ok .f16 | .bf16 => .ok .bf16 | .f32 => .ok .f32 | _ => ill

def bytesOfNat (n x : Nat) : List Byte := natLe n x

/-- `vquant` (09 R257): counts in facets, and reads a bound source by that count (05 R148; log entry 58, DEDUCED). -/
def execVquant (d a : VName) (code : BitVec 6) (t : Ty) (_la : BitVec 4) (s : State) : Out :=
  s.finish do
    need (s.vp.isNone = true)
    let f ← quantTy t
    match FacetFmt.ofCode code.toNat with
    | none => ill
    | some ff => do
      s.needReg d.toNat
      s.needReg a.toNat
      s.needVl 256
      let n := s.u.vl.toNat * ff.count
      s.needRun a.toNat t.bits n
      need (runsMeet a.toNat (s.runRegs t.bits n) d.toNat 1 = false)
      s.needUnbound d.toNat
      s.needRunSrc a.toNat (s.runRegs t.bits n) t.bits (some (s.active.flatMap fun e => (List.range ff.count).map fun i => ff.count * e + i))
      let rs := s.active.map fun e =>
        (e, ff.quantise s.u.rm ((List.range ff.count).map fun i =>
          let x := s.runEl a.toNat t.bits (ff.count * e + i)
          if x = f.absent then none else some (f.decode x)))
      .ok ((((s.setEls d.toNat 256 (rs.map fun r => (r.1, leNat r.2.1))).setVo ((rs.filter fun r => r.2.2.2).map fun r => r.1)).raise
        (rs.foldl (fun q r => q.or r.2.2.1) {})).consume (runNames a.toNat (s.runRegs t.bits n)))

/-- `vdequant` (09 R258). -/
def execVdequant (d a : VName) (code : BitVec 6) (t : Ty) (_la : BitVec 4) (s : State) : Out :=
  s.finish do
    need (s.vp.isNone = true)
    let f ← quantTy t
    match FacetFmt.ofCode code.toNat with
    | none => ill
    | some ff => do
      s.needReg d.toNat
      s.needReg a.toNat
      s.needVl 256
      let n := s.u.vl.toNat * ff.count
      s.needRun d.toNat t.bits n
      need (runsMeet a.toNat 1 d.toNat (s.runRegs t.bits n) = false)
      s.needRunFree d.toNat (s.runRegs t.bits n)
      s.needSrc a.toNat 256
      let rs : List (Nat × Res) := s.active.flatMap fun e =>
        let b := bytesOfNat 32 (s.el a.toNat 256 e)
        (List.range ff.count).map fun i => (ff.count * e + i, match ff.elem b i with
          | none => ({ bits := f.absent, fl := { abs := true } } : Res)
          | some (.nan _) => ⟨f.nan, {}, false⟩
          | some (.inf sg) => ⟨f.withSign sg f.infBits, {}, false⟩
          | some (.fin sg m q) => (f.round s.u.rm sg m q).toRes)
      let s' := rs.foldl (fun q r => q.setRunEl d.toNat t.bits r.1 r.2.bits) s
      .ok ((s'.raise (flagsOf rs)).consume [a.toNat])

/-- A special function (09 R259): element-wise on f16, bf16 and f32. -/
def State.vspecial (s : State) (f : SFn) (d a : VName) (t : Ty) : M State := do
  let g ← quantTy t
  s.elementwise true t d [a.toNat] fun e => unRun t (f.eval g) (s.opEl a.toNat t.bits e)

/-- `vexp2` (09 R259, 03 R92, R93). -/
def execVexp2 (d a : VName) (t : Ty) (_la : BitVec 4) (s : State) : Out := s.finish (s.vspecial .exp2 d a t)

/-- `vlog2` (09 R259, 03 R92, R93). -/
def execVlog2 (d a : VName) (t : Ty) (_la : BitVec 4) (s : State) : Out := s.finish (s.vspecial .log2 d a t)

/-- `vrcp` (09 R259, 03 R92, R93). -/
def execVrcp (d a : VName) (t : Ty) (_la : BitVec 4) (s : State) : Out := s.finish (s.vspecial .rcp d a t)

/-- `vrsqrt` (09 R259, 03 R92, R93). -/
def execVrsqrt (d a : VName) (t : Ty) (_la : BitVec 4) (s : State) : Out := s.finish (s.vspecial .rsqrt d a t)

/-- `vsqrt` (09 R259, 03 R92, R93). -/
def execVsqrt (d a : VName) (t : Ty) (_la : BitVec 4) (s : State) : Out := s.finish (s.vspecial .sqrt d a t)

/-- `vsin` (09 R259, 03 R92, R93). -/
def execVsin (d a : VName) (t : Ty) (_la : BitVec 4) (s : State) : Out := s.finish (s.vspecial .sin d a t)

/-- `vcos` (09 R259, 03 R92, R93). -/
def execVcos (d a : VName) (t : Ty) (_la : BitVec 4) (s : State) : Out := s.finish (s.vspecial .cos d a t)

/-- `vtanh` (09 R259, 03 R92, R93). -/
def execVtanh (d a : VName) (t : Ty) (_la : BitVec 4) (s : State) : Out := s.finish (s.vspecial .tanh d a t)

/-- `vsigm` (09 R259, 03 R92, R93). -/
def execVsigm (d a : VName) (t : Ty) (_la : BitVec 4) (s : State) : Out := s.finish (s.vspecial .sigm d a t)

/-- `vexp` (09 R259, 03 R92, R93). -/
def execVexp (d a : VName) (t : Ty) (_la : BitVec 4) (s : State) : Out := s.finish (s.vspecial .exp d a t)

/-- `vgelu` (09 R259, 03 R92, R93). -/
def execVgelu (d a : VName) (t : Ty) (_la : BitVec 4) (s : State) : Out := s.finish (s.vspecial .gelu d a t)

end Sys2Proof.Machine
end

