-- ==== Sys2Proof/Machine/Matrix.lean ====
section
/-! DEFINITION. The matrix unit (11 R299 to R321, 03 R90, R91): enabling, windows and fences, weight loads, matrix
operations, and row slices. -/

namespace Sys2Proof.Machine

def causeMatOff : Byte := 0x13
def causeWindow : Byte := 0x14
def causePlane : Byte := 0x15

/-- The number of a team's core. -/
def Team.coreId (t : Team) : Nat := t.die * 32 + t.core
/-- The matrix unit of the current team's core. -/
def State.mu (s : State) : MatrixUnit := s.mat s.t.coreId
def State.setMu (s : State) (m : MatrixUnit) : State := s.setMat s.t.coreId m

def State.needMen (s : State) : M PUnit := need (s.t.men = true) causeMatOff
/-- Only the leader (01 R18). -/
def State.needLeader (s : State) : M PUnit := need (s.g.num = 0)

/-- Rows of a core that no team holds (01 R16). -/
def State.freeRows (s : State) (core : Nat) : Nat :=
  1024 - ((s.allTeams.filter fun t => t.coreId = core).map fun t => t.accrows).sum

/-- `men` (11 R305). See log entry 32, DEDUCED. -/
def execMen (_a : CReg) (s : State) : Out :=
  s.finish do
    s.needLeader
    let n := s.u.opA.toNat
    if s.t.men then .ok s
    else if s.t.accrows > 0 then .ok { s with t := { s.t with men := true } }
    else do
      need (n ≤ 512)
      if n = 0 then .ok { s with t := { s.t with men := true } }
      else if s.freeRows s.t.coreId < n then holdM .men
      else .ok { s with t := { s.t with men := true, accrows := n, acc := [], menRows := true } }

/-- The lookaheads of a group's operations cover nothing that it takes after it is restored (07 R192). -/
def State.uncover (s : State) (g : Nat) : State :=
  let f := fun (x : Mop) => if x.g = g then { x with upto := 0 } else x
  { s with mats := s.mats.map fun (i, m) => (i, { m with queue := m.queue.map f }) }

/-- Matrix operations of a group that have not completed, and a weight load of it. -/
def MatrixUnit.mopOf (m : MatrixUnit) (g : Nat) : Bool := m.queue.any fun x => x.g = g
def MatrixUnit.ldwOf (m : MatrixUnit) (g : Nat) : Bool := match m.ldw with | some x => x.g = g | none => false
def MatrixUnit.busyFor (m : MatrixUnit) (g : Nat) : Bool := m.mopOf g || m.ldwOf g

/-- Forget what groups `p` hold and own of the planes (11 R300, R309). -/
def MatrixUnit.release (m : MatrixUnit) (p : Nat → Bool) : MatrixUnit :=
  { m with
    sst := (match m.sst with | .held g => if p g then .free else .held g | x => x),
    owner := (match m.owner with | some g => if p g then none else some g | none => none) }

/-- A group that is off its sector keeps its window in its area too (15 R371): what the leader writes goes there (02 R66). -/
def State.putWindow (s : State) (g : Nat) : State :=
  let x := s.groupD g
  if x.offSector then s.devWrite x.areaCtx (x.area + 0x260) (natLe 8 (x.awl.toNat * 2 ^ 16 + x.awb.toNat)) else s

/-- `mdis` (11 R309). -/
def execMdis (s : State) : Out :=
  s.finish do
    s.needLeader
    s.needMen
    let mine := fun (g : Nat) => s.t.gids.contains g
    if s.mu.queue.any (fun x => mine x.g) || (match s.mu.ldw with | some x => mine x.g | none => false) then holdM .mdis
    else
      let f := fun (x : Group) => if x.team = s.t.id then { x with mflags := {}, awb := 0, awl := 0 } else x
      let t := { s.t with men := false, menRows := false, accrows := if s.t.menRows then 0 else s.t.accrows,
                          acc := if s.t.menRows then [] else s.t.acc }
      .ok (s.t.gids.foldl State.putWindow { s.setMu (s.mu.release mine) with t := t, g := f s.g, groups := s.groups.map f })

/-- `mwin` (11 R306). -/
def execMwin (_a _b : CReg) (s : State) : Out :=
  s.finish do
    s.needLeader
    s.needMen
    let g := s.u.opA.toNat
    let w := s.u.opB.toNat
    let base := field w 0 9
    let limit := field w 16 10
    need (g < s.t.ngroups)
    let id := s.t.gids.getD g 0
    let overlap := s.allGroups.any fun x => x.team = s.t.id && x.id ≠ id && meets x.awb.toNat (x.awl.toNat - x.awb.toNat) base (limit - base)
    need ((base = 0 ∧ limit = 0) ∨ (base < limit ∧ limit ≤ s.t.accrows ∧ overlap = false)) causeWindow
    need (field w 26 38 = 0 ∧ field w 9 7 = 0)
    if s.mu.mopOf id then holdM .mwin
    else .ok ((s.updGroup id fun x => { x with awb := BitVec.ofNat 9 base, awl := BitVec.ofNat 10 limit }).putWindow id)

/-- Rows that an in-flight operation of the group writes (11 R303): an entry that meets one waits. -/
def State.rowsBusy (s : State) (row n : Nat) : Bool := s.mu.queue.any fun x => x.g = s.g.id && meets x.row x.m row n

/-- The operation has still to complete a row (11 R303): its chaining bit. -/
def Mop.chains (x : Mop) (row : Nat) : Bool := meets (x.row + x.rows) (x.m - x.rows) row 1
/-- An in-flight operation of the group has still to complete a row. -/
def State.chained (s : State) (row : Nat) : Bool := s.mu.queue.any fun x => x.g = s.g.id && x.chains row

/-- An entry that reads a row waits for an operation in flight of the group that writes it (11 R303), in compatibility mode only for the row
itself; an operation whose lookahead covers the entry is not waited for (01 R27). -/
def State.rowAwaited (s : State) (row : Nat) : Bool :=
  s.mu.queue.any fun x => x.g = s.g.id && decide (x.upto < s.u.seq) && (if s.t.compat then x.chains row else meets x.row x.m row 1)

/-- `mzero` (11 R307). -/
def execMzero (_a : CReg) (s : State) : Out :=
  s.finish do
    s.needMen
    let w := s.u.opA.toNat
    let n := field w 16 10
    let row := s.g.awb.toNat + field w 0 9
    need (n ≠ 0 ∧ field w 26 38 = 0 ∧ field w 9 7 = 0)
    need (row + n ≤ s.g.awl.toNat) causeWindow
    if s.rowsBusy row n then holdM .accRows
    else
      let s := (List.range n).foldl (fun s i => s.noteCells (row + i) (List.range 128)) s
      .ok { s with t := { s.t with acc := s.t.acc.filter fun x => !(decide (row * 128 ≤ x.1) && decide (x.1 < (row + n) * 128)) } }

/-- `mfence` (11 R308): the unmerged flags enter `vcs`. -/
def execMfence (s : State) : Out :=
  s.finish do
    s.needMen
    if s.mu.busyFor s.g.id then holdM .mfence
    else
      let s' := s.raise s.g.mflags
      .ok { s' with g := { s'.g with mflags := {} } }

/-- The matrix formats, with the greatest depth (11 R310). -/
def matDepth (f : Nat) : Nat := match f with | 4 => 128 | 5 => 128 | 8 => 256 | 9 => 256 | 10 => 512 | _ => 0
/-- Elements of a K block (11 R313), and its bytes. -/
def blockEls (f : Nat) : Nat := match f with | 8 => 30 | 9 => 30 | 10 => 60 | _ => 8
def blockBytes (f : Nat) : Nat := if f ≤ 5 then 16 else 32
/-- Bytes of a K-row (11 R310). -/
def rowBytes (f k : Nat) : Nat := if f ≤ 5 then 2 * k else (k + blockEls f - 1) / blockEls f * 32

/-- Where the checks look in a run of bytes: its first byte, and each 4 KiB boundary in it. -/
def probes (va : Word) (n : Nat) : List Word :=
  va :: ((List.range (n / 4096 + 1)).map fun i => (va.toNat / 4096 + 1 + i) * 4096).filterMap fun x =>
    if x < va.toNat + n then some (w64 x) else none

/-- Bytes pass checks 1, 3 and 4 of 10 R270, and lie in scratch (11 R310, R312), one after another. -/
def State.inScratch (s : State) : List Word → M State
  | [] => .ok s
  | va :: r =>
    if 2 ^ 52 ≤ va.toNat then .error (.trap { cause := causeAddress, addr := va, tlb := some s.tlb }) else
    match s.leafFor s.agent .engSrc va.toNat with
    | .error f => .error (failStop noElem va f)
    | .ok (leaf, _, s') =>
      if pteSpace leaf ≠ 2 ∨ s.t.scrsz ≤ va.toNat % 0x80000 then .error (.trap { cause := causeAccess, addr := va, tlb := some s'.tlb })
      else s'.inScratch r

/-- The first poisoned word of a team's scratch that runs of bytes meet, with the address of its error record (18 R424). -/
def Team.poisonAt (t : Team) (l : List (Word × Nat)) : Option (Word × Word) :=
  l.findSome? fun x =>
    let o := x.1.toNat % 0x80000
    let hit := t.spoison.filter fun p => decide (4 * p.1 < o + x.2) && decide (o < 4 * p.1 + 4)
    (hit.find? fun p => hit.all fun q => decide (p.1 ≤ q.1)).map fun p => (x.1 + w64 (4 * p.1 - o), p.2)

/-- Every byte of runs lies in scratch (11 R310, R312), and none is poisoned (log entry 52, DEDUCED). -/
def State.needScratch (s : State) (l : List (Word × Nat)) : M State := do
  let s' ← s.inScratch (l.flatMap fun x => probes x.1 x.2)
  match s.t.poisonAt l with
  | some (va, rec_) => .error (.trap { cause := causeData, addr := va, info := rec_, tlb := some s'.tlb })
  | none => .ok s'

/-- Bytes of a team's scratch at an aperture address, as the unit sees them: a word that it has read already is as it was then
(11 R302). -/
def Team.scrBytes (t : Team) (got : List (Nat × List Byte × Bool)) (va : Word) (n : Nat) : List Byte :=
  (List.range n).map fun i =>
    let o := (va.toNat + i) % 0x80000
    match got.find? fun x => x.1 = o / 4 with
    | some (_, b, _) => b.getD (o % 4) 0
    | none => t.scratch.read o

/-- The unit reads a word of a team's scratch, once (11 R302). -/
def Team.readWord (t : Team) (got : List (Nat × List Byte × Bool)) (w : Nat) : List (Nat × List Byte × Bool) :=
  if got.any fun x => x.1 = w then got else (w, t.scratch.bytes (4 * w) 4, !t.zclear.contains (4 * w / 4096)) :: got

/-- It reads every word of runs of bytes. -/
def Team.readRuns (t : Team) (got : List (Nat × List Byte × Bool)) (l : List (Word × Nat)) : List (Nat × List Byte × Bool) :=
  (l.flatMap fun x => let o := x.1.toNat % 0x80000; (List.range ((o + x.2 + 3) / 4 - o / 4)).map fun i => o / 4 + i).foldl t.readWord got

/-- The matrix unit of a core reads a word of scratch for its weight load, or for an operation that it has accepted (11 R302). -/
def State.matrixWord (s : State) (core i w : Nat) : State :=
  let m := s.mat core
  match i with
  | 0 => (match m.ldw with
    | some x => s.setMat core { m with ldw := some { x with got := (s.teamD x.tm).readWord x.got w } }
    | none => s)
  | k + 1 => s.setMat core { m with queue := m.queue.mapIdx fun j x => if j = k then { x with got := (s.teamD x.tm).readWord x.got w } else x }

/-- `ldw` (11 R310, R300). -/
def execLdw (_a _b : CReg) (_la : BitVec 4) (s : State) : Out :=
  s.finish do
    s.needMen
    let w := s.u.opB.toNat
    let f := field w 0 4
    let k := field w 4 10
    let ncol := field w 14 8
    let stride := field w 22 20
    let a := s.u.opA
    need (field w 42 22 = 0 ∧ 1 ≤ k ∧ k ≤ matDepth f ∧ 1 ≤ ncol ∧ ncol ≤ 128 ∧ stride % 32 = 0) causeDescriptor a
    if a.toNat % 32 ≠ 0 then .error (.trap { cause := causeMisaligned, addr := a }) else do
    let s' ← s.needScratch ((List.range ncol).map fun j => (a + w64 (j * stride), rowBytes f k))
    let m := s'.mu
    let mine := match m.sst with | .free => true | .held g => decide (g = s.g.id) | .claimed _ => false
    if !mine || m.ldw.isSome then holdM .plane
    else .ok (s'.setMu { m with
      sst := .held s.g.id, shadow := { fmt := BitVec.ofNat 4 f, k := k, ncol := ncol },
      ldw := some { g := s.g.id, tm := s.t.id, addr := a, stride := stride, fmt := BitVec.ofNat 4 f, k := k, ncol := ncol } })

/-- An accepted weight load has read its tile (11 R302). -/
def execLdwComplete (s : State) : Out :=
  let m := s.mat s.ev.core
  .next (match m.ldw with
    | none => s
    | some x =>
      let t := s.teamD x.tm
      let cols := (List.range x.ncol).map fun j => t.scrBytes x.got (x.addr + w64 (j * x.stride)) (rowBytes x.fmt.toNat x.k)
      s.setMat s.ev.core { m with ldw := none, shadow := { m.shadow with cols := cols } })

/-- Legal pairs of formats (11 R312). -/
def matPair (a w : Nat) : Bool :=
  (a = 5 && w = 5) || (a = 4 && w = 4) || ((a = 8 || a = 9) && (w = 8 || w = 9)) || (a = 10 && w = 10)

/-- The stationary plane as it will be once every accepted operation has started: its owner, and the plane. -/
def MatrixUnit.future (m : MatrixUnit) : Option Nat × Plane :=
  match m.queue.find? fun x => !x.started && !x.reuse with
  | some x => (some x.g, m.shadow)
  | none => (m.owner, m.stationary)

/-- Order 4 of 11 R312. -/
def State.planeBad (s : State) (reuse : Bool) (wf k : Nat) : Bool :=
  let m := s.mu
  if reuse then decide (m.future.1 ≠ some s.g.id) || decide (m.future.2.fmt.toNat ≠ wf) || decide (m.future.2.k < k)
  else decide (m.sst ≠ .held s.g.id) || decide (m.shadow.fmt.toNat ≠ wf) || decide (m.shadow.k < k)

/-- Bytes of the register run of an AREG operation (11 R317). -/
def State.regBytes (s : State) (r n : Nat) : List Byte := (List.range n).map fun i => BitVec.ofNat 8 (s.runEl r 8 i)

/-- `mop` (11 R311, R312, R315). A block in the weight store is read as by a load; K above the greatest depth of the format is outside its
range, before the plane is looked at; and M = 0 frees a shadow plane that the group holds, with REUSE = 1 too (log entry 32, DEDUCED). -/
def execMop (_a : CReg) (la : BitVec 4) (s : State) : Out :=
  s.finish do
    s.needMen
    let a := s.u.opA
    if a.toNat % 64 ≠ 0 then .error (.trap { cause := causeMisaligned, addr := a }) else
    match s.readWords s.agent .load a 8 with
    | .error f => .error (failStop noElem a f)
    | .ok (ws, s') => s'.keeping do
      let w := fun i => (ws.getD i 0).toNat
      let asrc := ws.getD 0 0
      let astride := field (w 1) 0 32
      let af := field (w 2) 60 4
      let wf := field (w 2) 56 4
      let m := field (w 2) 46 10
      let k := field (w 2) 36 10
      let n := field (w 2) 28 8
      let row0 := field (w 2) 19 9
      let zskip := decide (field (w 2) 17 1 = 1)
      let reuse := decide (field (w 2) 16 1 = 1)
      let areg := decide (field (w 2) 15 1 = 1)
      need (field (w 1) 32 32 = 0 ∧ field (w 2) 0 15 = 0 ∧ (ws.drop 3).all (fun x => decide (x = 0)) = true ∧
        (if areg then asrc.toNat < 64 else asrc.toNat % 32 = 0) ∧ astride % 32 = 0 ∧ m ≤ 512 ∧ 1 ≤ k ∧ k ≤ matDepth af ∧
        1 ≤ n ∧ n ≤ 128 ∧ matPair af wf = true ∧ ¬ (zskip = true ∧ areg = true)) causeDescriptor a
      let mu := s'.mu
      if m = 0 then
        .ok (s'.setMu { mu with sst := if mu.sst = .held s.g.id then .free else mu.sst })
      else do
        need (s'.planeBad reuse wf k = false) causePlane
        need (s.g.awb.toNat + row0 + m ≤ s.g.awl.toNat) causeWindow
        let bytes := astride * (m - 1) + rowBytes af k
        let s' ← if areg then (do
            s.needRun asrc.toNat 8 bytes
            s.needReg asrc.toNat
            let fw := fmtWidth (BitVec.ofNat 4 af)
            s.needRunSrc asrc.toNat (s.runRegs 8 bytes) fw (some (List.range ((8 * bytes + fw - 1) / fw)))
            pure s')
          else s'.needScratch ((List.range m).map fun i => (asrc + w64 (i * astride), rowBytes af k))
        if 4 ≤ (mu.queue.filter fun x => !x.started).length then holdM .mopFull
        else
          let op : Mop := { g := s.g.id, tm := s.t.id, afmt := BitVec.ofNat 4 af, wfmt := BitVec.ofNat 4 wf, m := m, k := k, n := n,
                            row := s.g.awb.toNat + row0, ovw := field (w 2) 18 1 = 1, zskip := zskip, reuse := reuse, areg := areg,
                            asrc := asrc, astride := astride, upto := s.u.seq + la.toNat, adata := if areg then s.regBytes asrc.toNat bytes else [] }
          .ok ((s'.setMu { mu with queue := mu.queue ++ [op], sst := if reuse then mu.sst else .claimed s.g.id }).consume
            (if areg then runNames asrc.toNat (s.runRegs 8 bytes) else []))

/-- The unit starts the operation at the head (11 R301): one without reuse swaps the planes (R300). -/
def MatrixUnit.start (m : MatrixUnit) : MatrixUnit :=
  match m.queue with
  | [] => m
  | x :: r =>
    if x.started || (!x.reuse && m.ldw.isSome) then m
    else if x.reuse then { m with queue := { x with started := true } :: r }
    else { m with queue := { x with started := true } :: r, stationary := m.shadow, owner := some x.g, sst := .free }

/-- The unit starts its next operation (11 R300, R301). -/
def execMopStart (s : State) : Out := .next (s.setMat s.ev.core (s.mat s.ev.core).start)

/-- Element k of a K-row (11 R310): none is absent. -/
def rowElem (f : Nat) (b : List Byte) (k : Nat) : Option FV :=
  match FacetFmt.ofCode f with
  | some ff => let fe := blockEls f; ff.elem ((b.drop (32 * (k / fe))).take 32) (k % fe)
  | none =>
    let x := leNat ((b.drop (2 * k)).take 2)
    let fm := if f = 4 then Fmt.f16 else Fmt.bf16
    if x = fm.absent then none else some (fm.decode x)

/-- An exact sum of products as it grows (03 R90): none yet, a value, and whether it is invalid. -/
structure BlockSum where
  v : Option FV := none
  n : Nat := 0
  nv : Bool := false
  abs : Bool := false

/-- Add two exact values, or find their sum invalid. -/
def exactAdd (a b : FV) : FV × Bool :=
  match a, b with
  | .nan x, _ => (.nan x, false)
  | _, .nan y => (.nan y, false)
  | .inf x, .inf y => if x = y then (.inf x, false) else (.nan false, true)
  | .inf x, _ => (.inf x, false)
  | _, .inf y => (.inf y, false)
  | .fin s1 m1 e1, .fin s2 m2 e2 => let (s, m, e) := addFin 0 s1 m1 e1 s2 m2 e2; (.fin s m e, false)

/-- An exact product: a NaN factor, or infinity times zero, is invalid (03 R90). -/
def exactMul (a b : FV) : FV × Bool :=
  match a, b with
  | .nan _, _ => (.nan false, true)
  | _, .nan _ => (.nan false, true)
  | .inf x, .inf y => (.inf (x != y), false)
  | .inf x, .fin y m _ => if m = 0 then (.nan false, true) else (.inf (x != y), false)
  | .fin x m _, .inf y => if m = 0 then (.nan false, true) else (.inf (x != y), false)
  | .fin s1 m1 e1, .fin s2 m2 e2 => (.fin (s1 != s2) (m1 * m2) (e1 + e2), false)

def BlockSum.add (q : BlockSum) (a b : Option FV) : BlockSum :=
  match a, b with
  | some x, some y =>
    let (p, bad) := exactMul x y
    let (v, bad') := match q.v with | none => (p, false) | some z => exactAdd z p
    { v := some v, n := q.n + 1, nv := q.nv || bad || bad', abs := q.abs }
  | _, _ => { q with abs := true }

/-- One K block of one cell (03 R90), with the flags it raises. -/
def AccCell.update (c : AccCell) (ps : List (Option FV × Option FV)) : AccCell × Sticky :=
  let q := ps.foldl (fun q p => q.add p.1 p.2) ({} : BlockSum)
  match q.v with
  | none => (c, { abs := q.abs })
  | some v =>
    let r := Fmt.f32.addV 0 (Fmt.f32.decode c.val.toNat) v
    let cnt := c.cnt.toNat + q.n
    ({ val := BitVec.ofNat 32 r.bits, cnt := BitVec.ofNat 16 (min cnt 65535) },
      r.fl.or { nv := q.nv, abs := q.abs, csat := decide (65535 < cnt) })

/-- Update a cell block by block; `skip` names the blocks whose tiles are flagged zero (11 R316). -/
def AccCell.run (c : AccCell) (skip : Nat → Bool) (elems : Nat → List (Option FV × Option FV)) : List Nat → AccCell × Sticky
  | [] => (c, {})
  | b :: bs =>
    if skip b then c.run skip elems bs
    else
      let (c, f) := c.update (elems b)
      let (c, f') := c.run skip elems bs
      (c, f.or f')

/-- Bytes of activation row m. -/
def Mop.rowData (x : Mop) (t : Team) (m : Nat) : List Byte :=
  let n := rowBytes x.afmt.toNat x.k
  if x.areg then (x.adata.drop (m * x.astride)).take n else t.scrBytes x.got (x.asrc + w64 (m * x.astride)) n

/-- Every byte of block b of row m lies in tiles whose zero flag is set when the unit reads it (11 R316). -/
def Mop.skips (x : Mop) (t : Team) (m b : Nat) : Bool :=
  x.zskip &&
  (let bb := blockBytes x.afmt.toNat
   let n := min bb (rowBytes x.afmt.toNat x.k - b * bb)
   (List.range n).all fun i =>
     let o := (x.asrc.toNat + m * x.astride + b * bb + i) % 0x80000
     match x.got.find? fun y => y.1 = o / 4 with
     | some (_, _, z) => z
     | none => !t.zclear.contains (o / 4096))

/-- One cell of row m, column j (11 R313). -/
def Mop.cell (x : Mop) (t : Team) (p : Plane) (m j : Nat) (c : AccCell) : AccCell × Sticky :=
  let c := if x.ovw then {} else c
  let be := blockEls x.afmt.toNat
  let row := x.rowData t m
  let elems := fun (b : Nat) => (List.range (min be (x.k - b * be))).map fun i =>
    let k := b * be + i
    (rowElem x.afmt.toNat row k, (p.cols[j]?).bind fun col => rowElem p.fmt.toNat col k)
  c.run (x.skips t m) elems (List.range ((x.k + be - 1) / be))

/-- Write a cell. -/
def setCell (l : List (Nat × AccCell)) (i : Nat) (c : AccCell) : List (Nat × AccCell) :=
  if c = {} then l.filter fun x => x.1 ≠ i else assocSet l i c

/-- All cells of an operation, in row order. -/
def Mop.cells (x : Mop) (t : Team) (p : Plane) : List Nat → List (Nat × AccCell) × Sticky → List (Nat × AccCell) × Sticky
  | [], a => a
  | i :: r, (acc, f) =>
    let m := i / x.n
    let j := i % x.n
    let id := (x.row + m) * 128 + j
    let (c, f') := x.cell t p m j (assocGet {} acc id)
    x.cells t p r (setCell acc id c, f.or f')

/-- Runs of scratch that hold listed activation rows of an operation (11 R312), and the columns of a weight load (R310). -/
def Mop.runs (x : Mop) (rows : List Nat) : List (Word × Nat) :=
  if x.areg then [] else rows.map fun m => (x.asrc + w64 (m * x.astride), rowBytes x.afmt.toNat x.k)
def LdwCmd.runs (x : LdwCmd) : List (Word × Nat) := (List.range x.ncol).map fun j => (x.addr + w64 (j * x.stride), rowBytes x.fmt.toNat x.k)

/-- The matrix units of a partition read whatever they have still to read of scratch (17 R408). -/
def State.readMats (s : State) (part : Nat) : State :=
  let read := fun (m : MatrixUnit) => { m with
    ldw := m.ldw.map fun x => { x with got := (s.teamD x.tm).readRuns x.got x.runs }
    queue := m.queue.map fun x => { x with got := (s.teamD x.tm).readRuns x.got (x.runs (List.range x.m)) } }
  { s with mats := s.mats.map fun m => if (s.partDies part).contains (m.1 / 32) then (m.1, read m.2) else m }

/-- The operation that runs completes `n` more rows, in rising order (11 R303, R313): their cells, and the group's unmerged flags. -/
def State.mopRows (s : State) (x : Mop) (p : Plane) (n : Nat) : State :=
  let t := s.teamD x.tm
  let (acc, f) := x.cells t p ((List.range (n * x.n)).map fun i => x.rows * x.n + i) (t.acc, {})
  (s.updTeam x.tm fun t => { t with acc := acc }).updGroup x.g fun y => { y with mflags := y.mflags.or f }

/-- The unit of a core completes a row of the operation that runs: not the last, which ends it (11 R303). -/
def State.matrixRow (s : State) (core : Nat) : State :=
  let m := s.mat core
  match m.queue with
  | x :: r =>
    let x := { x with got := (s.teamD x.tm).readRuns x.got (x.runs [x.rows]) }
    if !x.started || decide (x.m ≤ x.rows + 1) then s
    else (s.mopRows x m.stationary 1).setMat core { m with queue := { x with rows := x.rows + 1 } :: r }
  | [] => s

/-- The operation that runs completes (11 R313). -/
def execMopComplete (s : State) : Out :=
  let m := s.mat s.ev.core
  .next (match m.queue with
    | [] => s
    | x :: r => if !x.started then s else (s.mopRows x m.stationary (x.m - x.rows)).setMat s.ev.core { m with queue := r })

/-- The row slice of `mrd` and `mwr` (11 R318): its row in the team, and its first column. -/
def State.slice (s : State) (rd : Bool) : M (Nat × Nat) := do
  s.needMen
  s.needVl 32
  let w := s.u.opA.toNat
  need (field w 23 41 = 0 ∧ field w 9 7 = 0)
  let row := s.g.awb.toNat + field w 0 9
  let col := field w 16 7
  need (row < s.g.awl.toNat ∧ col + s.u.vl.toNat ≤ 128) causeWindow
  if (if rd then s.rowAwaited row else s.rowsBusy row 1) then holdM .accRows else .ok (row, col)

/-- A cell that an `mrd` reads: where the operation that runs has still to complete it, and its lookahead covers the entry, the old value or
the new (07 R192), freely chosen. -/
def State.cellAt (s : State) (row col : Nat) : AccCell :=
  let old := assocGet ({} : AccCell) s.t.acc (row * 128 + col)
  match s.mu.queue with
  | x :: _ =>
    if x.started && decide (x.g = s.g.id) && decide (s.u.seq ≤ x.upto) && x.chains row && decide (col < x.n) &&
      !Config.takesOld s.fresh (shadeRow row) col then (x.cell s.t s.mu.stationary (row - x.row) col old).1 else old
  | [] => old

/-- A drain (11 R319): `f` gives the pattern and the flags for a cell; `two` delivers the count beside it. -/
def State.drain (s : State) (d : VName) (two : Bool) (f : AccCell → Nat × Sticky) : M State := do
  s.needReg d.toNat
  need (two = true → d.toNat + 1 < s.g.budget ∧ d.toNat ≠ 31)
  s.needUnbound d.toNat
  if two then s.needUnbound (d.toNat + 1) else pure ⟨⟩
  let (row, col) ← s.slice true
  let cells := s.active.map fun e => (e, s.cellAt row (col + e))
  let s' := if s.chained row then { s with fresh := s.fresh + 1 } else s
  let s' := s'.setEls d.toNat 32 (cells.map fun x => (x.1, (f x.2).1))
  let s' := if two then s'.setEls (d.toNat + 1) 32 (cells.map fun x => (x.1, x.2.cnt.toNat)) else s'
  .ok (s'.raise (cells.foldl (fun q x => q.or (f x.2).2) {}))

/-- The drain modes of 03 R91. -/
def AccCell.raw (c : AccCell) : Nat := if c.cnt = 0 then Fmt.f32.absent else c.val.toNat
/-- An accumulator that holds a NaN or an infinity passes as it stands (log entry 32, DEDUCED). -/
def AccCell.norm (c : AccCell) : Nat × Sticky :=
  if c.cnt = 0 then (Fmt.f32.absent, {})
  else match Fmt.f32.decode c.val.toNat with
    | .fin s m e => let r := Fmt.f32.divV 0 (.fin s m e) (FV.ofInt c.cnt.toNat); (r.bits, r.fl)
    | _ => (c.val.toNat, {})

/-- `mrd.raw` (11 R319). -/
def execMrdRaw (d : VName) (_a : CReg) (_la : BitVec 4) (s : State) : Out := s.finish (s.drain d false fun c => (c.raw, {}))
/-- `mrd.norm` (11 R319). -/
def execMrdNorm (d : VName) (_a : CReg) (_la : BitVec 4) (s : State) : Out := s.finish (s.drain d false AccCell.norm)
/-- `mrd.cnt` (11 R319). -/
def execMrdCnt (d : VName) (_a : CReg) (_la : BitVec 4) (s : State) : Out := s.finish (s.drain d false fun c => (c.cnt.toNat, {}))
/-- `mrd.pair` (11 R319). -/
def execMrdPair (d : VName) (_a : CReg) (_la : BitVec 4) (s : State) : Out := s.finish (s.drain d true fun c => (c.raw, {}))

/-- A row write (11 R320): for each active element its cell, whether its count is clamped, and whether an operand is absent. -/
def State.rowWrite (s : State) (b : VName) (two : Bool) (f : Nat → Nat → AccCell × Bool × Bool) : M State := do
  s.needReg b.toNat
  need (two = true → b.toNat + 1 < s.g.budget)
  s.needSrcs (srcsOf 32 (if two then [b.toNat, b.toNat + 1] else [b.toNat]))
  let (row, col) ← s.slice false
  let xs := s.active.map fun e => (e, f (s.el b.toNat 32 e) (if two then s.el (b.toNat + 1) 32 e else 0))
  let acc := xs.foldl (fun l x => setCell l (row * 128 + col + x.1) x.2.1) s.t.acc
  let s' := { s.noteCells row (xs.map fun x => col + x.1) with t := { s.t with acc := acc } }
  .ok (((s'.setVo ((xs.filter fun x => x.2.2.1).map fun x => x.1)).raise { abs := xs.any fun x => x.2.2.2 }).consume
    (if two then [b.toNat, b.toNat + 1] else [b.toNat]))

/-- `mwr.val` (11 R320). -/
def execMwrVal (_a : CReg) (b : VName) (_la : BitVec 4) (s : State) : Out :=
  s.finish (s.rowWrite b false fun x _ => if x = Fmt.f32.absent then ({}, false, true) else (⟨BitVec.ofNat 32 x, 1⟩, false, false))

/-- `mwr.pair` (11 R320): an absent count counts as 0, and is not clamped. -/
def execMwrPair (_a : CReg) (b : VName) (_la : BitVec 4) (s : State) : Out :=
  s.finish (s.rowWrite b true fun x c =>
    let abs := Ty.i32.isAbsent c
    if x = Fmt.f32.absent then ({}, false, true)
    else
      let n := if abs then 0 else sextNat 32 c
      let k := if n < 0 then 0 else if 65535 < n then 65535 else n.toNat
      (⟨BitVec.ofNat 32 x, BitVec.ofNat 16 k⟩, decide (n < 0 ∨ 65535 < n), abs))

end Sys2Proof.Machine
end

