-- ==== Sys2Proof/Machine/Restore.lean ====
section
/-! DEFINITION. A saved group as its area gives it back (15 R369 to R377), and whether an area breaks its layout (R440). -/

namespace Sys2Proof.Machine

/-- Word at an offset of an area. -/
def State.areaWord (s : State) (c : Nat) (area : Word) (off : Nat) : Nat := (s.devWord c (area + w64 off)).toNat

/-- Values of 32 bits, two to a word (15 R371). -/
def State.areaPairs (s : State) (c : Nat) (area : Word) (off n : Nat) : List Word32 :=
  (List.range n).map fun i => BitVec.ofNat 32 (field (s.areaWord c area (off + 8 * (i / 2))) (32 * (i % 2)) 32)

/-- A long bit string of an area. -/
def State.areaBits (s : State) (c : Nat) (area : Word) (off n : Nat) : Nat :=
  ((List.range n).map fun i => s.areaWord c area (off + 8 * i) * 2 ^ (64 * i)).sum

/-- A VIQ entry from its record (15 R372). -/
def State.entryAt (s : State) (c : Nat) (area : Word) (i : Nat) : Unit :=
  let w := fun k => s.areaWord c area (0x1300 + 128 * i + 8 * k)
  let x := w 3
  let word := BitVec.ofNat 32 (w 1)
  let spawn := match decodeWord word with | .ok (.spawn _ _ _) => true | _ => false
  { addr := w64 (w 0), ipc := w64 (w 0) + (if w 2 % 2 ^ 32 ≠ 0 then 4 else 0) + (if w 2 / 2 ^ 32 ≠ 0 then 4 else 0), word := word,
    pimm := BitVec.ofNat 32 (w 2), pscope := BitVec.ofNat 32 (w 2 / 2 ^ 32), vl := BitVec.ofNat 12 (field x 0 12), vlp := field x 28 1 = 1,
    vst := w64 (w 4), rm := BitVec.ofNat 2 (field x 12 2), rot := BitVec.ofNat 5 (field x 16 5), spr := BitVec.ofNat 4 (field x 24 4),
    lp := field x 23 1 = 1, stg := BitVec.ofNat 2 (field x 21 2), opA := w64 (w 5), opB := w64 (w 6),
    opD := if spawn then 0 else w64 (w 7), opX := if spawn then 0 else w64 (w 8),
    ops := if spawn then (List.range 8).map fun k => w64 (w (7 + k)) else [], done := field x 63 1 = 1,
    tk := if field (w 15) 32 1 = 1 then some (BitVec.ofNat 32 (w 15)) else none }

/-- A VP from its record (15 R373). -/
def State.vpAt (s : State) (c : Nat) (area : Word) (e : Nat) : Vp :=
  let w := s.areaWord c area (0x3300 + 16 * e)
  let st := match field w 56 8 with
    | 1 => VpSt.stopped | 2 => .ready | 3 => .parked (BitVec.ofNat 3 (field w 48 3)) | 4 => .stallSend | 5 => .stallRecv | _ => .out
  { st := st, pc := w64 (s.areaWord c area (0x3308 + 16 * e)), cnt := field w 32 6 }

/-- The facets that the save wrote for each register: all, or one for each live register of a length-free point. -/
def State.facetCounts (s : State) (c : Nat) (area : Word) : Nat → Nat → List (Nat × Nat)
  | 0, _ => []
  | n + 1, off =>
    let k := field (s.areaWord c area off) 0 7
    (off, k) :: s.facetCounts c area n (off + 8 + 32 * k)

/-- What the control thread of a restored group does: a `fret` or an `lfree` that waits in the VIQ still holds it. -/
def pendingRun (viq : List Unit) : Run :=
  let holds := fun (p : Instr → Bool) => viq.any fun u => !u.done && u.stageOk && (match decodeWord u.word with | .ok i => p i | _ => false)
  if holds (fun i => match i with | .fret _ => true | _ => false) then .fretPending
  else if holds (fun i => match i with | .lfree _ => true | _ => false) then .lfreePending
  else .running

/-- Shape of a stream by a descriptor that the area names anew (15 R440): what the device reads there. -/
def State.descAt (s : State) (ctx : Nat) (desc : Word) (x : Stream) : Stream :=
  let w := fun i => s.devWord ctx (desc + w64 (8 * i))
  let n := fun i => (w i).toNat
  let rank := field (n 1) 58 2 + 1
  { x with
    desc := desc, fmt := BitVec.ofNat 4 (field (n 1) 60 4), fill := field (n 1) 57 1 = 1, base := w 0, stop := none, faults := []
    cnts := ([field (n 2) 0 32, field (n 2) 32 32, field (n 3) 0 32, field (n 3) 32 32].take rank), strides := (List.range rank).map fun i => w (4 + i) }

/-- The binding of stream record `i` (15 R371): that of the save, or, where the area names another descriptor, as that gives it. -/
def State.streamRec (s : State) (g : Group) (i : Nat) : Stream :=
  let x := g.streams.getD i { reg := 0, desc := 0, p := 0, c := 0 }
  let desc := w64 (field (s.areaWord g.areaCtx g.area (0x380 + 48 * i)) 0 52)
  if desc = w64 (x.desc.toNat % 2 ^ 52) then x else s.descAt (s.teamD g.team).ctx desc x

/-- Stream bindings as the area gives them back (15 R371, R377): record by record, those with V = 0 dropped. -/
def State.streamsAt (s : State) (g : Group) : List Stream :=
  let w := fun i k => s.areaWord g.areaCtx g.area (0x380 + 48 * i + 8 * k)
  (List.range (min (field (s.areaWord g.areaCtx g.area 0x30) 8 4) 8)).filterMap fun i =>
    if field (w i 0) 63 1 = 0 then none else
    some { s.streamRec g i with got := [], reg := field (w i 0) 56 6, p := w64 (w i 1), c := field (w i 2) 0 12, landed := w64 (w i 3), failed := w64 (w i 4) }

/-- Entries of a restored VIQ with numbers that no earlier lookahead covers (07 R192), and what the device knows of each. -/
def renumber (dead : List Bool) (l : List Unit) : List Unit := l.mapIdx fun i u => { u with seq := 32 * (i + 1), dead := dead.getD i false }

/-- The saved entries without those marked DONE (15 R377): a load that is dropped leaves the `vl` that it would have run at to the
entries that take theirs from it (01 R24). -/
def dropDone : List Unit → List Unit
  | [] => []
  | u :: r =>
    if !u.done then u :: dropDone r
    else if isLoadWord u.word && u.stageOk && !u.vlp then giveVl u.vl (dropDone r)
    else dropDone r

/-- A group as its area gives it back, at a grant (15 R376, R377). See log entry 34, DEDUCED. -/
def State.restored (s : State) (g : Group) (grant : Nat) : Group :=
  let c := g.areaCtx
  let w := s.areaWord c g.area
  let free := decide (field (w 0) 40 8 = 3)
  let ctl := fun i => w (0x200 + 8 * i)
  let old := field (w 0x18) 0 15
  let nvp := field (w 0x30) 32 10
  let io := w 0x340
  let m := s.areaBits c g.area 0xF00 32
  let o := s.areaBits c g.area 0x1000 32
  let low := fun (x : Nat) (ones : Bool) => if free then x % 2 ^ 256 + (if ones then 2 ^ 2048 - 2 ^ 256 else 0) else x
  let regs := (s.facetCounts c g.area g.budget 0x9300).map fun r => (BitVec.ofNat 16384 (s.areaBits c g.area (r.1 + 8) (4 * min r.2 64) % 2 ^ min old grant) : VReg)
  let entries := renumber g.dead ((List.range (min (field (w 0x30) 0 7) 64)).map fun i => s.entryAt c g.area i)
  let viq := dropDone entries
  -- a `vf` that is skipped takes its VPs with it
  let nvp := match entries with | u :: _ => if u.done then 0 else nvp | [] => nvp
  { g with
    c := 0 :: (List.range 31).map (fun i => w64 (w (0x100 + 8 * i)))
    pc := w64 (w 0x20), pfx := [], fbuf := []
    vl := if free then 0 else BitVec.ofNat 12 (ctl 0)
    vst := w64 (ctl 1), sticky := Sticky.ofBits (ctl 2), rm := BitVec.ofNat 2 (ctl 2), rot := BitVec.ofNat 5 (ctl 3), spr := BitVec.ofNat 4 (ctl 4)
    splc := BitVec.ofNat 32 (ctl 5), smap := (List.range 4).map (fun i => w64 (ctl (6 + i)))
    lfree := false, req := !free && field (ctl 10) 0 1 = 1
    awb := BitVec.ofNat 9 (ctl 12), awl := BitVec.ofNat 10 (ctl 12 / 2 ^ 16)
    loop := field (ctl 21) 63 1 = 1, nst := if ctl 21 = 0 then 0 else BitVec.ofNat 3 (field (ctl 21) 0 2 + 1), kfirst := w64 (ctl 22), klast := w64 (ctl 23)
    inlet := s.areaPairs c g.area 0x348 (min (field io 0 3) 4), outlet := s.areaPairs c g.area 0x358 (min (field io 4 3) 4)
    streams := s.streamsAt g
    vm := BitVec.ofNat 2048 (low (if free then m else m + (2 ^ 2048 - 2 ^ (old / 8))) true), vo := BitVec.ofNat 2048 (low o false)
    j := (List.range 8).map (fun k => BitVec.ofNat 512 (s.areaBits c g.area (0x1100 + 64 * k) 8))
    viq := viq
    vps := (List.range nvp).map fun e => s.vpAt c g.area e
    links := (List.range nvp).map fun e =>
      let n := min (field (w (0x5300 + 32 * e)) 0 3) 4
      s.areaPairs c g.area (0x5308 + 32 * e) n
    v := regs
    grant := grant, run := pendingRun viq, cwait := none, pwait := none, late := [], lateUnits := [], shades := [], dead := [], small := false
    seq := if g.seq = 0 then 0 else 32 * (entries.length + 1) }

/-- A saved prefix word (15 R372): 0, or a prefix of its kind without a reserved bit (07 R193). -/
def prefixOk (k : Nat) (w : Word32) : Bool :=
  w = 0 || (match decodeWord w with | .ok i => decide (clsOf i = .pfx) && decide (pfxKind w = k) | .error _ => false)

/-- VIQ record i of a group at a grant: its reserved bits, those of its words, and a VL above VLMAX(8) (15 R372, R440). -/
def State.entryBad (s : State) (grant c : Nat) (area : Word) (i : Nat) : Bool :=
  let w := fun k => s.areaWord c area (0x1300 + 128 * i + 8 * k)
  grant / 8 < field (w 3) 0 12 ||
  field (w 1) 32 32 ≠ 0 || field (w 3) 29 34 ≠ 0 || field (w 3) 14 2 ≠ 0 || field (w 15) 33 31 ≠ 0 || (field (w 15) 32 1 = 0 && w 15 ≠ 0) ||
  !prefixOk 0 (BitVec.ofNat 32 (w 2)) || !prefixOk 1 (BitVec.ofNat 32 (field (w 2) 32 32)) ||
  (match decodeWord (BitVec.ofNat 32 (w 1)) with
    | .ok i => !(clsOf i = .vec || clsOf i = .mem)
    | .error _ => true)

/-- VP record e, and link record e (15 R373). -/
def State.vpBad (s : State) (c : Nat) (area : Word) (e : Nat) : Bool :=
  let w := s.areaWord c area (0x3300 + 16 * e)
  5 < field w 56 8 || 32 < field w 32 6 || field w 51 5 ≠ 0 || field w 38 10 ≠ 0 || field w 0 32 ≠ 0 || (field w 56 8 ≠ 3 && field w 48 3 ≠ 0) ||
  4 < s.areaWord c area (0x5300 + 32 * e)

/-- Stream record i (15 R371): C is at most VLMAX of the stream's width, and that of a binding at least 1 (05 R146, 10 R291). -/
def State.streamBad (s : State) (g : Group) (i : Nat) : Bool :=
  let w := fun k => s.areaWord g.areaCtx g.area (0x380 + 48 * i + 8 * k)
  field (w 0) 62 1 ≠ 0 || field (w 0) 52 4 ≠ 0 || g.budget ≤ field (w 0) 56 6 || 2 ^ 12 ≤ w 2 || g.grant / 8 < w 2 ||
  (field (w 0) 63 1 = 1 && decide (w 2 = 0)) || (field (w 0) 63 1 = 1 && decide (g.grant / fmtWidth (s.streamRec g i).fmt < w 2))

/-- Team state that a restored group's control block changes (15 R440): `tags` where they differ from what the save wrote, and
channel counts likewise. -/
def State.restoredTeam (s : State) (g : Group) (t : Team) : Team :=
  let w := fun i => w64 (s.areaWord g.areaCtx g.area (0x200 + 8 * i))
  let diff := w 11 ^^^ g.sctl.getD 0 0
  let chans := (List.range 8).foldl (fun cs k =>
    if w (13 + k) = g.sctl.getD (k + 1) 0 then cs else Bank.set {} cs k { Bank.get {} cs k with done := (w (13 + k)).setWidth 32 : Channel }) t.chans
  { t with tags := ((t.tags &&& ~~~diff) ||| (w 11 &&& diff)) &&& BitVec.ofNat 64 (2 ^ t.ntags - 1), chans := chans }

/-- The area of a saved group breaks 15 R370 to R374: something malformed, or a field that no longer matches the device's
own record of the group (R440). -/
def State.areaBreaks (s : State) (g : Group) (st : Nat) : Bool :=
  let c := g.areaCtx
  let w := s.areaWord c g.area
  let t := s.teamD g.team
  let nviq := field (w 0x30) 0 7
  let nvp := field (w 0x30) 32 10
  let ctl := fun i => w (0x200 + 8 * i)
  let recs := s.facetCounts c g.area g.budget 0x9300
  field (w 0) 0 40 ≠ 0 || field (w 0) 56 8 ≠ 0x01 || field (w 0) 48 8 ≠ 0x11 || st = 0 || 3 < st ||
  w 8 ≠ t.handle.toNat || w 0x10 ≠ g.sgid.toNat ||
  w 0x18 ≠ b2n t.priv * 2 ^ 24 + g.budget * 2 ^ 16 + g.grant || w 0x38 ≠ t.ctx ||
  field (w 0x30) 42 22 ≠ 0 || field (w 0x30) 20 12 ≠ 0 || field (w 0x30) 12 4 ≠ 0 || field (w 0x30) 7 1 ≠ 0 ||
  512 < nvp || 64 < nviq || 8 < field (w 0x30) 8 4 || 4 < field (w 0x30) 16 4 ||
  (List.range 24).any (fun i => w (0x40 + 8 * i) ≠ 0) || w 0x1F8 ≠ 0 ||
  g.grant / 8 < ctl 0 || field (ctl 2) 10 54 ≠ 0 || 32 ≤ ctl 3 || 16 ≤ ctl 4 || 2 ^ 32 ≤ ctl 5 || 4 ≤ ctl 10 ||
  field (ctl 12) 9 7 ≠ 0 || field (ctl 12) 26 38 ≠ 0 || 512 < field (ctl 12) 16 10 || (ctl 12 ≠ 0 && field (ctl 12) 16 10 ≤ field (ctl 12) 0 9) || field (ctl 21) 2 61 ≠ 0 ||
  (List.range 8).any (fun k => 2 ^ 32 ≤ ctl (13 + k)) ||
  4 < field (w 0x340) 0 3 || 4 < field (w 0x340) 4 3 || field (w 0x340) 7 57 ≠ 0 || field (w 0x340) 3 1 ≠ 0 ||
  (List.range nviq).any (s.entryBad g.grant c g.area) || (List.range nvp).any (s.vpBad c g.area) ||
  (List.range (field (w 0x30) 8 4)).any (s.streamBad g) ||
  recs.any (fun r => field (s.areaWord c g.area r.1) 47 17 ≠ 0 || field (s.areaWord c g.area r.1) 7 25 ≠ 0 || field (s.areaWord c g.area r.1) 32 15 ≠ g.grant) ||
  (List.range g.budget).any (fun i => (recs.getD i (0, 0)).2 ≠ (g.nfac.getD i 0))

end Sys2Proof.Machine
end

