-- ==== Sys2Proof/Machine/Sched.lean ====
section
/-! DEFINITION. The distributors (16 R381 to R390, R437, R439): what a candidate needs, what fits, decisions, the launch of
teams (01 R42, R43), the resume of saved groups (15 R375 to R377), and moves to smaller grants. -/

namespace Sys2Proof.Machine

/-- What a team needs of a core (01 R16, R17; 06 R182, R184; 11 R324). -/
structure Shape where
  ctx : Nat
  pri : Nat
  ecls : Nat
  prod : Nat
  cons : Nat
  pb : Nat
  cb : Nat
  scr : Nat
  acc : Nat
  tags : Nat
  chn : Nat
  bar : Nat
  gmin : Nat
  gmax : Nat
  compat : Bool

/-- Fields of a node declaration (06 R182), as its two words stand in memory. -/
structure NodeDecl where
  entry : Word
  timer : Nat
  coal : Nat
  rsize : Nat
  pri : Nat
  ecls : Nat
  grant : Nat
  budget : Nat
  scr : Nat

def State.nodeDecl (s : State) (ctx i : Nat) : NodeDecl :=
  let base := (s.ctx ctx).snode + w64 (16 * i)
  let w := (s.devWord ctx (base + 8)).toNat
  { entry := s.devWord ctx base, timer := field w 48 16, coal := field w 38 10, rsize := field w 32 6, pri := field w 29 3, ecls := field w 26 3,
    grant := 2048 * 2 ^ field w 24 2, budget := 16 * (field w 22 2 + 1), scr := field w 14 8 }

/-- A line of node record `i`, or of its argument, that an engine operation owns (04 R126). -/
def State.nodeHeld (s : State) (ctx i : Nat) : Option Nat :=
  (s.devHeld ctx ((s.ctx ctx).snode + w64 (16 * i)) 16).or (s.devHeld ctx ((s.ctx ctx).snode + w64 (16384 + 8 * i)) 8)

/-- The shape of a team of a grid (06 R184), a task (11 R324) and a node (R324). -/
def LoopNest.shape (n : LoopNest) (ctx : Nat) : Shape :=
  ⟨ctx, n.pri, n.ecls, n.pg, n.cg, n.pb, n.cb, n.scr, n.acc, n.tags, n.chn, n.bar, n.gmin, n.gmax, n.compat⟩
def TaskRec.shape (r : TaskRec) : Shape :=
  ⟨r.ctx, r.pri, r.ecls, 1, 0, r.budget, 16, 4096 * r.scr, 0, 8, 1, 0, 2048, r.gmax, false⟩
def NodeDecl.shape (n : NodeDecl) (ctx : Nat) : Shape :=
  ⟨ctx, n.pri, n.ecls, 1, 0, n.budget, 16, 4096 * n.scr, 0, 8, 1, 0, n.grant, n.grant, false⟩

def State.shapeOf (s : State) : CandKind → Option Shape
  | .walker h => (s.task? h).bind fun r => r.grid.map fun n => n.shape r.ctx
  | .task h => (s.task? h).map fun r => r.shape
  | .batch c n _ => some ((s.nodeDecl c n).shape c)
  | .saved _ _ => none

/-- Cost of one group (16 R385). -/
def costOf (grant ecls : Nat) (gated : Bool) : Nat := let c := grant / 2048 * (ecls + 1); if gated then (c + 1) / 2 else c
/-- USED of a die (16 R385). -/
def State.used (s : State) (d : Nat) : Nat :=
  ((s.allGroups.filter fun x => x.resident).map fun x => let t := s.teamD x.team; if t.die = d then costOf x.grant t.ecls t.gated else 0).sum
def Die.tooHot (x : Die) : Bool := match x.temp with | some t => decide (x.tlimit ≤ t) | none => false
def State.headroom (s : State) (d : Nat) : Nat := if (s.dieAt d).tooHot then 0 else (s.dieAt d).budget - s.used d

/-- A datapath test waits for a sector, on which nothing is placed meanwhile (18 R425); its LOC names core·8 + sector (log entry 60, DEDUCED). -/
def State.underTest (s : State) (core k : Nat) : Bool :=
  s.allGroups.any fun g => decide (g.cwait = some .stest) && decide (field g.testSel.toNat 0 4 = 6) &&
    decide (field g.testSel.toNat 8 3 * 256 + field g.testSel.toNat 16 8 = core * 8 + k)

/-- Free group slots and free 32,768-bit units of a sector (01 R15). -/
def State.sectorFree (s : State) (core k : Nat) : Nat × Nat :=
  if s.underTest core k then (0, 0) else
  let gs := s.allGroups.filter fun x => x.resident && decide (x.sector = k) && decide ((s.teamD x.team).coreId = core)
  (16 - gs.length, 32 - (gs.map fun x => x.budget * x.grant / 32768).sum)

/-- The greatest number of consumers placed for each number of producers, with the choice at each sector. -/
abbrev Spread := List (Option (Nat × List (Nat × Nat)))

def spreadStep (p sp sc : Nat) (free : Nat × Nat) (t : Spread) : Spread :=
  (List.range (p + 1)).map fun n =>
    (List.range (min n 16 + 1)).foldl (fun best q =>
      if free.1 < q ∨ free.2 < q * sp then best else
      match t.getD (n - q) none with
      | none => best
      | some (c, l) =>
        let more := if sc = 0 then 0 else min (free.1 - q) ((free.2 - q * sp) / sc)
        match best with
        | some (b, _) => if b < c + more then some (c + more, l ++ [(q, more)]) else best
        | none => some (c + more, l ++ [(q, more)])) none

/-- A spread of producers and consumers over the sectors of a core, if there is one (01 R15, R16). -/
def State.spread (s : State) (core prod cons pb cb grant : Nat) : Option (List (Nat × Nat)) :=
  let sp := pb * grant / 32768
  let sc := if cons = 0 then 0 else cb * grant / 32768
  let t0 : Spread := some (0, []) :: List.replicate prod none
  let t := (List.range 8).foldl (fun t k => spreadStep prod sp sc (s.sectorFree core k) t) t0
  match t.getD prod none with
  | some (c, l) => if cons ≤ c then some l else none
  | none => none

/-- A core has a team slot, scratch, rows, tags, channels and barriers for a shape (01 R16, R17, R433); `except` is a team that
moves. -/
def State.coreHas (s : State) (core : Nat) (x : Shape) (except : Nat) : Bool :=
  let ts := s.allTeams.filter fun t => t.coreId = core && t.id ≠ except
  let sum := fun (f : Team → Nat) => (ts.map f).sum
  decide (ts.length < 16) && decide (sum Team.scrsz + x.scr ≤ 2097152) && decide (sum Team.accrows + x.acc ≤ 1024) &&
  decide (sum Team.ntags + x.tags ≤ 64) && decide (sum Team.nchan + x.chn ≤ 8) && decide (sum Team.nbar + x.bar ≤ 16)

/-- The pool that serves a context (15 R369): the owner of the pool, its base and its areas. -/
def State.poolOf (s : State) (c : Nat) : Option (Nat × Word × Nat) :=
  let x := s.ctx c
  if x.spooln ≠ 0 then some (c, x.spool, x.spooln)
  else match s.supCtx x.part with
    | some p => if (s.ctx p).spooln = 0 then none else some (p, (s.ctx p).spool, (s.ctx p).spooln)
    | none => none

/-- Up to `n` free areas for a context (15 R369): of several free areas the spec names none, and the model takes the lowest (log entry
33, DESIGN CHOICE). -/
def State.freeAreas (s : State) (c n : Nat) : List Word :=
  match s.poolOf c with
  | none => []
  | some (p, base, k) =>
    (((List.range k).map fun i => base + w64 (0x30000 * i)).filter fun a => !s.areas.any fun x => x.addr = a && x.poolCtx = p).take n

def grants : List Nat := [2048, 4096, 8192, 16384]

/-- Where a candidate may go: a core with a spread of its groups, at a grant. -/
structure Spot where
  core : Nat
  grant : Nat
  gated : Bool
  spread : List (Nat × Nat)

/-- Cores of a die on which a shape can be placed at a grant, power aside. -/
def State.coresFor (s : State) (d : Nat) (x : Shape) (grant : Nat) : List (Nat × List (Nat × Nat)) :=
  (List.range 32).filterMap fun k =>
    let core := d * 32 + k
    if s.coreHas core x 0 then (s.spread core x.prod x.cons x.pb x.cb grant).map fun l => (core, l) else none

/-- Spots of a shape on a die, power aside, by rising grant; none where no save area is free, nor for a user team while a write of the
weight store is in flight, which its launch waits for (04 R103). See log entry 33, DESIGN CHOICE. -/
def State.spots (s : State) (d : Nat) (x : Shape) : List (Nat × List (Nat × List (Nat × Nat))) :=
  if (s.freeAreas x.ctx (x.prod + x.cons)).length < x.prod + x.cons || (!(s.ctx x.ctx).priv && s.wsBusy (s.ctx x.ctx).part) then [] else
  (grants.filter fun g => x.gmin ≤ g && g ≤ x.gmax).filterMap fun g =>
    match s.coresFor d x g with | [] => none | l => some (g, l)

/-- Choose the grant (16 R387): the largest that is within headroom ungated, else the smallest with gated lanes. -/
def chooseGrant {α : Type} (head n ecls : Nat) (l : List (Nat × α)) : Option (Nat × Bool × α) :=
  match (l.filter fun x => n * costOf x.1 ecls false ≤ head).getLast? with
  | some (g, a) => some (g, false, a)
  | none => match l with
    | (g, a) :: _ => if n * costOf g ecls true ≤ head then some (g, true, a) else none
    | [] => none

/-- A group that may resume on another core of its die (15 R375). -/
def State.movable (s : State) (g : Group) : Bool :=
  let t := s.teamD g.team
  decide (t.ngroups = 1) && decide (t.scrsz = 0) && decide (t.accrows = 0) && !(s.ops.any fun o => o.tm = t.id) && decide (g.streams = []) &&
  (let m := s.mat t.coreId
   decide (m.owner ≠ some g.id) && decide (m.sst ≠ .held g.id) && decide (m.sst ≠ .claimed g.id) && !m.busyFor g.id)

/-- STATE of a saved group. -/
def Group.savedSt (g : Group) : Option Nat := match g.run with | .saved n => some n | _ => none

/-- Spots of a saved group, power aside: grants with cores and sectors (15 R375, R376). -/
def State.savedSpots (s : State) (d : Nat) (id : Nat) (want : Option Nat) : List (Nat × List (Nat × Nat)) :=
  match s.group? id with
  | none => []
  | some g =>
    let t := s.teamD g.team
    let allowed := match g.savedSt, want with
      | some 3, none => grants.filter fun x => t.gmin ≤ x && x ≤ t.gmax
      | some 3, some w => [w]
      | some _, _ => [g.grant]
      | none, _ => []
    if t.stopping then [] else
    let cores := if s.movable g then (List.range 32).map fun k => d * 32 + k else [t.coreId]
    let me : Shape := ⟨t.ctx, t.pri, t.ecls, 1, 0, g.budget, 16, 0, 0, t.ntags, t.nchan, t.nbar, 2048, 16384, false⟩
    allowed.filterMap fun gr =>
      let l := cores.flatMap fun core =>
        if core = t.coreId || s.coreHas core me t.id then
          (List.range 8).filterMap fun k => let f := s.sectorFree core k; if 1 ≤ f.1 ∧ g.budget * gr / 32768 ≤ f.2 then some (core, k) else none
        else []
      if l = [] then none else some (gr, l)

/-- The least grant that a saved group may resume at (16 R387). -/
def State.leastGrant (s : State) (g : Group) (want : Option Nat) : Nat :=
  match g.savedSt, want with
  | some 3, none => (s.teamD g.team).gmin
  | some 3, some w => w
  | _, _ => g.grant

/-- The ECLS with which a team's group resumes: that of the task's record, which `rpt` may have changed (11 R328). -/
def State.resumeEcls (s : State) (t : Team) : Nat :=
  match t.kind with | .task h => ((s.task? h).map fun r => r.ecls).getD t.ecls | _ => t.ecls

/-- Whether a candidate fits power aside, its least cost with gated lanes, and whether it fits (16 R387). -/
def State.fitOf (s : State) (d : Nat) (k : CandKind) : Bool × Nat × Bool :=
  let head := s.headroom d
  match k with
  | .saved id want =>
    let ecls := s.resumeEcls (s.teamD (s.groupD id).team)
    let l := s.savedSpots d id want
    (match l with
      | [] => (false, costOf (s.leastGrant (s.groupD id) want) ecls true, false)
      | (g, _) :: _ => (true, costOf g ecls true, decide (costOf g ecls true ≤ head)))
  | k => match s.shapeOf k with
    | none => (false, 0, false)
    | some x =>
      let n := x.prod + x.cons
      (match s.spots d x with
        | [] => (false, n * costOf x.gmin x.ecls true, false)
        | (g, _) :: _ => (true, n * costOf g x.ecls true, decide (n * costOf g x.ecls true ≤ head)))

/-- What a candidate is to the host (18 R421, event 5). -/
def State.candName (s : State) : CandKind → Word
  | .walker h => h
  | .task h => h
  | .batch _ _ _ => 0
  | .saved g _ => let t := s.teamD (s.groupD g).team; match t.kind with | .task h => h | .tile h _ => h | .node _ => 0

def State.candCtx (s : State) : CandKind → Nat
  | .batch c _ _ => c
  | .saved g _ => (s.teamD (s.groupD g).team).ctx
  | k => match s.shapeOf k with | some x => x.ctx | none => 0

/-- A candidate that can never be placed as things are set (16 R389, 15 R369): its least cost is above BUDGET, or no pool serves it. See
log entry 35, DEDUCED. -/
def State.tooDear (s : State) (d : Nat) (k : CandKind) : Bool := decide ((s.dieAt d).budget < (s.fitOf d k).2.1)
def State.unplaceable (s : State) (d : Nat) (k : CandKind) : Bool :=
  s.tooDear d k || (match k with | .saved _ _ => false | k => (s.poolOf (s.candCtx k)).isNone)

/-- Priority of a candidate: the reserved one rises (16 R389). -/
def Cand.effPri (c : Cand) : Nat := match c.resv with | some n => min 7 (c.pri + n / 64) | none => c.pri

/-- The order of 16 R386 on candidates with their places in the list: priority, fit, age. -/
def candBefore (a b : Cand × Bool) : Bool :=
  decide (b.1.effPri < a.1.effPri) ||
  (decide (a.1.effPri = b.1.effPri) && ((a.2 && !b.2) || (decide (a.2 = b.2) && decide (b.1.age ≤ a.1.age))))

/-- Insert in order. -/
def insCand (x : Nat × Cand × Bool) : List (Nat × Cand × Bool) → List (Nat × Cand × Bool)
  | [] => [x]
  | y :: r => if candBefore y.2 x.2 then y :: insCand x r else x :: y :: r

/-- Groups of a new team, with their sectors. -/
def roleSectors (l : List (Nat × Nat)) : List Nat × List Nat :=
  (l.mapIdx (fun k x => List.replicate x.1 k) |>.flatten, l.mapIdx (fun k x => List.replicate x.2 k) |>.flatten)

/-- A free team slot of a core (16 R437). -/
def State.freeSlot (s : State) (core : Nat) : Nat :=
  ((List.range 17).find? fun k => !s.allTeams.any fun t => t.coreId = core && t.slot.toNat = k).getD 0

/-- Launch a team (01 R42, R43): every group takes a save area, whose STATE reads placed. -/
def State.launchTeam (s : State) (d : Nat) (x : Shape) (p : Spot) (t : Team) (entry : Word) (cs : List Word) (vl : Nat) (v : Bank VReg) : State :=
  let tid := s.nextId
  let n := x.prod + x.cons
  let (sp, sc) := roleSectors p.spread
  let areas := s.freeAreas x.ctx n
  let pool := match s.poolOf x.ctx with | some (c, _, _) => c | none => 0
  let mk := fun (i : Nat) =>
    let prod := decide (i < x.prod)
    { id := tid + 1 + i, team := tid, role := if x.cons = 0 then 0 else if prod then 1 else 2, num := BitVec.ofNat 8 i,
      sector := if prod then sp.getD i 0 else sc.getD (i - x.prod) 0, c := 0 :: cs, pc := entry, grant := p.grant,
      budget := if prod then x.pb else x.cb, vl := BitVec.ofNat 12 vl, vm := BitVec.allOnes 2048, v := v,
      area := areas.getD i 0, areaCtx := pool : Group }
  let gs := (List.range n).map mk
  let t := { t with
    id := tid, ctx := x.ctx, priv := (s.ctx x.ctx).priv, die := d, core := p.core % 32, slot := BitVec.ofNat 8 (s.freeSlot p.core), ngroups := n,
    gids := gs.map fun g => g.id, scrsz := x.scr, accrows := x.acc, compat := x.compat, ntags := x.tags, nchan := x.chn, nbar := x.bar,
    pri := x.pri, ecls := x.ecls, gated := p.gated, gmin := x.gmin, gmax := x.gmax }
  let s := { s with groups := s.groups ++ gs, teams := s.teams ++ [t], nextId := tid + n + 1,
                    areas := s.areas ++ gs.map fun g => ⟨g.area, pool, g.id⟩ }
  gs.foldl (fun s g => s.setAreaState pool g.area 0) s

/-- Loops of a grid by position (06 R185), and iterations of each. -/
def LoopNest.iters (n : LoopNest) (k : Nat) : Nat := (n.ext.getD k 1 + n.step.getD k 1 - 1) / n.step.getD k 1
def LoopNest.tiles (n : LoopNest) : Nat := prodL ((List.range 4).map n.iters)
/-- Loop indices of ordinal t. -/
def LoopNest.indices (n : LoopNest) (t : Nat) : List Nat :=
  let js := unlin (n.ord.map n.iters) t
  (List.range 4).map fun k => match (n.ord.zip js).find? fun x => x.1 = k with | some (_, i) => i * n.step.getD k 1 | none => 0

/-- Elements of the registers of a node team (01 R42). -/
def nodeRegs (recs : List (List Byte)) (rsize vps : Nat) : Bank VReg :=
  (List.range rsize).map fun w => BitVec.ofNat 16384 (((List.range vps).map fun e =>
    (match recs[e]? with | some b => leNat ((b.drop (4 * w)).take 4) | none => 0x80000000) * 2 ^ (32 * e)).sum)

def State.updWalk (s : State) (d : Nat) (h : Word) (f : Walk → Walk) : State :=
  let x := s.dieAt d
  s.setDie d { x with walks := x.walks.map fun w => if w.grid = h then f w else w }

/-- Place a candidate that is no saved group. -/
def State.placeNew (s : State) (d : Nat) (k : CandKind) (x : Shape) (p : Spot) : State :=
  match k with
  | .walker h =>
    (match s.task? h, (s.dieAt d).walks.find? (fun w => w.grid = h) with
      | some r, some w =>
        (match r.grid, w.todo with
          | some n, o :: rest =>
            let s := s.launchTeam d x p { kind := .tile h o, root := r.root, share := d } n.entry
              ((n.indices o).map w64 ++ [n.argp, w64 o]) 0 []
            let s := (s.updWalk d h fun w => { w with todo := rest, live := w.live + 1 }).updTask h fun r => { r with st := .running }
            if rest = [] then s else s.addCand d (.walker h) n.pri
          | _, _ => s)
      | _, _ => s)
  | .task h =>
    (match s.task? h with
      | some r =>
        let passed := ((List.range 8).filter fun i => r.hmask.getLsbD i).map fun i => r.args.getD i 0
        let tid := s.nextId
        let s := s.launchTeam d x p { kind := .task h, root := r.root, owned := passed } r.entry (r.args ++ [h]) 0 []
        s.updTask h fun r => { r with st := .running, team := some tid }
      | none => s)
  | .batch c i recs =>
    let n := s.nodeDecl c i
    let arg := s.devWord c ((s.ctx c).snode + w64 (16384 + 8 * i))
    let root := match recs with | (_, _, r) :: _ => r | [] => 0
    let mine := (recs.filter fun y => y.2.2 = root).map fun y => y.2.1
    let extra := (recs.filter fun y => y.2.2 ≠ root).map fun y => (y.2.2, y.2.1)
    s.launchTeam d x p { kind := .node i, root := root, weight := mine.sum, extra := extra } n.entry
      [w64 recs.length, w64 i, 0, 0, arg] recs.length (nodeRegs (recs.map fun y => y.1) n.rsize (p.grant / 32))
  | .saved _ _ => s

/-- Choose a saved group for a place (15 R375): it occupies its slot, and is restored by RESUME. -/
def State.placeSaved (s : State) (id core sector grant : Nat) (gated : Bool) : State :=
  match s.group? id with
  | none => s
  | some g =>
    let st := g.savedSt.getD 1
    let s := s.putGroup { g with run := .resuming st, sector := sector, grant := grant, pwait := none }
    let pri : Option (Nat × Nat) := match (s.teamD g.team).kind with | .task h => (s.task? h).map (fun (r : TaskRec) => (r.pri, r.ecls)) | _ => none
    s.updTeam g.team fun t => { t with
      die := core / 32, core := core % 32, gated := gated || t.gated, slot := if core = t.coreId then t.slot else BitVec.ofNat 8 (s.freeSlot core),
      pri := (pri.map fun x => x.1).getD t.pri, ecls := (pri.map fun x => x.2).getD t.ecls }

/-- One of several that a distributor may take (16 R437): `pick` says which, and goes on to the choices after it. -/
def State.choose {α : Type} (s : State) (l : List α) : Option (α × State) :=
  (l[s.pick % l.length]?).map fun x => (x, { s with pick := s.pick / l.length })

/-- Place a candidate, if it fits (16 R387, R437). -/
def State.placeCand (s : State) (d : Nat) (k : CandKind) : Option State :=
  let head := s.headroom d
  match k with
  | .saved id want =>
    let t := s.teamD (s.groupD id).team
    let l := s.savedSpots d id want
    let l := if (s.groupD id).small then l.take 1 else l
    (match chooseGrant head 1 (s.resumeEcls t) l with
      | some (g, gated, cs) => (s.choose cs).map fun (c, s) => s.placeSaved id c.1 c.2 g gated
      | none => none)
  | k => (s.shapeOf k).bind fun x =>
    match chooseGrant head (x.prod + x.cons) x.ecls (s.spots d x) with
    | some (g, gated, cs) => (s.choose cs).map fun (c, s) => s.placeNew d k x ⟨c.1, g, gated, c.2⟩
    | none => none

/-- A gated team is ungated once headroom covers the difference (16 R385). Where it covers some of several only, the spec gives no order:
the model goes by its list of teams (log entry 33, DESIGN CHOICE). -/
def State.ungate (s : State) (d : Nat) : State :=
  (s.allTeams.filter fun t => t.die = d && t.gated).foldl (fun s t =>
    let gs := s.allGroups.filter fun x => x.resident && decide (x.team = t.id)
    let diff := (gs.map fun x => costOf x.grant t.ecls false - costOf x.grant t.ecls true).sum
    if diff ≤ s.headroom d then s.updTeam t.id fun t => { t with gated := false } else s) s

/-- Report candidates that cannot be placed, and leave them out from now on (16 R389, 15 R369). -/
def State.reportUnplaceable (s : State) (d : Nat) : State :=
  let x := s.dieAt d
  let bad := x.cands.map fun c => !c.skipped && s.unplaceable d c.kind
  let evs := ((x.cands.zip bad).filter fun y => y.2).map fun y => ToHost.event 5 (s.partOfDie d) [w64 d, s.candName y.1.kind]
  let s' := s.setDie d { x with cands := (x.cands.zip bad).map fun y =>
    if y.2 then { y.1 with skipped := true, poolless := !s.tooDear d y.1.kind, resv := none } else y.1 }
  { s' with toHost := s'.toHost ++ evs }

/-- Candidates that were left out for want of a pool, and that one serves now, are no longer left out (15 R369). -/
def State.unskip (s : State) : State :=
  { s with dies := s.dies.mapIdx fun d x => { x with cands := x.cands.map fun c =>
      if c.skipped && c.poolless && !(s.unplaceable d c.kind) then { c with skipped := false } else c } }

/-- Among those deferred 64 times the first to be so, and the oldest (16 R389). -/
def pickReserved (l : List Cand) : Option Nat :=
  ((l.mapIdx fun i c => (i, c)).filter fun x => decide (64 ≤ x.2.deferred) && !x.2.skipped).foldl (fun b x => match b with
    | none => some x.1
    | some j => match l[j]? with
      | some c => if c.wait64 < x.2.wait64 ∨ (c.wait64 = x.2.wait64 ∧ c.age < x.2.age) then some x.1 else b
      | none => b) none

/-- Where none is reserved, the candidate whose turn it is becomes so (16 R389). -/
def reserve (l : List Cand) : List Cand :=
  if l.any fun c => c.resv.isSome && !c.skipped then l
  else match pickReserved l with
    | some i => l.mapIdx fun j c => if j = i then { c with resv := some 0 } else c
    | none => l

/-- The reservation admits a candidate (16 R389): it is the reserved one, or of higher priority. -/
def admits (l : List Cand) (c : Cand) : Bool := c.resv.isSome || l.all fun r => r.skipped || r.resv.isNone || decide (r.effPri < c.effPri)

/-- Ages, deferrals and the reservation after a counted decision (16 R386, R389). -/
def settleCands (l : List (Cand × Bool)) : List Cand :=
  let l := l.map fun x =>
    let c := x.1
    if c.skipped then { c with age := c.age + 1, wait64 := if 64 ≤ c.deferred then c.wait64 + 1 else c.wait64 } else
    { c with age := c.age + 1, deferred := if x.2 then c.deferred + 1 else c.deferred,
             wait64 := if 64 ≤ c.deferred then c.wait64 + 1 else c.wait64, resv := c.resv.map fun n => n + 1 }
  reserve l

/-- The cores of a die on which a candidate could be placed, power aside, once the groups of lower priority had left them:
their teams keep what they hold (16 R388). -/
def State.coresIf (s : State) (d pri : Nat) (k : CandKind) : List Nat :=
  let out := fun (g : Group) => if (s.teamD g.team).die = d && decide ((s.teamD g.team).pri < pri) && g.resident then { g with run := .saved 1 } else g
  let q := { s with g := out s.g, groups := s.groups.map out }
  match k with
  | .saved id want => (q.savedSpots d id want).flatMap fun x => x.2.map fun y => y.1
  | k => match q.shapeOf k with
    | none => []
    | some x => (q.spots d x).flatMap fun y => y.2.map fun z => z.1

/-- Groups that may be pre-empted for a candidate which fits on no core of the die, power aside (16 R388). -/
def State.below (s : State) (d : Nat) (c : Cand) : List Group :=
  if c.skipped || (s.fitOf d c.kind).1 then []
  else
    let cores := s.coresIf d c.effPri c.kind
    s.allGroups.filter fun g => let t := s.teamD g.team; g.resident && decide (t.die = d) && decide (t.pri < c.effPri) && cores.contains t.coreId

/-- The youngest group of the lowest priority (16 R388). -/
def State.youngest (s : State) (l : List Group) : Option Nat :=
  let pri := fun (g : Group) => (s.teamD g.team).pri
  (l.foldl (fun b g => match b with
    | some y => if pri g < pri y ∨ (pri g = pri y ∧ y.id < g.id) then some g else b
    | none => some g) (none : Option Group)).map fun g => g.id

/-- The group that a decision pre-empts, for the first of the candidates in order that needs one to leave (16 R388). -/
def State.chooseVictim (s : State) (d : Nat) (l : List Cand) : State :=
  s.setDie d { s.dieAt d with evict := l.findSome? fun c => s.youngest (s.below d c) }

/-- The latest decision of the die has this group pre-empted (16 R388), for a candidate that still needs it to leave. -/
def State.isVictim (s : State) (d g : Nat) : Bool :=
  let l := (s.dieAt d).cands
  decide ((s.dieAt d).evict = some g) && l.any fun c => admits l c && (s.below d c).any fun x => x.id = g

/-- One decision of a die (16 R386 to R389): there is none while no candidate waits. Of those tied any may come first (R437). -/
def State.decide1 (s : State) (d : Nat) : State :=
  if (s.dieAt d).cands = [] then s else
  let s := (s.ungate d).unskip.reportUnplaceable d
  let l := reserve (s.dieAt d).cands
  let s := s.setDie d { s.dieAt d with cands := l }
  let fits := l.map fun c => (c, s.fitOf d c.kind)
  let defers := fits.map fun x => !x.1.skipped && x.2.1 && !x.2.2.2
  let order := ((fits.mapIdx fun i x => (i, x.1, x.2.2.2)).filter fun x => !x.2.1.skipped).foldl (fun a x => insCand x a) []
  let may := fun (x : Nat × Cand × Bool) => x.2.2 && admits l x.2.1
  let served := fun (o : List (Nat × Cand × Bool)) => (o.filter fun x => admits l x.2.1).map fun x => x.2.1
  let chosen := (order.find? may).bind fun a => s.choose (order.filter fun x => may x && candBefore x.2 a.2 && candBefore a.2 x.2)
  let rest := fun (i : Option Nat) => ((l.zip defers).mapIdx fun j x => (j, x)).filterMap fun y => if some y.1 = i then none else some y.2
  match chosen with
  | some ((i, c, _), s) =>
    -- the others are counted before the next tile of a walker arrives
    let q := s.setDie d { s.dieAt d with cands := settleCands (rest (some i)) }
    (match q.placeCand d c.kind with
      | some q => q.chooseVictim d (served (order.filter fun x => x.1 ≠ i))
      | none => s)
  | none =>
    let q := if defers.any id then s.setDie d { s.dieAt d with cands := settleCands (rest none) } else s
    q.chooseVictim d (served order)

/-- Decisions that fall due (16 R386): a die that has not sampled its temperature makes none (R439). -/
def State.decideN : Nat → State → State
  | 0, s => s
  | n + 1, s =>
    match s.due.find? fun d => (s.dieAt d).temp.isSome with
    | none => s
    | some d => State.decideN n (({ s with due := s.due.filter fun x => x ≠ d }).decide1 d)

/-- A distributor that is to decide has a batch whose node record it must read, and a line of it is an engine operation's: it waits for
the recall (04 R126). -/
def State.tablesHeld (s : State) : Bool :=
  s.due.any fun d => (s.dieAt d).cands.any fun c => match c.kind with | .batch c n _ => (s.nodeHeld c n).isSome | _ => false

/-- Enough for every group that the device can hold. -/
def State.decideAll (s : State) : State := if s.due = [] then s else if s.tablesHeld then s else s.decideN 4200

/-- A group that may be moved to a smaller grant, of greatest cost (16 R390): of several the spec names none, and the model takes the
first in its list (log entry 33, DESIGN CHOICE). -/
def State.costliest (s : State) (d : Nat) : Option Group :=
  (s.allGroups.filter fun x => x.resident && (let t := s.teamD x.team; decide (t.die = d) && decide (t.gmin < x.grant))).foldl (fun b x =>
    let cost := fun (y : Group) => let t := s.teamD y.team; costOf y.grant t.ecls t.gated
    match b with
    | some y => if cost y < cost x then some x else b
    | none => some x) none

/-- The group that was asked for a length-free point has reached it, and has not resumed yet (16 R390). -/
def Group.moved (g : Group) : Bool := match g.run with | .saved 3 => true | .resuming 3 => true | _ => false

/-- REQ is withdrawn in the area of a group that is off its sector (02 R62, 16 R390). -/
def State.withdraw (s : State) (g : Group) : State :=
  if g.offSector then
    let a := g.area + w64 0x250
    s.devWrite g.areaCtx a ((s.devRead g.areaCtx a 1).map fun b => b &&& 0xFE)
  else s

/-- Moves to smaller grants (16 R390): one group at a time, until the die is cool and within its budget; then every request
is withdrawn. A group that has moved still resumes at the smallest grant that fits. -/
def State.migrate (s : State) (d : Nat) : State :=
  let x := s.dieAt d
  let hot := x.hot || x.tooHot
  let moved := match x.moving with | some g => (s.groupD g).moved | none => false
  if !hot then s
  else if (match x.temp with | some t => decide (t + 5 ≤ x.tlimit) | none => true) && decide (s.used d ≤ x.budget) then
    let clr := fun (g : Group) => if (s.teamD g.team).die = d then { g with req := false } else g
    let q := { s.setDie d { x with hot := false, moving := if moved then x.moving else none } with g := clr s.g, groups := s.groups.map clr }
    (s.allGroups.filter fun g => g.req && decide ((s.teamD g.team).die = d)).foldl (fun q g => q.withdraw g) q
  else
    let waits := moved || (match x.moving with | some g => (s.groupD g).resident && (s.groupD g).req | none => false)
    let s := s.setDie d { x with hot := true, moving := if waits then x.moving else none }
    if waits then s
    else match s.costliest d with
      | some g => (s.setDie d { s.dieAt d with moving := some g.id }).updGroup g.id fun g => { g with req := true }
      | none => s

/-- A resident group has left its sector, or ended: moves go on (16 R390). -/
def State.left (s : State) (d : Nat) : State := (s.migrate d).call d

/-- A saved group becomes a candidate of its die (16 R383). -/
def State.offerSaved (s : State) (g : Group) (grant : Option Nat) : State :=
  let t := s.teamD g.team
  s.addCand t.die (.saved g.id grant) t.pri

/-- A steal moves this group. -/
def StealItem.isGroup (g : Nat) : StealItem → Bool
  | .group x _ => decide (x = g)
  | _ => false

/-- A thief has been given an item by die `d`, and has not received the acceptance yet (16 R392). -/
def State.givenTo (s : State) (d t : Nat) : Bool := s.msgs.any fun m => decide (m.src = d) && decide (m.dst = t) && decide (m.body = MsgBody.accepted)

/-- A saved group is in transit between two dies (16 R392): in a victim's shadow, or given and not settled. -/
def State.travels (s : State) (g : Nat) : Bool :=
  (s.dies.any fun x => x.shadows.any fun y => y.item.isGroup g) ||
  (s.dies.mapIdx fun t x => (t, x.steal)).any fun y => match y.2 with | .acking v it _ => it.isGroup g && s.givenTo v y.1 | _ => false

/-- A group is pre-empted (15 R367): saved, and a candidate again. -/
def State.preempt (s : State) (st : Nat) (live : Option (Nat → Bool)) : State :=
  let s := s.saveGroup st [] live
  let s := if st = 3 then { s with g := { s.g with small := true } } else s
  (s.offerSaved s.g none).migrate s.t.die

/-- A saved group is restored where the decision has placed it (15 R377). The resume of a pre-empted group acts as
`fence.full.dev`: it waits for the copies that the group issued (04 R116, R130). -/
def execResume (s : State) : Out :=
  .next (match s.group? s.ev.g with
    | none => s
    | some g =>
      (match g.run with
        | .resuming st =>
          let t := s.teamD g.team
          if (st ≠ 2 && s.fenceWaitsOf g.id) || (s.devHeld g.areaCtx g.area 0x30000).isSome then s else
          if t.die = s.ev.die ∧ t.core = s.ev.core ∧ g.sector = s.ev.sector ∧ g.grant = s.ev.grant then
            let s' := ((s.uncover g.id).putGroup (s.restored g g.grant)).updTeam g.team (s.restoredTeam g)
            let x := s'.dieAt t.die
            let s' := if x.moving = some g.id then s'.setDie t.die { x with moving := none } else s'
            (s'.setAreaState g.areaCtx g.area 0).migrate t.die
          else s
        | _ => s))

end Sys2Proof.Machine
end

