-- ==== Sys2Proof/Machine/Ends.lean ====
section
/-! DEFINITION. How groups, teams, tasks and grids end: the end of a group (01 R44, 11 R327), reclamation (06 R174, R175),
weight (06 R180, R181), grids (16 R381), bins (06 R183), traps and pre-emption as events (15 R363 to R368), and the
temperature (16 R439). -/

namespace Sys2Proof.Machine

/-- Take a team and its groups away (01 R44). -/
def State.removeTeam (s : State) (tm : Nat) : State :=
  let s := { s with groups := s.groups.filter fun g => g.team ≠ tm, teams := s.teams.filter fun t => t.id ≠ tm }
  if s.t.id = tm then { s with g := {}, t := {} } else s

/-- Groups that gave up their slots in `fget` on a task that has finished are candidates (01 R48, log entry 16, DEDUCED); one in transit is a
candidate where it settles (16 R392). -/
def State.wakeGetters (s : State) (h : Word) : State :=
  (s.allGroups.filter fun g => g.savedSt.isSome && decide (g.pwait = some (.fget h)) && !s.travels g.id).foldl (fun s g =>
    if s.dies.any fun x => x.cands.any fun c => match c.kind with | .saved k _ => k = g.id | _ => false then s else s.offerSaved g none) s

/-- A record is finished (06 R172): RESULT, then the owned references, then the weight; one that no party owns is freed. -/
def State.finishRecord (s : State) (h : Word) (result : Word) (owned : List Word) : State :=
  match s.task? h with
  | none => s.dropRefs owned
  | some r =>
    let s := s.updTask h fun r => { r with st := .finished, result := result, weight := 0, team := none, args := [] }
    let s := (s.updGraph h fun x => { x with result := result }).dropRefs owned
    let s := (s.returnWeight r.root r.weight).wakeGetters h
    match s.task? h with
    | some r => if r.cons = 0 && !r.orphan then s.freeRecord h else s
    | none => s

/-- A team has ended (01 R44): a task finishes, unless it is being reclaimed, which RECLAIM_SETTLE completes; weight and
references of the others go back. Headroom that a resident group has left calls for a decision (16 R386). -/
def State.endTeam (s : State) (tm : Nat) (result : Word) (resident : Bool) : State :=
  let t := s.teamD tm
  let result := t.halted.getD result
  let back := fun (s : State) => t.extra.foldl (fun s x => s.returnWeight x.1 x.2) (s.returnWeight t.root t.weight)
  match t.kind with
  | .task h =>
    (match s.task? h with
      | some r => if r.st = .reclaiming then (if resident then s.left t.die else s)
        -- the record went with a die that reset: nothing of it returns (06 R179, 16 R393)
        else if r.st = .lost then (s.removeTeam tm).left t.die
        else ((s.removeTeam tm).finishRecord h result t.owned).left t.die
      | none => (s.removeTeam tm).left t.die)
  | .node _ => (back ((s.removeTeam tm).dropRefs t.owned)).left t.die
  | .tile q _ =>
    let s := (s.removeTeam tm).updWalk t.share q fun w => { w with live := w.live - 1 }
    (back (s.dropRefs t.owned)).left t.die

/-- The current group ends (01 R44, 04 R121, 05 R164, 11 R309, 15 R369): its pivots are released, its planes let go, and its
save area returns to the pool. Slots that it still holds are forgotten (log entry 56, DEDUCED). -/
def State.endGroup (s : State) (result : Word) : State :=
  let g := s.g
  let s := g.holds.foldl (fun s h => s.releasePivot h.1 g.id h.2) s
  let s := s.setMu (s.mu.release fun p => p = g.id)
  let s := s.setAreaState g.areaCtx g.area 4
  let s := { s with areas := s.areas.filter fun a => a.g ≠ g.id, pwaits := s.pwaits.filter fun w => w.g ≠ g.id,
                    g := { s.g with run := .ended, streams := [], holds := [], viq := [], vps := [], slots := [], taken := [], cwait := none, pwait := none } }
  if s.t.gids.all fun i => !(s.groupD i).alive then s.endTeam s.t.id result g.resident else if g.resident then s.left s.t.die else s

/-- Nothing that the current group issued is still at work, nor is a stream of it stopped on a missing page (17 R406). -/
def State.settled (s : State) : Bool := (s.ownOps.all s.inert) && (s.g.streams.all fun x => x.stop.isNone) && !s.mu.busyFor s.g.id

/-- Give up listed things one by one: those left are the ones whose access waits for a line that an engine owns (04 R126). -/
def giveEach {α : Type} (give : State → α → Option State) : State → List α → List α × State
  | s, [] => ([], s)
  | s, x :: r =>
    match give s x with
    | some q => giveEach give q r
    | none => let (l, q) := giveEach give s r; (x :: l, q)

/-- Commit void a slot that the group reserved (06 R175 step 4). -/
def State.voidSlot (s : State) (y : Word × Word32) : Option State :=
  match s.readRing s.agent .load y.1 with
  | .ok (r, _, _, q) => q.giveSlot s.agent .load r false y.2.toNat
  | .error e => if e.waits then none else some s

/-- An index that an entry of the VIQ has taken becomes the device's (06 R175 step 4). -/
def State.pendTaken (s : State) (y : Word × Word32 × Bool) : Option State :=
  match s.readRing s.agent .load y.1 with
  | .ok (h, _, _, _) => some { s with pend := s.pend ++ [⟨y.2.1, h, s.t.ctx, s.t.id, y.2.2⟩] }
  | .error e => if e.waits then none else some s

/-- A channel transfer of a reclaimed group is taken away, with what it holds of its ring (06 R175 step 4). -/
def State.dropTransfer (s : State) (o : EngOp) : Option State :=
  let clr := fun (c : Channel) => { c with queue := c.queue.filter fun q => q.op ≠ o.id : Channel }
  let s := s.landAll o
  (s.dropIndex o).map fun s =>
    (s.dropOp o.id).updTeam o.tm fun tm => { tm with chans := Bank.set {} tm.chans o.tag (clr (Bank.get {} tm.chans o.tag)) }

/-- Step 4 of a reclamation (06 R175): the group's ring slots and indices, and those of its transfers. What waits for a line stays
with the group. -/
def State.giveSlots (s : State) : State :=
  let (slots, s) := giveEach State.voidSlot s s.g.slots
  let (taken, s) := giveEach State.pendTaken s s.g.taken
  let (_, s) := giveEach State.dropTransfer s s.ownOps
  { s with g := { s.g with slots := slots, taken := taken } }

/-- The index that an entry of a VIQ has taken and waits on. -/
def Unit.takes (u : Unit) : Option (Word × Word32 × Bool) :=
  match u.tk, decodeWord u.word with
  | some x, .ok i => some (u.opA, x, match i with | .rclaim _ _ => true | _ => false)
  | _, _ => none

/-- A group whose team is being reclaimed stops (06 R175 steps 1 to 3): the rest of its VIQ is discarded, operations that are stopped
at a fault are abandoned, and its end follows once the others have completed. See log entry 56, DEDUCED. -/
def State.reclaim (s : State) : State :=
  let saved := s.g.savedSt.isSome
  let s := { s with ops := s.ops.filter fun o => !(decide (o.g = s.g.id) && o.stop.isSome && o.chan.isNone) }
  let s := if saved then s.setAreaState s.g.areaCtx s.g.area 4 else s
  let s := s.dropCand s.t.die fun k => match k with | .saved g _ => g = s.g.id | _ => false
  let g := { s.g with run := .reclaimed, offSlot := saved, viq := [], vps := [], pfx := [], taken := s.g.viq.filterMap Unit.takes, cwait := none, pwait := none,
                      late := [], lateUnits := [], shades := [], streams := s.g.streams.map (fun x => { x with stop := none }) }
  { s with pwaits := s.pwaits.filter fun w => w.g ≠ s.g.id, g := g, port := false, vp := none }

/-- A group that has executed `fret`, or has been reclaimed, ends once what it issued has completed (01 R44, 06 R175). -/
def execGroupEnd (s : State) : Out :=
  let q := s.focus s.ev.g
  .next (if !q.settled then s else
    match q.g.run with
    -- the last reference fell after the `fret` and before the end, which is a reclamation point (06 R177)
    | .returned x => if q.t.stopping then q.reclaim else q.endGroup x
    | .reclaimed => let q := q.giveSlots; if q.g.slots = [] ∧ q.g.taken = [] ∧ q.ownOps = [] then q.endGroup 0 else q
    | _ => s)

/-- Waits of the control thread that are reclamation points (06 R174): not one for room or a value in a chord queue, nor one for a
line, nor that of a trap for the older entries of the VIQ (07 R200). -/
def Wait.stalls : Wait → Bool
  | .inletFull => false
  | .outletEmpty => false
  | .recall _ => false
  | .trapping => false
  | _ => true

/-- Waits of the VIQ that are reclamation points (06 R174). -/
def Wait.reclaims : Wait → Bool
  | .fget _ => true
  | .tag _ _ => true
  | .ring _ _ _ => true
  | .chwait _ _ => true
  | .refill => true
  | .storeFull => true
  | .binFull => true
  | _ => false

/-- The word at the program counter is of class D or of opcode 0x6D (06 R174). -/
def State.atPoint (s : State) : Bool :=
  match s.fetchWord s.g.pc with
  | .ok (w, _) => opOf w = 0x6D || (match decodeWord w with | .ok i => decide (clsOf i = .drain) | .error _ => false)
  | .error _ => false

/-- The current group stands at a reclamation point (06 R174): it is saved, it has not started, its control thread or the
entry at the head of its VIQ waits, or the next unit is one. A branch back is one as well: the step that takes it sees to
that. -/
def State.reclaimable (s : State) : Bool :=
  s.t.stopping &&
  (match s.g.run with
    | .saved _ => true
    | .resuming _ => true
    | .lfreePending => true
    -- the reclamation came before the `fret` reached the record (06 R177)
    | .returned _ => true
    | .fretPending => decide (s.g.viq = []) || s.g.pwait.any Wait.reclaims
    | .running => s.g.cwait.any Wait.stalls || s.g.pwait.any Wait.reclaims || decide (s.g.seq = 0 ∧ s.g.pfx = [] ∧ s.g.viq = []) || s.atPoint
    | _ => false)

/-- The current group, whose team is being reclaimed, has branched back (06 R174): `s` is the state before. -/
def State.backward (s q : State) : Bool :=
  q.t.stopping && decide (q.g.id = s.g.id) && decide (q.g.run = .running) && decide (q.g.cwait = none) && decide (q.g.pc.toNat ≤ s.g.pc.toNat)

/-- A group of a reclaimed task comes to a reclamation point (06 R175). -/
def execReclamation (s : State) : Out :=
  let q := s.focus s.ev.g
  .next (if q.reclaimable then q.reclaim else s)

/-- A reclaimed task's effects have settled (06 R172): its references are dropped, its weight returns, and its record is
freed; a grid once every share has ended (06 R185). -/
def execReclaimSettle (s : State) : Out :=
  .next (match s.task? s.ev.h with
    | none => s
    | some r =>
      if r.st ≠ .reclaiming then s
      else match r.team with
        | some tm =>
          let t := s.teamD tm
          if t.gids.any fun i => (s.groupD i).alive then s
          else ((((s.removeTeam tm).dropRefs t.owned).returnWeight r.root r.weight).freeRecord r.handle).left t.die
        | none => if r.shares ≠ [] then s else (s.returnWeight r.root r.weight).freeRecord r.handle)

/-- Weight that the issuer of a spawn or an emit holds (06 R180), and its update. -/
def State.issuerWeight (s : State) : Nat :=
  match s.t.kind with | .task h => (match s.task? h with | some r => r.weight | none => 0) | _ => s.t.weight
def State.setIssuerWeight (s : State) (w : Nat) : State :=
  match s.t.kind with | .task h => s.updTask h fun r => { r with weight := w } | _ => { s with t := { s.t with weight := w } }

/-- An issuer with weight 0 or 1, which waits for it, obtains a refill (06 R180). -/
def execWeightRefill (s : State) : Out :=
  let q := s.focus s.ev.g
  .next (if q.g.pwait ≠ some .refill then s
    else match q.refill q.t.root q.issuerWeight with
      | some (w, q) => { q.setIssuerWeight w with g := { q.g with pwait := none } }
      | none => s)

/-- Weight comes back to its root (06 R181). -/
def execWeightReturn (s : State) : Out :=
  let is := fun (m : Msg) => decide (m.body = .weight s.ev.h s.ev.n)
  .next (match s.msgs.find? is with
    | some m => ({ s with msgs := s.msgs.erase m }).addWeight s.ev.h s.ev.n
    | none => s)

/-- Cycles of the die's clock have come to a deadline. -/
def Die.past (d : Die) (deadline : Nat) : Bool := !(d.clk - w64 deadline).msb

def Bin.is (b : Bin) (c n : Nat) : Bool := decide (b.ctx = c) && decide (b.node = n)
def State.updBin (s : State) (d c n : Nat) (f : Bin → Bin) : State :=
  let x := s.dieAt d
  let bins := if x.bins.any fun b => b.is c n then x.bins else x.bins ++ [{ ctx := c, node := n }]
  s.setDie d { x with bins := (bins.map fun b => if b.is c n then f b else b).filter fun b => b.recs ≠ [] }
def State.binOf (s : State) (d c n : Nat) : Bin := ((s.dieAt d).bins.find? fun b => b.is c n).getD { ctx := c, node := n }

/-- A bin's timer expires (06 R183): all its records go to one node team. -/
def execBinTimerExpiry (s : State) : Out :=
  let b := s.binOf s.ev.die s.ev.ctx s.ev.node
  .next (if b.recs = [] || !(s.dieAt s.ev.die).past b.deadline || (s.nodeHeld b.ctx b.node).isSome then s
    else
      let s := s.updBin s.ev.die s.ev.ctx s.ev.node fun b => { b with recs := [] }
      s.addCand s.ev.die (.batch b.ctx b.node b.recs) (s.nodeDecl b.ctx b.node).pri)

/-- Ordinals of the chunks of partition die `q` of `D`, in order (16 R381, R382). -/
def LoopNest.shareOf (n : LoopNest) (q D : Nat) : List Nat := (List.range n.tiles).filter fun t => t / n.chunk % D = q

/-- A grid's record arrives at a distributor (16 R381). -/
def execGridRecordArrival (s : State) : Out :=
  let d := s.ev.die
  .next (match s.msgs.find? (fun m => decide (m.dst = d) && decide (m.body = .grid s.ev.h)) with
    | none => s
    | some m =>
      let s := { s with msgs := s.msgs.erase m }
      (match s.task? s.ev.h, (s.task? s.ev.h).bind fun r => if r.st = .reclaiming then none else r.grid with
        | none, _ => s
        | some _, none =>
          let x := s.dieAt d
          if x.walks.any fun w => w.grid = s.ev.h then s.updWalk d s.ev.h fun w => { w with parts := w.parts + 1 }
          else s.setDie d { x with walks := x.walks ++ [{ grid := s.ev.h, todo := [] }] }
        | some _, some n =>
          let mine := n.shareOf (d % s.partSize) s.partSize
          let x := s.dieAt d
          if x.walks.any fun w => w.grid = s.ev.h then
            let s := s.updWalk d s.ev.h fun w => { w with todo := mine.foldl (fun l x => insNat x l) w.todo, parts := w.parts + 1 }
            if mine = [] || x.cands.any fun c => c.kind = .walker s.ev.h then s else s.addCand d (.walker s.ev.h) n.pri
          else
            let s := s.setDie d { x with walks := x.walks ++ [{ grid := s.ev.h, todo := mine }] }
            if mine = [] then s else s.addCand d (.walker s.ev.h) n.pri))

/-- Take away `n` of a list's members that equal `d`. -/
def dropN (d : Nat) : Nat → List Nat → List Nat
  | 0, l => l
  | n + 1, l => dropN d n (l.erase d)

/-- Tiles that a die has given away and that their thief has not taken in yet (16 R392). -/
def State.onTheWay (s : State) (d : Nat) (h : Word) : Bool :=
  s.dies.any fun y => match y.steal with | .acking v (.tiles q _) _ => decide (v = d) && decide (q = h) | _ => false

/-- The report that the last tile team of a distributor's share has ended reaches the grid's die; with every share the grid
finishes, with RESULT 0 (06 R185, 16 R381). -/
def execGridShareReport (s : State) : Out :=
  let d := s.ev.die
  let x := s.dieAt d
  .next (match x.walks.find? fun w => w.grid = s.ev.h with
    | none => s
    | some w =>
      let away := x.shadows.any fun y => match y.item with | .tiles h _ => h = s.ev.h | _ => false
      if w.todo ≠ [] || w.live ≠ 0 || away || s.onTheWay d s.ev.h then s
      else
        let s := s.setDie d { x with walks := x.walks.filter fun w => w.grid ≠ s.ev.h }
        let s := s.updTask s.ev.h fun r => { r with shares := dropN d w.parts r.shares }
        (match s.task? s.ev.h with
          | some r =>
            if r.shares = [] ∧ r.remnant = true then { s with tasks := s.tasks.filter fun y => y.handle ≠ s.ev.h }
            else if r.shares = [] ∧ r.st = .running ∧ r.grid.isSome then s.finishRecord s.ev.h 0 [] else s
          | none => s))

/-- The die's temperature is sampled (16 R439): rounded down by the sensor, clamped to 0 to 255; a first sample, and a fall
below the limit, call for a decision; at the limit groups move to smaller grants (R390). -/
def execTemperatureSample (s : State) : Out :=
  let d := s.ev.die
  let x := s.dieAt d
  let t := if s.ev.temp < 0 then 0 else min 255 s.ev.temp.toNat
  let s := s.setDie d { x with temp := some t }
  .next ((if x.temp.isNone || (x.tooHot && decide (t < x.tlimit)) then s.call d else s).migrate d)

/-- A trap stops a group (15 R363): the unit at its control thread, the entry at the head of its VIQ (`flag`), or VP `e` of
its `vf`, is left unexecuted, with the cause, element, index, address and INFO of the record. See log entry 37, DESIGN CHOICE. -/
def execTrapStop (s : State) : Out :=
  let q := s.focus s.ev.g
  let tr : Trap := { cause := s.ev.cause, elem := s.ev.elem, idx := s.ev.idx, addr := s.ev.addr, info := s.ev.info }
  let q := { q with port := false, vp := none }
  .next (if !(q.g.controlReady || q.g.portReady) then s
    else if s.ev.flag then
      match q.g.viq with
      | [] => s
      | u :: rest =>
        if q.g.vfRuns then
          if s.ev.e < q.g.vps.length then { q with u := { u with vp0 := q.g.vps.getD s.ev.e {} }, port := true, vp := some s.ev.e }.takeTrap tr else s
        else { q with u := u, port := true, g := { q.g with viq := rest } }.takeTrap tr
    else
      let first := match q.g.pfx with | (a, _) :: _ => a | [] => q.g.pc
      { q with u := { addr := first, ipc := q.g.pc } }.raiseTrap tr)

/-- A handler whose spawn waited is spawned (15 R365), with `shent`, `shcw` and `sroot` as they then stand; those of one die in the order in
which they came, each behind the one before it, for the spec gives no order (log entry 70, DESIGN CHOICE). -/
def execHandlerSpawn (s : State) : Out :=
  let x := s.dieAt s.ev.die
  .next (match x.spawns with
    | [] => s
    | (c, args) :: rest =>
      match s.spawnHandler s.ev.die c args with
      | some s => s.setDie s.ev.die { s.dieAt s.ev.die with spawns := rest }
      | none => s)

/-- The distributor pre-empts a group (15 R367, 16 R388), or stops waiting for its `lfree` (15 R368). The save acts as
`fence.full.dev`: it waits for the copies that the group issued (04 R116, R130). -/
def execPreEmption (s : State) : Out :=
  let q := s.focus s.ev.g
  .next (if (q.g.controlReady || q.g.portReady || q.g.cwait.isSome) && q.g.resident && (q.g.req || s.isVictim q.t.die q.g.id) && !q.fenceWaits then
      let q := if s.isVictim q.t.die q.g.id then q.setDie q.t.die { q.dieAt q.t.die with evict := none } else q
      { q with port := false, vp := none }.preempt 1 none
    else s)

end Sys2Proof.Machine
end

