-- ==== Sys2Proof/Machine/Tasks.lean ====
section
/-! DEFINITION. The task instructions of opcode 0x6D (11 R322 to R332, 06 R165 to R185). -/

namespace Sys2Proof.Machine

def causeFuture : Byte := 0x11
def causeRefLimit : Byte := 0x12

/-- The issuing team owns a reference to a handle (06 R170). -/
def State.owns (s : State) (h : Word) : Bool := s.t.owned.contains h && s.current h
def State.needOwn (s : State) (h : Word) : M PUnit := need (s.owns h = true) causeFuture h

/-- The references named by a list leave the owned list, one for each member; the first that is not owned is the error. -/
def takeRefs (owned : List Word) : List Word → Except Word (List Word)
  | [] => .ok owned
  | h :: hs => if owned.contains h then takeRefs (owned.erase h) hs else .error h

/-- Split the issuer's weight, after any refill (06 R180): what the child takes. -/
def State.split (s : State) : M (Nat × State) :=
  match s.refill s.t.root s.issuerWeight with
  | some (w, s') => .ok (w / 2, s'.setIssuerWeight (w - w / 2))
  | none => holdM .refill

/-- `spawn` (11 R323, R324): `x` stands for the handle that a reference-limit trap reports where none exists. See log entry 28, DESIGN CHOICE. -/
def State.spawn (s : State) (d : CReg) (x : Word) : M State := do
  let cw := s.u.opB.toNat
  need (cw / 2 ^ 24 = 0 ∧ field cw 7 1 = 0 ∧ field cw 16 8 ≤ 128)
  if s.u.opA.toNat % 4 ≠ 0 then .error (.trap { cause := causeMisaligned, addr := s.u.opA })
  else do
    let hm := BitVec.ofNat 8 (field cw 8 8)
    let passed := ((List.range 8).filter fun k => hm.getLsbD k).map fun k => s.u.ops.getD k 0
    need (passed.all s.current = true) causeFuture ((passed.find? fun h => !s.current h).getD 0)
    match takeRefs s.t.owned passed with
    | .error h => trapM causeFuture h
    | .ok owned =>
      let h := s.newHandle s.t.die
      match s.setOwned (owned ++ [h]) with
      | none => trapM causeRefLimit x
      | some s' =>
        if s.storeFull s.t.die then holdM .storeFull
        else do
          let (w, s') ← s'.split
          let r : TaskRec :=
            { handle := h, die := s.t.die, ctx := s.t.ctx, entry := s.u.opA, args := s.u.ops, weight := w, parent := s.t.handle, root := s.t.root,
              cons := 1, pri := field cw 0 3, ecls := field cw 3 3, pin := field cw 6 1 = 1, hmask := hm, budget := s.g.budget, gmax := s.g.grant,
              scr := field cw 16 8 }
          .ok ((s'.newRecord r).setC d h)

/-- `spawn` (11 R323). -/
def execSpawn (d _a _b : CReg) (s : State) : Out :=
  let (n, s') := s.free
  s'.finish (s'.spawn d (w64 n))

/-- Add a reference to a record, at the die where it stands (06 R169, R179). -/
def State.addRef (s : State) (h : Word) : State :=
  match s.task? h with
  | none => s
  | some r =>
    if r.orphan || r.st = .lost then s
    else if s.refWaits r then s.send s.t.die (hHome h) (.refAct h 1)
    else s.updTask h fun r => { r with cons := r.cons + 1 }

/-- Actions on a record wait where it stands, and the entry that makes one completes once it is applied (11 R325, 16 R394). -/
def State.moving (s : State) (h : Word) : Bool := (s.task? h).any s.refWaits

/-- `fdup` (11 R325). -/
def execFdup (_a : CReg) (s : State) : Out :=
  s.finish do
    let h := s.u.opA
    s.needOwn h
    match s.setOwned (s.t.owned ++ [h]) with
    | none => trapM causeRefLimit h
    | some s' => if s.moving h then holdM (.record h) else .ok (s'.addRef h)

/-- `fdrop` (11 R325). -/
def execFdrop (_a : CReg) (s : State) : Out :=
  s.finish do
    let h := s.u.opA
    s.needOwn h
    match s.setOwned (s.t.owned.erase h) with
    | none => trapM causeRefLimit h
    | some s' => if s.moving h then holdM (.record h) else .ok (s'.dropRefs [h])

/-- A group that waits in `fget` on a ready task gives up its sector slot (01 R48, 06 R178): it is saved with the `fget` at the
head of its VIQ, and is a candidate again once the task has finished (log entry 16, DEDUCED). -/
def State.yieldSlot (s : State) (h : Word) : State :=
  let s := { s.holdUnit (.fget h) with port := false }
  let s := s.saveGroup 1 [] none
  ({ s with g := { s.g with pwait := some (.fget h) } } : State).migrate s.t.die

/-- `fget` (11 R326). -/
def execFget (d _a : CReg) (s : State) : Out :=
  let h := s.u.opA
  if !s.owns h then s.finish (trapM causeFuture h)
  else match s.task? h with
    | none => s.finish (holdM (.fget h))
    | some r => match r.st with
      | .finished => .next (s.setC d r.result)
      | .ready => if s.fenceWaits then s.finish (holdM (.fget h)) else .next (s.yieldSlot h)
      | _ => s.finish (holdM (.fget h))

/-- `ftest` (11 R326): it never waits for the task, but is answered where the record stands (16 R394). -/
def execFtest (d _a : CReg) (s : State) : Out :=
  s.finish do
    let h := s.u.opA
    s.needOwn h
    if s.moving h then holdM (.record h) else
    .ok (s.setC d (match s.task? h with | some r => if r.st = .finished then 1 else 0 | none => 0))

/-- `fret` (11 R327): a reclaimed task's group stops here instead (06 R177). -/
def execFret (_a : CReg) (s : State) : Out :=
  .next (if s.t.stopping then s.reclaim
    else { s with g := { s.g with run := .returned s.u.opA } })

/-- Set PRI and ECLS of a record (11 R328): its candidates take the priority, a group that is off its sector both. Of a
running grid the spec does not say whether tiles already placed or saved take them: the model changes the record, the loop nest and the
walkers' candidates, so that tiles placed later take them (log entry 36, DESIGN CHOICE). -/
def State.applyPri (s : State) (h : Word) (r : TaskRec) (pri ecls : Nat) : State :=
  let s := s.updTask h fun r => { r with pri := pri, ecls := ecls, grid := r.grid.map fun n => { n with pri := pri, ecls := ecls } }
  let s := match r.team with
    | some tm =>
      let out := !(s.allGroups.any fun g => decide (g.team = tm) && g.resident)
      s.updTeam tm fun t => { t with pri := pri, ecls := if out then ecls else t.ecls }
    | none => s
  let mine := fun (k : CandKind) => match k with
    | .task x => decide (x = h)
    | .walker x => decide (x = h)
    | .saved g _ => decide (r.team = some (s.groupD g).team)
    | .batch _ _ _ => false
  { s with dies := s.dies.map fun x => { x with cands := x.cands.map fun c => if mine c.kind then { c with pri := pri } else c } }

/-- A record whose PRI and ECLS still matter (11 R328). -/
def TaskRec.open_ (r : TaskRec) : Bool := decide (r.st = .ready) || decide (r.st = .running) || decide (r.st = .transit)

/-- Set PRI and ECLS of a task, at the die where its record stands (11 R328, 16 R394). -/
def State.setPri (s : State) (h : Word) (pri ecls : Nat) : State :=
  match s.task? h with
  | none => s
  | some r =>
    if !r.open_ then s
    else if s.refWaits r then s.send s.t.die (hHome h) (.rpt h pri ecls)
    else s.applyPri h r pri ecls

/-- `rpt` (11 R328). -/
def execRpt (_a _b : CReg) (s : State) : Out :=
  s.finish do
    let w := s.u.opB.toNat
    s.needOwn s.u.opA
    need (w / 64 = 0)
    .ok (s.setPri s.u.opA (field w 0 3) (field w 3 3))

/-- There is a declaration at an index of a context's node table (06 R182). See log entry 29, DEDUCED. -/
def State.nodeOk (s : State) (ctx i : Nat) : Bool :=
  let n := s.nodeDecl ctx i
  decide (i < 1024) && decide ((s.ctx ctx).snode ≠ 0) && decide (1 ≤ n.timer) && decide (1 ≤ n.coal) && decide (n.coal ≤ n.grant / 32) &&
  decide (1 ≤ n.rsize) && decide (n.rsize ≤ 32) && decide (n.rsize ≤ n.budget) && decide (n.scr ≤ 128) &&
  decide (field (s.devWord ctx ((s.ctx ctx).snode + w64 (16 * i + 8))).toNat 0 14 = 0)

/-- Bytes that the bins of a die hold (06 R183). -/
def Die.binBytes (d : Die) : Nat := (d.bins.map fun b => (b.recs.map fun r => (r.1.length + 31) / 32 * 32).sum).sum

/-- Read the words of a record one by one (04 R106). -/
def State.readRec (s : State) (a : Word) : Nat → M (List Byte × State)
  | 0 => .ok ([], s)
  | n + 1 => do
    let (x, s) ← s.load noElem a 4
    let (l, s) ← State.readRec s (a + 4) n
    .ok (natLe 4 x ++ l, s)

/-- A record enters a bin (06 R183): the timer of an empty one starts, and COAL records leave at once. -/
def State.intoBin (s : State) (d c n : Nat) (rec_ : List Byte × Nat × Word) : State :=
  let x := s.nodeDecl c n
  let b := s.binOf d c n
  let start := ((s.dieAt d).clk + w64 (64 * x.timer)).toNat
  let recs := b.recs ++ [rec_]
  if x.coal ≤ recs.length then
    (s.updBin d c n fun b => { b with recs := recs.drop x.coal, deadline := start }).addCand d (.batch c n (recs.take x.coal)) x.pri
  else s.updBin d c n fun y => { y with recs := recs, deadline := if b.recs = [] then start else b.deadline }

/-- `emit` (11 R329). -/
def execEmit (_a _b : CReg) (s : State) : Out :=
  s.finish do
    let i := s.u.opA.toNat
    let a := s.u.opB
    match (if i < 1024 then s.nodeHeld s.t.ctx i else none) with | some l => holdM (.recall l) | none => pure ⟨⟩
    need (i < 1024 ∧ s.nodeOk s.t.ctx i = true) causeDescriptor a
    if a.toNat % 4 ≠ 0 then .error (.trap { cause := causeMisaligned, addr := a })
    else do
      let n := s.nodeDecl s.t.ctx i
      let (bs, s') ← s.readRec a n.rsize
      if 2 ^ 22 < (s.dieAt s.t.die).binBytes + (bs.length + 31) / 32 * 32 then holdM .binFull
      else do
        let (w, s') ← s'.split
        .ok (s'.intoBin s.t.die s.t.ctx i (bs, w, s.t.root))

/-- Grants and budgets as fields code them (06 R182). -/
def grantOf (x : Nat) : Nat := 2048 * 2 ^ x
def budgetOf (x : Nat) : Nat := 16 * (x + 1)

/-- A loop-nest record from its sixteen words (06 R184); none where a check fails. -/
def loopNest (ws : List Word) : Option LoopNest :=
  let w := fun i => (ws.getD i 0).toNat
  let ext := (List.range 4).map fun k => field (w (2 + k)) 32 32
  let step := (List.range 4).map fun k => field (w (2 + k)) 0 32
  let ord := (List.range 4).map fun j => field (w 6) (56 + 2 * j) 2
  let n : LoopNest :=
    { entry := ws.getD 0 0, argp := ws.getD 1 0, ext := ext, step := step, ord := ord, chunk := field (w 6) 32 24,
      pg := field (w 7) 56 8, cg := field (w 7) 48 8, pb := budgetOf (field (w 7) 46 2), cb := budgetOf (field (w 7) 44 2),
      gmin := grantOf (field (w 7) 42 2), gmax := grantOf (field (w 7) 40 2), pri := field (w 7) 37 3, ecls := field (w 7) 34 3,
      tags := field (w 7) 25 7, chn := field (w 7) 21 4, bar := field (w 7) 16 5, scr := field (w 8) 44 20, acc := field (w 8) 34 10,
      compat := field (w 8) 33 1 = 1 }
  let ok := (List.range 4).all (fun k => decide (1 ≤ step.getD k 0) && decide (step.getD k 0 ≤ ext.getD k 0)) &&
    decide ord.Nodup && decide (1 ≤ n.chunk) && decide (field (w 6) 0 32 = 0) &&
    decide (1 ≤ n.pg) && decide (n.pg + n.cg ≤ 128) && decide (n.gmin ≤ n.gmax) && decide (field (w 7) 32 2 = 0) && decide (field (w 7) 0 16 = 0) &&
    decide (n.tags ≤ 64) && decide (n.chn ≤ 8) && decide (n.bar ≤ 16) && decide (n.scr ≤ 524288) && decide (n.scr % 4096 = 0) &&
    decide (n.acc ≤ 512) && decide (field (w 8) 0 33 = 0) && (ws.drop 9).all (fun x => x = 0) &&
    (({} : State).spread 0 n.pg n.cg n.pb n.cb n.gmin).isSome
  if ok then some n else none

/-- The record of a grid, which goes to every distributor of the partition (06 R185, 16 R381). See log entry 36, DEDUCED. -/
def State.newGrid (s : State) (d ctx : Nat) (n : LoopNest) (h : Word) (w : Nat) (parent root : Word) : State :=
  let ds := s.partDies (s.partOfDie d)
  let r : TaskRec := { handle := h, die := d, loc := d, ctx := ctx, entry := n.entry, args := [], weight := w, parent := parent, root := root, cons := 1,
                       pri := n.pri, ecls := n.ecls, grid := some n, shares := ds }
  ds.foldl (fun s x => s.send d x (.grid h)) { s with tasks := s.tasks ++ [r] }

/-- `launch` (11 R330). A record that lies outside global memory, of which the spec says nothing more than that the record is there (06
R184), raises descriptor-fault (log entry 68, DESIGN CHOICE). -/
def State.launch (s : State) (d : CReg) (x : Word) : M State := do
  let a := s.u.opA
  if a.toNat % 128 ≠ 0 then .error (.trap { cause := causeMisaligned, addr := a })
  else match s.readWords s.agent .load a 16 with
  | .error f => .error (failStop noElem a f)
  | .ok (ws, s') => s'.keeping do
    need (s.spaceOf s.t.ctx a = some 0) causeDescriptor a
    match loopNest ws with
    | none => trapM causeDescriptor a
    | some n =>
      let h := s.newHandle s.t.die
      match s'.setOwned (s.t.owned ++ [h]) with
      | none => trapM causeRefLimit x
      | some s' =>
        if s.storeFull s.t.die then holdM .storeFull
        else do
          let (w, s') ← s'.split
          .ok ((s'.newGrid s.t.die s.t.ctx n h w s.t.handle s.t.root).setC d h)

/-- `launch` (11 R330). -/
def execLaunch (d _a : CReg) (s : State) : Out :=
  let (n, s') := s.free
  s'.finish (s'.launch d (w64 n))

/-- A candidate of at least the group's priority waits for its sector (11 R331): it does not fit as things stand, and would if
the group left. -/
def State.waitsFor (s : State) (c : Cand) : Bool :=
  let q := { s with g := { s.g with run := .saved 1 } }
  !c.skipped && decide (s.t.pri ≤ c.effPri) && !(s.fitOf s.t.die c.kind).2.2 && (q.fitOf s.t.die c.kind).2.2

/-- `yield` (11 R331): the save acts as `fence.full.dev` (04 R116). -/
def execYield (s : State) : Out :=
  if !(s.dieAt s.t.die).cands.any s.waitsFor then .next s
  else if s.fenceWaits then s.finish (holdM .fence)
  else .next ({ s with port := false }.preempt 1 none)

/-- The registers that a mask of names makes live, by physical number (11 R332). -/
def State.liveRegs (s : State) (m : Word) (p : Nat) : Bool := (List.range s.g.budget).any fun i => m.getLsbD i && decide (s.reg i = p)

/-- At a length-free point each register keeps its first facet, if it is live, and is 0 elsewhere (11 R332). -/
def State.keepFacets (s : State) (live : Nat → Bool) : State :=
  let clear := fun (s : State) (p : Nat) =>
    let k := if live p then 8 else 0
    let s := (s.cleanReg p ((List.range (512 - k)).map fun i => k + i)).noteWrite p (BitVec.allOnes 16384 <<< (32 * k))
    { s with g := { s.g with v := Bank.set 0 s.g.v p (if live p then BitVec.ofNat 16384 (s.vphys p % 2 ^ 256) else 0) } }
  (List.range s.g.budget).foldl clear s

/-- `lfree` (11 R332). -/
def execLfree (_a : CReg) (s : State) : Out :=
  s.finish do
    let m := s.u.opA
    need (m.toNat / 2 ^ s.g.budget = 0 ∧ s.g.streams = [])
    if s.g.req && s.fenceWaits then holdM .fence else do
    let live := s.liveRegs m
    let keep := BitVec.ofNat 2048 (2 ^ 256 - 1)
    let s := ((s.keepFacets live).noteWrite shadeVm ((~~~keep).setWidth 16384)).noteWrite shadeVo ((~~~keep).setWidth 16384)
    let s := { s with g := { s.g with vm := s.g.vm ||| ~~~keep, vo := s.g.vo &&& keep, vl := 0, lfree := true, run := .running } }
    .ok (if s.g.req then { s with port := false }.preempt 3 (some live) else s)

end Sys2Proof.Machine
end

