-- ==== Sys2Proof/Machine/Steal.lean ====
section
/-! DEFINITION. Steals between the distributors of a partition, forwarding, and the reset of a die (16 R391 to R394). -/

namespace Sys2Proof.Machine

/-- The other dies at distance 1, −1, 2, −2, … from die `d` around the annulus of the package's eight (16 R391). -/
def stealOrder (d : Nat) : List Nat :=
  ((List.range 4).flatMap fun j => [(d + (j + 1)) % 8, (d + 8 - (j + 1)) % 8]).foldl (fun l x => if l.contains x then l else l ++ [x]) []

/-- The dies of its partition that a die asks, in order (16 R391). -/
def State.askOrder (s : State) (d : Nat) : List Nat := (stealOrder d).filter (s.partDies (s.partOfDie d)).contains

/-- The gate of a die closes once none of its steals is unsettled (16 R393). -/
def State.tryGate (s : State) (d : Nat) : State :=
  let x := s.dieAt d
  if x.gating && decide (x.shadows = []) && (match x.steal with | .acking _ _ _ => false | _ => true) then s.setDie d { x with gated := true } else s

/-- A distributor is dry (16 R391): a slot is free and it has no candidate. -/
def State.dry (s : State) (d : Nat) : Bool :=
  decide ((s.dieAt d).cands = []) && !(s.dieAt d).gating &&
  decide ((s.allGroups.filter fun g => g.resident && decide ((s.teamD g.team).die = d)).length < 4096)

def State.setSteal (s : State) (d : Nat) (x : StealSt) : State := s.setDie d { s.dieAt d with steal := x }

/-- The first message from a die to a die with a property, and the state without it. -/
def State.takeMsg (s : State) (src dst : Nat) (p : MsgBody → Bool) : Option (Msg × State) :=
  (s.msgs.find? fun m => decide (m.src = src) && decide (m.dst = dst) && p m.body).map fun m => (m, { s with msgs := s.msgs.erase m })

/-- An answer to a steal request. -/
def MsgBody.isAnswer : MsgBody → Bool
  | .offer _ _ => true
  | .none => true
  | _ => false

/-- The better of two candidates to give away: higher priority, then greater age. Of candidates equal in both, and of the finished records
that a full store may offer, the spec names none: the model takes the first in its list (log entry 46, DESIGN CHOICE). -/
def betterCand (a b : Cand) : Bool := decide (b.pri < a.pri) || (decide (a.pri = b.pri) && decide (b.age < a.age))
def bestCand (l : List Cand) : Option Cand :=
  l.foldl (fun b c => match b with | some y => if betterCand c y then some c else b | none => some c) none

/-- A finished record that a die with a full store offers to a neighbour (16 R391): the first in the model's list (log entry 46, DESIGN
CHOICE). -/
def State.spareRecord (s : State) (d thief : Nat) : Option StealItem :=
  if 61440 < s.storeCount d ∧ (thief = (d + 1) % 8 ∨ d = (thief + 1) % 8) then
    (s.tasks.find? fun r => decide (r.die = d) && decide (r.st = .finished) && !r.orphan).map fun r => .finished r.handle
  else none

/-- What a victim offers (16 R391): half of the tiles of a grid, a ready record, a saved group, or a finished record. Of grids of one priority
the oldest is the one whose present tile candidate is (log entry 46, DEDUCED). -/
def State.offerOf (s : State) (d thief : Nat) : Option StealItem :=
  let x := s.dieAt d
  let todo := fun (h : Word) => ((x.walks.find? fun w => w.grid = h).map fun w => w.todo).getD []
  let tiles := bestCand (x.cands.filter fun c => match c.kind with | .walker h => decide (2 ≤ (todo h).length) | _ => false)
  let recs := bestCand (x.cands.filter fun c => c.resv.isNone && (match c.kind with
    | .task h => (match s.task? h with | some r => !r.pin && decide (r.st = .ready) | none => false)
    | _ => false))
  let grps := bestCand (x.cands.filter fun c => c.resv.isNone && (match c.kind with
    | .saved g _ => (match s.group? g with
      | some g => g.savedSt.isSome && s.movable g && !(s.teamD g.team).stopping &&
        (match (s.teamD g.team).kind with | .task h => !((s.task? h).any fun r => r.pin) | _ => true)
      | none => false)
    | _ => false))
  match tiles, recs, grps with
  | some ⟨.walker h, _, _, _, _, _, _, _⟩, _, _ => let l := todo h; some (.tiles h (l.drop (l.length - l.length / 2)))
  | _, some ⟨.task h, _, _, _, _, _, _, _⟩, _ => some (.record h)
  | _, _, some ⟨.saved g w, _, _, _, _, _, _, _⟩ => some (.group g w)
  | _, _, _ => s.spareRecord d thief

/-- An item goes into transit (16 R392). -/
def State.putOut (s : State) (d : Nat) : StealItem → State
  | .tiles h l => s.updWalk d h fun w => { w with todo := w.todo.filter fun t => !l.contains t }
  | .record h => (s.updTask h fun r => { r with st := .transit }).dropCand d fun k => decide (k = .task h)
  | .group g _ => s.dropCand d fun k => match k with | .saved x _ => decide (x = g) | _ => false
  | .finished h => s.updTask h fun r => { r with st := .transit }

/-- An item is a candidate of a die: reinstated there, or settled there (16 R392). Tiles of a grid that is being reclaimed, or
is gone, are launched no more (06 R185). -/
def State.putIn (s : State) (d : Nat) : StealItem → State
  | .tiles h l =>
    (match s.task? h with
      | none => s
      | some r =>
        let l := if r.st = .ready ∨ r.st = .running then l else []
        let x := s.dieAt d
        let s :=
          if x.walks.any fun w => w.grid = h then s.updWalk d h fun w => { w with todo := l.foldl (fun m t => insNat t m) w.todo }
          else (s.setDie d { x with walks := x.walks ++ [{ grid := h, todo := l }] }).updTask h fun r => { r with shares := r.shares ++ [d] }
        if l = [] || x.cands.any fun c => c.kind = .walker h then s else s.addCand d (.walker h) r.pri)
  | .record h =>
    (match s.task? h with
      | some r => if r.st = .transit then (s.updTask h fun r => { r with st := .ready, die := d }).addCand d (.task h) r.pri else s
      | none => s)
  | .finished h => s.updTask h fun r => if r.st = .transit then { r with st := .finished, die := d } else r
  | .group g w =>
    (match s.group? g with
      | some g =>
        -- one that has been reclaimed meanwhile is no candidate
        if g.savedSt.isNone then s else
        (s.updTeam g.team fun t => if t.die = d then t else { t with die := d, core := 1000 }).addCand d (.saved g.id w) (s.teamD g.team).pri
      | none => s)

/-- A victim receives the request of thief `n` and answers (16 R391, R392): a thief that is dry no longer asks nothing. -/
def execStealRequest (s : State) : Out :=
  let v := s.ev.die
  let t := s.ev.n
  let k := match (s.dieAt t).steal with
    | .idle => if s.dry t then some 0 else none
    | .asking k => some k
    | .acking _ _ _ => none
  .next (match k with
    | none => s
    | some k =>
      if s.msgs.any fun m => decide (m.dst = t) && m.body.isAnswer then s
      else if !s.dry t then s.setSteal t .idle
      else if (s.askOrder t)[k]? ≠ some v then s
      else
        let s := s.setSteal t (.asking k)
        let x := s.dieAt v
        (match (if x.gating then none else s.offerOf v t) with
          | none => s.send v t .none
          | some it =>
            let s := s.putOut v it
            let s := s.setDie v { s.dieAt v with shadows := (s.dieAt v).shadows ++ [⟨it, t, (x.clk + 4096).toNat⟩] }
            s.send v t (.offer it x.stg)))

/-- A thief receives the offer of die `n`, and acknowledges it (16 R392). -/
def execStealOffer (s : State) : Out :=
  let t := s.ev.die
  let v := s.ev.n
  .next (match s.takeMsg v t MsgBody.isAnswer, (s.dieAt t).steal with
    | some (⟨_, _, .offer it stg⟩, q), .asking _ => (q.setSteal t (.acking v it stg)).send t v (.ack stg it)
    | _, _ => s)

/-- A victim receives the ACK of thief `n` (16 R392). -/
def execStealAck (s : State) : Out :=
  let v := s.ev.die
  let t := s.ev.n
  .next (match s.takeMsg t v fun b => match b with | .ack _ _ => true | _ => false with
    | some (⟨_, _, .ack stg it⟩, q) =>
      let x := q.dieAt v
      (match x.shadows.find? fun y => decide (y.thief = t) && decide (y.item = it) with
        | some y =>
          if stg ≠ x.stg then q.send v t .stale
          else if x.past y.deadline then s
          else
            let moved := match y.item with | .record h => some h | .finished h => some h | _ => none
            let fwd := match moved with | some h => [(h, t)] | none => []
            let q := q.setDie v { x with shadows := x.shadows.erase y, fwd := fwd ++ x.fwd.filter fun z => some z.1 ≠ moved }
            let q := match moved with | some h => q.send v (hHome h) (.loc h t) | none => q
            (q.send v t .accepted).tryGate v
        | none => q.send v t .stale)
    | _ => s)

/-- The thief receives ACCEPTED: the item settles (16 R392). -/
def execStealReceiptAccepted (s : State) : Out :=
  let t := s.ev.die
  .next (match (s.dieAt t).steal with
    | .acking v it _ => (match s.takeMsg v t fun b => decide (b = .accepted) with
      | some (_, q) => ((q.setSteal t .idle).putIn t it).tryGate t
      | none => s)
    | _ => s)

/-- The thief receives STALE: its copy is discarded, and it asks again (16 R392), while it is dry. -/
def execStealReceiptStale (s : State) : Out :=
  let t := s.ev.die
  .next (match (s.dieAt t).steal with
    | .acking v _ _ => (match s.takeMsg v t fun b => decide (b = .stale) with
      | some (_, q) => (q.setSteal t (if q.dry t then .asking ((s.askOrder t).idxOf v) else .idle)).tryGate t
      | none => s)
    | _ => s)

/-- The thief receives NONE from die `n` and asks the next die while it is dry (16 R391, R392). -/
def execStealNone (s : State) : Out :=
  let t := s.ev.die
  .next (match s.takeMsg s.ev.n t (fun b => decide (b = .none)), (s.dieAt t).steal with
    | some (_, q), .asking k => q.setSteal t (if s.dry t && decide (k + 1 < (s.askOrder t).length) then .asking (k + 1) else .idle)
    | _, _ => s)

/-- The timer of a victim's shadow for thief `n` expires: the item is reinstated (16 R392). -/
def execStealTimerExpiry (s : State) : Out :=
  let v := s.ev.die
  let x := s.dieAt v
  .next (match x.shadows.find? fun y => decide (y.thief = s.ev.n) && x.past y.deadline with
    | some y => (s.setDie v { x with shadows := x.shadows.erase y, stg := x.stg + 1 }).putIn v y.item |>.tryGate v
    | none => s)

/-- A locator message updates the home slot, which confirms it (16 R394). -/
def execLoc (s : State) : Out :=
  .next (match s.msgs.find? fun m => decide (m.dst = s.ev.die) && (match m.body with | .loc h _ => decide (h = s.ev.h) | _ => false) with
    | some m =>
      (match m.body with
        | .loc h d => (({ s with msgs := s.msgs.erase m }).updTask h fun r => { r with loc := d }).send m.dst m.src (.confirm h)
        | _ => s)
    | none => s)

/-- The home's confirmation lets the victim drop its forwarding entry (16 R394). -/
def execHomeConfirm (s : State) : Out :=
  let d := s.ev.die
  .next (match s.msgs.find? fun m => decide (m.dst = d) && decide (m.body = .confirm s.ev.h) with
    | some m =>
      let s := { s with msgs := s.msgs.erase m }
      s.setDie d { s.dieAt d with fwd := (s.dieAt d).fwd.filter fun x => x.1 ≠ s.ev.h }
    | none => s)

/-- Where an action on record `r` that has come to die `d` goes next (16 R394): along the die's entry, or the locator of the home. -/
def State.forwards (s : State) (r : TaskRec) (d : Nat) : Nat :=
  match (s.dieAt d).fwd.find? fun x => x.1 = r.handle with
  | some (_, t) => t
  | none => if d = hHome r.handle then r.loc else hHome r.handle

/-- An action on a record, sent to its home, is forwarded to where the record stands, and applied there in arrival order once it has
settled (16 R394, 06 R179). -/
def execForwardedReferenceAction (s : State) : Out :=
  let mine := fun (m : Msg) => match m.body with
    | .refAct h _ => decide (h = s.ev.h)
    | .rpt h _ _ => decide (h = s.ev.h)
    | _ => false
  .next (match s.msgs.find? mine with
    | none => s
    | some m =>
      let q := { s with msgs := s.msgs.erase m }
      (match s.task? s.ev.h with
        | none => q
        | some r =>
          if m.dst ≠ s.ev.die then s
          else if r.die ≠ m.dst then
            -- ahead of those that came after it
            { s with msgs := { m with dst := s.forwards r m.dst } :: s.msgs.erase m }
          else if r.st = .transit then s
          else match m.body with
            | .refAct h n =>
              if n < 0 then let (more, q) := q.applyDrop h; q.dropRefs more
              else q.updTask h fun r => if r.orphan || r.st = .lost then r else { r with cons := r.cons + 1 }
            | .rpt h p e => if r.open_ then q.applyPri h r p e else q
            | _ => s))

/-- A thief that has no receipt any more to come from a die discards its copy, which may let its gate close, and one that waits for an
answer of it has none to come (16 R393). -/
def State.unlink (s : State) (t v : Nat) : State :=
  match (s.dieAt t).steal with
  | .acking w _ _ =>
    if w = v ∧ !(s.msgs.any fun m => decide (m.src = v) && decide (m.dst = t) && (decide (m.body = .accepted) || decide (m.body = .stale))) then
      (s.setSteal t .idle).tryGate t else s
  | .asking k => if (s.askOrder t)[k]? = some v then s.setSteal t .idle else s
  | .idle => s

/-- The link between two dies fails: offers, acknowledgements and answers on it are lost (16 R393); a receipt returns with its
ACK. -/
def execLinkFailure (s : State) : Out :=
  let a := s.ev.die
  let b := s.ev.n
  let gone := fun (m : Msg) =>
    ((decide (m.src = a) && decide (m.dst = b)) || (decide (m.src = b) && decide (m.dst = a))) &&
    (m.body.isAnswer || (match m.body with | .ack _ _ => true | _ => false))
  .next ((({ s with msgs := s.msgs.filter fun m => !gone m }).unlink a b).unlink b a)

/-- Runs of consecutive ordinals: first and last. -/
def runsOf : List Nat → List (Nat × Nat)
  | [] => []
  | x :: r => match runsOf r with
    | (a, b) :: q => if a = x + 1 then (x, b) :: q else (x, x) :: (a, b) :: q
    | [] => [(x, x)]

/-- Events for tiles of a grid that are lost (18 R421, event 4). -/
def lostTiles (h : Word) (l : List Nat) : List (List Word) := (runsOf l).map fun x => [h, w64 x.1, w64 x.2]
def lostItem (s : State) : StealItem → List (List Word)
  | .tiles h l => lostTiles h l
  | .record h => [[h]]
  | .finished h => [[h]]
  | .group g _ => [[(s.groupD g).area]]

/-- What die `d` has given away under an acceptance that its thief has not received yet: the receipt returns with its ACK, and the
item settles there (16 R392, R393). -/
def State.givenBy (s : State) (d : Nat) : List StealItem :=
  (s.dies.mapIdx fun t x => (t, x.steal)).filterMap fun y => match y.2 with
    | .acking v it _ => if v = d ∧ s.givenTo d y.1 = true then some it else none
    | _ => none
def StealItem.isRecord (h : Word) : StealItem → Bool
  | .record x => decide (x = h)
  | .finished x => decide (x = h)
  | _ => false

/-- The item that die `d` has been given under an acceptance that it has not received yet (16 R392). -/
def State.givenIn (s : State) (d : Nat) : Option StealItem :=
  match (s.dieAt d).steal with | .acking v it _ => if s.givenTo v d then some it else none | _ => none

/-- Tiles of a grid stand on a die, or are in its shadow or given to it. -/
def Die.holdsTiles (x : Die) (h : Word) : Bool :=
  let is := fun (i : StealItem) => match i with | .tiles q _ => decide (q = h) | _ => false
  (x.walks.any fun w => w.grid = h) || (x.shadows.any fun y => is y.item) || (match x.steal with | .acking _ i _ => is i | _ => false)

/-- What is left of a grid whose record die `d` loses (16 R393): the shares that stand on other dies. -/
def State.remnantOf (s : State) (d : Nat) (r : TaskRec) : Option TaskRec :=
  if r.grid.isSome && (List.range 8).any fun k => decide (k ≠ d) && (s.dieAt k).holdsTiles r.handle then
    some { r with orphan := true, weight := 0, shares := r.shares.filter fun k => decide (k ≠ d) && (s.dieAt k).walks.any fun w => w.grid = r.handle }
  else none

/-- A task whose record stands on another die than `d`, which loses its group: a stolen one that has resumed there (16 R393). -/
def State.losesGroupOf (s : State) (d : Nat) (r : TaskRec) : Bool :=
  match r.team with
  | some tm => let t := s.teamD tm
    decide (r.st = .running ∨ r.st = .reclaiming) && decide (r.die ≠ d) && decide (t.id = tm) && decide (t.die = d) &&
    !(t.gids.any fun g => (s.givenBy d).any (StealItem.isGroup g)) && (t.gids.any fun g => (s.groupD g).savedSt.isNone)
  | none => false

/-- What the reset of a die loses (16 R393): what its walkers and its store hold, its tile teams, its saved groups, stolen groups that have
resumed there, what it holds in shadow, and an item that it has been given. -/
def State.losses (s : State) (d : Nat) : List (List Word) :=
  let x := s.dieAt d
  let given := ((s.givenIn d).map (lostItem s)).getD []
  let there := s.tasks.filter fun r => decide (r.st ≠ .lost) && !r.remnant
  let away := s.givenBy d
  let orphans := (there.filter fun r =>
    decide (hHome r.handle = d) && !r.orphan && (decide (r.die ≠ d) || away.any (StealItem.isRecord r.handle))).map fun r => [r.handle]
  let recs := (there.filter fun r => decide (r.die = d) && r.grid.isNone && !away.any (StealItem.isRecord r.handle)).map fun r => [r.handle]
  let grids := (there.filter fun r => decide (r.die = d) && r.grid.isSome).map fun r => [r.handle]
  let tiles := (s.allTeams.filter fun t => t.die = d).filterMap fun t => match t.kind with | .tile h o => some [h, w64 o, w64 o] | _ => none
  let saved := (s.allGroups.filter fun g => g.savedSt.isSome && decide ((s.teamD g.team).die = d) && !away.any (StealItem.isGroup g.id)).map fun g => [g.area]
  let resumed := (s.tasks.filter (s.losesGroupOf d)).flatMap fun r => match r.team with | some tm => (s.teamD tm).gids.map fun g => [(s.groupD g).area] | none => []
  let saved := saved ++ resumed
  recs ++ grids ++ x.walks.flatMap (fun w => lostTiles w.grid w.todo) ++ tiles ++ saved ++
    (x.shadows.flatMap fun y => match y.item with | .tiles h l => lostTiles h l | _ => []) ++ given ++ orphans

/-- What a record on another die is left with where the reset of die `d` loses its group, or tiles of its grid that the die had been given:
it is lost, or its grid never finishes (16 R393). -/
def State.bereft (s : State) (d : Nat) (r : TaskRec) : TaskRec :=
  let r := if s.losesGroupOf d r then { r with st := .lost, team := none } else r
  match s.givenIn d with
  | some (.tiles h _) => if h = r.handle ∧ r.remnant = false ∧ r.shares.contains d = false then { r with shares := r.shares ++ [d] } else r
  | _ => r

/-- A message in flight as the reset of die `d` leaves it, with the records `l` that are left (16 R393, R394): a locator message, a receipt and an
action that the die has sent arrive; an action that waits on the die for a record which stands elsewhere goes back to the home, which still
forwards it (06 R179); the rest of what the die has said, and what it was told, is lost. -/
def Msg.afterReset (d : Nat) (l : List TaskRec) (m : Msg) : Option Msg :=
  let here := fun (h : Word) => decide (hHome h ≠ d) && l.any fun r => decide (r.handle = h) && decide (r.st ≠ .lost)
  match m.body with
  | .refAct h _ | .rpt h _ _ => if m.dst ≠ d then some m else if here h then some { m with dst := hHome h } else none
  | .loc _ _ | .accepted | .stale => if m.dst ≠ d then some m else none
  | _ => if m.dst ≠ d ∧ m.src ≠ d then some m else none

/-- A die resets (16 R393): its store and its groups are lost and reported, its handles stop being current, and what it says to
other dies is lost. See log entry 43, DEDUCED. -/
def execDieReset (s : State) : Out :=
  let d := s.ev.die
  let lost := s.losses d
  let gens := (s.tasks.filter fun r => decide (hHome r.handle = d) && !r.remnant).foldl (fun l r =>
    let g := assocGet 1 l (hSlot r.handle)
    assocSet l (hSlot r.handle) (if g = 2 ^ 24 - 1 then 1 else g + 1)) (s.dieAt d).gens
  let away := s.givenBy d
  let kept := fun (r : TaskRec) => away.any (StealItem.isRecord r.handle)
  let given := (s.givenIn d).toList
  let here := fun (tm : Nat) => let has := fun (l : List StealItem) => (s.teamD tm).gids.any fun g => l.any (StealItem.isGroup g)
    has given || (decide ((s.teamD tm).die = d) && !has away)
  let gone := s.allGroups.filter fun g => here g.team
  let tasks := s.tasks.filterMap fun r =>
    if r.remnant ∨ (hHome r.handle = d ∧ r.die = d ∧ kept r = false) then s.remnantOf d r
    else some <| s.bereft d <| if hHome r.handle = d then { r with orphan := true }
    else if (r.die = d ∧ kept r = false) ∨ given.any (StealItem.isRecord r.handle) = true then { r with st := .lost, team := none } else r
  let q := { s with
    groups := s.groups.filter fun g => !here g.team
    teams := s.teams.filter fun t => !here t.id
    g := if here s.g.team then {} else s.g
    t := if here s.t.id then {} else s.t
    tasks := tasks
    graphs := s.graphs.filter fun x => x.die ≠ d
    ops := s.ops.filter fun o => o.die ≠ d
    pend := s.pend.filter fun p => !here p.tm
    pwaits := s.pwaits.filter fun w => !(gone.any fun g => g.id = w.g)
    mats := s.mats.filter fun m => m.1 / 32 ≠ d
    tlb := s.tlb.filter fun e => e.die ≠ d
    msgs := s.msgs.filterMap (Msg.afterReset d tasks)
    due := s.due.filter fun x => x ≠ d }
  let q := q.setDie d { gens := gens }
  let q := (s.partDies (s.partOfDie d)).foldl (fun q t => if t = d then q else q.unlink t d) q
  .next { q with toHost := q.toHost ++ lost.map fun w => ToHost.event 4 (s.partOfDie d) w }

/-- A die is asked to power-gate (16 R393): from now on it asks for nothing and answers NONE, and its gate waits until its steals
have settled. See log entry 45, DEDUCED. -/
def execPowerGatingRequest (s : State) : Out :=
  .next ((s.setDie s.ev.die { s.dieAt s.ev.die with gating := true }).tryGate s.ev.die)

end Sys2Proof.Machine
end

