-- ==== Sys2Proof/Machine/Auto.lean ====
section
/-! DEFINITION. The order in which the device moves: the agenda, and, where that is empty, a default that visits every group
and every step without a word that the state may call for (log entry 4, DESIGN CHOICE). -/

namespace Sys2Proof.Machine

/-- Steps that a group may call for. -/
def State.groupSteps (s : State) (g : Group) : List Choice :=
  let t := s.teamD g.team
  (match g.run with
    | .resuming _ => [.event .resume { g := g.id, die := t.die, core := t.core, sector := g.sector, grant := g.grant }]
    | .returned _ => [.event .groupEnd { g := g.id }]
    | .reclaimed => [.event .groupEnd { g := g.id }]
    | _ => []) ++
  (if t.stopping then [.event .reclamation { g := g.id }] else []) ++
  (match g.cwait with
    | some (.vwait _ _ _ _) => [.event .vwaitWake { g := g.id }, .event .vwaitTimeout { g := g.id }]
    | _ => []) ++
  g.streams.flatMap fun x => x.facets.flatMap fun f =>
    [.event .streamFacetLanded { g := g.id, e := x.reg, i := f }, .event .enginePageFault { g := g.id, e := x.reg, i := f }]

/-- The recalls of a line that an operation waits for (04 R126, R127): of each other operation that owns it. -/
def State.recallSteps (s : State) (op line : Nat) : List Choice :=
  (s.ops.filter fun o => decide (o.id ≠ op) && o.lines.contains line).map fun o => .event .directoryRecall { op := o.id, line := line }

/-- The step with which a copy, gather or scatter goes on: it completes, or stops on a missing page, or has a line recalled. -/
def State.copyStep (s : State) (o : EngOp) (done : Instr) : List Choice :=
  match s.performRest o o.todo with
  | .page i => [.event .enginePageFault { op := o.id, i := i }]
  | .held l => .event done { op := o.id } :: s.recallSteps o.id l
  | _ => [.event done { op := o.id }]

/-- The step with which a channel goes on: a slot, an error, or a stop on a missing page. -/
def State.slotStep (s : State) (o : EngOp) (slot : Instr) : List Choice :=
  match s.nextSlot o with
  | .err _ _ st => [.event .channelTransferError { tm := o.tm, k := o.tag, st := BitVec.ofNat 4 st }]
  | .page _ _ i _ => [.event .enginePageFault { op := o.id, i := i }]
  | .held l => .event slot { tm := o.tm, k := o.tag } :: s.recallSteps o.id l
  | _ => [.event slot { tm := o.tm, k := o.tag }]

/-- The step that an engine operation may call for. -/
def State.opSteps (s : State) (o : EngOp) : List Choice :=
  if o.stop.isSome then [] else
  match o.kind with
  | .copy _ _ => s.copyStep o .copyComplete
  | .gather _ => s.copyStep o .engineCommandComplete
  | .scatter _ => s.copyStep o .engineCommandComplete
  | .fill _ _ => s.slotStep o .channelFillSlot
  | .drain _ _ => s.slotStep o .channelDrainSlot

/-- The step that delivers a message. -/
def Msg.step (m : Msg) : Choice :=
  match m.body with
  | .grid h => .event .gridRecordArrival { die := m.dst, h := h }
  | .offer _ _ => .event .stealOffer { die := m.dst, n := m.src }
  | .ack _ _ => .event .stealAck { die := m.dst, n := m.src }
  | .accepted => .event .stealReceiptAccepted { die := m.dst }
  | .stale => .event .stealReceiptStale { die := m.dst }
  | .none => .event .stealNone { die := m.dst, n := m.src }
  | .loc h _ => .event .loc { die := m.dst, h := h }
  | .confirm h => .event .homeConfirm { die := m.dst, h := h }
  | .refAct h _ => .event .forwardedReferenceAction { die := m.dst, h := h }
  | .rpt h _ _ => .event .forwardedReferenceAction { die := m.dst, h := h }
  | .weight h w => .event .weightReturn { h := h, n := w }

/-- The steps that a die's distributor may call for. -/
def Die.steps (x : Die) (d : Nat) : List Choice :=
  (x.walks.map fun w => .event .gridShareReport { die := d, h := w.grid }) ++
  (if x.spawns = [] then [] else [.event .handlerSpawn { die := d }]) ++
  (match x.evict with | some g => [.event .preEmption { g := g }] | none => []) ++
  (x.bins.map fun b => .event .binTimerExpiry { die := d, ctx := b.ctx, node := b.node }) ++
  x.shadows.map fun y => .event .stealTimerExpiry { die := d, n := y.thief }

/-- Every step without a word that the state may call for: each one that cannot happen yet leaves the state as it is. -/
def State.autoSteps (s : State) : List Choice :=
  s.allGroups.flatMap s.groupSteps ++ s.ops.flatMap s.opSteps ++
  (s.pwaits.map fun w => .event .pivotGrant { pa := w.pa }) ++
  (s.held.mapIdx fun i _ => .retry i) ++
  (s.pend.mapIdx fun i p => .event (if p.claim then .pendingDiscard else .pendingVoid) { n := i }) ++
  (s.mats.flatMap fun m => [.event .ldwComplete { core := m.1 }, .event .mopStart { core := m.1 }, .event .mopComplete { core := m.1 }]) ++
  s.msgs.map Msg.step ++ (s.dies.mapIdx fun d x => x.steps d).flatten ++
  (s.tasks.filter fun r => r.st = .reclaiming).map fun r => .event .reclaimSettle { h := r.handle }

end Sys2Proof.Machine
end

