-- ==== Sys2Proof/Machine/Control.lean ====
section
/-! DEFINITION. Control registers (02 R61 to R66, 08 R227, 15 R359 to R361), software-pipelined loops (09 R266, R267), the
prefix words (07 R193 to R197) and the user traps (11 R334). -/

namespace Sys2Proof.Machine

def causePriv : Byte := 0x02
def causeUser : Byte := 0x16
def causeBreak : Byte := 0x17
def causeStub : Byte := 0x18

/-- The context that the privileged registers address (15 R360), if it lies in the group's partition (17 R410). See log entry 54, DEDUCED. -/
def State.selCtx (s : State) : Option Context :=
  let c := s.ctx s.g.sctx.toNat
  if c.part = (s.ctx s.t.ctx).part then some c else none

/-- `wsref` of a die (02 R62, R63): PHASE, BANK and BUSY. -/
def wsref (d : Die) : Word :=
  w64 (d.phase.toNat + d.phase.toNat / 1024 * 2 ^ 16 + b2n (d.phase.toNat % 1024 < 256) * 2 ^ 22)

/-- Word `k` of the record that `stask` of the selected context names: all ones where the handle is not current (15 R360). -/
def State.stw (s : State) (k : Nat) : Word :=
  let h := (s.selCtx.getD {}).stask
  match s.task? h with
  | some r => if s.current h then s.recWord r k else BitVec.allOnes 64
  | none => BitVec.allOnes 64

/-- The value of a control register (02 R61, R62; 15 R360). Numbers below 0x400 that are not listed, and privileged
numbers that are not, raise illegal-instruction; a privileged number at user level raises privileged-instruction. That 02 R61 holds at
supervisor level too, and that `vcp` with an empty VIQ is this unit's own address, is log entry 69, DEDUCED. -/
def State.readCr (s : State) (n : Nat) : M Word :=
  if 0x400 ≤ n ∧ !s.isSup then trapM causePriv
  else match n with
  | 0x000 => .ok (w64 s.g.vl.toNat)
  | 0x001 => .ok (w64 s.g.grant)
  | 0x003 => .ok s.g.vst
  | 0x004 => .ok s.g.vcs
  | 0x005 => .ok (match s.g.viq with | e :: _ => e.addr | [] => s.u.addr)
  | 0x006 => .ok s.t.tags
  | 0x007 => .ok (w64 s.g.awb.toNat)
  | 0x008 => .ok (w64 s.g.awl.toNat)
  | 0x00D => .ok (w64 s.g.spr.toNat)
  | 0x00E => .ok (w64 s.g.splc.toNat)
  | 0x010 => .ok (w64 s.g.rot.toNat)
  | 0x011 => .ok s.g.migr
  | 0x012 => .ok (gidOf s.t s.g)
  | 0x018 => .ok (s.dieAt s.t.die).clk
  | 0x019 => .ok (wsref (s.dieAt s.t.die))
  | 0x01A => .ok (w64 s.t.scrsz)
  | 0x01B => .ok (w64 s.t.accrows)
  | 0x400 => .ok (w64 ((s.ctx s.t.ctx).part * 2 ^ 12 + s.t.ctx))
  | 0x401 => .ok (w64 s.g.sctx.toNat)
  | 0x402 => .ok (s.prt (s.ctx s.t.ctx).part).shat
  | 0x403 => .ok (w64 (s.prt (s.ctx s.t.ctx).part).shatn)
  | 0x420 => .ok (s.selCtx.getD {}).stask
  | n =>
    if 0x009 ≤ n ∧ n ≤ 0x00C then .ok (Bank.get 0 s.g.smap (n - 9))
    else if 0x020 ≤ n ∧ n ≤ 0x027 then (if n - 0x20 < s.t.nchan then .ok (s.t.chdone (n - 0x20)) else ill)
    else if 0x430 ≤ n ∧ n ≤ 0x43F then .ok (s.stw (n - 0x430))
    else if 0x410 ≤ n ∧ n ≤ 0x417 then
      let c := s.selCtx.getD {}
      .ok (match n with
        | 0x410 => c.shent | 0x411 => c.shcw | 0x412 => c.spool | 0x413 => w64 c.spooln | 0x414 => c.srefp
        | 0x415 => w64 c.srefn | 0x416 => c.snode | _ => c.sroot)
    else ill

/-- Read `vcs` into a register: waits until the VIQ is empty (01 R23, 02 R65). -/
def State.crdVcs (s : State) (d : CReg) : M State := if s.g.viq ≠ [] then holdM .viq else .ok (s.setC d s.g.vcs)

/-- Write `vcs`: waits until the VIQ is empty; VONZ is not written (08 R227). -/
def State.cwrVcs (s : State) (a : CReg) : M State :=
  if s.g.viq ≠ [] then holdM .viq
  else
    let x := (s.c a).toNat
    .ok { s with g := { s.g with rm := BitVec.ofNat 2 x, sticky := .ofBits x } }

/-- Write `vl`: the whole 64-bit value is checked (02 R62). -/
def State.cwrVl (s : State) (a : CReg) : M State :=
  if s.vlPending then holdM .vl
  else if (s.c a).toNat > s.vlmax 8 then ill
  else .ok { s with g := { s.g with vl := BitVec.ofNat 12 (s.c a).toNat } }

/-- Write `tags`: ones clear bits (02 R62, 05 R143). Bits at or above the team's count stay 0. -/
def State.cwrTags (s : State) (a : CReg) : M State := .ok { s with t := { s.t with tags := s.t.tags &&& ~~~s.c a } }

/-- Whether a group of the selected context is resident or saved, or one of its task records exists (15 R361). -/
def State.ctxBusy (s : State) (c : Nat) : Bool :=
  s.allGroups.any (fun x => x.alive && (s.teamD x.team).ctx = c) || s.tasks.any (fun r => r.ctx = c)

/-- Write a register of the save-area or reference pool (15 R361). -/
def State.cwrPool (s : State) (a : CReg) (n : Nat) : M State := do
  let x := s.c a
  let k := s.g.sctx.toNat
  let align := if n = 0x412 then 65536 else if n = 0x414 then 64 else 1
  need (x.toNat % align = 0)
  match s.selCtx with
  | none => .ok s
  | some c =>
    need (s.ctxBusy k = false)
    need (¬ (c.priv ∧ (n = 0x412 ∨ n = 0x413) ∧ s.areas.any (fun q => q.poolCtx = k)))
    .ok (s.setCtx k (match n with
      | 0x412 => { c with spool := x }
      | 0x413 => { c with spooln := x.toNat % 2 ^ 16 }
      | 0x414 => { c with srefp := x }
      | _ => { c with srefn := x.toNat % 2 ^ 24 }))

/-- Write a control register (02 R61, R62; 15 R360, R361): one that is RO or not listed is illegal at both levels (log entry 69, DEDUCED). -/
def State.writeCr (s : State) (n : Nat) (a : CReg) : M State :=
  let x := s.c a
  if 0x400 ≤ n ∧ !s.isSup then trapM causePriv
  else match n with
  | 0x000 => s.cwrVl a
  | 0x003 => .ok { s with g := { s.g with vst := x } }
  | 0x004 => s.cwrVcs a
  | 0x006 => s.cwrTags a
  | 0x00D => .ok { s with g := { s.g with spr := BitVec.ofNat 4 x.toNat } }
  | 0x00E => .ok { s with g := { s.g with splc := BitVec.ofNat 32 x.toNat } }
  | 0x010 => .ok { s with g := { s.g with rot := BitVec.ofNat 5 x.toNat } }
  | 0x401 => .ok { s with g := { s.g with sctx := BitVec.ofNat 12 x.toNat } }
  | 0x402 => do
    need (x.toNat % 64 = 0)
    let p := (s.ctx s.t.ctx).part
    .ok (s.setPrt p { s.prt p with shat := x })
  | 0x403 => let p := (s.ctx s.t.ctx).part; .ok (s.setPrt p { s.prt p with shatn := x.toNat % 2 ^ 16 })
  | 0x420 => .ok (match s.selCtx with | none => s | some c => s.setCtx s.g.sctx.toNat { c with stask := x })
  | n =>
    if 0x009 ≤ n ∧ n ≤ 0x00C then .ok { s with g := { s.g with smap := Bank.set 0 s.g.smap (n - 9) x } }
    else if 0x412 ≤ n ∧ n ≤ 0x415 then s.cwrPool a n
    else if n = 0x410 ∨ n = 0x411 ∨ n = 0x416 ∨ n = 0x417 then do
      need ((n = 0x410 → x.toNat % 4 = 0) ∧ (n = 0x416 → x.toNat % 16 = 0))
      match s.selCtx with
      | none => .ok s
      | some c => .ok (s.setCtx s.g.sctx.toNat (match n with
        | 0x410 => { c with shent := x } | 0x411 => { c with shcw := x } | 0x416 => { c with snode := x } | _ => { c with sroot := x }))
    else ill

/-- `crd` (08 R227). -/
def execCrd (d : CReg) (n : BitVec 12) (s : State) : Out :=
  s.finish (if n.toNat = 4 then s.crdVcs d else if n.toNat = 0 ∧ s.vlPending then holdM .vl else do
    let x ← s.readCr n.toNat
    .ok (s.setC d x))

/-- `cwr` (08 R227). -/
def execCwr (a : CReg) (n : BitVec 12) (s : State) : Out := s.finish (s.writeCr n.toNat a)

/-- The read of `vcs` within `crd` (02 R65). -/
def execCrdVcs (s : State) : Out := s.finish (s.crdVcs s.ev.reg)
/-- The write of `vcs` within `cwr` (02 R65). -/
def execCwrVcs (s : State) : Out := s.finish (s.cwrVcs s.ev.reg)
/-- The write of `vl` within `cwr` (02 R62). -/
def execCwrVl (s : State) : Out := s.finish (s.cwrVl s.ev.reg)
/-- The write of `tags` within `cwr` (05 R143). -/
def execCwrTags (s : State) : Out := s.finish (s.cwrTags s.ev.reg)
/-- The write of `spool`, `spooln`, `srefp` or `srefn` within `cwr` (15 R361): `n` numbers the register. -/
def execCwrSavePool (s : State) : Out := s.finish (if !s.isSup then trapM causePriv else s.cwrPool s.ev.reg s.ev.n)

/-- `spl` (09 R266). -/
def execSpl (a : CReg) (sf : BitVec 2) (l : BitVec 7) (s : State) : Out :=
  s.finish do
    let nst := sf.toNat + 1
    let len := l.toNat + 1
    let n := (s.c a).toNat
    need (s.g.loop = false ∧ n ≤ 2 ^ 32 - nst)
    if n = 0 then .ok (s.jump (s.next + w64 (4 * len)))
    else .ok { s with g := { s.g with
      splc := BitVec.ofNat 32 (n + nst - 1), spr := 1, loop := true, kfirst := s.next,
      klast := s.next + w64 (4 * len) - 4, nst := BitVec.ofNat 3 nst, pc := s.next } }

/-- `splb` (09 R267). -/
def execSplb (off : BitVec 13) (s : State) : Out :=
  s.finish do
    need (s.g.loop = true ∧ s.u.ipc = s.g.klast ∧ s.target off = s.g.kfirst)
    let q := s.g.budget - 32
    let rot := if q > 0 then BitVec.ofNat 5 ((s.g.rot.toNat + q - 1) % q) else s.g.rot
    if s.g.splc.toNat ≤ 1 then
      .ok { s with g := { s.g with rot := rot, splc := 0, spr := 0, loop := false, pc := s.next } }
    else
      let c := s.g.splc - 1
      let s0 : BitVec 4 := if c.toNat ≥ s.g.nst.toNat then 1 else 0
      .ok { s with g := { s.g with
        rot := rot, splc := c, pc := s.g.kfirst,
        spr := ((s.g.spr <<< 1) ||| s0) &&& BitVec.ofNat 4 (2 ^ s.g.nst.toNat - 1) } }

def causeOverrun : Byte := 0x03

/-- A prefix word is read (07 R196): a second of its kind is illegal at that word; the rest is checked with the next word. -/
def State.readPrefix (s : State) : M State :=
  let kind := fun (w : Word32) => w.extractLsb' 22 3
  match s.vp with
  | some e =>
    let v := s.g.vps.getD e {}
    if v.pfx.any (fun p => kind p.2 = kind s.u.word) then ill
    else if v.cnt > 31 then .error (.trap { cause := causeOverrun, addr := s.u.ipc })
    else .ok { s with g := { s.g with vps := s.g.vps.set e { v with pfx := v.pfx ++ [(s.u.ipc, s.u.word)] } } }
  | none =>
    if s.g.pfx.any (fun p => kind p.2 = kind s.u.word) then .error (.trap { cause := illegal, vcp := some s.u.ipc })
    else .ok { s with g := { s.g with pfx := s.g.pfx ++ [(s.u.ipc, s.u.word)] } }

/-- `pfx.imm` (07 R193): HI waits for the word that accepts it. -/
def execPfxImm (_hi : BitVec 19) (s : State) : Out := s.finish s.readPrefix
/-- `pfx.scope` (07 R193). -/
def execPfxScope (_hint : Hint) (_scope : Scope) (s : State) : Out := s.finish s.readPrefix

/-- `trap n` (11 R334): user-trap with INFO n; inside a recorded stub table, untranslated-function (18 R427). -/
def execTrap (n : BitVec 13) (s : State) : Out :=
  s.finish (if s.g.viq ≠ [] then holdM .viq
    else if (s.ctx s.t.ctx).stubs.any (fun x => decide (x.1.toNat ≤ s.u.ipc.toNat) && decide (s.u.ipc.toNat < x.1.toNat + 16 * x.2))
    then trapM causeStub (n.zeroExtend 64) else trapM causeUser (n.zeroExtend 64))

/-- `brk` (11 R334). -/
def execBrk (s : State) : Out := s.finish (if s.g.viq ≠ [] then holdM .viq else trapM causeBreak)

end Sys2Proof.Machine
end

