-- ==== Sys2Proof/Machine/Thread.lean ====
section
/-! DEFINITION. Vector-thread instructions and their events: `vf` and its VPs (01 R28 to R36, 08 R228 to R233), chords
(01 R37 to R41, 08 R234 to R237), `vid` (08 R238), and the enqueue of an entry (01 R22). -/

namespace Sys2Proof.Machine

def causeUnderflow : Byte := 0x04
def causeOverflow : Byte := 0x05

/-- The VPs of a `vf` at its start (01 R28): `part` take part. See log entry 51, DEDUCED. -/
def startVps (n : Nat) (part : List Nat) (pc : Word) : List Vp :=
  (List.range n).map fun e => if part.contains e then { st := .ready, pc := pc } else {}

/-- Bits `part` as a rejoin mask. -/
def jBits (part : List Nat) : JMask := setBits 512 0 part

/-- A `vf` starts (01 R28, R36, R37): it stays at the head of the VIQ until it completes; without a VP it completes at once. -/
def State.startVf (s : State) (pc : Word) : M State := do
  need (s.vp.isNone = true)
  s.needVl 32
  if pc.toNat % 4 ≠ 0 then .error (.trap { cause := causeMisaligned, addr := pc })
  let part := s.active
  let js := (List.range 8).map fun k => Bank.get 0 s.g.j k &&& jBits part
  let g := { s.g with j := js, links := [] }
  if part = [] then .ok { s with g := g }
  else .ok { s with g := { g with vps := startVps (s.vlmax 32) part pc, viq := s.u :: s.g.viq } }

/-- `vf` (08 R228). -/
def execVf (off : BitVec 19) (s : State) : Out := s.finish (s.startVf (s.target off))
/-- `vfr` (08 R228): the address captured at enqueue. -/
def execVfr (_a : CReg) (s : State) : Out := s.finish (s.startVf s.u.opA)

/-- Every participating VP has stopped (01 R33): the `vf` completes, and values left in the links are discarded (R38). -/
def execVfComplete (s : State) : Out :=
  let s := s.focus s.ev.g
  if s.g.vfRuns && s.g.vfDone then .next { s with g := { s.g with viq := s.g.viq.tail, vps := [], links := [] } } else .next s

/-- The control thread takes its next unit, if it is one of class V or M, and enqueues it (01 R22). -/
def execViqEnqueue (s : State) : Out :=
  let q := s.focus s.ev.g
  if q.g.controlReady then
    match q.controlIssue with
    | .enqueued s' => .next s'
    | _ => .next s
  else .next s

/-- The state of the executing VP. -/
def State.updVp (s : State) (e : Nat) (f : Vp → Vp) : State :=
  { s with g := { s.g with vps := s.g.vps.set e (f (s.g.vps.getD e {})) } }

/-- A meaning that exists inside an AIB only (01 R21). -/
def State.inAib (s : State) (k : Nat → M State) : M State := match s.vp with | some e => k e | none => ill

/-- Continue in a new AIB (08 R230). -/
def State.fetchTo (s : State) (e : Nat) (a : Word) : State := s.updVp e fun v => { v with pc := a, cnt := 0 }

/-- `fetch` (08 R230). -/
def execFetch (off : BitVec 19) (s : State) : Out := s.finish (s.inAib fun e => .ok (s.fetchTo e (s.target off)))

/-- `fetch.nz` (08 R231). -/
def execFetchNz (a : VName) (off : BitVec 13) (s : State) : Out :=
  s.finish (s.inAib fun e => do
    s.needReg a.toNat
    s.needSrc a.toNat 32 0 (some [e])
    .ok (if s.el a.toNat 32 e ≠ 0 then s.fetchTo e (s.target off) else s))

def State.jmask (s : State) (k : Nat) : JMask := Bank.get 0 s.g.j k
def State.setJ (s : State) (k : Nat) (m : JMask) : State := { s with g := { s.g with j := Bank.set 0 s.g.j k m } }

def Vp.parkedOn (v : Vp) (k : Nat) : Bool := match v.st with | .parked j => decide (j.toNat = k) | _ => false

/-- Release of mask `k` (01 R35): every set bit parked on it, or none set (`zero` allows that) while VPs are parked. -/
def State.release (s : State) (zero : Bool) (k : Nat) : State :=
  let m := s.jmask k
  let set := (List.range s.g.vps.length).filter fun e => m.getLsbD e
  let parked := (List.range s.g.vps.length).filter fun e => (s.g.vps.getD e {}).parkedOn k
  if (if m = 0 then zero && decide (parked ≠ []) else set.all fun e => parked.contains e) then
    { s with g := { s.g with
        j := Bank.set 0 s.g.j k 0,
        vps := s.g.vps.map fun v => if v.parkedOn k then { v with st := .ready } else v } }
  else s

/-- `stop` (08 R232). -/
def execStop (s : State) : Out :=
  s.finish (s.inAib fun e =>
    let s := s.updVp e fun v => { v with st := .stopped }
    let s := { s with g := { s.g with j := (List.range 8).map fun k => s.jmask k &&& ~~~(1#512 <<< e) } }
    .ok ((List.range 8).foldl (fun s k => s.release true k) s))

/-- `jenrol` (08 R233). -/
def execJenrol (j : JReg) (s : State) : Out :=
  s.finish (s.inAib fun e => .ok ((s.setJ j.toNat (s.jmask j.toNat ||| (1#512 <<< e))).release false j.toNat))

/-- `jpark` (08 R233). -/
def execJpark (j : JReg) (s : State) : Out :=
  s.finish (s.inAib fun e =>
    if (s.jmask j.toNat).getLsbD e then .ok ((s.updVp e fun v => { v with st := .parked j }).release false j.toNat) else .ok s)

/-- `jstrike` (08 R233). -/
def execJstrike (j : JReg) (s : State) : Out :=
  s.finish (s.inAib fun e => .ok ((s.setJ j.toNat (s.jmask j.toNat &&& ~~~(1#512 <<< e))).release true j.toNat))

/-- `vsend` (08 R234, 01 R39): a full sink stalls the VP alone. -/
def execVsend (a : VName) (s : State) : Out :=
  s.finish (s.inAib fun e => do
    s.needReg a.toNat
    s.needSrc a.toNat 32 0 (some [e])
    if 4 ≤ (s.sinkQ e).length then .ok (s.updVp e fun _ => { s.u.vp0 with st := .stallSend })
    else .ok (s.setSink e (s.sinkQ e ++ [BitVec.ofNat 32 (s.el a.toNat 32 e)])))

/-- `vrecv` (08 R234, 01 R39): an empty source stalls the VP alone. -/
def execVrecv (d : VName) (s : State) : Out :=
  s.finish (s.inAib fun e => do
    s.needReg d.toNat
    s.needUnbound d.toNat
    match s.sourceQ e with
    | [] => .ok (s.updVp e fun _ => { s.u.vp0 with st := .stallRecv })
    | x :: q => .ok ((s.setSource e q).setEls d.toNat 32 [(e, x.toNat)]))

/-- A stalled VP as the executing one, for a trap that its stall raises. -/
def State.atVp (s : State) (e : Nat) : State :=
  let v := s.g.vps.getD e {}
  { s with vp := some e, port := true, u := { addr := v.pc, ipc := v.pc, vp0 := v } }

/-- A `vrecv` that can never be supplied raises chord-underflow (01 R40). -/
def execChordUnderflow (s : State) : Out :=
  let s := s.focus s.ev.g
  if s.g.resident && s.underflows s.ev.e then .next ((s.atVp s.ev.e).takeTrap { cause := causeUnderflow }) else .next s

/-- A `vsend` that can never drain raises chord-overflow (01 R40). -/
def execChordOverflow (s : State) : Out :=
  let s := s.focus s.ev.g
  if s.g.resident && s.overflows s.ev.e then .next ((s.atVp s.ev.e).takeTrap { cause := causeOverflow }) else .next s

/-- A `vf` or `vfr` is in the VIQ. -/
def Group.vfQueued (g : Group) : Bool := g.viq.any fun e => isVf e.word

/-- `qput` (08 R235, R236). -/
def execQput (a : CReg) (s : State) : Out :=
  s.finish (if s.g.inlet.length < 4 then .ok { s with g := { s.g with inlet := s.g.inlet ++ [(s.c a).setWidth 32] } }
    else if s.g.vfQueued then holdM .inletFull else trapM causeOverflow)

/-- `qget` (08 R235, R236). -/
def execQget (d : CReg) (s : State) : Out :=
  s.finish (match s.g.outlet with
    | x :: q => .ok ({ s with g := { s.g with outlet := q } }.setC d (x.setWidth 64))
    | [] => if s.g.vfQueued then holdM .outletEmpty else trapM causeUnderflow)

/-- `qclr` (08 R235): waits until the VIQ is empty. -/
def execQclr (s : State) : Out :=
  s.finish (if s.g.viq ≠ [] then holdM .viq else .ok { s with g := { s.g with inlet := [], outlet := [] } })

/-- `vid` (08 R238). -/
def execVid (d : VName) (a : BitVec 6) (t : Ty) (s : State) : Out :=
  s.finish do
    need (t = .i16 ∨ t = .i32)
    let w := t.bits
    match s.vp with
    | none => do
      s.vcheck w [] [d.toNat]
      .ok (s.putRes d.toNat w (s.actives.map fun e => (e, satInt w (s.u.opA.toInt + e))))
    | some v => do
      s.vcheck w [a.toNat] [d.toNat]
      .ok (s.putRes d.toNat w (s.actives.map fun e => (e, unRun t (fun x => satInt w (sextNat w x + v)) (s.opEl a.toNat w e))))

end Sys2Proof.Machine
end

