-- ==== Sys2Proof/Machine/Aib.lean ====
section
/-! DEFINITION. The words of an AIB (01 R29 to R33): the meanings that a VP may execute, and one issue of the vector port; and
the results that come late (08 R214, 07 R192) and the refresh of the weight stores (02 R63), which are steps without a word. -/

namespace Sys2Proof.Machine

/-- The meaning of a word inside an AIB (07 R194 names those admitted; any other has raised illegal-instruction). -/
def aibExec (i : Instr) (s : State) : Out :=
  match i with
  | .fetch off => execFetch off s
  | .fetchNz a off => execFetchNz a off s
  | .stop => execStop s
  | .jenrol j => execJenrol j s
  | .jpark j => execJpark j s
  | .jstrike j => execJstrike j s
  | .vsend a => execVsend a s
  | .vrecv d => execVrecv d s
  | .vid d a t => execVid d a t s
  | .vadd d a b t p => execVadd d a b t p s
  | .vsub d a b t p => execVsub d a b t p s
  | .vmul d a b t p => execVmul d a b t p s
  | .vmac d a b t p => execVmac d a b t p s
  | .vmin d a b t p => execVmin d a b t p s
  | .vmax d a b t p => execVmax d a b t p s
  | .vabs d a t p => execVabs d a t p s
  | .vneg d a t p => execVneg d a t p s
  | .vand d a b t p => execVand d a b t p s
  | .vor d a b t p => execVor d a b t p s
  | .vxor d a b t p => execVxor d a b t p s
  | .vnot d a t p => execVnot d a t p s
  | .vsll d a b t p => execVsll d a b t p s
  | .vsrl d a b t p => execVsrl d a b t p s
  | .vsra d a b t p => execVsra d a b t p s
  | .vdiv d a b t p la => execVdiv d a b t p la s
  | .vcmpEq a b t => execVcmpEq a b t s
  | .vcmpNe a b t => execVcmpNe a b t s
  | .vcmpLt a b t => execVcmpLt a b t s
  | .vcmpLe a b t => execVcmpLe a b t s
  | .vcmpuLt a b t => execVcmpuLt a b t s
  | .vcmpuLe a b t => execVcmpuLe a b t s
  | .vabsent a t => execVabsent a t s
  | .vsel d a b t => execVsel d a b t s
  | .vmov d a t => execVmov d a t s
  | .vmovScalar d b t => execVmovScalar d b t s
  | .vbcast d a b t => execVbcast d a b t s
  | .vext d a b t => execVext d a b t s
  | .vsetabs d t => execVsetabs d t s
  | .vfill d t => execVfill d t s
  | .vfillScalar d b t => execVfillScalar d b t s
  | .vmsave d m => execVmsave d m s
  | .vmload a m => execVmload a m s
  | .vomov => execVomov s
  | .vcvt d a code t la => execVcvt d a code t la s
  | .vquant d a code t la => execVquant d a code t la s
  | .vdequant d a code t la => execVdequant d a code t la s
  | .vexp2 d a t la => execVexp2 d a t la s
  | .vlog2 d a t la => execVlog2 d a t la s
  | .vrcp d a t la => execVrcp d a t la s
  | .vrsqrt d a t la => execVrsqrt d a t la s
  | .vsqrt d a t la => execVsqrt d a t la s
  | .vsin d a t la => execVsin d a t la s
  | .vcos d a t la => execVcos d a t la s
  | .vtanh d a t la => execVtanh d a t la s
  | .vsigm d a t la => execVsigm d a t la s
  | .vexp d a t la => execVexp d a t la s
  | .vgelu d a t la => execVgelu d a t la s
  | .vld d a sz off la => execVld d a sz off la s
  | .vlds d a sz off la => execVlds d a sz off la s
  | .vst d a sz off la => execVst d a sz off la s
  | .vsts d a sz off la => execVsts d a sz off la s
  | .vamoAdd d a b t => execVamoAdd d a b t s
  | .vamoAddf d a b t => execVamoAddf d a b t s
  | .vamoAddc d a b t => execVamoAddc d a b t s
  | .vamoMin d a b t => execVamoMin d a b t s
  | .vamoMax d a b t => execVamoMax d a b t s
  | .vamoMinf d a b t => execVamoMinf d a b t s
  | .vamoMaxf d a b t => execVamoMaxf d a b t s
  | .vamoAnd d a b t => execVamoAnd d a b t s
  | .vamoOr d a b t => execVamoOr d a b t s
  | .vamoXor d a b t => execVamoXor d a b t s
  | .vamoSwap d a b t => execVamoSwap d a b t s
  | .vamoCas d a b t => execVamoCas d a b t s
  | .pfxImm hi => execPfxImm hi s
  | .pfxScope hint scope => execPfxScope hint scope s
  | _ => s.finish ill

/-- The vector port issues the word at one program counter for every ready VP that stands there (01 R31). -/
def execVpIssue (s : State) : Out :=
  let q := s.focus s.ev.g
  if q.g.portReady && q.g.vfRuns then q.issueVps aibExec (q.g.readyAt s.ev.pc) else .next s

/-- A late result is written before its lookahead has run out (07 R192). -/
def State.lateNow (s : State) (div : Bool) : State :=
  let q := s.focus s.ev.g
  match q.g.late.find? fun l => decide (l.d = s.ev.reg) && decide (l.div = div) with
  | some l => if q.g.resident then q.landLate l else s
  | none => s

/-- The divide unit writes its result (08 R214). -/
def execDivideUnitResult (s : State) : Out := .next (s.lateNow true)
/-- A loaded value arrives (07 R192). -/
def execLoadedValueArrives (s : State) : Out := .next (s.lateNow false)

/-- Cycles until the next edge of a refresh window (02 R63): a window is the first 256 of every 1,024 cycles. -/
def toEdge (phase : Nat) : Nat := let p := phase % 1024; if p < 256 then 256 - p else 1024 - p

/-- A refresh window of a die's weight store starts or ends: its clock and PHASE come to the next edge (02 R62, R63). A read
that waits for the end returns the stored data all the same (04 R104). -/
def execWeightStoreRefresh (s : State) : Out :=
  let x := s.dieAt s.ev.die
  let n := toEdge x.phase.toNat
  .next (s.setDie s.ev.die { x with clk := x.clk + w64 n, phase := x.phase + BitVec.ofNat 16 n })

end Sys2Proof.Machine
end

