-- ==== Sys2Proof/Machine/Host.lean ====
section
/-! DEFINITION. The host's side (18): commands and their replies (R418 to R420, R438), remote accesses (R436, 05 R163), errors
(R422 to R424), the loading of modules (R426 to R429), the mailbox (R431) and the reset of the device. -/

namespace Sys2Proof.Machine

/-- How a command is answered: with a STATUS and no effect, or done, with a reply. One that is to read a line which an engine operation
owns is not taken yet (04 R126): it changes nothing, and is taken once the line is recalled (log entry 39, DEDUCED). -/
inductive Ans where
  | no (status : Nat)
  | wait
  | yes (s : State) (body : List Word)

/-- Send the reply to the command of the event (18 R418). -/
def State.reply (s : State) (op status : Nat) (body : List Word) : State :=
  { s with toHost := s.toHost ++ [.reply s.ev.hdr.tag s.ev.hdr.part op status body] }

/-- LEN is the length of the body, at most 1,024 words, and OP, or the mailbox message, is a listed one (18 R418). -/
def State.headerOk (s : State) : Bool :=
  let h := s.ev.hdr
  let n := s.ev.words.length + (s.ev.data.length + 7) / 8
  decide (h.rsvd = 0) && h.other.isNone && decide (n ≤ 1024) && h.len.all (fun l => decide (l = n)) && decide (h.part < 16)

/-- Answer a command (18 R418, R431): `first` tells those that are taken before the first ENROLL; `len` is the length of the
body. A listed OP has an event of its own. A PART that names no partition, of IDENT too, is answered with STATUS 3 before the body is
looked at, where 18 R418 names no STATUS (log entry 39, DESIGN CHOICE). -/
def State.answer (s : State) (op : Nat) (first len : Bool) (f : Ans) : Out :=
  let h := s.ev.hdr
  if h.other.any fun n => decide (1 ≤ n) && decide (n ≤ 11) then .next s else
  let op := h.other.getD op
  let v : Ans :=
    if !s.fwOk && op ≠ 1 then .no 1
    else if !s.enrolled && !(first && h.other.isNone) then .no 3
    else if s.enrolled && !s.hosts.contains h.src then .no 3
    else if !s.headerOk then .no 2
    else if s.nparts ≤ h.part then .no 3
    else if !len then .no 2
    else f
  .next (match v with
    | .no st => s.reply op st []
    | .wait => s
    | .yes q body => q.reply op 0 body)

/-- The words of a command's body. -/
def State.arg (s : State) (i : Nat) : Nat := (s.ev.words.getD i 0).toNat
def State.argc (s : State) (n : Nat) : Bool := decide (s.ev.words.length = n)

/-- A context that exists, of the partition addressed; and a die of it. -/
def State.ctxHere (s : State) (c : Nat) : Bool := decide (c < 4096) && (s.ctx c).valid && decide ((s.ctx c).part = s.ev.hdr.part)
def State.dieHere (s : State) (d : Nat) : Bool := (s.partDies s.ev.hdr.part).contains d

/-- IDENT (18 R420). -/
def execIdent (s : State) : Out :=
  s.answer 1 true (s.argc 0)
    (.yes s [w64 (0x0F1A * 2 ^ 48 + 0xC960 * 2 ^ 32 + Config.stepping.toNat * 2 ^ 16 + 8 * 2 ^ 8 + 16), Config.serial,
      w64 (Config.fwver.toNat * 2 ^ 32 + s.nodeId.toNat), w64 (b2n Config.onModule), 0, 0, 0, 0])

/-- Nothing of the work that a partitioning may not disturb exists (17 R409). -/
def State.idle (s : State) : Bool :=
  !(s.allGroups.any Group.alive) && decide (s.tasks = []) && decide (s.ops = []) &&
  s.dies.all fun d => decide (d.bins = []) && !(d.cands.any fun c => match c.kind with | .batch _ _ _ => true | _ => false)

/-- PARTS (17 R409, R411): where the size changes, every die's partition changes: its lines are written back, its translation caches
emptied, its contexts discarded with their bindings, and its keys cleared. See log entry 40, DEDUCED. -/
def execParts (s : State) : Out :=
  let D := s.arg 0
  s.answer 2 false (s.argc 1 && [1, 2, 4, 8].contains D)
    (if D = s.partSize then .yes { s with partsSet := true } []
     else if !s.idle then .no 1
     else
      let s := s.lkeys.foldl (fun s x => s.evict x.1) s
      .yes { s with partSize := D, partsSet := true, lkeys := [], veils := [], tlb := [], wcache := [], ctxs := [], pivots := [], pwaits := [], keys := [] } [])

/-- CONTEXT (17 R400). -/
def execContext (s : State) : Out :=
  let n := s.arg 0
  let r0 := s.arg 1
  let r1 := s.arg 2
  let part := field r1 12 4
  let priv := decide (field r1 16 1 = 1)
  let valid := decide (field r1 0 1 = 1)
  let old := s.ctx n
  s.answer 3 false (s.argc 9 && decide (n < 4096) && decide (field r0 48 16 = 0) && decide (field r0 0 16 = 0) && decide (field r1 32 32 = 0) &&
      decide (field r1 17 3 = 0) && decide (field r1 1 11 = 0) && (s.ev.words.drop 3).all fun w => w = 0)
    (if part ≠ s.ev.hdr.part || (old.valid && decide (old.part ≠ s.ev.hdr.part)) then .no 3
     else if s.allGroups.any fun g => g.alive && decide ((s.teamD g.team).ctx = n) then .no 1
     else if valid && priv && s.ctxs.any fun c => decide (c.1 ≠ n) && c.2.valid && c.2.priv && decide (c.2.part = part) then .no 1
     else .yes (s.setCtx n { old with root := w64 (field r0 16 32), wkey := field r1 20 12, priv := priv, part := part, valid := valid }) [])

/-- The power record of a die (16 R384); TEMP before the first sample is free. See log entry 42, DEDUCED. -/
def State.powerRec (s : State) (d : Nat) : Word × State :=
  let x := s.dieAt d
  let (t, s') := match x.temp with | some t => (t, s) | none => s.free
  (w64 (min (s.used d) 65535 * 2 ^ 48 + t % 256 * 2 ^ 40 + x.tlimit * 2 ^ 24 + x.budget), s')

/-- POWER (16 R384, R386, R389, R390): a rise of headroom calls for a decision, a new BUDGET lets candidates that could not be placed be tried again, and one below USED
makes groups move. -/
def execPower (s : State) : Out :=
  let d := s.arg 0
  let r := s.arg 1
  let tl := field r 24 8
  let b := field r 0 16
  s.answer 4 false (s.argc 2 && decide (field r 32 8 = 0) && decide (field r 16 8 = 0) && decide (60 ≤ tl) && decide (tl ≤ 110))
    (if !s.dieHere d then .no 3
     else
      let x := s.dieAt d
      let cands := if b = x.budget then x.cands else x.cands.map fun c => { c with skipped := false, poolless := false }
      let head := s.headroom d
      let s := s.setDie d { x with tlimit := tl, budget := b, cands := cands, hot := x.hot || decide (b < s.used d) }
      let s := s.migrate d
      let s := if head < s.headroom d then s.call d else s
      let (w, s) := s.powerRec d
      .yes s [w])

/-- START (18 R438, 06 R180). -/
def execStart (s : State) : Out :=
  let c := s.arg 0
  let d := s.arg 1
  let e := s.ev.words.getD 2 0
  let cw := s.arg 3
  s.answer 5 false (s.argc 12 && decide (e.toNat % 4 = 0) && decide (field cw 28 36 = 0) && decide (field cw 7 1 = 0) && decide (field cw 16 8 ≤ 128) &&
      decide (field cw 8 8 = 0))
    (if !(s.ctx c).valid || 4096 ≤ c then .no 1
     else if !s.ctxHere c || !s.dieHere d then .no 3
     else if s.storeFull d then .no 1
     else
      let h := s.newHandle d
      let r : TaskRec :=
        { handle := h, die := d, ctx := c, entry := e, args := s.ev.words.drop 4, weight := 2 ^ 62, root := h, cons := 1,
          pri := field cw 0 3, ecls := field cw 3 3, pin := field cw 6 1 = 1, budget := budgetOf (field cw 26 2),
          gmax := grantOf (field cw 24 2), scr := field cw 16 8 }
      .yes (({ s with graphs := s.graphs ++ [{ root := h, die := d, ctx := c, pool := 2 ^ 62 }] } : State).newRecord r) [h])

/-- GRID (18 R419, 06 R180, R185). A record outside global memory is malformed (log entry 68, DESIGN CHOICE). -/
def execGrid (s : State) : Out :=
  let c := s.arg 0
  let d := s.arg 1
  let a := s.ev.words.getD 2 0
  s.answer 6 false (s.argc 3 && decide (a.toNat % 128 = 0))
    (if !(s.ctx c).valid || 4096 ≤ c then .no 1
     else if !s.ctxHere c || !s.dieHere d then .no 3
     else match s.readWords { ctx := c, priv := (s.ctx c).priv, die := d, tm := 0 } .load a 16 with
      | .error (.recall _) => .wait
      | .error _ => .no 1
      | .ok (ws, s) =>
        if s.spaceOf c a ≠ some 0 then .no 2
        else match loopNest ws with
          | none => .no 2
          | some n =>
            if s.storeFull d then .no 1
            else
              let h := s.newHandle d
              .yes (({ s with graphs := s.graphs ++ [{ root := h, die := d, ctx := c, pool := 2 ^ 62 }] } : State).newGrid d c n h (2 ^ 62) 0 h) [h])

/-- RELEASE (18 R419, 06 R169). -/
def execRelease (s : State) : Out :=
  let h := s.ev.words.getD 0 0
  s.answer 7 false (s.argc 1)
    (match s.graph? h with
      | none => .no 1
      | some x =>
        if !s.dieHere x.die then .no 3
        else if !x.host || !s.current h then .no 1
        else .yes ((s.updGraph h fun x => { x with host := false }).dropRefs [h]) [])

/-- WSTORE (18 R419, 04 R103): a context that does not exist is answered with STATUS 1, as for the other commands (log entry 39, DEDUCED). -/
def execWstore (s : State) : Out :=
  let c := s.arg 0
  let d := s.arg 1
  let src := s.ev.words.getD 2 0
  let off := s.arg 3
  let n := s.arg 4
  s.answer 8 false (s.argc 5 && decide (off + n ≤ 0x10000000))
    (if !(s.ctx c).valid || 4096 ≤ c then .no 1
     else if !s.ctxHere c || !s.dieHere d then .no 3
     else if s.kernelRuns fun k => k = c then .no 1
     else if (List.range (n / 65536 + 2)).any fun k => decide (65536 * k < n + src.toNat % 65536) &&
        (s.devLeaf c false (w64 (src.toNat / 65536 * 65536 + 65536 * k)).toNat).isNone then .no 1
     else if (s.devHeld c src n).isSome then .wait
     else .yes (s.writePlace 0 (.ws d off) (s.devRead c src n)) [])

/-- ERRLOG (18 R419, R422). -/
def execErrlog (s : State) : Out :=
  let n := s.arg 1
  let p := s.ev.hdr.part
  s.answer 9 false (s.argc 2 && decide (64 ≤ n) && decide (n ≤ 65536) && decide (2 ^ n.log2 = n))
    (.yes (s.setPrt p { s.prt p with logBase := some (s.ev.words.getD 0 0), logCount := n }) [])

/-- NODES (18 R417). -/
def execNodes (s : State) : Out :=
  let n := s.arg 0
  let p := s.ev.hdr.part
  s.answer 10 false (s.argc 2 && decide (n < 0xFFFFF))
    (.yes (({ s with nodeId := BitVec.ofNat 20 n, nodeSet := true } : State).setPrt p { s.prt p with qpt := s.ev.words.getD 1 0 }) [])

/-- The words of a stub (18 R427): `trap i` and no-ops, or the jump to the body. -/
def stubWords (stub : Word) (i : Nat) : Option Word → List Word32
  | none => [encode (.trap (BitVec.ofNat 13 i)), 0x06000000, 0x06000000, 0x06000000]
  | some t =>
    let x := t - stub
    let lo := x.setWidth 13
    [encode (.lpc 15 (((x - lo.signExtend 64).sshiftRight 13).setWidth 19)), encode (.addi 15 15 lo), encode (.jalr 0 15 0), encode (.addi 0 0 0)]

/-- Write 4-byte words one by one. -/
def State.writeCode (s : State) (c : Nat) (a : Word) : List Word32 → State
  | [] => s
  | w :: r => State.writeCode (s.devWrite c a (natLe 4 w.toNat)) c (a + 4) r

/-- Write the stubs of functions that have not been translated, from function `i` on (18 R427). -/
def State.writeStubs (s : State) (c : Nat) (base : Word) : Nat → Nat → State
  | _, 0 => s
  | i, n + 1 => let a := base + w64 (16 * i); State.writeStubs (s.writeCode c a (stubWords a i none)) c base (i + 1) n

/-- Place the bodies that there are, and fill their stubs, from function `i` on (18 R427 to R429). -/
def State.fillStubs (s : State) (c : Nat) (base : Word) : Nat → List (Option (Word × List Word32)) → State
  | _, [] => s
  | i, none :: r => State.fillStubs s c base (i + 1) r
  | i, some (t, ws) :: r =>
    let a := base + w64 (16 * i)
    State.fillStubs ((s.writeCode c t ws).writeCode c a (stubWords a i (some t))) c base (i + 1) r

/-- Lifetime class of an opcode, and the generation in which it is removed (07 R198, R201). -/
def opLife (op : Nat) : Nat := if op = 0x70 then 2 else if op = 0x5B then 1 else 0
def opRemoved (op : Nat) : Option Nat := if op = 0x5B then some 4 else none

/-- The translator refuses a module of a context as a whole (18 R426); with RETRY it makes no further module and places no nodes. -/
def State.refuses (s : State) (c : Nat) (m : Option Module) (retry : Bool := false) : Bool :=
  match m with
  | none => true
  | some m =>
    let x := s.ctx c
    let ops := m.code.flatten.map opOf
    (Config.needsSignature c && decide (m.signature ≠ some true)) ||
    ops.any (fun o => decide (m.lifetime < opLife o)) ||
    (ops.any (fun o => decide (opLife o = 2)) && decide (m.stepping ≠ some Config.stepping)) ||
    ops.any (fun o => decide (opLife o = 1) && (opRemoved o).any fun n => decide (n ≤ 2)) ||
    decide (8192 < m.code.length) || (!retry && (decide (16 ≤ x.modules) || decide (1024 < x.nodesUsed + m.nodes.length)))

/-- A translation starts (18 R426, R427): before any body, a module that is not refused gets its stub table, and the range is recorded. A
heap that cannot hold the table gets none, and the container of a refused module is not kept. With RETRY the space is that of the heap as the
first LOAD gave it (log entry 47, DEDUCED). -/
def State.startLoad (s : State) (c : Nat) (retry : Bool) (heap : Word) (bytes : Nat) (m : Option Module) : State :=
  let k := s.ctx c
  let load := fun (m : Option Module) => s.setCtx c { k with loading := some (retry, heap), container := m }
  match m with
  | some x =>
    let n := x.code.length
    if retry then load m
    else if s.refuses c m || decide (bytes < 16 * n) then load none
    else
      let s := load m
      let k := s.ctx c
      (s.setCtx c { k with
        stubs := k.stubs ++ [(heap, n)]
        heaps := (k.heaps.filter fun h => h.base ≠ heap) ++ [{ base := heap, bytes := bytes, count := n, node := k.nodesUsed }] }).writeStubs c heap 0 n
  | none => load none

/-- Add to the value that fields of words hold, least significant first: word, lowest bit and width (07 R208). -/
def relocWords (b : Nat) (ws : List Word32) (fs : List (Nat × Nat × Nat)) : List Word32 :=
  let v := fs.foldr (fun f a => a * 2 ^ f.2.2 + field (ws.getD f.1 0).toNat f.2.1 f.2.2) 0 + b
  (fs.foldl (fun (x : List Word32 × Nat) f =>
    let w := (x.1.getD f.1 0).toNat
    (x.1.set f.1 (BitVec.ofNat 32 (w - field w f.2.1 f.2.2 * 2 ^ f.2.1 + x.2 % 2 ^ f.2.2 * 2 ^ f.2.1)), x.2 / 2 ^ f.2.2)) (ws, v)).1

/-- Add to a value in a run of bytes. -/
def relocBytes (b o n : Nat) (bs : List Byte) : List Byte := bs.take o ++ natLe n (leNat ((bs.drop o).take n) + b) ++ bs.drop (o + n)

/-- Write bytes one by one. -/
def State.writeBytes (s : State) (c : Nat) (a : Word) : List Byte → State
  | [] => s
  | x :: r => State.writeBytes (s.devWrite c a [x]) c (a + 1) r

/-- The stub of a function, to which every cross-reference binds (18 R427). -/
def Heap.stub (h : Heap) (i : Nat) : Word := h.base + w64 (16 * i)

/-- The node declarations of a module, their entries bound to stubs (18 R427). -/
def Heap.bound (h : Heap) (m : Module) : List (Word × Word × Word) :=
  m.nodes.mapIdx fun k x => (((m.entries.getD k none).map h.stub).getD x.1, x.2)

/-- Place node declarations from index `i` on (18 R426, 06 R182). -/
def State.placeNodes (s : State) (c i : Nat) : List (Word × Word × Word) → State
  | [] => s
  | (e, w, arg) :: r =>
    let base := (s.ctx c).snode
    let s := (s.devWrite c (base + w64 (16 * i)) (natLe 8 e.toNat)).devWrite c (base + w64 (16 * i + 8)) (natLe 8 w.toNat)
    State.placeNodes (s.devWrite c (base + w64 (16384 + 8 * i)) (natLe 8 arg.toNat)) c (i + 1) r

/-- LOAD (18 R426): the translator starts. See log entry 47, DEDUCED. -/
def execLoad (s : State) : Out :=
  let c := s.arg 0
  s.answer 11 false (s.argc 5 && decide (s.arg 4 ≤ 1))
    (if !(s.ctx c).valid || 4096 ≤ c then .no 1
     else if !s.ctxHere c then .no 3
     else if (s.ctx c).loading.isSome then .no 1
     else .yes (s.startLoad c (decide (s.arg 4 = 1)) (s.ev.words.getD 2 0) (s.arg 3) s.ev.load) [])

/-- The module's data, with the base index of its nodes added to each node relocation (18 R426, 07 R208), and the addresses of functions
bound to their stubs (R427). -/
def Heap.data (h : Heap) (m : Module) : List (Word × List Byte) :=
  m.data.mapIdx fun i x =>
    let bs := (m.dataRels.filter fun r => r.1 = i).foldl (fun bs r => relocBytes h.node r.2.1 r.2.2 bs) x.2
    (x.1, (m.dataRefs.filter fun r => r.1 = i).foldl (fun bs r => bs.take r.2.1 ++ natLe 8 (h.stub r.2.2).toNat ++ bs.drop (r.2.1 + 8)) bs)

/-- What fields of words hold, the least significant first. -/
def fieldsVal (ws : List Word32) (fs : List (Nat × Nat × Nat)) : Nat :=
  fs.foldr (fun f a => a * 2 ^ f.2.2 + field (ws.getD f.1 0).toNat f.2.1 f.2.2) 0

/-- The address that a cross-reference of a body at `t` leads to. -/
def refTarget (r : CodeRef) (t : Word) (ws : List Word32) : Word :=
  let v := r.fields.foldr (fun f a => a * 2 ^ f.2.2 + sextNat f.2.2 (field (ws.getD f.1 0).toNat f.2.1 f.2.2)) 0
  (match r.at_ with | some k => t + w64 (4 * k) | none => 0) + BitVec.ofInt 64 (v * r.unit)

/-- The body of function `i` at `t` holds the module's node relocations (07 R208), and its cross-references lead to the stubs (18 R427). -/
def State.bodyOk (s : State) (m : Module) (h : Heap) (i : Nat) (t : Word) (ws : List Word32) : Bool :=
  decide ((s.ev.rels.filter fun x => x.1 = i).map (fun x => fieldsVal ws x.2) = (m.rels.filter fun x => x.1 = i).map fun x => x.2) &&
  decide ((s.ev.refs.filter fun x => x.fn = i).map (fun x => refTarget x t ws) = (m.refs.filter fun x => x.1 = i).map fun x => h.stub x.2)

/-- A body has its room in the heap (18 R429): above the stub table, and clear of the bodies that stand there. -/
def Heap.fits (h : Heap) (i : Nat) (t : Word) (n : Nat) : Bool :=
  t.toNat % 4 = 0 && decide (h.base.toNat + 16 * h.count ≤ t.toNat) && decide (t.toNat + 4 * n ≤ h.base.toNat + h.bytes) &&
  h.bodies.all fun b => decide (b.1 ≠ i) && (decide (t.toNat + 4 * n ≤ b.2.1.toNat) || decide (b.2.1.toNat + 4 * b.2.2 ≤ t.toNat))

/-- The bodies that the translator has made, in the order of their functions: each with the base index added to the module's node
relocations of its function (07 R208); and the heap with those for which there is room (18 R429). -/
def State.relocated (s : State) (m : Module) : Heap → List Nat → List (Option (Word × List Word32)) × Heap
  | h, [] => ([], h)
  | h, i :: r =>
    let fs := (s.ev.rels.filter fun x => x.1 = i).map fun x => x.2
    let x := (s.ev.bodies.getD i none).bind fun x =>
      if h.fits i x.1 x.2.length && s.bodyOk m h i x.1 x.2 then
        some (x.1, fs.foldl (relocWords h.node) x.2)
      else none
    let (l, h) := s.relocated m (match x with | some x => { h with bodies := h.bodies ++ [(i, x.1, x.2.length)] } | none => h) r
    (x :: l, h)

/-- The translator ends (18 R426 to R429, R421 event 6): node declarations, data and bodies are placed, and stubs filled; the functions
without a body are counted. With RETRY the heap names the module. See log entry 47, DEDUCED. -/
def execTranslationEnd (s : State) : Out :=
  let c := s.ev.ctx
  let x := s.ctx c
  let ends := fun (s : State) (st n : Nat) => (s.setCtx c { s.ctx c with loading := none, container := none }).hostEvent 6 x.part [w64 c, w64 st, w64 n]
  let filled := fun (s : State) (m : Module) (h : Heap) =>
    let (bodies, h) := s.relocated m h (List.range h.count)
    let n := h.count - h.bodies.length
    let k := s.ctx c
    ends ((s.setCtx c { k with heaps := k.heaps.map fun y => if y.base = h.base then h else y }).fillStubs c h.base 0 bodies) (if n = 0 then 0 else 1) n
  let heapAt := fun (base : Word) => x.heaps.find? fun h => h.base = base
  .next (match x.loading, x.container with
    | none, _ => s
    | some (_, _), none => ends s 2 0
    | some (false, heap), some m => (match heapAt heap with
      | none => ends s 2 0
      | some h =>
        let b := x.nodesUsed
        let s := (h.data m).foldl (fun s x => s.writeBytes c x.1 x.2) (s.placeNodes c b (h.bound m))
        let s := s.setCtx c { s.ctx c with
          modules := x.modules + 1, nodesUsed := b + m.nodes.length, nodeBases := x.nodeBases ++ [b], digests := x.digests ++ [m.digest] }
        filled s m h)
    | some (true, heap), some m => (match heapAt heap with
      | none => ends s 2 0
      | some h => if s.refuses c (some m) true || decide (m.code.length ≠ h.count) then ends s 2 0 else filled s m h))

/-- Bytes of a mailbox message, as the security controller checks them (18 R431). -/
def State.message (s : State) : List Byte := (s.ev.words.flatMap fun w => natLe 8 w.toNat) ++ s.ev.data

/-- ENROLL (18 R431): before the first PARTS, with a valid signature. -/
def execEnroll (s : State) : Out :=
  s.answer 12 true true
    (if s.partsSet then .no 1
     else if !Config.accepts s.message then .no 3
     else .yes { s with hosts := s.ev.words.map fun w => w.toNat, enrolled := true } [])

/-- KEYLOAD (18 R431, 17 R412): an empty slot is loaded for a partition. See log entry 13, DEDUCED. -/
def execKeyload (s : State) : Out :=
  let k := s.arg 0
  let p := s.arg 1
  s.answer 12 false (s.argc 2 && decide (k < 4096))
    (if p ≠ s.ev.hdr.part then .no 3
     else if assocGet KeySt.empty s.keys k ≠ .empty then .no 1
     else if !Config.accepts s.message then .no 3
     else
      let (a, b) := Config.unwrap s.message
      .yes { s with keys := assocSet s.keys k (.loaded p a b) } [])

/-- The lines held under a slot are written back under its pair (17 R415). -/
def State.evictKey (s : State) (k : Nat) : State :=
  { (s.lkeys.filter fun x => x.2 = k).foldl (fun s x => s.writeBack x.1 k) s with lkeys := s.lkeys.filter fun x => x.2 ≠ k }

/-- KEYUNLOAD (17 R415): the slot is unloading while its lines are written back, and then empty. See log entry 41, DESIGN CHOICE. -/
def execKeyunload (s : State) : Out :=
  let k := s.arg 0
  s.answer 12 false (s.argc 1 && decide (k < 4096))
    (match assocGet KeySt.empty s.keys k with
      | .loaded p _ _ => if p ≠ s.ev.hdr.part then .no 3 else .yes { s.evictKey k with keys := assocSet s.keys k .empty } []
      | _ => .no 1)

/-- ATTEST (18 R431): stepping, FWVER, the digest of each firmware stage and of each loaded module's container, the nonce, and a
signature over P-384, whose words are free. -/
def execAttest (s : State) : Out :=
  s.answer 12 false (s.argc 4)
    (.yes { s with fresh := s.fresh + 12 }
      ([w64 Config.stepping.toNat, w64 Config.fwver.toNat] ++
        (List.range Config.fwStages).flatMap (fun k => (List.range 6).map (Config.stageDigest k)) ++
        s.ctxs.flatMap (fun c => c.2.digests.flatten) ++ s.ev.words ++ (List.range 12).map fun i => Config.freeWord (s.fresh + i)))

/-- The entry of a partition's host-access table that an R_Key names, if it opens the bytes asked for (18 R436): its context. -/
def State.window (s : State) (part : Nat) (rkey : Word32) (va : Word) (len : Nat) (wr : Bool) : Option Nat :=
  match s.supCtx part with
  | none => none
  | some sup =>
    let t := s.prt part
    let w := fun (i k : Nat) => (s.devWord sup (t.shat + w64 (32 * i + 8 * k))).toNat
    let hits := (List.range t.shatn).filter fun i => decide (field (w i 0) 63 1 = 1) && decide (field (w i 0) 0 32 = rkey.toNat)
    match hits with
    | [i] =>
      let c := field (w i 0) 32 12
      if field (w i 0) 44 17 = 0 ∧ w i 3 = 0 ∧ 1 ≤ w i 2 ∧ w i 2 ≤ 2 ^ 40 ∧ (s.ctx c).valid ∧ (s.ctx c).part = part ∧
        field (w i 0) (if wr then 62 else 61) 1 = 1 ∧ w i 1 ≤ va.toNat ∧ va.toNat + len ≤ w i 1 + w i 2 then some c else none
    | _ => none

/-- Pieces of a run of bytes, each within an aligned 8-byte word (18 R436). -/
def pieces : Nat → Nat → Nat → List (Nat × Nat)
  | 0, _, _ => []
  | fuel + 1, a, n => if n = 0 then [] else let k := min n (8 - a % 8); (a, k) :: pieces fuel (a + k) (n - k)

/-- Who performs a remote access in a context (18 R436). -/
def State.rdmaAgent (s : State) (part c : Nat) : Agent := { ctx := c, priv := (s.ctx c).priv, die := part * s.partSize, tm := 0 }

/-- How far a remote access comes. -/
inductive Rdma where
  | ok (data : List Byte)
  | nak
  | held

/-- Read pieces one after another. -/
def State.rdmaRead (s : State) (a : Agent) : List (Nat × Nat) → Rdma × State
  | [] => (.ok [], s)
  | (va, n) :: r =>
    match s.place a .load (w64 va) n 1 with
    | .ok (.hbm pa, q) => (match State.rdmaRead q a r with
      | (.ok bs, q) => (.ok (q.hbm.bytes pa n ++ bs), q)
      | x => x)
    | .ok (_, q) => (.nak, q)
    | .error (.recall _) => (.held, s)
    | .error (.trap _ _ w) => (.nak, s.walked (some w))

/-- Write pieces one after another, from the lowest address on, in one step; those written before a NAK stand (log entry 72, DESIGN CHOICE). -/
def State.rdmaWrite (s : State) (a : Agent) : List (Nat × Nat) → List Byte → Rdma × State
  | [], _ => (.ok [], s)
  | (va, n) :: r, bs =>
    match s.place a .store (w64 va) n 1 with
    | .ok (.hbm pa, q) => State.rdmaWrite (q.writePlace 0 (.hbm pa) (bs.take n)) a r (bs.drop n)
    | .ok (_, q) => (.nak, q)
    | .error (.recall _) => (.held, s)
    | .error (.trap _ _ w) => (.nak, s.walked (some w))

/-- A remote access that meets a line which an engine owns waits for the recall, and is made then (18 R436, 04 R126) in the context that
the table gave it. -/
def State.later (s : State) (i : Instr) (c : Nat) : State := { s with held := s.held ++ [(i, s.ev, c)] }

/-- Answer a remote access with what it came to. -/
def State.answered (s : State) (i : Instr) (c : Nat) (out : Bool → List Byte → ToHost) : Rdma × State → State
  | (.ok bs, q) => { q with toHost := q.toHost ++ [out false bs] }
  | (.nak, q) => { q with toHost := q.toHost ++ [out true []] }
  | (.held, _) => s.later i c

/-- A remote read of the event in a context, with the answer that `out` makes (18 R436). -/
def State.readIn (s : State) (i : Instr) (out : Bool → List Byte → ToHost) (c : Nat) : State :=
  s.answered i c out (s.rdmaRead (s.rdmaAgent s.ev.part c) (pieces (s.ev.len + 1) s.ev.va.toNat s.ev.len))

/-- A remote write of the event in a context (18 R436). -/
def State.writeIn (s : State) (i : Instr) (out : Bool → List Byte → ToHost) (c : Nat) : State :=
  let n := s.ev.data.length
  s.answered i c out (s.rdmaWrite (s.rdmaAgent s.ev.part c) (pieces (n + 1) s.ev.va.toNat n) s.ev.data)

/-- A line of the host-access table is an engine operation's: the device waits for the recall (04 R126). -/
def State.tableHeld (s : State) (part : Nat) : Bool :=
  (s.supCtx part).any fun c => (s.devHeld c (s.prt part).shat (32 * (s.prt part).shatn)).isSome

/-- A remote access of `len` bytes as it arrives: where the host-access table opens no context for it, a NAK (18 R436). -/
def State.arrive (s : State) (len : Nat) (wr : Bool) (out : Bool → List Byte → ToHost) (f : Nat → State) : State :=
  if s.tableHeld s.ev.part then s else
  match s.window s.ev.part s.ev.rkey s.ev.va len wr with
  | none => { s with toHost := s.toHost ++ [out true []] }
  | some c => f c

/-- The answer to a host, and to a node. -/
def State.toHostPort (s : State) (nak : Bool) (bs : List Byte) : ToHost := .rdma s.ev.part nak bs
def State.toNode (s : State) (nak : Bool) (bs : List Byte) : ToHost := .remoteReply s.ev.part nak bs

/-- A remote read, and a remote write, of the event (18 R436). -/
def State.serveRead (s : State) (i : Instr) (out : Bool → List Byte → ToHost) : State := s.arrive s.ev.len false out (s.readIn i out)
def State.serveWrite (s : State) (i : Instr) (out : Bool → List Byte → ToHost) : State := s.arrive s.ev.data.length true out (s.writeIn i out)

/-- An RDMA WRITE of the host (18 R436). -/
def execHostRdmaWrite (s : State) : Out := .next (s.serveWrite .hostRdmaWrite s.toHostPort)
/-- An RDMA READ of the host (18 R436). -/
def execHostRdmaRead (s : State) : Out := .next (s.serveRead .hostRdmaRead s.toHostPort)
/-- An RDMA WRITE of a node's put (05 R163), under an R_Key of the same table (log entry 17, DEDUCED). -/
def execRemoteRdmaWrite (s : State) : Out := .next (s.serveWrite .remoteRdmaWrite s.toNode)
/-- An RDMA READ of a node's get (05 R163). -/
def execRemoteRdmaRead (s : State) : Out := .next (s.serveRead .remoteRdmaRead s.toNode)

/-- Add-with-count of elements one after another (05 R142, 04 R131). -/
def State.remoteAdds (s : State) (a : Agent) (t : Ty) (va : Word) : List Word → Rdma × State
  | [] => (.ok [], s)
  | x :: r =>
    match s.place a .atomic va 8 8 with
    | .ok (.hbm pa, q) =>
      let old := q.hbm.bytes pa 8
      let new := natLe 8 (addCount t (leNat old) (x.toNat % 2 ^ 32))
      State.remoteAdds ((q.writePlace 0 (.hbm pa) new).noteAmo 0 pa old new) a t (va + 8) r
    | .ok (_, q) => (.nak, q)
    | .error (.recall _) => (.held, s)
    | .error (.trap _ _ w) => (.nak, s.walked (some w))

/-- A put that adds with counts, of the event, in a context. -/
def State.addIn (s : State) (c : Nat) : State :=
  s.answered .remoteAddWithCount c s.toNode (s.remoteAdds (s.rdmaAgent s.ev.part c) (addTy s.ev.fmt) s.ev.va s.ev.words)

/-- An add-with-count put of a node is applied (04 R131, 05 R163). -/
def execRemoteAddWithCount (s : State) : Out := .next (s.arrive (8 * s.ev.words.length) true s.toNode s.addIn)

/-- The remote access at place `n` of those held is tried again: the table is not read anew (18 R436). -/
def State.retryHeld (s : State) (n : Nat) : State :=
  match s.held[n]? with
  | none => s
  | some (i, e, c) =>
    let q := { s with held := s.held.eraseIdx n, ev := e }
    match i with
    | .hostRdmaWrite => q.writeIn i q.toHostPort c
    | .hostRdmaRead => q.readIn i q.toHostPort c
    | .remoteRdmaWrite => q.writeIn i q.toNode c
    | .remoteRdmaRead => q.readIn i q.toNode c
    | .remoteAddWithCount => q.addIn c
    | _ => s

/-- LOC of the record of an error (18 R423): a physical address, or the bank, or the core and sector, with the word or lane. -/
def State.errorLoc (s : State) : Word :=
  let e := s.ev
  match e.k with
  | 1 => w64 e.pa
  | 2 => w64 e.pa
  | 3 => Config.errorLoc 3 (e.n / 0x400000) (e.n % 0x400000 / 32)
  | 4 => let x := s.groupD e.g; Config.errorLoc 4 ((s.teamD x.team).core * 8 + x.sector) (e.e * 512 + e.n)
  | 5 => Config.errorLoc 5 ((s.teamD e.tm).core * 8 + e.sector) (e.n / 4)
  | _ => Config.errorLoc 6 (e.core * 8 + e.sector) e.n

/-- The error record (18 R423). -/
def State.errorRec (s : State) (seq : Word32) : List Word :=
  let e := s.ev
  [w64 (seq.toNat * 2 ^ 32 + e.k % 16 * 2 ^ 12 + e.i % 4 * 2 ^ 10 + b2n e.flag * 2 ^ 9 + e.die % 256), s.errorLoc, e.info, (s.dieAt e.die).clk, e.h, w64 (e.ctx % 4096), 0, 0]

/-- Uncorrected data is poisoned (18 R424): a line of global memory, a word of a weight store, of a register, or of scratch. -/
def State.poisoned (s : State) (rec_ : Word) : State :=
  match s.ev.k with
  | 1 => { s with poison := (s.ev.pa / 128, rec_) :: s.poison }
  | 2 => { s with poison := (s.ev.pa / 128, rec_) :: s.poison }
  | 3 => { s with wpoison := (wsAddr s.ev.die s.ev.n / 32, rec_) :: s.wpoison }
  | 4 => s.updGroup s.ev.g fun x => { x with rpoison := (s.ev.e, s.ev.n, rec_) :: x.rpoison }
  | 5 => s.updTeam s.ev.tm fun t => { t with spoison := (s.ev.n / 4, rec_) :: t.spoison }
  | _ => s

/-- A unit has met an error, and run its test (18 R422), for which a line of an L2 is written back and evicted: the record is counted,
and written and sent where a log is set. -/
def execErrorDetected (s : State) : Out :=
  let p := s.partOfDie s.ev.die
  let t := s.prt p
  let s1 := (if s.ev.k = 1 then s.evict (s.ev.pa / 128) else s).setPrt p { t with seq := t.seq + 1 }
  .next (if s.ev.k = 0 || 6 < s.ev.k || 2 < s.ev.i then s else match t.logBase, s.supCtx p with
    | some base, some c =>
      let a := base + w64 (64 * (t.seq.toNat % t.logCount))
      let q := (s1.devWrite c a ((s.errorRec t.seq).flatMap fun w => natLe 8 w.toNat)).hostEvent 3 p [a]
      if s.ev.flag then q.poisoned a else q
    | _, _ => if s.ev.flag then s1.poisoned 0 else s1)

/-- The device is reset (18 R431): firmware verifies, or the device answers IDENT alone. The model's own counters go on. See log entry 44, DEDUCED. -/
def execDeviceReset (s : State) : Out :=
  .next { State.reset with fwOk := s.ev.flag, agenda := s.agenda, fresh := s.fresh, nextId := s.nextId, pick := s.pick }

end Sys2Proof.Machine
end

