-- ==== Sys2Proof/Machine/System.lean ====
section
/-! DEFINITION. The instructions of supervisor software over groups and translations: `eret` and `halt` (15 R378, R379),
`tlbinv` (17 R406 to R408) and `stest` (18 R425). -/

namespace Sys2Proof.Machine

/-- What an address is among the save areas that serve the selected context (15 R378, R379). -/
inductive AreaAt where
  | none
  | freed
  | placed
  /-- The saved group of the area, with its STATE as it stands in memory. -/
  | group (g : Group) (st : Nat)

/-- Look an area up (15 R378). STATE stands in memory, where supervisor software may have changed it. -/
def State.areaAt (s : State) (a : Word) : AreaAt :=
  match s.selCtx with
  | none => .none
  | some _ =>
    match s.poolOf s.g.sctx.toNat with
    | none => .none
    | some (p, base, n) =>
      let off := (a - base).toNat
      if off % 0x30000 ≠ 0 ∨ n ≤ off / 0x30000 then .none
      else
        let st := field (s.areaWord p a 0) 40 8
        match s.allGroups.find? (fun (g : Group) => g.alive && decide (g.area = a) && decide (g.areaCtx = p)) with
        | none => if st = 4 then .freed else .placed
        | some g =>
          if st = 4 then .freed
          else match g.run with
            | .saved _ => if (s.teamD g.team).stopping then .freed else if st = 0 then .placed else .group g st
            | .reclaimed => if g.offSlot then .freed else .placed
            | _ => .placed

/-- A line of the area at an address that an engine operation owns: the device waits for the recall before it reads it (04 R126). -/
def State.areaHeld (s : State) (a : Word) : Option Nat := (s.poolOf s.g.sctx.toNat).bind fun p => s.devHeld p.1 a 0x30000
/-- Wait for a line that the device is to read. -/
def needLine : Option Nat → M PUnit
  | some l => holdM (.recall l)
  | none => .ok ⟨⟩

/-- A group in transit takes the grant that is asked for with it (16 R392). -/
def State.regrant (s : State) (g : Nat) (grant : Option Nat) : State :=
  let item := fun (it : StealItem) => if it.isGroup g then StealItem.group g grant else it
  { s with
    dies := s.dies.map fun x => { x with
      shadows := x.shadows.map fun y => { y with item := item y.item }
      steal := match x.steal with | .acking v it n => .acking v (item it) n | k => k }
    msgs := s.msgs.map fun m => { m with body := match m.body with | .offer it n => .offer (item it) n | .ack n it => .ack n (item it) | b => b } }

/-- Hand a saved group to the distributor (15 R378): one that is a candidate already takes the grant that is asked for, and one in transit
is a candidate where it settles. -/
def State.queueSaved (s : State) (g : Group) (grant : Option Nat) : State :=
  if s.travels g.id then s.regrant g.id grant else
  let d := (s.teamD g.team).die
  (s.dropCand d fun k => match k with | .saved x _ => x = g.id | _ => false).offerSaved g grant

/-- A saved group with the STATE of its area, as supervisor software has left it (15 R440). -/
def State.withState (s : State) (g : Group) (st : Nat) : State := s.updGroup g.id fun x => { x with run := .saved st }

/-- The grants at which a saved group may resume (15 R376). -/
def State.grantsOf (s : State) (g : Group) (st : Nat) : List Nat :=
  let t := s.teamD g.team
  if st = 3 then grants.filter fun x => t.gmin ≤ x && x ≤ t.gmax else [g.grant]

/-- `eret` (15 R378). -/
def execEret (d a b : CReg) (s : State) : Out :=
  s.finish do
    let w := (s.c b).toNat
    need (w / 8 = 0)
    needLine (s.areaHeld (s.c a))
    match s.areaAt (s.c a) with
    | .none => .ok (s.setC d 3)
    | .freed => .ok (s.setC d 1)
    | .placed => .ok (s.setC d 2)
    | .group g st =>
      let grant := grantOf (field w 0 2)
      let any := decide (field w 2 1 = 1)
      if s.areaBreaks g st || (!any && !(s.grantsOf g st).contains grant) then .ok (s.setC d 2)
      else
        let pc := w64 (s.areaWord g.areaCtx g.area 0x20)
        if pc.toNat % 4 ≠ 0 then .error (.trap { cause := causeMisaligned, addr := pc })
        else .ok (((s.setC d 0).withState g st).queueSaved g (if any then none else some grant))

/-- `halt` (15 R379). -/
def execHalt (d a b : CReg) (s : State) : Out :=
  s.finish do
    needLine (s.areaHeld (s.c a))
    .ok (match s.areaAt (s.c a) with
      | .none => s.setC d 3
      | .freed => s.setC d 1
      | .placed => s.setC d 2
      | .group g _ => (s.updTeam g.team fun t => { t with stopping := true, halted := some (s.c b) }).setC d 0)

/-- The context that a `tlbinv` names (17 R407). See log entry 38, DEDUCED. -/
def State.tlbCtx (s : State) (b : CReg) : M Nat := do
  let c := (s.c b).toNat
  need (c < 4096 ∧ (s.ctx c).valid = true ∧ (s.ctx c).part = (s.ctx s.t.ctx).part)
  .ok c

/-- Every `tlbinv` first acts as `fence.rel.dev` (17 R408). -/
def State.needFence (s : State) : M PUnit := if s.fenceWaits then holdM .tlbinv else .ok ⟨⟩

/-- Every access that used a translation of the issuing group's partition has been performed (17 R408): the words that engine operations
have kept back have arrived, and the matrix units have read what they had accepted. -/
def State.performed (s : State) : State :=
  let p := (s.ctx s.t.ctx).part
  ((s.ops.filter fun o => decide ((s.ctx o.ctx).part = p)).foldl State.landAll s).readMats p

/-- Remove cached translations of the issuing group's partition (17 R408). -/
def State.dropTlb (s : State) (p : TlbEntry → Bool) : State :=
  let mine := s.partDies (s.ctx s.t.ctx).part
  { s with tlb := s.tlb.filter fun e => !(mine.contains e.die && p e) }

/-- Remove walk-cache entries of the issuing group's partition (17 R408). -/
def State.dropWalks (s : State) (p : WalkEntry → Bool) : State :=
  let mine := s.partDies (s.ctx s.t.ctx).part
  { s with wcache := s.wcache.filter fun e => !(mine.contains e.die && p e) }

/-- A global leaf (17 R398). -/
def TlbEntry.global (e : TlbEntry) : Bool := pteBit e.leaf.toNat 5

/-- A context's walks of an address on a die may end in a G = 1 leaf: by the tables in memory, by those that the walk cache holds, or by a
leaf that a TLB holds (17 R398, R404). -/
def State.leadsGlobal (s : State) (die ctx va : Nat) : Bool :=
  ((List.range 4).any fun n =>
    match s.walkPath ctx (fun l => if n / 2 ^ l % 2 = 0 then none else s.cachedTable { ctx := ctx, priv := true, die := die, tm := 0 } va l) va with
    | some (leaf, _) => pteBit leaf 5
    | none => false) ||
  s.tlb.any fun e => decide (e.die = die) && decide (e.ctx = ctx) && e.serves va && e.global

/-- `tlbinv.va` (17 R407): with every slice of a 256 MiB leaf, and the table entries on the path of the address, of the context and of those
of its partition for which it leads to a G = 1 leaf (log entry 38, DEDUCED). -/
def execTlbinvVa (a b : CReg) (s : State) : Out :=
  s.finish do
    let c ← s.tlbCtx b
    s.needFence
    let page := (s.c a).toNat / 65536
    .ok ((s.performed.dropTlb fun e => (decide (e.ctx = c) || e.global) &&
      (if e.level = 1 then decide (e.page / 4096 = page / 4096) else decide (e.page = page))).dropWalks fun e =>
        (decide (e.ctx = c) || s.leadsGlobal e.die e.ctx (s.c a).toNat) && decide (e.tag = walkTag e.level (s.c a).toNat))

/-- `tlbinv.ctx` (17 R407). -/
def execTlbinvCtx (b : CReg) (s : State) : Out :=
  s.finish do
    let c ← s.tlbCtx b
    s.needFence
    .ok ((s.performed.dropTlb fun e => decide (e.ctx = c) && !e.global).dropWalks fun e => decide (e.ctx = c))

/-- `tlbinv.all` (17 R407). -/
def execTlbinvAll (s : State) : Out :=
  s.finish do
    s.needFence
    .ok ((s.performed.dropTlb fun _ => true).dropWalks fun _ => true)

/-- Operations of a context that are stopped under an INFO (17 R406). -/
def State.stoppedOps (s : State) (c : Nat) (info : Word) : List EngOp :=
  s.ops.filter fun o => decide (o.ctx = c) && (match o.stop with | some (i, _, _) => decide (i = info) | none => false)

/-- Stream fills of a context's groups that are stopped under an INFO go on, or fail (17 R406). -/
def State.resumeFills (s : State) (c : Nat) (info : Word) (retry : Bool) : State :=
  let f := fun (g : Group) => if (s.teamD g.team).ctx = c then { g with streams := g.streams.map (resumeStream retry info) } else g
  { s with g := f s.g, groups := s.groups.map f }

/-- `tlbinv.retry` (17 R406, R407). -/
def execTlbinvRetry (a b : CReg) (s : State) : Out :=
  s.finish do
    let c ← s.tlbCtx b
    s.needFence
    let s' := (s.stoppedOps c (s.c a)).foldl (fun s o => s.retryOp o) s
    .ok (s'.resumeFills c (s.c a) true)

/-- A stopped operation fails, with ST = 3 (17 R406). -/
def State.failStopped (s : State) (o : EngOp) : State := if o.chan.isSome then s.failTransfer o 3 else s.endOp o 3 o.cnt

/-- `tlbinv.fail` (17 R406, R407). -/
def execTlbinvFail (a b : CReg) (s : State) : Out :=
  s.finish do
    let c ← s.tlbCtx b
    s.needFence
    let s' := (s.stoppedOps c (s.c a)).foldl (fun s o => s.failStopped o) s
    .ok (s'.resumeFills c (s.c a) false)

/-- What a targeted test does as it begins (18 R425): a line of an L2 is written back and evicted, if it lies in the HBM of the group's
partition (17 R410). Its LOC is a physical address (log entry 60, DEDUCED). -/
def State.beginTest (s : State) (sel : Word) : State :=
  let s := { s with g := { s.g with testSel := sel, testClk := (s.dieAt s.t.die).clk } }
  let pa := field sel.toNat 16 48
  if field sel.toNat 0 4 = 1 ∧ s.paIn (s.ctx s.t.ctx).part pa = true then s.evict (pa / 128) else s

/-- `stest` (18 R425): the group waits for the test that it starts. -/
def execStest (_d a : CReg) (s : State) : Out :=
  let w := (s.c a).toNat
  if field w 4 4 = 0 ∧ field w 11 5 = 0 ∧ 1 ≤ field w 0 4 ∧ field w 0 4 ≤ 6 ∧ (s.partDies (s.ctx s.t.ctx).part).contains (field w 8 3) = true then
    .next ((s.beginTest (s.c a)).holdUnit .stest)
  else s.finish ill

/-- The selector and the destination of the test that a group waits for. -/
def State.testOf (s : State) : Option (CReg × Word) :=
  match s.fetchWord s.g.pc with
  | .ok (w, _) => (match decodeWord w with | .ok (.stest d a) => some (d, s.c a) | _ => none)
  | .error _ => none

/-- Results that the test of the current group may have (18 R425): 0 pass, 1 fail, 2 not run; of a datapath, pass or fail once its
sector has no resident group, and not run where that is not so within 2^20 cycles. -/
def State.testMay (s : State) (n : Nat) : Bool :=
  if field s.g.testSel.toNat 0 4 = 6 then
    let k := field s.g.testSel.toNat 8 3 * 256 + field s.g.testSel.toNat 16 8
    let free := !(s.allGroups.any fun x => x.resident && decide (s.sectorOf x = k))
    if free then decide (n ≤ 1) else decide (n = 2) && decide (2 ^ 20 ≤ ((s.dieAt s.t.die).clk - s.g.testClk).toNat)
  else decide (n ≤ 2)

/-- A targeted test that a group waits for ends (18 R425). -/
def execTargetedTestEnd (s : State) : Out :=
  let q := s.focus s.ev.g
  .next (match q.g.cwait, q.testOf with
    | some .stest, some (d, _) => if q.testMay s.ev.n then (q.setC d (w64 s.ev.n)).passUnit else s
    | _, _ => s)

end Sys2Proof.Machine
end

