-- ==== Sys2Proof/Machine/VectorWhole.lean ====
section
/-! DEFINITION. Instructions over whole registers: funnel shifts (09 R261), reductions (09 R262, 03 R89), permutes and
slides (09 R263, R264), `vregroup` (09 R265) and `vdot4.x` (11 R335). None is admitted in an AIB. -/

namespace Sys2Proof.Machine

/-- The string of elements 0 to n − 1 of a register, element 0 lowest (09 R261). -/
def State.bitString (s : State) (r w n : Nat) : Nat :=
  ((List.range n).map fun e => s.el r w e * 2 ^ (w * e)).sum

/-- A whole-register shift (09 R261): `f` gives the new string from A, D, the amount and L. -/
def State.wholeShift (s : State) (f : Nat → Nat → Nat → Nat → Nat) (two : Bool) (d a : VName) (t : Ty) : M State := do
  need (s.vp.isNone = true ∧ t.six = true)
  let w := t.bits
  allM ([d.toNat, a.toNat].map s.needReg)
  need (d ≠ a)
  s.vcheck w (if two then [a.toNat, d.toNat] else [a.toNat]) [d.toNat] (some (List.range s.u.vl.toNat))
  let n := s.u.vl.toNat
  let x := f (s.bitString a.toNat w n) (s.bitString d.toNat w n) s.u.opB.toNat (n * w)
  .ok ((s.setEls d.toNat w (s.active.map fun e => (e, getEl w x e))).consume [a.toNat])

def shlwF (a _d n l : Nat) : Nat := if n ≥ l then 0 else a * 2 ^ n % 2 ^ l
def shrwF (a _d n l : Nat) : Nat := if n ≥ l then 0 else a / 2 ^ n
def fslF (a d n l : Nat) : Nat := if n ≥ 2 * l then 0 else ((a * 2 ^ l + d) * 2 ^ n % 2 ^ (2 * l)) / 2 ^ l
def fsrF (a d n l : Nat) : Nat := if n ≥ 2 * l then 0 else (d * 2 ^ l + a) / 2 ^ n % 2 ^ l

/-- `vshlw` (09 R261). -/
def execVshlw (d a : VName) (_b : CReg) (t : Ty) (s : State) : Out := s.finish (s.wholeShift shlwF false d a t)
/-- `vshrw` (09 R261). -/
def execVshrw (d a : VName) (_b : CReg) (t : Ty) (s : State) : Out := s.finish (s.wholeShift shrwF false d a t)
/-- `vfsl` (09 R261). -/
def execVfsl (d a : VName) (_b : CReg) (t : Ty) (s : State) : Out := s.finish (s.wholeShift fslF true d a t)
/-- `vfsr` (09 R261). -/
def execVfsr (d a : VName) (_b : CReg) (t : Ty) (s : State) : Out := s.finish (s.wholeShift fsrF true d a t)

/-- One level of the reduction tree (03 R89). -/
def pairUp {α : Type} (op : α → α → α) : List (Option α) → List (Option α)
  | some x :: some y :: r => some (op x y) :: pairUp op r
  | some x :: none :: r => some x :: pairUp op r
  | none :: y :: r => y :: pairUp op r
  | l => l

/-- The tree of 03 R89, by levels. -/
def treeGo {α : Type} (op : α → α → α) : Nat → List (Option α) → Option α
  | 0, l => l.headD none
  | n + 1, l => match l with
    | [] => none
    | [x] => x
    | l => treeGo op n (pairUp op l)
def tree {α : Type} (op : α → α → α) (l : List (Option α)) : Option α := treeGo op l.length l

/-- Groups of k leaves. -/
def chunks {α : Type} (k : Nat) : Nat → List α → List (List α)
  | 0, _ => []
  | n + 1, l => l.take k :: chunks k n (l.drop k)

/-- The reduction of 03 R89 over leaves in element order. -/
def reduce {α : Type} (op : α → α → α) (w : Nat) (l : List (Option α)) : Option α :=
  let k := 256 / w
  tree op ((chunks k ((l.length + k - 1) / k) l).map (tree op))

/-- The leaves of a reduction: elements below `vl` that are active and present. -/
def State.leaves (s : State) (a : VName) (t : Ty) : List (Option Nat) :=
  (List.range s.u.vl.toNat).map fun e =>
    let x := s.el a.toNat t.bits e
    if s.eff e && !t.isAbsent x then some x else none

/-- An active element is absent: ABS (09 R262). -/
def State.skipped (s : State) (a : VName) (t : Ty) : Bool := s.active.any fun e => t.isAbsent (s.el a.toNat t.bits e)

/-- The f32 sum of two f32 patterns with the flags met so far (03 R88). -/
def addF32 (rm : RMode) (x y : Nat × Sticky) : Nat × Sticky :=
  let r := Fmt.addV .f32 rm (Fmt.decode .f32 x.1) (Fmt.decode .f32 y.1)
  (r.bits, (x.2.or y.2).or r.fl)

/-- An f16, bf16 or f32 pattern as the f32 leaf of a sum, with NV for a signalling NaN (03 R72, R89). -/
def widen (t : Ty) (x : Nat) : Nat × Sticky :=
  let v := match t with | .f16 => Fmt.f16.decode x | .bf16 => Fmt.bf16.decode x | _ => Fmt.f32.decode x
  match v with
  | .nan sig => (Fmt.f32.nan, { nv := sig })
  | v => (Fmt.f32.exact v, {})

/-- The sum of a reduction (03 R89): its 32-bit pattern, its flags, and whether it saturated. See log entry 50, DEDUCED. -/
def State.redSum (s : State) (a : VName) (t : Ty) : Nat × Sticky × Bool :=
  if t.isInt then
    match reduce (fun (x y : Int) => x + y) t.bits ((s.leaves a t).map fun l => l.map (sextNat t.bits)) with
    | none => (Ty.i32.absentCode, {}, false)
    | some x => let r := satInt 32 x; (r.bits, {}, r.vo)
  else
    match reduce (addF32 s.u.rm) t.bits ((s.leaves a t).map fun l => l.map (widen t)) with
    | none => (Ty.f32.absentCode, {}, false)
    | some r => (r.1, r.2, false)

/-- The present active elements. -/
def State.redCount (s : State) (a : VName) (t : Ty) : Nat := ((s.leaves a t).filter fun l => l.isSome).length

/-- A reduction: its checks, and c[d] with what `f` gives (09 R262): the value, its flags and the `vo` bit 0. -/
def State.reduction (s : State) (d : CReg) (src : List Nat) (t : Ty) (f : Nat × Sticky × Bool) : M State := do
  need (s.vp.isNone = true ∧ t.six = true)
  s.vcheck t.bits src []
  let s' := (s.setC d (w64 f.1)).raise f.2.1
  .ok ((if f.2.2 then s'.setVo [0] else s').consume src)

/-- ABS as reductions raise it. -/
def State.redAbs (s : State) (a : VName) (t : Ty) (f : Sticky) : Sticky := { f with abs := f.abs || s.skipped a t }

/-- `vred.sum` (09 R262). -/
def execVredSum (d : CReg) (a : VName) (t : Ty) (_la : BitVec 4) (s : State) : Out :=
  let r := s.redSum a t
  s.finish (s.reduction d [a.toNat] t ((if t.isInt then (Ty.i32.toC r.1).toNat else r.1), s.redAbs a t r.2.1, r.2.2))

/-- A present leaf of an extreme: a NaN enters as the canonical one, with NV where it signals (03 R72). -/
def extLeaf (t : Ty) (x : Nat) : Nat × Sticky :=
  match t.fmt? with
  | some f => (f.canon x, { nv := (f.decode x).snan })
  | none => (x, {})

/-- The extreme present element (03 R84, R89): its pattern and flags. See log entry 50, DEDUCED. -/
def State.redExt (s : State) (big : Bool) (a : VName) (t : Ty) : Nat × Sticky :=
  let op := fun (x y : Nat × Sticky) =>
    let r := BinOp.eval (if big then .max else .min) t s.u.rm x.1 y.1
    (r.bits, (x.2.or y.2).or r.fl)
  match reduce op t.bits ((s.leaves a t).map fun l => l.map (extLeaf t)) with
  | none => (t.absentCode, {})
  | some r => r

/-- `vred.max` (09 R262). -/
def execVredMax (d : CReg) (a : VName) (t : Ty) (_la : BitVec 4) (s : State) : Out :=
  let r := s.redExt true a t
  s.finish (s.reduction d [a.toNat] t ((t.toC r.1).toNat, s.redAbs a t r.2, false))
/-- `vred.min` (09 R262). -/
def execVredMin (d : CReg) (a : VName) (t : Ty) (_la : BitVec 4) (s : State) : Out :=
  let r := s.redExt false a t
  s.finish (s.reduction d [a.toNat] t ((t.toC r.1).toNat, s.redAbs a t r.2, false))
/-- `vred.cnt` (09 R262). -/
def execVredCnt (d : CReg) (a : VName) (t : Ty) (_la : BitVec 4) (s : State) : Out :=
  s.finish (s.reduction d [a.toNat] t (s.redCount a t, s.redAbs a t {}, false))
/-- `vred.sumc` (09 R262). -/
def execVredSumc (d : CReg) (a : VName) (t : Ty) (_la : BitVec 4) (s : State) : Out :=
  let r := s.redSum a t
  s.finish (s.reduction d [a.toNat] t (r.1 + s.redCount a t * 2 ^ 32, s.redAbs a t r.2.1, r.2.2))
/-- `vred.popc` (09 R262). -/
def execVredPopc (d : CReg) (t : Ty) (_la : BitVec 4) (s : State) : Out :=
  s.finish (s.reduction d [] t (s.active.length, {}, false))
/-- `vred.first` (09 R262). -/
def execVredFirst (d : CReg) (t : Ty) (_la : BitVec 4) (s : State) : Out :=
  s.finish (s.reduction d [] t ((match s.active with | e :: _ => e | [] => 2 ^ 64 - 1), {}, false))

/-- ABSENT of a type and a facet family (09 R263). -/
def absentOf (t : Ty) (f : Bool) : Nat :=
  if t = .f64 then leNat (FacetFmt.allAbsent (if f then .e2m1 else .e4m3)) else t.absentCode

/-- The checks of permutes and slides: types, F, registers, overlap (09 R240, R242, R263); `which` lists the elements that are read where
they are not the active ones. -/
def State.permCheck (s : State) (t : Ty) (f : Bool) (d : VName) (src : List Nat) (which : Option (List Nat) := none) : M PUnit := do
  need (s.vp.isNone = true ∧ t ≠ .i64 ∧ (f = true → t = .f64))
  allM ((d.toNat :: src).map s.needReg)
  need (d.toNat ∉ src)
  s.vcheck t.mwidth src [d.toNat] which

/-- `vcompress` (09 R263). -/
def execVcompress (d a : VName) (t : Ty) (f : Bool) (s : State) : Out :=
  s.finish do
    s.permCheck t f d [a.toNat]
    let w := t.mwidth
    let xs := s.active.map fun e => s.el a.toNat w e
    .ok ((s.setEls d.toNat w ((List.range s.u.vl.toNat).map fun e => (e, xs.getD e (absentOf t f)))).consume [a.toNat])

/-- `vexpand` (09 R263). -/
def execVexpand (d a : VName) (t : Ty) (f : Bool) (s : State) : Out :=
  s.finish do
    s.permCheck t f d [a.toNat] (some (List.range s.active.length))
    let w := t.mwidth
    .ok ((s.setEls d.toNat w (s.active.mapIdx fun j e => (e, s.el a.toNat w j))).consume [a.toNat])

/-- `vperm` (09 R263): b names a run of `vl` i32 indices. -/
def execVperm (d a b : VName) (t : Ty) (f : Bool) (s : State) : Out :=
  s.finish do
    s.permCheck t f d [a.toNat] (some [])
    let w := t.mwidth
    let n := s.u.vl.toNat
    s.needReg b.toNat
    s.needRun b.toNat 32 n
    let k := s.runRegs 32 n
    need (¬ (b.toNat ≤ d.toNat ∧ d.toNat < b.toNat + k))
    let h ← s.srcHit (⟨a.toNat, w, 0, some []⟩ :: s.runSrcs b.toNat k 32)
    let idx := fun (e : Nat) => s.runEl b.toNat 32 e
    let in_ := fun (e : Nat) => !Ty.i32.isAbsent (idx e) && decide (0 ≤ sextNat 32 (idx e)) && decide (sextNat 32 (idx e) < s.vlmax w)
    raiseHit ((s.poisonFault ⟨a.toNat, w, 0, some ((s.active.filter fun e => beforeHit h e && in_ e).map fun e => (sextNat 32 (idx e)).toNat)⟩).or h)
    let rs := s.active.map fun e =>
      let x := s.runEl b.toNat 32 e
      let i := sextNat 32 x
      if Ty.i32.isAbsent x then (e, absentOf t f, true)
      else if i < 0 ∨ i ≥ s.vlmax w then (e, absentOf t f, false) else (e, s.el a.toNat w i.toNat, false)
    .ok (((s.setEls d.toNat w (rs.map fun r => (r.1, r.2.1))).raise { abs := rs.any fun r => r.2.2 }).consume (a.toNat :: runNames b.toNat k))

/-- `vslideup` (09 R264). -/
def execVslideup (d a : VName) (_b : CReg) (t : Ty) (f : Bool) (s : State) : Out :=
  s.finish do
    let w := t.mwidth
    let n := s.u.opB.toNat
    s.permCheck t f d [a.toNat] (some ((s.active.filter fun e => n ≤ e).map fun e => e - n))
    .ok ((s.setEls d.toNat w ((s.active.filter fun e => n ≤ e).map fun e => (e, s.el a.toNat w (e - n)))).consume [a.toNat])

/-- `vslidedn` (09 R264). -/
def execVslidedn (d a : VName) (_b : CReg) (t : Ty) (f : Bool) (s : State) : Out :=
  s.finish do
    let w := t.mwidth
    let n := s.u.opB.toNat
    s.permCheck t f d [a.toNat] (some ((s.active.filter fun e => e + n < s.u.vl.toNat).map fun e => e + n))
    .ok ((s.setEls d.toNat w (s.active.map fun e =>
      (e, if e + n < s.u.vl.toNat then s.el a.toNat w (e + n) else absentOf t f))).consume [a.toNat])

/-- Insert by key, after equal keys. -/
def insertKey (x : Int × Nat) : List (Int × Nat) → List (Int × Nat)
  | [] => [x]
  | y :: r => if x.1 < y.1 then x :: y :: r else y :: insertKey x r
def sortKeys (l : List (Int × Nat)) : List (Int × Nat) := l.foldl (fun r x => insertKey x r) []

/-- `vregroup` (09 R265). -/
def execVregroup (d a : VName) (t : Ty) (s : State) : Out :=
  s.finish do
    need (s.vp.isNone = true ∧ (t = .i16 ∨ t = .i32))
    let d1 := d.toNat + 1
    allM ([d.toNat, d1, a.toNat].map s.needReg)
    need (a ≠ d ∧ a.toNat ≠ d1)
    s.needVl 32
    s.needUnbound d.toNat
    s.needUnbound d1
    let h ← s.srcHit [⟨a.toNat, t.bits, 0, none⟩]
    let m := s.vlmax 32
    let keys := s.active.map fun e => (e, s.el a.toNat t.bits e)
    match keys.find? fun k => beforeHit h k.1 && !t.isAbsent k.2 && (decide (sextNat t.bits k.2 < 0) || decide (sextNat t.bits k.2 ≥ m)) with
    | some (e, k) => .error (.trap { cause := causeIndex, elem := w64 e, idx := BitVec.ofInt 64 (sextNat t.bits k) })
    | none => do
      raiseHit h
      let p := sortKeys ((keys.filter fun k => !t.isAbsent k.2).map fun k => (sextNat t.bits k.2, k.1))
      let q := (keys.filter fun k => t.isAbsent k.2).map fun k => k.1
      let perm := (p.map fun x => x.2) ++ q
      let s1 := s.setEls d.toNat 32 ((List.range s.u.vl.toNat).map fun i => (i, perm.getD i Ty.i32.absentCode))
      let s2 := s1.setEls d1 32 ((List.range m).map fun k => (k, (p.filter fun x => x.1 = (k : Int)).length))
      .ok ((s2.raise { abs := decide (q ≠ []) }).consume [a.toNat])

/-- One element of `vdot4.x` (11 R335). -/
def dot4 (p : Bool) (a b d : Nat) : Res :=
  let prs := (List.range 4).map fun i => (getEl 8 a i, getEl 8 b i)
  let anyAbs := prs.any fun x => decide (x.1 = 0x80) || decide (x.2 = 0x80)
  let terms := prs.filter fun x => decide (x.1 ≠ 0x80) && decide (x.2 ≠ 0x80)
  let da := Ty.i32.isAbsent d
  let r : Res :=
    if !p && (anyAbs || da) then { bits := Ty.i32.absentCode }
    else if p && decide (terms = []) && da then { bits := Ty.i32.absentCode }
    else satInt 32 ((if da then 0 else sextNat 32 d) + (terms.map fun x => sextNat 8 x.1 * sextNat 8 x.2).sum)
  if anyAbs || da then r.abs else r

/-- `vdot4.x` (11 R335). -/
def execVdot4X (d a : VName) (b : BOp) (p : Bool) (s : State) : Out :=
  s.finish do
    need (s.vp.isNone = true)
    s.elementwise true .i32 d (a.toNat :: d.toNat :: bReg b) fun e =>
      dot4 p (s.el a.toNat 32 e) (s.bEl b 32 e) (s.el d.toNat 32 e)

end Sys2Proof.Machine
end

