-- ==== Sys2Proof/Machine/Dispatch.lean ====
section
/-! DEFINITION. One arm for each step of the opcode table: a direct call of its meaning. -/

namespace Sys2Proof.Machine

def exec (i : Instr) (s : State) : Host.Outcome State Fault Refusal :=
  match i with
  | .add d a b => Sys2Proof.Machine.execAdd d a b s
  | .sub d a b => Sys2Proof.Machine.execSub d a b s
  | .mul d a b => Sys2Proof.Machine.execMul d a b s
  | .mulh d a b => Sys2Proof.Machine.execMulh d a b s
  | .mulhu d a b => Sys2Proof.Machine.execMulhu d a b s
  | .and d a b => Sys2Proof.Machine.execAnd d a b s
  | .or d a b => Sys2Proof.Machine.execOr d a b s
  | .xor d a b => Sys2Proof.Machine.execXor d a b s
  | .sll d a b => Sys2Proof.Machine.execSll d a b s
  | .srl d a b => Sys2Proof.Machine.execSrl d a b s
  | .sra d a b => Sys2Proof.Machine.execSra d a b s
  | .slt d a b => Sys2Proof.Machine.execSlt d a b s
  | .sltu d a b => Sys2Proof.Machine.execSltu d a b s
  | .min d a b => Sys2Proof.Machine.execMin d a b s
  | .max d a b => Sys2Proof.Machine.execMax d a b s
  | .div d a b la => Sys2Proof.Machine.execDiv d a b la s
  | .divu d a b la => Sys2Proof.Machine.execDivu d a b la s
  | .rem d a b la => Sys2Proof.Machine.execRem d a b la s
  | .remu d a b la => Sys2Proof.Machine.execRemu d a b la s
  | .addi d a imm => Sys2Proof.Machine.execAddi d a imm s
  | .andi d a imm => Sys2Proof.Machine.execAndi d a imm s
  | .ori d a imm => Sys2Proof.Machine.execOri d a imm s
  | .xori d a imm => Sys2Proof.Machine.execXori d a imm s
  | .slti d a imm => Sys2Proof.Machine.execSlti d a imm s
  | .sltiu d a imm => Sys2Proof.Machine.execSltiu d a imm s
  | .slli d a n => Sys2Proof.Machine.execSlli d a n s
  | .srli d a n => Sys2Proof.Machine.execSrli d a n s
  | .srai d a n => Sys2Proof.Machine.execSrai d a n s
  | .lui d imm => Sys2Proof.Machine.execLui d imm s
  | .lpc d imm => Sys2Proof.Machine.execLpc d imm s
  | .ld d a sz off la => Sys2Proof.Machine.execLd d a sz off la s
  | .ldu d a sz off la => Sys2Proof.Machine.execLdu d a sz off la s
  | .st d a sz off la => Sys2Proof.Machine.execSt d a sz off la s
  | .beq a b off => Sys2Proof.Machine.execBeq a b off s
  | .bne a b off => Sys2Proof.Machine.execBne a b off s
  | .blt a b off => Sys2Proof.Machine.execBlt a b off s
  | .bge a b off => Sys2Proof.Machine.execBge a b off s
  | .bltu a b off => Sys2Proof.Machine.execBltu a b off s
  | .bgeu a b off => Sys2Proof.Machine.execBgeu a b off s
  | .jal d off => Sys2Proof.Machine.execJal d off s
  | .jalr d a imm => Sys2Proof.Machine.execJalr d a imm s
  | .fadd d a b t => Sys2Proof.Machine.execFadd d a b t s
  | .fsub d a b t => Sys2Proof.Machine.execFsub d a b t s
  | .fmul d a b t => Sys2Proof.Machine.execFmul d a b t s
  | .fmin d a b t => Sys2Proof.Machine.execFmin d a b t s
  | .fmax d a b t => Sys2Proof.Machine.execFmax d a b t s
  | .fcmpEq d a b t => Sys2Proof.Machine.execFcmpEq d a b t s
  | .fcmpLt d a b t => Sys2Proof.Machine.execFcmpLt d a b t s
  | .fcmpLe d a b t => Sys2Proof.Machine.execFcmpLe d a b t s
  | .fcvt d a code t => Sys2Proof.Machine.execFcvt d a code t s
  | .fdiv d a b t la => Sys2Proof.Machine.execFdiv d a b t la s
  | .fsqrt d a t la => Sys2Proof.Machine.execFsqrt d a t la s
  | .fma d a b t la => Sys2Proof.Machine.execFma d a b t la s
  | .setvl d a imm => Sys2Proof.Machine.execSetvl d a imm s
  | .crd d n => Sys2Proof.Machine.execCrd d n s
  | .cwr a n => Sys2Proof.Machine.execCwr a n s
  | .vf off => Sys2Proof.Machine.execVf off s
  | .vfr a => Sys2Proof.Machine.execVfr a s
  | .fetch off => Sys2Proof.Machine.execFetch off s
  | .fetchNz a off => Sys2Proof.Machine.execFetchNz a off s
  | .stop => Sys2Proof.Machine.execStop s
  | .jenrol j => Sys2Proof.Machine.execJenrol j s
  | .jpark j => Sys2Proof.Machine.execJpark j s
  | .jstrike j => Sys2Proof.Machine.execJstrike j s
  | .qput a => Sys2Proof.Machine.execQput a s
  | .qget d => Sys2Proof.Machine.execQget d s
  | .qclr => Sys2Proof.Machine.execQclr s
  | .vsend a => Sys2Proof.Machine.execVsend a s
  | .vrecv d => Sys2Proof.Machine.execVrecv d s
  | .vid d a t => Sys2Proof.Machine.execVid d a t s
  | .vadd d a b t p => Sys2Proof.Machine.execVadd d a b t p s
  | .vsub d a b t p => Sys2Proof.Machine.execVsub d a b t p s
  | .vmul d a b t p => Sys2Proof.Machine.execVmul d a b t p s
  | .vmac d a b t p => Sys2Proof.Machine.execVmac d a b t p s
  | .vmin d a b t p => Sys2Proof.Machine.execVmin d a b t p s
  | .vmax d a b t p => Sys2Proof.Machine.execVmax d a b t p s
  | .vabs d a t p => Sys2Proof.Machine.execVabs d a t p s
  | .vneg d a t p => Sys2Proof.Machine.execVneg d a t p s
  | .vand d a b t p => Sys2Proof.Machine.execVand d a b t p s
  | .vor d a b t p => Sys2Proof.Machine.execVor d a b t p s
  | .vxor d a b t p => Sys2Proof.Machine.execVxor d a b t p s
  | .vnot d a t p => Sys2Proof.Machine.execVnot d a t p s
  | .vsll d a b t p => Sys2Proof.Machine.execVsll d a b t p s
  | .vsrl d a b t p => Sys2Proof.Machine.execVsrl d a b t p s
  | .vsra d a b t p => Sys2Proof.Machine.execVsra d a b t p s
  | .vdiv d a b t p la => Sys2Proof.Machine.execVdiv d a b t p la s
  | .vcmpEq a b t => Sys2Proof.Machine.execVcmpEq a b t s
  | .vcmpNe a b t => Sys2Proof.Machine.execVcmpNe a b t s
  | .vcmpLt a b t => Sys2Proof.Machine.execVcmpLt a b t s
  | .vcmpLe a b t => Sys2Proof.Machine.execVcmpLe a b t s
  | .vcmpuLt a b t => Sys2Proof.Machine.execVcmpuLt a b t s
  | .vcmpuLe a b t => Sys2Proof.Machine.execVcmpuLe a b t s
  | .vabsent a t => Sys2Proof.Machine.execVabsent a t s
  | .vsel d a b t => Sys2Proof.Machine.execVsel d a b t s
  | .vmov d a t => Sys2Proof.Machine.execVmov d a t s
  | .vmovScalar d b t => Sys2Proof.Machine.execVmovScalar d b t s
  | .vbcast d a b t => Sys2Proof.Machine.execVbcast d a b t s
  | .vext d a b t => Sys2Proof.Machine.execVext d a b t s
  | .vsetabs d t => Sys2Proof.Machine.execVsetabs d t s
  | .vfill d t => Sys2Proof.Machine.execVfill d t s
  | .vfillScalar d b t => Sys2Proof.Machine.execVfillScalar d b t s
  | .vmsave d m => Sys2Proof.Machine.execVmsave d m s
  | .vmload a m => Sys2Proof.Machine.execVmload a m s
  | .vomov => Sys2Proof.Machine.execVomov s
  | .vcvt d a code t la => Sys2Proof.Machine.execVcvt d a code t la s
  | .vquant d a code t la => Sys2Proof.Machine.execVquant d a code t la s
  | .vdequant d a code t la => Sys2Proof.Machine.execVdequant d a code t la s
  | .vexp2 d a t la => Sys2Proof.Machine.execVexp2 d a t la s
  | .vlog2 d a t la => Sys2Proof.Machine.execVlog2 d a t la s
  | .vrcp d a t la => Sys2Proof.Machine.execVrcp d a t la s
  | .vrsqrt d a t la => Sys2Proof.Machine.execVrsqrt d a t la s
  | .vsqrt d a t la => Sys2Proof.Machine.execVsqrt d a t la s
  | .vsin d a t la => Sys2Proof.Machine.execVsin d a t la s
  | .vcos d a t la => Sys2Proof.Machine.execVcos d a t la s
  | .vtanh d a t la => Sys2Proof.Machine.execVtanh d a t la s
  | .vsigm d a t la => Sys2Proof.Machine.execVsigm d a t la s
  | .vexp d a t la => Sys2Proof.Machine.execVexp d a t la s
  | .vgelu d a t la => Sys2Proof.Machine.execVgelu d a t la s
  | .vshlw d a b t => Sys2Proof.Machine.execVshlw d a b t s
  | .vshrw d a b t => Sys2Proof.Machine.execVshrw d a b t s
  | .vfsl d a b t => Sys2Proof.Machine.execVfsl d a b t s
  | .vfsr d a b t => Sys2Proof.Machine.execVfsr d a b t s
  | .vredSum d a t la => Sys2Proof.Machine.execVredSum d a t la s
  | .vredMax d a t la => Sys2Proof.Machine.execVredMax d a t la s
  | .vredMin d a t la => Sys2Proof.Machine.execVredMin d a t la s
  | .vredCnt d a t la => Sys2Proof.Machine.execVredCnt d a t la s
  | .vredSumc d a t la => Sys2Proof.Machine.execVredSumc d a t la s
  | .vredPopc d t la => Sys2Proof.Machine.execVredPopc d t la s
  | .vredFirst d t la => Sys2Proof.Machine.execVredFirst d t la s
  | .vcompress d a t f => Sys2Proof.Machine.execVcompress d a t f s
  | .vexpand d a t f => Sys2Proof.Machine.execVexpand d a t f s
  | .vperm d a b t f => Sys2Proof.Machine.execVperm d a b t f s
  | .vslideup d a b t f => Sys2Proof.Machine.execVslideup d a b t f s
  | .vslidedn d a b t f => Sys2Proof.Machine.execVslidedn d a b t f s
  | .vregroup d a t => Sys2Proof.Machine.execVregroup d a t s
  | .spl a sf l => Sys2Proof.Machine.execSpl a sf l s
  | .splb off => Sys2Proof.Machine.execSplb off s
  | .vld d a sz off la => Sys2Proof.Machine.execVld d a sz off la s
  | .vlds d a sz off la => Sys2Proof.Machine.execVlds d a sz off la s
  | .vst d a sz off la => Sys2Proof.Machine.execVst d a sz off la s
  | .vsts d a sz off la => Sys2Proof.Machine.execVsts d a sz off la s
  | .vldw d a t la => Sys2Proof.Machine.execVldw d a t la s
  | .vpermw d a b t la => Sys2Proof.Machine.execVpermw d a b t la s
  | .vscatO d a b t la => Sys2Proof.Machine.execVscatO d a b t la s
  | .vscatU d a b t la => Sys2Proof.Machine.execVscatU d a b t la s
  | .vamoAdd d a b t => Sys2Proof.Machine.execVamoAdd d a b t s
  | .vamoAddf d a b t => Sys2Proof.Machine.execVamoAddf d a b t s
  | .vamoAddc d a b t => Sys2Proof.Machine.execVamoAddc d a b t s
  | .vamoMin d a b t => Sys2Proof.Machine.execVamoMin d a b t s
  | .vamoMax d a b t => Sys2Proof.Machine.execVamoMax d a b t s
  | .vamoMinf d a b t => Sys2Proof.Machine.execVamoMinf d a b t s
  | .vamoMaxf d a b t => Sys2Proof.Machine.execVamoMaxf d a b t s
  | .vamoAnd d a b t => Sys2Proof.Machine.execVamoAnd d a b t s
  | .vamoOr d a b t => Sys2Proof.Machine.execVamoOr d a b t s
  | .vamoXor d a b t => Sys2Proof.Machine.execVamoXor d a b t s
  | .vamoSwap d a b t => Sys2Proof.Machine.execVamoSwap d a b t s
  | .vamoCas d a b t => Sys2Proof.Machine.execVamoCas d a b t s
  | .amoAdd d a b t => Sys2Proof.Machine.execAmoAdd d a b t s
  | .amoAddf d a b t => Sys2Proof.Machine.execAmoAddf d a b t s
  | .amoAddc d a b t => Sys2Proof.Machine.execAmoAddc d a b t s
  | .amoMin d a b t => Sys2Proof.Machine.execAmoMin d a b t s
  | .amoMax d a b t => Sys2Proof.Machine.execAmoMax d a b t s
  | .amoMinf d a b t => Sys2Proof.Machine.execAmoMinf d a b t s
  | .amoMaxf d a b t => Sys2Proof.Machine.execAmoMaxf d a b t s
  | .amoAnd d a b t => Sys2Proof.Machine.execAmoAnd d a b t s
  | .amoOr d a b t => Sys2Proof.Machine.execAmoOr d a b t s
  | .amoXor d a b t => Sys2Proof.Machine.execAmoXor d a b t s
  | .amoSwap d a b t => Sys2Proof.Machine.execAmoSwap d a b t s
  | .amoCas d a b t => Sys2Proof.Machine.execAmoCas d a b t s
  | .acq a => Sys2Proof.Machine.execAcq a s
  | .acqSh a => Sys2Proof.Machine.execAcqSh a s
  | .rel a => Sys2Proof.Machine.execRel a s
  | .bind d a b => Sys2Proof.Machine.execBind d a b s
  | .unbind a => Sys2Proof.Machine.execUnbind a s
  | .fenceAcq scope => Sys2Proof.Machine.execFenceAcq scope s
  | .fenceRel scope => Sys2Proof.Machine.execFenceRel scope s
  | .fenceFull scope => Sys2Proof.Machine.execFenceFull scope s
  | .ifence => Sys2Proof.Machine.execIfence s
  | .bar k a => Sys2Proof.Machine.execBar k a s
  | .barArrive k a => Sys2Proof.Machine.execBarArrive k a s
  | .vwait d a b => Sys2Proof.Machine.execVwait d a b s
  | .vgath k a b t la => Sys2Proof.Machine.execVgath k a b t la s
  | .vstream d a => Sys2Proof.Machine.execVstream d a s
  | .vunbind d => Sys2Proof.Machine.execVunbind d s
  | .copy k a b la => Sys2Proof.Machine.execCopy k a b la s
  | .tagwaitAny d a => Sys2Proof.Machine.execTagwaitAny d a s
  | .tagwaitAll d a => Sys2Proof.Machine.execTagwaitAll d a s
  | .tagffr d a => Sys2Proof.Machine.execTagffr d a s
  | .chgo d a b k => Sys2Proof.Machine.execChgo d a b k s
  | .chwait a k => Sys2Proof.Machine.execChwait a k s
  | .rres d a => Sys2Proof.Machine.execRres d a s
  | .rcom a b => Sys2Proof.Machine.execRcom a b s
  | .rclaim d a => Sys2Proof.Machine.execRclaim d a s
  | .rfree a b => Sys2Proof.Machine.execRfree a b s
  | .egath k a la => Sys2Proof.Machine.execEgath k a la s
  | .escat k a la => Sys2Proof.Machine.execEscat k a la s
  | .men a => Sys2Proof.Machine.execMen a s
  | .mdis => Sys2Proof.Machine.execMdis s
  | .mwin a b => Sys2Proof.Machine.execMwin a b s
  | .mzero a => Sys2Proof.Machine.execMzero a s
  | .mfence => Sys2Proof.Machine.execMfence s
  | .ldw a b la => Sys2Proof.Machine.execLdw a b la s
  | .mop a la => Sys2Proof.Machine.execMop a la s
  | .mrdRaw d a la => Sys2Proof.Machine.execMrdRaw d a la s
  | .mrdNorm d a la => Sys2Proof.Machine.execMrdNorm d a la s
  | .mrdCnt d a la => Sys2Proof.Machine.execMrdCnt d a la s
  | .mrdPair d a la => Sys2Proof.Machine.execMrdPair d a la s
  | .mwrVal a b la => Sys2Proof.Machine.execMwrVal a b la s
  | .mwrPair a b la => Sys2Proof.Machine.execMwrPair a b la s
  | .spawn d a b => Sys2Proof.Machine.execSpawn d a b s
  | .fdup a => Sys2Proof.Machine.execFdup a s
  | .fdrop a => Sys2Proof.Machine.execFdrop a s
  | .fget d a => Sys2Proof.Machine.execFget d a s
  | .ftest d a => Sys2Proof.Machine.execFtest d a s
  | .fret a => Sys2Proof.Machine.execFret a s
  | .rpt a b => Sys2Proof.Machine.execRpt a b s
  | .emit a b => Sys2Proof.Machine.execEmit a b s
  | .launch d a => Sys2Proof.Machine.execLaunch d a s
  | .yield => Sys2Proof.Machine.execYield s
  | .lfree a => Sys2Proof.Machine.execLfree a s
  | .vdot4X d a b p => Sys2Proof.Machine.execVdot4X d a b p s
  | .trap n => Sys2Proof.Machine.execTrap n s
  | .brk => Sys2Proof.Machine.execBrk s
  | .eret d a b => Sys2Proof.Machine.execEret d a b s
  | .tlbinvVa a b => Sys2Proof.Machine.execTlbinvVa a b s
  | .tlbinvCtx b => Sys2Proof.Machine.execTlbinvCtx b s
  | .tlbinvAll => Sys2Proof.Machine.execTlbinvAll s
  | .tlbinvRetry a b => Sys2Proof.Machine.execTlbinvRetry a b s
  | .tlbinvFail a b => Sys2Proof.Machine.execTlbinvFail a b s
  | .stest d a => Sys2Proof.Machine.execStest d a s
  | .halt d a b => Sys2Proof.Machine.execHalt d a b s
  | .pfxImm hi => Sys2Proof.Machine.execPfxImm hi s
  | .pfxScope hint scope => Sys2Proof.Machine.execPfxScope hint scope s
  | .crdVcs => Sys2Proof.Machine.execCrdVcs s
  | .cwrVcs => Sys2Proof.Machine.execCwrVcs s
  | .cwrVl => Sys2Proof.Machine.execCwrVl s
  | .cwrTags => Sys2Proof.Machine.execCwrTags s
  | .cwrSavePool => Sys2Proof.Machine.execCwrSavePool s
  | .viqEnqueue => Sys2Proof.Machine.execViqEnqueue s
  | .vfComplete => Sys2Proof.Machine.execVfComplete s
  | .vpIssue => Sys2Proof.Machine.execVpIssue s
  | .chordUnderflow => Sys2Proof.Machine.execChordUnderflow s
  | .chordOverflow => Sys2Proof.Machine.execChordOverflow s
  | .pivotGrant => Sys2Proof.Machine.execPivotGrant s
  | .vwaitWake => Sys2Proof.Machine.execVwaitWake s
  | .vwaitTimeout => Sys2Proof.Machine.execVwaitTimeout s
  | .streamFacetLanded => Sys2Proof.Machine.execStreamFacetLanded s
  | .copyComplete => Sys2Proof.Machine.execCopyComplete s
  | .channelFillSlot => Sys2Proof.Machine.execChannelFillSlot s
  | .channelDrainSlot => Sys2Proof.Machine.execChannelDrainSlot s
  | .channelTransferError => Sys2Proof.Machine.execChannelTransferError s
  | .ringReserve => Sys2Proof.Machine.execRingReserve s
  | .ringClaim => Sys2Proof.Machine.execRingClaim s
  | .pendingVoid => Sys2Proof.Machine.execPendingVoid s
  | .pendingDiscard => Sys2Proof.Machine.execPendingDiscard s
  | .engineCommandComplete => Sys2Proof.Machine.execEngineCommandComplete s
  | .enginePageFault => Sys2Proof.Machine.execEnginePageFault s
  | .directoryRecall => Sys2Proof.Machine.execDirectoryRecall s
  | .weightStoreRefresh => Sys2Proof.Machine.execWeightStoreRefresh s
  | .mopStart => Sys2Proof.Machine.execMopStart s
  | .mopComplete => Sys2Proof.Machine.execMopComplete s
  | .trapStop => Sys2Proof.Machine.execTrapStop s
  | .handlerSpawn => Sys2Proof.Machine.execHandlerSpawn s
  | .preEmption => Sys2Proof.Machine.execPreEmption s
  | .resume => Sys2Proof.Machine.execResume s
  | .groupEnd => Sys2Proof.Machine.execGroupEnd s
  | .reclamation => Sys2Proof.Machine.execReclamation s
  | .reclaimSettle => Sys2Proof.Machine.execReclaimSettle s
  | .weightRefill => Sys2Proof.Machine.execWeightRefill s
  | .weightReturn => Sys2Proof.Machine.execWeightReturn s
  | .binTimerExpiry => Sys2Proof.Machine.execBinTimerExpiry s
  | .gridRecordArrival => Sys2Proof.Machine.execGridRecordArrival s
  | .gridShareReport => Sys2Proof.Machine.execGridShareReport s
  | .temperatureSample => Sys2Proof.Machine.execTemperatureSample s
  | .stealRequest => Sys2Proof.Machine.execStealRequest s
  | .stealOffer => Sys2Proof.Machine.execStealOffer s
  | .stealAck => Sys2Proof.Machine.execStealAck s
  | .stealReceiptAccepted => Sys2Proof.Machine.execStealReceiptAccepted s
  | .stealReceiptStale => Sys2Proof.Machine.execStealReceiptStale s
  | .stealNone => Sys2Proof.Machine.execStealNone s
  | .stealTimerExpiry => Sys2Proof.Machine.execStealTimerExpiry s
  | .loc => Sys2Proof.Machine.execLoc s
  | .homeConfirm => Sys2Proof.Machine.execHomeConfirm s
  | .forwardedReferenceAction => Sys2Proof.Machine.execForwardedReferenceAction s
  | .linkFailure => Sys2Proof.Machine.execLinkFailure s
  | .dieReset => Sys2Proof.Machine.execDieReset s
  | .powerGatingRequest => Sys2Proof.Machine.execPowerGatingRequest s
  | .remoteCopyComplete => Sys2Proof.Machine.execRemoteCopyComplete s
  | .remoteCopyError => Sys2Proof.Machine.execRemoteCopyError s
  | .remoteAddWithCount => Sys2Proof.Machine.execRemoteAddWithCount s
  | .hostRdmaWrite => Sys2Proof.Machine.execHostRdmaWrite s
  | .hostRdmaRead => Sys2Proof.Machine.execHostRdmaRead s
  | .ident => Sys2Proof.Machine.execIdent s
  | .parts => Sys2Proof.Machine.execParts s
  | .context => Sys2Proof.Machine.execContext s
  | .power => Sys2Proof.Machine.execPower s
  | .start => Sys2Proof.Machine.execStart s
  | .grid => Sys2Proof.Machine.execGrid s
  | .release => Sys2Proof.Machine.execRelease s
  | .wstore => Sys2Proof.Machine.execWstore s
  | .errlog => Sys2Proof.Machine.execErrlog s
  | .nodes => Sys2Proof.Machine.execNodes s
  | .load => Sys2Proof.Machine.execLoad s
  | .translationEnd => Sys2Proof.Machine.execTranslationEnd s
  | .enroll => Sys2Proof.Machine.execEnroll s
  | .keyload => Sys2Proof.Machine.execKeyload s
  | .keyunload => Sys2Proof.Machine.execKeyunload s
  | .attest => Sys2Proof.Machine.execAttest s
  | .errorDetected => Sys2Proof.Machine.execErrorDetected s
  | .deviceReset => Sys2Proof.Machine.execDeviceReset s
  | .divideUnitResult => Sys2Proof.Machine.execDivideUnitResult s
  | .loadedValueArrives => Sys2Proof.Machine.execLoadedValueArrives s
  | .ldwComplete => Sys2Proof.Machine.execLdwComplete s
  | .targetedTestEnd => Sys2Proof.Machine.execTargetedTestEnd s
  | .remoteRdmaWrite => Sys2Proof.Machine.execRemoteRdmaWrite s
  | .remoteRdmaRead => Sys2Proof.Machine.execRemoteRdmaRead s

end Sys2Proof.Machine
end

