-- ==== Sys2Proof/Machine/Place.lean ====
section
/-! DEFINITION. What stands for the loading of a program (log entry 1, DESIGN CHOICE): a supervisor context with one 256 MiB page, and a
team of one group whose next word is the given one. -/

namespace Sys2Proof.Machine

/-- Where the word stands, and the word of the `vf` whose AIB it is. -/
def stageAddr : Word := 0x100000
def stageVf : Word32 := 0x40000001#32
/-- A page table entry that points to the level 1 table at 0x20000, and a leaf of level 1 for addresses 0 to 2^28 − 1, of
global memory, with every permission, under key slot 1 (17 R397). -/
def stageTable : Nat := 1 + 2 * 2 ^ 16
def stageLeaf : Nat := 0x1DF + 2 ^ 52

/-- The group of the staged team. -/
def stageGroup (id : Nat) (w : Word32) : Group :=
  let g : Group := { id := id, team := id, pc := stageAddr, budget := 64, vm := BitVec.allOnes 2048, area := 0x400000, areaCtx := 1 }
  match decodeWord w with
  | .ok i =>
    if clsOf i = .aib then
      { g with
        pc := 0x2000
        viq := [{ addr := stageAddr - 4, ipc := stageAddr - 4, word := stageVf, vl := 1 }]
        vps := { st := .ready, pc := stageAddr } :: List.replicate 63 {} }
    else g
  | .error _ => g

/-- The state with the word staged. -/
def State.stage (s : State) (w : Word32) : State :=
  let id := s.nextId
  let t : Team := { id := id, ctx := 1, priv := true, gids := [id], scrsz := 4096, ntags := 64, nchan := 8, nbar := 16 }
  let m := s.hbm.store 0x10000 (natLe 8 stageTable)
  let m := m.store 0x20000 (natLe 8 stageLeaf)
  { s with
    g := stageGroup id w, t := t, groups := s.allGroups, teams := s.allTeams, port := false, vp := none, u := {},
    ctxs := assocSet s.ctxs 1 { root := 1, wkey := 1, priv := true, valid := true, spool := 0x400000, spooln := 1 },
    keys := assocSet s.keys 1 (.loaded 0 0 0),
    hbm := m.store stageAddr.toNat (bytesOfWord w),
    areas := ⟨0x400000, 1, id⟩ :: s.areas,
    -- sector 0 of core 0 serves the new group next
    turns := [(0, id), (1, id), (2, id)] ++ s.turns,
    poison := s.poison.filter fun x => x.1 ≠ stageAddr.toNat / 128,
    lkeys := s.lkeys.filter fun x => x.1 ≠ stageAddr.toNat / 128,
    ops := s.ops.filter fun o => !o.lines.contains (stageAddr.toNat / 128),
    nextId := id + 1 }

end Sys2Proof.Machine
end

