-- ==== Sys2Proof/Machine/Move.lean ====
section
/-! DEFINITION. How groups move: the control thread and the port of a group, whose turn it is (01 R20, R45), results that are
late (07 R192), and how a choice of the agenda is carried out. -/

namespace Sys2Proof.Machine

/-- The outcome of a meaning, with what follows it. -/
def thenDo (o : Out) (f : State → State) : Out :=
  match o with
  | .next q => .next (f q)
  | o => o

/-- An entry, or an issue of a running `vf`, executes. -/
def State.portExec (s : State) (i : Instr) : Out :=
  if clsOf i = .event then thenDo (exec i s) fun q => { q with port := false } else State.entry exec i s

/-- The sticky bits that a unit leaves where they stood at `f`. -/
def stickyFrom (run : State → Out) (s : State) (f : Sticky) : Sticky :=
  match run { s with g := { s.g with sticky := f } } with
  | .next q => q.g.sticky
  | _ => f

/-- A late unit takes another value, where a covered unit has written what it reads (07 R192): it is executed again on what stands
now, and reads memory as it stood before later stores of its control thread (04 R108). -/
def State.lateAnew (s : State) (x : LateUnit) (k : Instr) : State :=
  let m := x.mem.getD (s.hbm, s.t.scratch)
  match exec k { s with u := x.u, hbm := m.1, t := { s.t with scratch := m.2 }, g := { s.g with late := [], sticky := {} } } with
  | .next r =>
    (match r.g.late with
      | [l] => { s with g := { s.g with
          late := s.g.late.map fun y => if y.seq = x.u.seq then { y with val := l.val } else y
          lateUnits := s.g.lateUnits.map fun y => if y.u.seq = x.u.seq then { y with fl := r.g.sticky } else y } }
      | _ => s)
  | _ => s

/-- The results that class C units deliver late may be of what a covered unit `i` has written (07 R192): each such unit is executed
again, or not, as a free choice says. -/
def State.lateAgain (s : State) (i : Instr) : State :=
  match cdestOf i with
  | none => s
  | some w =>
    s.g.lateUnits.foldl (fun s x =>
      match decodeWord x.u.word, s.g.late.find? fun l => l.seq = x.u.seq with
      | .ok k, some l =>
        if l.upto < s.u.seq || s.u.seq ≤ x.u.seq || !(creadsOf k).contains w.toNat then s
        else if (s.free).1 % 2 = 0 then (s.free).2 else (s.free).2.lateAnew x k
      | _, _ => s) s

/-- Late units keep the memory as it stood before the first later store of their group (04 R108): unit `n` has led from `p` to `q`. -/
def keepMem (p q : State) (n : Nat) (l : List LateUnit) : List LateUnit :=
  if q.hbm = p.hbm ∧ q.t.scratch = p.t.scratch then l
  else l.map fun x => if x.mem.isNone && decide (x.u.seq < n) then { x with mem := some (p.hbm, p.t.scratch) } else x

/-- The late units of a group as a unit between `p` and `s` leaves them, with the sticky bits of the others: it joins them if its
own result is late, and the memory before a first store is kept. -/
def State.noteLate (p s : State) (i : Instr) : State :=
  let late := s.g.late.any fun l => l.seq = p.u.seq
  if p.g.lateUnits = [] && !late then s else
  let rest := if p.g.lateUnits = [] then p.g.sticky else p.g.lateRest
  { s with g := { s.g with
    lateUnits := keepMem p s p.u.seq p.g.lateUnits ++ (match cdestOf i with | some d => if late then [{ d := d, u := p.u, fl := stickyFrom (exec i) p {} }] else [] | none => [])
    lateRest := if late then rest else stickyFrom (exec i) p rest } }

/-- The late units whose results are still late, and the sticky bits of `vcs` with the flags of all of them. -/
def State.settleLate (s : State) : State :=
  if s.g.lateUnits = [] then s else
  let waits := fun (x : LateUnit) => s.g.late.any fun l => l.seq = x.u.seq
  let flags := fun (f : Sticky) (l : List LateUnit) => l.foldl (fun f x => f.or x.fl) f
  { s with g := { s.g with
    sticky := flags s.g.lateRest s.g.lateUnits
    lateRest := flags s.g.lateRest (s.g.lateUnits.filter fun x => !waits x)
    lateUnits := s.g.lateUnits.filter waits } }

/-- The group in `s` has run entry `i`, from `p` to `q`, with late results pending (07 R192): flags that the entry raises are not those of a
late result; a late load of an older unit does not see what the entry stores (04 R108), and a late result may be of what it has written. -/
def State.afterEntry (p q : State) (i : Instr) : State :=
  let q := { q with g := { q.g with
    lateRest := stickyFrom (fun x => x.portExec i) p p.g.lateRest
    lateUnits := keepMem p q p.u.seq q.g.lateUnits } }
  (if p.u.dead || !p.clean q then q else q.lateAgain i).settleLate

/-- An entry executes, and what follows of late results where the group has some (07 R192). -/
def State.entryRun (s : State) (i : Instr) : Out :=
  thenDo (s.portExec i) fun q => if s.g.lateUnits = [] then q else s.afterEntry q i

/-- What the port of the current group does in its turn with the head of the VIQ (01 R25). -/
def State.portRun (s : State) : Out :=
  match s.portIssue with
  | .done o => o
  | .enqueued s' => .next s'
  | .run i s' => s'.entryRun i

/-- What a waiting entry of 11 R303 reads and writes when it executes: physical registers, accumulator rows of the team, `vo`, and
whether `vm` selects its elements. Once it waits it has passed every check, and is trap-safe (01 R25). -/
structure Foot where
  dst : List Nat := []
  src : List Nat := []
  rows : List Nat := []
  writesRows : Bool := false
  masked : Bool := true
  vo : Bool := false
  /-- The last unit that its lookahead covers. -/
  upto : Nat := 0
deriving DecidableEq, Repr

def State.foot (s : State) (i : Instr) : Foot :=
  let row := s.g.awb.toNat + field s.u.opA.toNat 0 9
  let rd := fun (l : List Nat) => ({ dst := l.map s.reg, rows := [row], upto := s.u.seq + laOf i } : Foot)
  let wr := fun (l : List Nat) (vo : Bool) => ({ src := l.map s.reg, rows := [row], writesRows := true, vo := vo, upto := s.u.seq + laOf i } : Foot)
  match i with
  | .mrdRaw d _ _ | .mrdNorm d _ _ | .mrdCnt d _ _ => rd [d.toNat]
  | .mrdPair d _ _ => rd [d.toNat, d.toNat + 1]
  | .mwrVal _ b _ => wr [b.toNat] false
  | .mwrPair _ b _ => wr [b.toNat, b.toNat + 1] true
  | .mzero _ => { rows := (List.range (field s.u.opA.toNat 16 10)).map fun k => row + k, writesRows := true, masked := false }
  | _ => {}

/-- Entries that never pass a waiting one: a `vf`, which executes in parts at the head of the VIQ, those that end or shrink the group,
and those that act on all of its matrix commands or windows (01 R25; log entry 66, DEDUCED). -/
def staysBehind : Instr → Bool
  | .vf _ | .vfr _ | .fret _ | .lfree _ | .men _ | .mdis | .mwin _ _ | .mfence => true
  | _ => false

/-- Unit `i` between `b` and `q` depends in no register, mask or row on the waiting entry `f` (01 R27): it writes nothing that `f` reads or
writes, and reads nothing that `f` writes, unless the lookahead of `f` covers it. What it reads of registers shows in that it takes the
poison of those that `f` writes. -/
def Foot.apart (f : Foot) (b q : State) (i : Instr) : Bool :=
  let mine := b.foot i
  let poison := f.dst.flatMap fun p => (List.range 512).map fun k => (p, k, (0 : Word))
  let reads := match exec i { b with g := { b.g with rpoison := poison ++ b.g.rpoison } } with
    | .next r => !b.clean r
    | _ => true
  q.wrote.all (fun r => !f.dst.contains r && !f.src.contains r && !(f.masked && decide (r = shadeVm)) && !f.rows.any fun k => decide (r = shadeRow k)) &&
  (q.mu.queue.drop b.mu.queue.length).all (fun x => f.rows.all fun k => !meets x.row x.m k 1) &&
  !(f.vo && (readsVo i || wholeMask i)) &&
  (decide (b.u.seq ≤ f.upto) || !reads && !(f.writesRows && mine.rows.any f.rows.contains))

/-- The entry that executes while the head of the VIQ waits in `s` for an operation of the matrix unit (11 R303, R314): the first behind it
that waits for none itself and depends on none that waits, with the state after it. It has taken its effect and commits in its turn (01
R25). An entry that cannot execute yet holds back those behind it, for its checks have not been passed. `gone` are the entries before
`l`, and `fs` what those that wait read and write. -/
def State.passing (s : State) (gone : List Unit) (fs : List Foot) : List Unit → Option (Instr × State)
  | [] => none
  | u :: rest =>
    if u.done || !u.enabled then s.passing (gone ++ [u]) fs rest
    else match decodeWord u.word with
    | .error _ => none
    | .ok i =>
      let b := { s with u := u, port := true, vp := none, g := { s.g with viq := rest, pwait := none } }
      match exec i b.tracing with
      | .next q =>
        if decide (q.g.id = s.g.id) && decide (q.g.pwait = some .accRows) then s.passing (gone ++ [u]) (b.foot i :: fs) rest
        else if staysBehind i || !b.clean q || !fs.all (fun f => f.apart b q i) then none
        else match b.entryRun i with
          | .next r => some (i, { r with g := { r.g with viq := gone ++ { u with done := true } :: r.g.viq, pwait := s.g.pwait } })
          | _ => none
      | _ => none

/-- The port of an instruction (01 R20, R21): 1 vector, 2 memory. -/
def portNo (i : Instr) : Nat := if clsOf i = .mem then 2 else 1

/-- The port of the current group has moved from `s` to `q`, where the head of the VIQ goes on waiting. -/
def State.stays (s q : State) : Bool := decide (q.g.id = s.g.id) && q.g.pwait.isSome

/-- What passes the head of a VIQ of several entries that goes on waiting in `q`. -/
def State.passed (s q : State) : Option (Instr × State) :=
  if s.g.viq.length ≤ 1 ∨ q.g.pwait ≠ some .accRows then none else q.passing [] [] q.g.viq

/-- Entries that have taken their effect commit behind the head (01 R25). -/
def State.committed (s q : State) : State :=
  if s.g.viq.tail.all fun u => !u.done then q else { q with g := { q.g with viq := q.g.viq.dropWhile fun u => u.done } }

/-- An access to `vcs`, which no lookahead covers (07 R192): the units before it have raised their flags. -/
def readsVcs : Instr → Bool
  | .crd _ n => n = 4
  | .cwr _ n => n = 4
  | _ => false

/-- What a class C or D unit between `p` and `s` has done beside its effect (07 R192): older entries no longer write its
destination, and late results follow what it has written. -/
def State.afterUnit (p s : State) (i : Instr) : State :=
  if clsOf i = .pfx || s.g.cwait.isSome || s.g.savedSt.isSome then s
  else if readsVcs i then { s.supersede i with g := { (s.supersede i).g with lateUnits := [] } }
  else ((p.noteLate (s.supersede i) i).lateAgain i).settleLate

/-- What the control thread of the current group does in its turn. -/
def State.controlRun (s : State) : Out :=
  match s.controlIssue with
  | .done o => o
  | .enqueued s' => .next s'
  | .run i s' => thenDo (exec i s') fun q => if s.backward q then q.reclaim else s'.afterUnit q i

/-- Group `x` is ready for the control port, or for the port of its VIQ (01 R20): it does not wait, or its wait is over, as a trial
shows. -/
def State.couldControl (s : State) (x : Group) : Bool :=
  x.controlReady && (x.cwait.isNone || (match (s.focus x.id).controlRun with
    | .next q => !(decide (q.g.id = x.id) && q.g.cwait.isSome)
    | _ => true))
/-- The port on which an entry of the current group could issue: its head, or where that waits one that may pass it (01 R27). -/
def State.portGoes (s : State) : Option Nat :=
  if s.g.vfRuns then (if s.vfMoves then some 1 else none)
  else if s.g.pwait.isNone then some s.g.portKind
  else match s.portRun with
    | .next q => if s.stays q then (s.passed q).map fun x => portNo x.1 else some s.g.portKind
    | _ => some s.g.portKind
def State.couldPort (s : State) (x : Group) (p : Nat) : Bool := x.portReady && decide ((s.focus x.id).portGoes = some p)
/-- The port whose turn the VIQ of the current group waits for. -/
def State.portOf (s : State) : Nat := s.portGoes.getD s.g.portKind

/-- The groups on the sector of group `x` in the order in which port `p` takes them: those that came after its last service stand last. -/
def State.lineUp (s : State) (x : Group) (p : Nat) : List Nat :=
  let k := s.sectorOf x
  let here := (s.allGroups.filter fun y => decide (s.sectorOf y = k)).map fun y => y.id
  let known := (s.turns.filter fun y => decide (y.1 = k * 3 + p) && here.contains y.2).map fun y => y.2
  known ++ here.filter fun i => !known.contains i

/-- It is the turn of group `x` at port `p` of its sector (01 R20, R45): it is the first in the order of the port among the groups that
are ready for it. -/
def State.turn (s : State) (x : Group) (p : Nat) : Bool :=
  let ready := fun (y : Group) => if p = 0 then s.couldControl y else s.couldPort y p
  decide ((s.lineUp x p).find? (fun i => decide (i = x.id) || s.allGroups.any fun y => decide (y.id = i) && ready y) = some x.id)

/-- Port `p` of the current group's sector serves it: it is the last in the order of the port, so that no group that came later passes one
that waits (01 R45). -/
def State.served (s : State) (p : Nat) : State :=
  let k := s.sectorOf s.g * 3 + p
  { s with turns := ((s.lineUp s.g p).filter fun i => i ≠ s.g.id).map (fun i => (k, i)) ++ (k, s.g.id) :: s.turns.filter fun y => y.1 ≠ k }

/-- The port of the current group moves, in its turn (01 R20, R25): where its head goes on waiting, an entry of this port may pass it,
and else nothing has been served. -/
def State.portMove (s : State) : Out :=
  let p := s.portOf
  thenDo (s.served p).portRun fun q =>
    if s.stays q then (match s.passed q with
      | some (i, r) => if portNo i = p then r else { q with turns := s.turns }
      | none => { q with turns := s.turns })
    else s.committed q

/-- The control thread of the current group moves, in its turn; `through` lets an entry that it enqueues in an empty VIQ
execute too. A thread that goes on waiting has not been served. -/
def State.controlMove (s : State) (through : Bool) : Out :=
  if s.reclaimable then .next s.reclaim else
  match (s.served 0).controlRun with
  | .next q =>
    if decide (q.g.id = s.g.id) && q.g.cwait.isSome then .next { q with turns := s.turns }
    else if through && decide (s.g.viq = []) && decide (q.g.viq ≠ []) && q.turn q.g q.portOf then q.portMove
    else .next q
  | o => o

/-- The control thread, and the port, of the current group may move: it is ready, and it is its turn. -/
def State.controlTurn (s : State) : Bool := s.g.controlReady && s.turn s.g 0
def State.portTurn (s : State) : Bool := s.g.portReady && (!s.g.vfRuns || s.vfMoves) && s.turn s.g s.portOf

/-- The group that moves where the agenda is empty: the first that can and whose turn it is, the current one last. -/
def State.nextGroup (s : State) : Nat :=
  match (s.groups ++ [s.g]).find? fun x => (s.couldControl x && s.turn x 0) || [1, 2].any fun p => s.couldPort x p && s.turn x p with
  | some x => x.id
  | none => 0

/-- The next choice, and the rest of the agenda. With an empty agenda, groups take every other step, and the steps without a
word take the others in turn. -/
def State.choice (s : State) : Choice × State :=
  match s.agenda with
  | c :: r => (c, { s with agenda := r })
  | [] =>
    let l := s.autoSteps
    let n := (s.dieAt 0).clk.toNat
    match l[n / 2 % l.length]? with
    | some c => if n % 2 = 1 then (c, s) else (.unit s.nextGroup, s)
    | none => (.unit s.nextGroup, s)

/-- Carry out one choice. -/
def State.move (s : State) : Choice → Out
  | .control g => let s := s.focus g; if s.controlTurn then s.controlMove false else .next s
  | .port g => let s := s.focus g; if s.portTurn then s.portMove else .next s
  | .unit g =>
    let s := s.focus g
    if s.portTurn then
      match s.portMove with
      | .next q => if q.controlTurn && decide (q.g.viq = s.g.viq) && decide (q.g.vps = s.g.vps) then q.controlMove true else .next q
      | o => o
    else if s.controlTurn then s.controlMove true else .next s
  | .engine op i => .next (s.engineStep op i)
  | .engineLate op i => .next (s.withhold (s.engineStep op i) op)
  | .engineWord op k => .next (s.wordArrives op k)
  | .matrixWord core i w => .next (s.matrixWord core i w)
  | .matrixRow core => .next (s.matrixRow core)
  | .streamRead g r e => .next (s.streamRead g r e)
  | .retry n => .next (s.retryHeld n)
  | .event i e => if agendaEvent i then exec i { s with ev := e } else .fault .badAgenda

/-- What ends a step from `s`: the distributors make the decisions that fall due (16 R386), and the clocks advance (02 R62). -/
def State.endStep (s q : State) : State := (q.decideAll.seenSince s).tick

end Sys2Proof.Machine
end

