-- ==== Sys2Proof/Machine/Step.lean ====
section
/-! DEFINITION. One step of the device: the next choice of the agenda is carried out, the distributors make the decisions
that fall due, and the clocks advance. And the state that is about to take one given instruction word. -/

namespace Sys2Proof.Machine

/-- One step. See log entry 12, DESIGN CHOICE. -/
def step (s : State) : Host.Outcome State Fault Refusal :=
  let (c, s') := s.choice
  match s'.move c with
  | .next q => .next (s'.endStep q)
  | o => o

/-- A state that is about to take a word as its next step (log entry 1, DESIGN CHOICE): the word stands where a resident group fetches
it, or, for a word that exists inside an AIB only, where a VP of a running `vf` does. -/
def State.withFetchWord (s : State) (nbits w : Nat) : State :=
  let word := BitVec.ofNat 32 (w % 2 ^ nbits)
  let s := s.stage word
  { s with agenda := .unit s.g.id :: s.agenda }

end Sys2Proof.Machine
end

