-- ==== Sys2Proof/Safety.lean ====
section
/-! DEFINITION. What counts as a safe run: every memory in its one canonical form, and no step that ends in a fault. -/

namespace Sys2Proof

open Sys2Proof.Machine

/-- Every memory of the device is in its canonical form: global memory, the weight stores, and each team's scratch. -/
def Safety.memories (s : State) : Prop :=
  s.hbm.wf = true ∧ s.wstore.wf = true ∧ s.t.scratch.wf = true ∧ ∀ t ∈ s.teams, t.scratch.wf = true

/-- A choice that a run may hold: an event of the table is one that stands on its own. -/
def Safety.choiceOk : Choice → Bool
  | .event i _ => agendaEvent i
  | _ => true

/-- The agenda holds only such choices. -/
def Safety.agendaOk (s : State) : Prop := ∀ c ∈ s.agenda, Safety.choiceOk c = true

end Sys2Proof
end

