-- ==== Sys2Proof/Certificates/Slice0/Obligations.lean ====
section
/-! DEFINITION. The statements for the provers: what the instructions and the machine do, from the numbered rules of
spec/. `Claim` holds the premises and tables that the statements share. -/

open Sys2Proof
open Sys2Proof.Machine

/-- `t` is `s` but for a write of `x` to `c` register `d`: `c0` reads zero and takes no write (02 R55), a late result of the
same register is dropped (07 R192), and nothing else of the state differs. -/
def Sys2Proof.Claim.wroteC (s t : State) (d : CReg) (x : Word) : Prop :=
  (∀ r, t.c r = if r = 0 then 0 else if r = d then x else s.c r) ∧
  t = { s with g := { s.g with c := t.g.c, late := s.g.late.filter fun l => decide (d = 0) || decide (l.d ≠ d) } }

/-- A result with a lookahead (07 R192): without one it is written; with one it waits, behind the late
results of earlier units, to be delivered after unit `seq + la`. -/
def Sys2Proof.Claim.gaveC (s t : State) (d : CReg) (x : Word) (la : BitVec 4) (div : Bool) : Prop :=
  (la = 0 → Claim.wroteC s t d x) ∧
  (la ≠ 0 → t = { s with g := { s.g with late := s.g.late ++ [⟨d, x, s.u.seq + la.toNat, div, s.u.seq⟩] } })

/-- The functions of the integer register instructions, on the readings that 08 R213 gives. -/
def Sys2Proof.Claim.integer : List ((CReg → CReg → CReg → Instr) × (Word → Word → Word)) := [
  (.add, fun x y => x + y), (.sub, fun x y => x - y), (.mul, fun x y => x * y),
  (.mulh, fun x y => BitVec.ofInt 64 (x.toInt * y.toInt / 2 ^ 64)),
  (.mulhu, fun x y => BitVec.ofNat 64 (x.toNat * y.toNat / 2 ^ 64)),
  (.and, fun x y => x &&& y), (.or, fun x y => x ||| y), (.xor, fun x y => x ^^^ y),
  (.sll, fun x y => BitVec.ofNat 64 (x.toNat * 2 ^ (y.toNat % 64))),
  (.srl, fun x y => BitVec.ofNat 64 (x.toNat / 2 ^ (y.toNat % 64))),
  (.sra, fun x y => BitVec.ofInt 64 (x.toInt / 2 ^ (y.toNat % 64))),
  (.slt, fun x y => if x.toInt < y.toInt then 1 else 0), (.sltu, fun x y => if x.toNat < y.toNat then 1 else 0),
  (.min, fun x y => BitVec.ofInt 64 (Min.min x.toInt y.toInt)), (.max, fun x y => BitVec.ofInt 64 (Max.max x.toInt y.toInt))]

/-- The words of opcode 0x01 are these instructions alone: function 15 and a nonzero t field are illegal (08 R213, 07 R199). -/
def Sys2Proof.Claim.word01 (w : Word32) : Prop :=
  (w.extractLsb' 0 4 = 15#4 ∨ w.extractLsb' 4 3 ≠ 0#3) → ∃ e, decodeWord w = .error e

/-- Opcode 0x01: each function computes its result from c[a] and c[b], sets no flag and takes no trap (R213). -/
def Obligations.IntegerRegisterInstructions : Prop :=
  (∀ x ∈ Claim.integer, ∀ (s : State) (d a b : CReg),
    ∃ t, exec (x.1 d a b) s = .next t ∧ Claim.wroteC s t d (x.2 (s.c a) (s.c b))) ∧
  ∀ w : Word32, w.extractLsb' 25 7 = 1#7 → Claim.word01 w

/-- The divisions of 08 R214 with their exceptional results. -/
def Sys2Proof.Claim.divisions : List ((CReg → CReg → CReg → BitVec 4 → Instr) × (Word → Word → Word)) := [
  (.div, fun x y => if y = 0 then BitVec.ofInt 64 (-1) else if x.toInt = -2 ^ 63 ∧ y.toInt = -1 then BitVec.ofInt 64 (-2 ^ 63)
    else BitVec.ofInt 64 (x.toInt.tdiv y.toInt)),
  (.divu, fun x y => if y = 0 then BitVec.ofNat 64 (2 ^ 64 - 1) else BitVec.ofNat 64 (x.toNat / y.toNat)),
  (.rem, fun x y => if y = 0 then x else if x.toInt = -2 ^ 63 ∧ y.toInt = -1 then 0
    else BitVec.ofInt 64 (x.toInt - y.toInt * x.toInt.tdiv y.toInt)),
  (.remu, fun x y => if y = 0 then x else BitVec.ofNat 64 (x.toNat % y.toNat))]

/-- The value of a 13-bit immediate: its sign extension, or with `pfx.imm` the sign extension of 32 joined bits (07 R194). -/
def Sys2Proof.Claim.imm (s : State) (i : BitVec 13) : Word :=
  if s.u.pimm = 0 then BitVec.ofInt 64 i.toInt else BitVec.ofInt 64 (s.u.pimm.extractLsb' 0 19 ++ i).toInt

/-- The arithmetic immediates of 08 R215. -/
def Sys2Proof.Claim.immediates : List ((CReg → CReg → BitVec 13 → Instr) × (Word → Word → Word)) := [
  (.addi, fun x i => x + i), (.andi, fun x i => x &&& i), (.ori, fun x i => x ||| i), (.xori, fun x i => x ^^^ i),
  (.slti, fun x i => if x.toInt < i.toInt then 1 else 0), (.sltiu, fun x i => if x.toNat < i.toNat then 1 else 0)]

/-- The immediate shifts of 08 R216. -/
def Sys2Proof.Claim.shifts : List ((CReg → CReg → BitVec 6 → Instr) × (Word → Nat → Word)) := [
  (.slli, fun x n => BitVec.ofNat 64 (x.toNat * 2 ^ n)), (.srli, fun x n => BitVec.ofNat 64 (x.toNat / 2 ^ n)),
  (.srai, fun x n => BitVec.ofInt 64 (x.toInt / 2 ^ n))]

/-- Arithmetic immediates, immediate shifts and upper immediates write their results to c[d] alone (08 R215, 08 R216, 08 R217, 07 R194). -/
def Obligations.ImmediateInstructions : Prop :=
  (∀ x ∈ Claim.immediates, ∀ (s : State) (d a : CReg) (i : BitVec 13),
    ∃ t, exec (x.1 d a i) s = .next t ∧ Claim.wroteC s t d (x.2 (s.c a) (Claim.imm s i))) ∧
  (∀ x ∈ Claim.shifts, ∀ (s : State) (d a : CReg) (n : BitVec 6),
    ∃ t, exec (x.1 d a n) s = .next t ∧ Claim.wroteC s t d (x.2 (s.c a) n.toNat)) ∧
  (∀ (s : State) (d : CReg) (i : BitVec 19),
    (∃ t, exec (.lui d i) s = .next t ∧ Claim.wroteC s t d (BitVec.ofInt 64 (i.toInt * 2 ^ 13))) ∧
    ∃ t, exec (.lpc d i) s = .next t ∧ Claim.wroteC s t d (s.u.ipc + BitVec.ofInt 64 (i.toInt * 2 ^ 13)))

/-- The branch conditions of 08 R220. -/
def Sys2Proof.Claim.branches : List ((CReg → CReg → BitVec 13 → Instr) × (Word → Word → Bool)) := [
  (.beq, fun x y => decide (x = y)), (.bne, fun x y => decide (x ≠ y)),
  (.blt, fun x y => decide (x.toInt < y.toInt)), (.bge, fun x y => decide (y.toInt ≤ x.toInt)),
  (.bltu, fun x y => decide (x.toNat < y.toNat)), (.bgeu, fun x y => decide (y.toNat ≤ x.toNat))]

/-- Branches go to pc + 4·sext(off) when their condition holds; jal and jalr link and jump; a misaligned jalr traps and writes nothing (08 R220, 08 R221, 07 R186). -/
def Obligations.BranchesAndJumps : Prop :=
  (∀ x ∈ Claim.branches, ∀ (s : State) (a b : CReg) (off : BitVec 13),
    exec (x.1 a b off) s = .next (if x.2 (s.c a) (s.c b) then
      { s with g := { s.g with pc := s.u.ipc + BitVec.ofInt 64 (4 * off.toInt) } } else s)) ∧
  (∀ (s : State) (d : CReg) (off : BitVec 19), ∃ t, Claim.wroteC s t d (s.u.ipc + 4) ∧
    exec (.jal d off) s = .next { t with g := { t.g with pc := s.u.ipc + BitVec.ofInt 64 (4 * off.toInt) } }) ∧
  (∀ (s : State) (d a : CReg) (i : BitVec 13),
    ((s.c a + Claim.imm s i).toNat % 4 = 0 → ∃ t, Claim.wroteC s t d (s.u.ipc + 4) ∧
      exec (.jalr d a i) s = .next { t with g := { t.g with pc := s.c a + Claim.imm s i } }) ∧
    ((s.c a + Claim.imm s i).toNat % 4 ≠ 0 →
      exec (.jalr d a i) s = .next (s.raiseTrap { cause := 0x06, addr := s.c a + Claim.imm s i })))

/-- The offset of a load or store (07 R189, R194): the sign-extended field times the size, and with `pfx.imm` that many bytes
more than the sign-extended upper bits. -/
def Sys2Proof.Claim.off (s : State) (o : BitVec 7) (n : Nat) : Word :=
  BitVec.ofInt 64 (o.toInt * n) + (if s.u.pimm = 0 then 0 else BitVec.ofInt 64 ((s.u.pimm.extractLsb' 0 19).toInt * 2 ^ 13))

/-- ld, ldu and st: where the access passes its checks, the bytes at its place are loaded, sign- or zero-extended, or stored (08 R218, 08 R219, 07 R192,
10 R270). What a misaligned access leaves in the translation caches is the model's reading (log entry 64). -/
def Obligations.LoadsAndStores : Prop :=
  ∀ (s : State) (d a : CReg) (sz : Sz) (o : BitVec 7) (la : BitVec 4),
    let ea := s.c a + Claim.off s o sz.bytes
    (∀ p s1, s.place s.agent .load ea sz.bytes sz.bytes true = .ok (p, s1) →
      (∃ t, exec (.ld d a sz o la) s = .next t ∧
        Claim.gaveC s1 t d (BitVec.ofInt 64 (sextNat (8 * sz.bytes) (leNat (s1.readPlace s.t.id p sz.bytes)))) la false) ∧
      (sz ≠ .d → ∃ t, exec (.ldu d a sz o la) s = .next t ∧
        Claim.gaveC s1 t d (BitVec.ofNat 64 (leNat (s1.readPlace s.t.id p sz.bytes))) la false)) ∧
    (∀ p s1, s.place s.agent .store ea sz.bytes sz.bytes true = .ok (p, s1) →
      exec (.st d a sz o la) s = .next (s1.writePlace s.t.id p (natLe sz.bytes (s.c d).toNat))) ∧
    (2 ^ 52 ≤ ea.toNat →
      let r := Host.Outcome.next (s.raiseTrap { cause := 0x07, addr := ea, tlb := some s.tlb })
      exec (.ld d a sz o la) s = r ∧ (sz ≠ .d → exec (.ldu d a sz o la) s = r) ∧ exec (.st d a sz o la) s = r) ∧
    (ea.toNat < 2 ^ 52 → ea.toNat % sz.bytes ≠ 0 → ∀ leaf level s1,
      let r := Host.Outcome.next (s.raiseTrap { cause := 0x06, addr := ea, tlb := some s1.tlb })
      (s.leafFor s.agent .load ea.toNat = .ok (leaf, level, s1) →
        exec (.ld d a sz o la) s = r ∧ (sz ≠ .d → exec (.ldu d a sz o la) s = r)) ∧
      (s.leafFor s.agent .store ea.toNat = .ok (leaf, level, s1) → exec (.st d a sz o la) s = r))

/-- An access changes of memory only the A and D bits of its leaf, and a store exactly the bytes at its place (17 R401, 17 R403, 17 R404, 17 R414, 10
R270, 08 R218, 04 R101, 04 R102). What an access changes of the line that it brings in, and when, is the model's reading (log entries 9 and 13). -/
def Obligations.MemoryFrames : Prop :=
  (∀ (s : State) (ag : Agent) (k : AccKind) (va : Word) (n al : Nat) p s1,
    s.hbm.wf = true → s.place ag k va n al = .ok (p, s1) →
    s1 = { s with tlb := s1.tlb, wcache := s1.wcache, lkeys := s1.lkeys, ekeys := s1.ekeys, veils := s1.veils, fresh := s1.fresh, hbm := s1.hbm } ∧
    s1.hbm.wf = true ∧
    ∀ x, s1.hbm.read x ≠ s.hbm.read x →
      (∃ leaf level at_ path, (s.agentWalk ag va.toNat).1 = some (leaf, level, at_, path) ∧ at_ ≤ x ∧ x < at_ + 8 ∧
        (s.legible (s.ctx ag.ctx).wkey at_ = true → leaf = s.hbm.num at_ 8 → x = at_ ∧ (s1.hbm.read x ^^^ s.hbm.read x) &&& 0x3F = 0)) ∨
      (∃ pa, p = .hbm pa ∧ x / 128 = pa / 128 ∧
        (s.lkeys.any (fun l => l.1 = x / 128) = true ∨ s.ekeys.any (fun l => decide (l.1 ≤ x / 16) && decide (x / 16 < l.1 + l.2.1)) = true))) ∧
  (∀ (s : State) (p : Place) (bs : List Byte), s.hbm.wf = true → s.wstore.wf = true → s.t.scratch.wf = true →
    s.t.id ≠ 0 → bs ≠ [] →
    let t := s.writePlace s.t.id p bs
    let got := fun (a x : Nat) (old : Byte) => if a ≤ x ∧ x < a + bs.length then bs.getD (x - a) 0 else old
    t.g = s.g ∧ t.groups = s.groups ∧ t.teams = s.teams ∧ t.ctxs = s.ctxs ∧ t.tasks = s.tasks ∧ t.pivots = s.pivots ∧ t.tlb = s.tlb ∧
    (∀ x, t.hbm.read x = match p with | .hbm pa => got pa x (s.hbm.read x) | _ => s.hbm.read x) ∧
    (∀ x, t.wstore.read x = match p with | .ws d o => got (d * 2 ^ 28 + o) x (s.wstore.read x) | _ => s.wstore.read x) ∧
    (∀ x, t.t.scratch.read x = match p with | .scr o => got o x (s.t.scratch.read x) | _ => s.t.scratch.read x))

/-- Strict propagation on the control thread (08 R223, 03 R83): with an absent operand the absent code, and ABS alone. -/
def Sys2Proof.Claim.strict (t : Ty) (xs : List Nat) (r : Nat × Sticky) : Nat × Sticky :=
  if xs.any (fun x => decide (t.absent = some x)) then (t.absentCode, { abs := true }) else r

/-- The two-operand instructions of 08 R222 that give a value, and those that give a truth value. -/
def Sys2Proof.Claim.floats : List ((CReg → CReg → CReg → Ty → Instr) × BinOp) :=
  [(.fadd, .add), (.fsub, .sub), (.fmul, .mul), (.fmin, .min), (.fmax, .max)]
def Sys2Proof.Claim.fcmps : List ((CReg → CReg → CReg → Ty → Instr) × Cond) :=
  [(.fcmpEq, .eq), (.fcmpLt, .lt), (.fcmpLe, .le)]

/-- `t` is `s` with `x` written to `c` register `d` and flags merged into the sticky bits of `vcs`. -/
def Sys2Proof.Claim.wroteF (s t : State) (d : CReg) (x : Word) (f : Sticky) : Prop :=
  ∃ u, Claim.wroteC s u d x ∧ t = { u with g := { u.g with sticky := s.g.sticky.or f } }

/-- Control-thread floating point: arithmetic, comparison, conversion, division, square root and fused multiply-add (08 R222, 08 R223, 08 R224, 03 R83, 03 R84, 03 R86, 08 R225, 07 R192). -/
def Obligations.FloatingPoint : Prop :=
  ((∀ x ∈ Claim.floats, ∀ (s : State) (d a b : CReg) (t : Ty),
    let p := (s.c a).toNat % 2 ^ t.bits
    let q := (s.c b).toNat % 2 ^ t.bits
    let r := Claim.strict t [p, q] ((x.2.eval t s.g.rm p q).bits, (x.2.eval t s.g.rm p q).fl)
    (t.isInt = false → ∃ u, exec (x.1 d a b t) s = .next u ∧ Claim.wroteF s u d (BitVec.ofNat 64 r.1) r.2) ∧
    (t.isInt = true → exec (x.1 d a b t) s = .next (s.raiseTrap { cause := 0x01 }))) ∧
  (∀ x ∈ Claim.fcmps, ∀ (s : State) (d a b : CReg) (t : Ty),
    let p := (s.c a).toNat % 2 ^ t.bits
    let q := (s.c b).toNat % 2 ^ t.bits
    let no := decide (t.absent = some p) || decide (t.absent = some q)
    (t.isInt = false → ∃ u, exec (x.1 d a b t) s = .next u ∧
      Claim.wroteF s u d (if no then 0 else if (x.2.eval t p q).1 then 1 else 0) (if no then { abs := true } else (x.2.eval t p q).2)) ∧
    (t.isInt = true → exec (x.1 d a b t) s = .next (s.raiseTrap { cause := 0x01 }))) ∧
  ∀ (s : State) (d a : CReg) (b : BitVec 6) (t : Ty),
    (∀ tt : Ty, tt ≠ t → b = tt.code.setWidth 6 → ∃ u, exec (.fcvt d a b t) s = .next u ∧
      (let r := convert tt t s.g.rm ((s.c a).toNat % 2 ^ t.bits)
       Claim.wroteF s u d (if tt.isInt then BitVec.ofInt 64 (sextNat tt.bits r.bits) else BitVec.ofNat 64 r.bits)
        { r.fl with nv := r.fl.nv || r.vo })) ∧
    (8 ≤ b.toNat ∨ b = t.code.setWidth 6 → exec (.fcvt d a b t) s = .next (s.raiseTrap { cause := 0x01 }))) ∧
  (∀ (s : State) (d a b : CReg) (t : Ty) (la : BitVec 4),
    let p := (s.c a).toNat % 2 ^ t.bits
    let q := (s.c b).toNat % 2 ^ t.bits
    let z := (s.c d).toNat % 2 ^ t.bits
    let put := fun (r : Nat × Sticky) (u : State) =>
      Claim.gaveC { s with g := { s.g with sticky := s.g.sticky.or r.2 } } u d (BitVec.ofNat 64 r.1) la true
    (∀ f, t.fmt? = some f →
      (∃ u, exec (.fdiv d a b t la) s = .next u ∧
        (let r := f.divV s.g.rm (f.decode p) (f.decode q); put (Claim.strict t [p, q] (r.bits, r.fl)) u)) ∧
      (∃ u, exec (.fsqrt d a t la) s = .next u ∧
        (let r := f.sqrtV s.g.rm (f.decode p); put (Claim.strict t [p] (r.bits, r.fl)) u)) ∧
      ∃ u, exec (.fma d a b t la) s = .next u ∧
        (let r := f.fmaV s.g.rm (f.decode p) (f.decode q) (f.decode z); put (Claim.strict t [p, q, z] (r.bits, r.fl)) u)) ∧
    (t.fmt? = none → exec (.fdiv d a b t la) s = .next (s.raiseTrap { cause := 0x01 }) ∧
      exec (.fsqrt d a t la) s = .next (s.raiseTrap { cause := 0x01 }) ∧
      exec (.fma d a b t la) s = .next (s.raiseTrap { cause := 0x01 })))

/-- setvl sets vl to the lesser of c[a] and VLMAX of its width and writes it to c[d]; cwr vl checks the whole value (08 R226, 02 R54, 01 R23, 02 R62). -/
def Obligations.VectorLength : Prop :=
  ∀ (s : State) (d a : CReg) (w : BitVec 13), s.g.grant ≤ 16384 →
    ((w.toNat = 8 ∨ w.toNat = 16 ∨ w.toNat = 32 ∨ w.toNat = 256) → s.vlPending = false →
      let n := Min.min (s.c a).toNat (s.g.grant / w.toNat)
      ∃ t, exec (.setvl d a w) s = .next t ∧ t.g.vl.toNat = n ∧ Claim.wroteC { s with g := { s.g with vl := BitVec.ofNat 12 n } } t d (BitVec.ofNat 64 n)) ∧
    (¬ (w.toNat = 8 ∨ w.toNat = 16 ∨ w.toNat = 32 ∨ w.toNat = 256) →
      exec (.setvl d a w) s = .next (s.raiseTrap { cause := 0x01 })) ∧
    (s.vlPending = false →
      ((s.c a).toNat ≤ s.g.grant / 8 → exec (.cwr a 0) s = .next { s with g := { s.g with vl := BitVec.ofNat 12 (s.c a).toNat } }) ∧
      (s.g.grant / 8 < (s.c a).toNat → exec (.cwr a 0) s = .next (s.raiseTrap { cause := 0x01 })) ∧
      (∀ r, s.ev.reg = r → (s.c r).toNat ≤ s.g.grant / 8 →
        exec .cwrVl s = .next { s with g := { s.g with vl := BitVec.ofNat 12 (s.c r).toNat } }))

/-- Control registers that any group may read, with their values (02 R61, R62). -/
def Sys2Proof.Claim.userReads : List (BitVec 12 × (State → Word)) := [
  (0x001, fun s => BitVec.ofNat 64 s.g.grant), (0x003, fun s => s.g.vst), (0x005, fun s => ((s.g.viq.map Unit.addr).head?).getD s.u.addr),
  (0x006, fun s => s.t.tags),
  (0x012, fun s => BitVec.ofNat 64 (s.t.die * 2 ^ 24 + s.g.role.toNat * 2 ^ 16 + s.t.slot.toNat * 2 ^ 8 + s.g.num.toNat)),
  (0x019, fun s => let p := (s.dieAt s.t.die).phase.toNat; BitVec.ofNat 64 (p + p / 1024 * 2 ^ 16 + if p % 1024 < 256 then 2 ^ 22 else 0)),
  (0x007, fun s => s.g.awb.setWidth 64), (0x008, fun s => s.g.awl.setWidth 64),
  (0x009, fun s => Bank.get 0 s.g.smap 0), (0x00A, fun s => Bank.get 0 s.g.smap 1), (0x00B, fun s => Bank.get 0 s.g.smap 2),
  (0x00C, fun s => Bank.get 0 s.g.smap 3), (0x00D, fun s => s.g.spr.setWidth 64), (0x00E, fun s => s.g.splc.setWidth 64),
  (0x010, fun s => s.g.rot.setWidth 64), (0x011, fun s => BitVec.ofNat 64 ((if s.g.lfree then 2 else 0) + if s.g.req then 1 else 0)),
  (0x018, fun s => (s.dieAt s.t.die).clk),
  (0x01A, fun s => BitVec.ofNat 64 s.t.scrsz), (0x01B, fun s => BitVec.ofNat 64 s.t.accrows)]

/-- Control registers that any group may write, with what the write of `x` leaves (02 R61, R62). -/
def Sys2Proof.Claim.userWrites : List (BitVec 12 × (State → Word → State)) := [
  (0x003, fun s x => { s with g := { s.g with vst := x } }), (0x006, fun s x => { s with t := { s.t with tags := s.t.tags &&& ~~~x } }),
  (0x009, fun s x => { s with g := { s.g with smap := Bank.set 0 s.g.smap 0 x } }),
  (0x00A, fun s x => { s with g := { s.g with smap := Bank.set 0 s.g.smap 1 x } }), (0x00B, fun s x => { s with g := { s.g with smap := Bank.set 0 s.g.smap 2 x } }),
  (0x00C, fun s x => { s with g := { s.g with smap := Bank.set 0 s.g.smap 3 x } }),
  (0x00D, fun s x => { s with g := { s.g with spr := x.setWidth 4 } }), (0x00E, fun s x => { s with g := { s.g with splc := x.setWidth 32 } }),
  (0x010, fun s x => { s with g := { s.g with rot := x.setWidth 5 } })]

/-- The selected context is open to a write of its pool registers (15 R361): it lies in the group's partition, no group of it
is resident or saved, and none of its task records exists. -/
def Sys2Proof.Claim.poolFree (s : State) (c : Context) : Prop :=
  s.selCtx = some c ∧ s.ctxBusy s.g.sctx.toNat = false ∧ ¬ (c.priv = true ∧ s.areas.any (fun q => q.poolCtx = s.g.sctx.toNat) = true)

/-- Control registers: values read and written, the status register, and the privileged registers of a selected context (02 R61, 02 R62, 08 R227, 02 R65,
05 R143, 15 R360, 01 R23, 15 R361). Who holds sctx and stask (log entry 8), which context is open to a write of its pools (log entry 54), and what a
supervisor group meets at a register that is RO or absent, and vcp with an empty VIQ (log entry 69), are the model's readings. -/
def Obligations.SpecialRegisters : Prop :=
  ((∀ x ∈ Claim.userReads, ∀ (s : State) (d : CReg), ∃ t, exec (.crd d x.1) s = .next t ∧ Claim.wroteC s t d (x.2 s)) ∧
  (∀ x ∈ Claim.userWrites, ∀ (s : State) (a : CReg), exec (.cwr a x.1) s = .next (x.2 s (s.c a))) ∧
  (∀ (s : State) (d : CReg),
    (s.vlPending = false → ∃ t, exec (.crd d 0) s = .next t ∧ Claim.wroteC s t d (BitVec.ofNat 64 s.g.vl.toNat)) ∧
    (s.vlPending = true → exec (.crd d 0) s = .next (s.holdUnit .vl)) ∧
    ∀ k < 8,
      (k < s.t.nchan → ∃ t, exec (.crd d (BitVec.ofNat 12 (0x20 + k))) s = .next t ∧
        Claim.wroteC s t d (BitVec.ofNat 64 (Bank.get {} s.t.chans k).done.toNat)) ∧
      (s.t.nchan ≤ k → exec (.crd d (BitVec.ofNat 12 (0x20 + k))) s = .next (s.raiseTrap { cause := 0x01 }))) ∧
  (∀ s : State, exec .cwrTags s = .next { s with t := { s.t with tags := s.t.tags &&& ~~~s.c s.ev.reg } }) ∧
  (∀ n ∈ [0x001#12, 0x005#12, 0x007#12, 0x008#12, 0x011#12, 0x012#12, 0x018#12, 0x019#12, 0x01A#12, 0x01B#12], ∀ (s : State) (a : CReg),
    exec (.cwr a n) s = .next (s.raiseTrap { cause := 0x01 })) ∧
  ∀ (s : State) (r : CReg) (n : BitVec 12), s.t.priv = false → 0x400 ≤ n.toNat →
    exec (.crd r n) s = .next (s.raiseTrap { cause := 0x02 }) ∧ exec (.cwr r n) s = .next (s.raiseTrap { cause := 0x02 })) ∧
  (∀ (s : State) (r : CReg), s.g.viq = [] →
    (∃ t, exec (.cwr r 4) s = .next t ∧ t = { s with g := { s.g with rm := t.g.rm, sticky := t.g.sticky } } ∧
      (t.g.vcs.extractLsb' 0 9 = (s.c r).extractLsb' 0 9) ∧ (s.ev.reg = r → exec .cwrVcs s = .next t)) ∧
    (∃ t, exec (.crd r 4) s = .next t ∧ Claim.wroteC s t r s.g.vcs ∧ (s.ev.reg = r → exec .crdVcs s = .next t)) ∧
    (s.g.vcs.getLsbD 9 = decide (s.g.vo ≠ 0)) ∧ s.g.vcs.extractLsb' 10 54 = 0 ∧
    s.g.vcs.extractLsb' 0 2 = s.g.rm ∧ s.g.vcs.getLsbD 2 = s.g.sticky.nx ∧ s.g.vcs.getLsbD 6 = s.g.sticky.nv ∧ s.g.vcs.getLsbD 8 = s.g.sticky.csat ∧
    ∀ q : State, q.g.viq ≠ [] → exec (.cwr r 4) q = .next (q.holdUnit .viq) ∧ exec (.crd r 4) q = .next (q.holdUnit .viq)) ∧
  (∀ (s : State) (a : CReg), s.t.priv = true →
    exec (.cwr a 0x401) s = .next { s with g := { s.g with sctx := (s.c a).setWidth 12 } } ∧
    (∀ c, s.selCtx = some c → exec (.cwr a 0x420) s = .next (s.setCtx s.g.sctx.toNat { c with stask := s.c a })) ∧
    (∀ c, Claim.poolFree s c →
      ((s.c a).toNat % 65536 = 0 → exec (.cwr a 0x412) s = .next (s.setCtx s.g.sctx.toNat { c with spool := s.c a })) ∧
      ((s.c a).toNat % 64 = 0 → exec (.cwr a 0x414) s = .next (s.setCtx s.g.sctx.toNat { c with srefp := s.c a })) ∧
      exec (.cwr a 0x413) s = .next (s.setCtx s.g.sctx.toNat { c with spooln := (s.c a).toNat % 2 ^ 16 }) ∧
      exec (.cwr a 0x415) s = .next (s.setCtx s.g.sctx.toNat { c with srefn := (s.c a).toNat % 2 ^ 24 }) ∧
      (s.ev.reg = a →
        (s.ev.n = 0x412 → (s.c a).toNat % 65536 = 0 → exec .cwrSavePool s = .next (s.setCtx s.g.sctx.toNat { c with spool := s.c a })) ∧
        (s.ev.n = 0x413 → exec .cwrSavePool s = .next (s.setCtx s.g.sctx.toNat { c with spooln := (s.c a).toNat % 2 ^ 16 })) ∧
        (s.ev.n = 0x414 → (s.c a).toNat % 64 = 0 → exec .cwrSavePool s = .next (s.setCtx s.g.sctx.toNat { c with srefp := s.c a })) ∧
        (s.ev.n = 0x415 → exec .cwrSavePool s = .next (s.setCtx s.g.sctx.toNat { c with srefn := (s.c a).toNat % 2 ^ 24 })))) ∧
    ((s.c a).toNat % 65536 ≠ 0 → exec (.cwr a 0x412) s = .next (s.raiseTrap { cause := 0x01 })) ∧
    ((s.c a).toNat % 64 ≠ 0 → exec (.cwr a 0x414) s = .next (s.raiseTrap { cause := 0x01 })))

/-- spl starts a loop of c[a] iterations or skips it, and splb takes the loop back with a new stage predicate and rotation, or ends it (09 R266, 09 R267, 02 R62). -/
def Obligations.PipelinedLoops : Prop :=
  ∀ (s : State) (a : CReg) (st : BitVec 2) (l : BitVec 7) (off : BitVec 13),
    (s.g.loop = false → (s.c a).toNat ≤ 2 ^ 32 - (st.toNat + 1) →
      exec (.spl a st l) s = .next (if s.c a = 0 then { s with g := { s.g with pc := s.u.ipc + 4 + BitVec.ofNat 64 (4 * (l.toNat + 1)) } }
        else { s with g := { s.g with
          splc := BitVec.ofNat 32 ((s.c a).toNat + st.toNat), spr := 1, loop := true, kfirst := s.u.ipc + 4,
          klast := s.u.ipc + 4 + BitVec.ofNat 64 (4 * (l.toNat + 1)) - 4, nst := BitVec.ofNat 3 (st.toNat + 1), pc := s.u.ipc + 4 } })) ∧
    (s.g.loop = true ∨ 2 ^ 32 - (st.toNat + 1) < (s.c a).toNat → exec (.spl a st l) s = .next (s.raiseTrap { cause := 0x01 })) ∧
    (s.g.loop = true → s.u.ipc = s.g.klast → s.u.ipc + BitVec.ofInt 64 (4 * off.toInt) = s.g.kfirst →
      ∃ t, exec (.splb off) s = .next t ∧
        t = { s with g := { s.g with rot := t.g.rot, splc := t.g.splc, spr := t.g.spr, loop := t.g.loop, pc := t.g.pc } } ∧
        (s.g.budget ≤ 32 → t.g.rot = s.g.rot) ∧
        (32 < s.g.budget → s.g.budget ≤ 64 → t.g.rot.toNat = (s.g.rot.toNat + (s.g.budget - 33)) % (s.g.budget - 32)) ∧
        (s.g.splc.toNat ≤ 1 → t.g.splc = 0 ∧ t.g.spr = 0 ∧ t.g.loop = false ∧ t.g.pc = s.u.ipc + 4) ∧
        (1 < s.g.splc.toNat → t.g.splc = s.g.splc - 1 ∧ t.g.loop = true ∧ t.g.pc = s.g.kfirst ∧
          ∀ i < 4, t.g.spr.getLsbD i = (decide (i < s.g.nst.toNat) &&
            if i = 0 then decide (s.g.nst.toNat ≤ s.g.splc.toNat - 1) else s.g.spr.getLsbD (i - 1)))) ∧
    (¬ (s.g.loop = true ∧ s.u.ipc = s.g.klast ∧ s.u.ipc + BitVec.ofInt 64 (4 * off.toInt) = s.g.kfirst) →
      exec (.splb off) s = .next (s.raiseTrap { cause := 0x01 }))

/-- With an empty VIQ trap takes user-trap with INFO n, or untranslated-function inside a stub table, and brk takes breakpoint (11 R334, 18 R427, 01 R23). -/
def Obligations.SoftwareTraps : Prop :=
  ∀ (s : State) (n : BitVec 13),
    let stub := ∃ x ∈ (s.ctx s.t.ctx).stubs, x.1.toNat ≤ s.u.ipc.toNat ∧ s.u.ipc.toNat < x.1.toNat + 16 * x.2
    (s.g.viq = [] →
      (stub → exec (.trap n) s = .next (s.takeTrap { cause := 0x18, info := n.zeroExtend 64 })) ∧
      (¬ stub → exec (.trap n) s = .next (s.takeTrap { cause := 0x16, info := n.zeroExtend 64 })) ∧
      exec .brk s = .next (s.takeTrap { cause := 0x17 })) ∧
    (s.g.viq ≠ [] → exec (.trap n) s = .next (s.holdUnit .viq) ∧ exec .brk s = .next (s.holdUnit .viq))

/-- Taking a trap saves the group at its unit with STATE 2, takes it off its sector and delivers a handler or an event (15 R363, 15 R364, 15 R365, 15 R370, 07 R197). -/
def Obligations.TrapEntry : Prop :=
  ∀ (s : State) (tr : Trap), s.vp = none → s.g.late = [] →
    let t := s.takeTrap tr
    t.g.run = .saved 2 ∧ t.g.c = s.g.c ∧ t.g.v = s.g.v ∧ t.g.vl = s.g.vl ∧ t.g.vm = s.g.vm ∧ t.g.vo = s.g.vo ∧ t.g.j = s.g.j ∧
    t.g.sticky = s.g.sticky ∧ t.g.id = s.g.id ∧ t.t = s.t ∧ t.g.lastTrap = some (tr.cause, s.g.area) ∧
    (s.port = false → t.g.pc = s.u.addr ∧ t.g.pfx = [] ∧ t.g.viq = s.g.viq) ∧
    (s.port = true → t.g.viq = s.u :: s.g.viq) ∧
    (∀ w ∈ t.pwaits, w.g ≠ s.g.id) ∧
    (s.t.priv = true ∨ (s.ctx s.t.ctx).shent = 0 ∨ (s.ctx s.t.ctx).sroot = 0 →
      t.tasks = s.tasks ∧ t.toHost = s.toHost ++ [.event 2 (s.ctx s.t.ctx).part [s.g.area, BitVec.ofNat 64 tr.cause.toNat]]) ∧
    (s.t.priv = false → (s.ctx s.t.ctx).shent ≠ 0 → (s.ctx s.t.ctx).sroot ≠ 0 →
      let x := s.ctx s.t.ctx
      let args := [s.g.area, BitVec.ofNat 64 tr.cause.toNat, BitVec.ofNat 64 s.t.ctx]
      let weight := (s.graph? x.sroot).any fun q => decide (2 ^ 32 ≤ q.pool)
      t.toHost = s.toHost ∧
      (∀ sc, s.storeFull s.t.die = false → s.supCtx x.part = some sc → weight = true →
        ∃ r, t.tasks = s.tasks ++ [r] ∧ r.ctx = sc ∧ r.entry = x.shent ∧ r.args.take 3 = args ∧ r.weight = 2 ^ 32 ∧ r.root = x.sroot ∧
          r.die = s.t.die ∧ r.st = .ready) ∧
      (s.storeFull s.t.die = true ∨ s.supCtx x.part = none ∨ weight = false → t.tasks = s.tasks ∧
        ∀ y, s.dies[s.t.die]? = some y → (t.dieAt s.t.die).spawns = y.spawns ++ [(s.t.ctx, args)])) ∧
    (s.hbm.wf = true → s.g.area.toNat % 65536 = 0 → ∀ pa, s.devPa s.g.areaCtx s.g.area = some pa →
      (∀ i ∈ [1, 2], s.devPa s.g.areaCtx (s.g.area + BitVec.ofNat 64 (65536 * i)) ≠ some pa) →
      let word := fun (j : Nat) (w : Word) => w ≠ 0 → t.hbm.bytes (pa + 0x300 + 8 * j) 8 = natLe 8 w.toNat
      word 0 (BitVec.ofNat 64 tr.cause.toNat) ∧ word 2 (tr.vcp.getD s.u.addr) ∧ word 3 tr.elem ∧ word 4 tr.idx ∧ word 5 tr.addr ∧
      word 6 tr.info ∧ (s.port = false → word 1 s.u.addr))

/-- Nothing bars a vector entry at width `w` (01 R14, 02 R54, 05 R148, R149): in the control stream `vl` is at most VLMAX, every
register it names is within the budget, and none is bound to a stream or holds poisoned data (18 R424). -/
def Sys2Proof.Claim.ready (s : State) (w : Nat) (rs : List Nat) : Prop :=
  (∀ r ∈ rs, r < s.g.budget) ∧ (s.vp = none → s.u.vl.toNat ≤ s.g.grant / w) ∧
  ∀ r ∈ rs, (∀ x ∈ s.g.streams, x.reg ≠ s.reg r) ∧ ∀ x ∈ s.g.rpoison, x.1 ≠ s.reg r

/-- vf and vfr start an AIB: VPs take part where the effective mask allows, each ready at the target, and the entry stays at the head of the VIQ (01 R28, 01 R36, 01 R37, 08 R228). -/
def Obligations.VfStarts : Prop :=
  ∀ (s : State) (off : BitVec 19) (a : CReg), s.vp = none → s.u.vl.toNat ≤ s.g.grant / 32 →
    ∀ pc, (pc = s.u.ipc + BitVec.ofInt 64 (4 * off.toInt) ∨ pc = s.u.opA) →
    (pc.toNat % 4 = 0 → ∃ t, ((pc = s.u.ipc + BitVec.ofInt 64 (4 * off.toInt) → exec (.vf off) s = .next t) ∧
        (pc = s.u.opA → exec (.vfr a) s = .next t)) ∧
      t = { s with g := { s.g with j := t.g.j, links := [], vps := t.g.vps, viq := t.g.viq } } ∧
      (∀ k < 8, Bank.get 0 t.g.j k = Bank.get 0 s.g.j k &&& jBits s.active) ∧
      (s.active = [] → t.g.vps = s.g.vps ∧ t.g.viq = s.g.viq) ∧
      (s.active ≠ [] → t.g.viq = s.u :: s.g.viq ∧ t.g.vps.length = s.g.grant / 32 ∧
        ∀ e < s.g.grant / 32, t.g.vps.getD e {} = if s.eff e then { st := .ready, pc := pc } else {})) ∧
    (pc.toNat % 4 ≠ 0 → pc = s.u.opA → exec (.vfr a) s = .next (s.raiseTrap { cause := 0x06, addr := pc }))

/-- Release of mask `k` (01 R35), where it is due: the mask is nonzero with every VP whose bit is set parked on it, or, after a
strike or a `stop`, zero while VPs are parked on it. The mask becomes zero and the VPs parked on it go on. -/
def Sys2Proof.Claim.release (s : State) (strike : Bool) (k : Nat) : State :=
  let m := Bank.get 0 s.g.j k
  let on := fun (v : Vp) => decide (v.st = .parked (BitVec.ofNat 3 k))
  if (m ≠ 0 ∧ ∀ e < s.g.vps.length, m.getLsbD e = true → on (s.g.vps.getD e {}) = true) ∨
      (m = 0 ∧ strike = true ∧ ∃ v ∈ s.g.vps, on v = true) then
    { s with g := { s.g with j := Bank.set 0 s.g.j k 0, vps := s.g.vps.map fun v => if on v then { v with st := .ready } else v } }
  else s

/-- jenrol, jpark, jstrike and stop act on the rejoin masks and on the VP as R35 tabulates, and release follows at once (R35). -/
def Obligations.RejoinMasks : Prop :=
  ∀ (s : State) (e : Nat) (v : Vp) (k : JReg), s.vp = some e → s.g.vps[e]? = some v →
    let old := Bank.get 0 s.g.j k.toNat
    let put := fun (m : JMask) => { s with g := { s.g with j := Bank.set 0 s.g.j k.toNat m } }
    (exec (.jenrol k) s = .next (Claim.release (put (old ||| (1#512 <<< e))) false k.toNat)) ∧
    (exec (.jpark k) s = .next (if old.getLsbD e then
      Claim.release { s with g := { s.g with vps := s.g.vps.set e { v with st := .parked k } } } false k.toNat else s)) ∧
    (exec (.jstrike k) s = .next (Claim.release (put (old &&& ~~~(1#512 <<< e))) true k.toNat)) ∧
    exec .stop s = .next ((List.range 8).foldl (fun q n => Claim.release q true n)
      { s with g := { s.g with
        vps := s.g.vps.set e { v with st := .stopped }
        j := (List.range 8).map fun n => Bank.get 0 s.g.j n &&& ~~~(1#512 <<< e) } })

/-- Prefix words wait for the word they extend; fetch and a taken fetch.nz send a VP on to a new AIB (07 R193, 07 R196, 08 R230, 08 R231, 01 R30, 05 R149). -/
def Obligations.PrefixesAndFetches : Prop :=
  (∀ (s : State) (i : Instr), (∃ hi, i = .pfxImm hi) ∨ (∃ h sc, i = .pfxScope h sc) →
    (s.vp = none →
      ((∀ p ∈ s.g.pfx, p.2.extractLsb' 22 3 ≠ s.u.word.extractLsb' 22 3) →
        exec i s = .next { s with g := { s.g with pfx := s.g.pfx ++ [(s.u.ipc, s.u.word)] } }) ∧
      (∀ p ∈ s.g.pfx, p.2.extractLsb' 22 3 = s.u.word.extractLsb' 22 3 →
        exec i s = .next (s.raiseTrap { cause := 0x01, vcp := some s.u.ipc }))) ∧
    ∀ e v, s.vp = some e → s.g.vps[e]? = some v → v.cnt ≤ 31 →
      (∀ p ∈ v.pfx, p.2.extractLsb' 22 3 ≠ s.u.word.extractLsb' 22 3) →
      exec i s = .next { s with g := { s.g with vps := s.g.vps.set e { v with pfx := v.pfx ++ [(s.u.ipc, s.u.word)] } } }) ∧
  (∀ (s : State) (e : Nat) (v : Vp) (off : BitVec 19) (off' : BitVec 13) (a : VName), s.vp = some e → s.g.vps[e]? = some v →
    (exec (.fetch off) s = .next { s with g := { s.g with vps := s.g.vps.set e { v with pc := s.u.ipc + BitVec.ofInt 64 (4 * off.toInt), cnt := 0 } } }) ∧
    (a.toNat < s.g.budget → (∃ x ∈ s.g.streams, x.reg = s.reg a.toNat) → exec (.fetchNz a off') s = .next (s.raiseTrap { cause := 0x01 })) ∧
    (Claim.ready s 32 [a.toNat] →
      exec (.fetchNz a off') s = .next (if s.el a.toNat 32 e ≠ 0 then
        { s with g := { s.g with vps := s.g.vps.set e { v with pc := s.u.ipc + BitVec.ofInt 64 (4 * off'.toInt), cnt := 0 } } } else s)))

/-- vsend and vrecv of a VP, qput, qget and qclr of the control thread, and the traps of a stall that cannot end (08 R234, 01 R37, 01 R39, 01 R40, 08 R235, 08 R236). -/
def Obligations.ChordsAndQueues : Prop :=
  ((∀ (s : State) (e : Nat) (v : Vp) (a d : VName), s.vp = some e → s.g.vps[e]? = some v →
    (Claim.ready s 32 [a.toNat] →
      ((s.sinkQ e).length < 4 → exec (.vsend a) s = .next (s.setSink e (s.sinkQ e ++ [BitVec.ofNat 32 (s.el a.toNat 32 e)]))) ∧
      (4 ≤ (s.sinkQ e).length →
        exec (.vsend a) s = .next { s with g := { s.g with vps := s.g.vps.set e { s.u.vp0 with st := .stallSend } } })) ∧
    (d.toNat < s.g.budget → (∀ x ∈ s.g.streams, x.reg ≠ s.reg d.toNat) →
      (∀ x q, s.sourceQ e = x :: q → exec (.vrecv d) s = .next ((s.setSource e q).setEls d.toNat 32 [(e, x.toNat)])) ∧
      (s.sourceQ e = [] →
        exec (.vrecv d) s = .next { s with g := { s.g with vps := s.g.vps.set e { s.u.vp0 with st := .stallRecv } } }))) ∧
  ∀ (s : State), let q := s.focus s.ev.g
    q.g.resident = true →
    (q.underflows s.ev.e = true → exec .chordUnderflow s = .next ((q.atVp s.ev.e).takeTrap { cause := 0x04 })) ∧
    (q.overflows s.ev.e = true → exec .chordOverflow s = .next ((q.atVp s.ev.e).takeTrap { cause := 0x05 }))) ∧
  (∀ (s : State) (r : CReg),
    let vf := s.g.viq.any fun u => decide (u.word.toNat / 2 ^ 25 = 0x20) || decide (u.word.toNat / 2 ^ 25 = 0x21)
    (s.g.inlet.length < 4 → exec (.qput r) s = .next { s with g := { s.g with inlet := s.g.inlet ++ [(s.c r).setWidth 32] } }) ∧
    (4 ≤ s.g.inlet.length → exec (.qput r) s = .next (if vf then s.holdUnit .inletFull else s.raiseTrap { cause := 0x05 })) ∧
    (∀ x q, s.g.outlet = x :: q → ∃ t, exec (.qget r) s = .next t ∧
      Claim.wroteC { s with g := { s.g with outlet := q } } t r (x.setWidth 64)) ∧
    (s.g.outlet = [] → exec (.qget r) s = .next (if vf then s.holdUnit .outletEmpty else s.raiseTrap { cause := 0x04 })) ∧
    (s.g.viq = [] → exec .qclr s = .next { s with g := { s.g with inlet := [], outlet := [] } }) ∧
    (s.g.viq ≠ [] → exec .qclr s = .next (s.holdUnit .viq)))

/-- A group about to take its next unit: late results whose covered units have passed are delivered, and its last wait is over. -/
def Sys2Proof.Claim.atUnit (q : State) : State :=
  let p := q.deliverLate
  { p with port := false, vp := none, g := { p.g with cwait := none } }

/-- VP `e`, which stands at a word with no prefix, about to take it: the unit with what the entry of the `vf` captured. -/
def Sys2Proof.Claim.atVp (q : State) (e : Nat) (v : Vp) : State :=
  let h := q.g.viq.headD {}
  { q with vp := some e, port := true, u := { addr := v.pc, ipc := v.pc, vp0 := v, vl := h.vl, vst := h.vst, rm := h.rm, rot := h.rot, seq := v.seq } }

/-- The word at a program counter issues for the listed VPs in their order, as long as none takes the group off its sector: `t` is the
state afterwards (01 R31). -/
def Sys2Proof.Claim.issueAll : List Nat → State → State → Prop
  | [], s, t => t = { s with vp := none, port := false }
  | e :: l, s, t => ∃ u, s.issueVp aibExec e = .next u ∧
      if u.g.resident = true then Claim.issueAll l u t else t = { u with vp := none, port := false }

/-- The steps viq-enqueue, vp-issue and vf-complete complete: an entry joins the VIQ, ready VPs at a program counter issue, a finished vf leaves (01 R22, 01 R25, 01 R29, 01 R31, 01 R32, 01 R33, 01 R38). -/
def Obligations.VectorPortSteps : Prop :=
  ∀ s : State, let q := s.focus s.ev.g
    (∀ w i f, let p := Claim.atUnit q
      let u := f.capture w i
      q.g.controlReady = true → p.fetchWord p.g.pc = .ok (w, f) → decodeWord w = .ok i → (clsOf i = .vec ∨ clsOf i = .mem) →
      f.illegalAt w (.ok i) = none → (privOp (opOf w) = true → f.t.priv = true) → { f with u := u }.awaitsViq i = false →
      (opOf w = 0x21 → u.opA.toNat % 4 = 0) → f.g.viq.length < 64 →
      ∃ t, exec .viqEnqueue s = .next t ∧ t.g.viq = f.g.viq ++ [u] ∧ t.g.pc = p.g.pc + 4 ∧ t.g.pfx = [] ∧
        t.g.c = f.g.c ∧ t.g.v = f.g.v ∧ t.g.vm = f.g.vm ∧ t.g.vl = f.g.vl ∧ t.t = f.t ∧ t.hbm = f.hbm) ∧
    (∀ t, q.g.controlReady = true → q.controlIssue = .enqueued t → exec .viqEnqueue s = .next t) ∧
    (q.g.vps ≠ [] → (∀ v ∈ q.g.vps, v.st = .out ∨ v.st = .stopped) →
      exec .vfComplete s = .next { q with g := { q.g with viq := q.g.viq.tail, vps := [], links := [] } }) ∧
    (q.g.portReady = true → q.g.vps ≠ [] →
      (∃ t, exec .vpIssue s = .next t ∧ t.vp = none ∧ t.port = false) ∧
      ((∀ v ∈ q.g.vps, ¬ (v.st = .ready ∧ v.pc = s.ev.pc)) → exec .vpIssue s = .next { q with vp := none, port := false }) ∧
      (∀ e v w f, q.g.vps[e]? = some v → v.st = .ready → v.pc = s.ev.pc → v.line = none → v.pfx = [] → v.shades = [] → v.cnt < 32 →
        (∀ e' v', e' ≠ e → q.g.vps[e']? = some v' → v'.pc ≠ s.ev.pc) →
        (Claim.atVp q e v).fetchWord v.pc = .ok (w, f) → decodeWord w = .ok .stop →
        ∃ t, exec .vpIssue s = .next t ∧ t.vp = none ∧ t.port = false ∧ t.g.v = q.g.v ∧ t.g.viq = q.g.viq ∧
          t.g.vps[e]? = some { v with st := .stopped, pc := v.pc + 4, cnt := v.cnt + 1, seq := v.seq + 1 }) ∧
      ∀ l t, l.Pairwise (fun a b => a < b) →
        (∀ e, e ∈ l ↔ ∃ v, q.g.vps[e]? = some v ∧ v.st = .ready ∧ v.line = none ∧ v.pc = s.ev.pc) → Claim.issueAll l q t →
        exec .vpIssue s = .next t)

/-- Division and remainder, and when a result with a lookahead is written (08 R214, 07 R192). -/
def Obligations.DivisionsAndLateResults : Prop :=
  (∀ x ∈ Claim.divisions, ∀ (s : State) (d a b : CReg) (la : BitVec 4),
    ∃ t, exec (x.1 d a b la) s = .next t ∧ Claim.gaveC s t d (x.2 (s.c a) (s.c b)) la true) ∧
  ((∀ (s : State) (l : Late), let q := s.focus s.ev.g
    q.g.resident = true → q.g.late.find? (fun x => decide (x.d = s.ev.reg) && decide (x.div = l.div)) = some l →
    ∃ u, Claim.wroteC q u l.d l.val ∧ exec (if l.div then .divideUnitResult else .loadedValueArrives) s =
      .next { u with g := { u.g with late := q.g.late.filter fun x => decide (x.d ≠ l.d) || decide (l.seq < x.seq) } }) ∧
  ∀ (s : State), (∀ l ∈ s.g.late, l.d ≠ 0) → s.g.late.Pairwise (fun a b => a.seq < b.seq) →
    let t := s.deliverLate
    (∀ l ∈ s.g.late, l.upto < s.g.seq → (∀ k ∈ s.g.late, k.upto < s.g.seq → k.d = l.d → k.seq ≤ l.seq) → t.c l.d = l.val) ∧
    (∀ l, l ∈ t.g.late ↔ l ∈ s.g.late ∧ ∀ k ∈ s.g.late, k.upto < s.g.seq → k.d = l.d → k.seq < l.seq) ∧
    ∀ r, (∀ l ∈ s.g.late, l.upto < s.g.seq → l.d ≠ r) → t.c r = s.c r)

/-- The two-operand instructions of 09 R245 and R248 with their operations; the flag says that only integer types are admitted. -/
def Sys2Proof.Claim.vops : List ((VName → VName → BOp → Ty → Bool → Instr) × BinOp × Bool) := [
  (.vadd, .add, false), (.vsub, .sub, false), (.vmul, .mul, false), (.vmin, .min, false), (.vmax, .max, false),
  (.vand, .and, false), (.vor, .or, false), (.vxor, .xor, false), (.vsll, .sll, true), (.vsrl, .srl, true), (.vsra, .sra, true)]

/-- Registers of a b operand; the broadcast form exists in the control stream only (07 R191). -/
def Sys2Proof.Claim.bRegs (s : State) (b : BOp) (rs : List Nat) : Prop :=
  match b with | .v r => rs = [r.toNat] | .c _ => rs = [] ∧ s.vp = none

/-- Delivered results change exactly the listed elements of one register, their vo bits and the sticky flags (09 R243, 02 R58, 02 R60, 01 R13). That a
write of a whole 4-byte word, and no other, clears its poison is the model's reading (log entry 52). -/
def Obligations.VectorDelivery : Prop :=
  ∀ (s : State) (d w : Nat) (l : List (Nat × Res)), s.g.grant ≤ 16384 → 0 < w → w ∣ s.g.grant →
    (l.map fun r => r.1).Nodup → (∀ r ∈ l, r.1 < s.g.grant / w) →
    let t := s.putRes d w l
    t = { s with g := { s.g with v := t.g.v, vo := t.g.vo, sticky := t.g.sticky, rpoison := t.g.rpoison }, trace := t.trace } ∧
    (s.vp = none → w ∈ [8, 16, 32, 64, 256] →
      t.g.rpoison = s.g.rpoison.filter fun x => !(decide (x.1 = s.reg d) &&
        (List.range 32).all fun b => l.any fun r => decide (r.1 * w ≤ 32 * x.2.1 + b) && decide (32 * x.2.1 + b < (r.1 + 1) * w))) ∧
    (∀ v r, s.vp = some v → l = [(v, r)] → w ≤ 32 →
      t.g.rpoison = s.g.rpoison.filter fun x => !(decide (x.1 = s.reg d) && decide (x.2.1 = v) && decide (w = 32))) ∧
    t.g.sticky = s.g.sticky.or (l.foldl (fun f r => f.or r.2.fl) {}) ∧
    (∀ e < 2048, t.g.vo.getLsbD e = (s.g.vo.getLsbD e || l.any fun r => decide (r.1 = e) && r.2.vo)) ∧
    (∀ n, n ≠ s.reg d → t.vphys n = s.vphys n) ∧
    (s.vp = none → ∀ e < s.g.grant / w, getEl w (t.vphys (s.reg d)) e =
      match l.find? (fun r => decide (r.1 = e)) with | some r => r.2.bits % 2 ^ w | none => getEl w (s.vphys (s.reg d)) e) ∧
    (∀ v r, s.vp = some v → l = [(v, r)] → w ≤ 32 → 32 ∣ s.g.grant → v < s.g.grant / 32 →
      (∀ e < s.g.grant / 32, e ≠ v → getEl 32 (t.vphys (s.reg d)) e = getEl 32 (s.vphys (s.reg d)) e) ∧
      getEl 32 (t.vphys (s.reg d)) v % 2 ^ w = r.bits % 2 ^ w ∧
      getEl 32 (t.vphys (s.reg d)) v / 2 ^ w = getEl 32 (s.vphys (s.reg d)) v / 2 ^ w)

/-- A result is the exact integer `n`, clamped to the present range of the width and with its vo bit where that changes it (03 R69). -/
def Sys2Proof.Claim.clamped (w : Nat) (r : Res) (n : Int) : Prop :=
  let m : Int := 2 ^ (w - 1) - 1
  sextNat w r.bits = Max.max (-m) (Min.min m n) ∧ r.bits < 2 ^ w ∧ r.fl = {} ∧ (r.vo = true ↔ n < -m ∨ m < n)

/-- Integer results saturate and set vo exactly then; strict and pass propagation of absent operands (03 R68, 03 R69, 09 R245, 09 R246, 09 R247, 09 R248, 03 R83, 03 R71, 03 R94). -/
def Obligations.SaturationAndAbsence : Prop :=
  ((∀ (w : Nat) (x : Int), 2 ≤ w →
    let m : Int := 2 ^ (w - 1) - 1
    let r := satInt w x
    sextNat w r.bits = Max.max (-m) (Min.min m x) ∧ r.bits < 2 ^ w ∧ r.bits ≠ 2 ^ (w - 1) ∧ r.fl = {} ∧ (r.vo = true ↔ x < -m ∨ m < x)) ∧
  ∀ (t : Ty) (rm : RMode) (p : Bool) (a b d : Nat), t = .i8 ∨ t = .i16 ∨ t = .i32 →
    let w := t.bits
    let m : Int := 2 ^ (w - 1) - 1
    let x := sextNat w a
    let y := sextNat w b
    let ev := fun (o : BinOp) => o.eval t rm a b
    a < 2 ^ w → b < 2 ^ w → d < 2 ^ w → a ≠ 2 ^ (w - 1) → b ≠ 2 ^ (w - 1) → d ≠ 2 ^ (w - 1) →
    Claim.clamped w (ev .add) (x + y) ∧ Claim.clamped w (ev .sub) (x - y) ∧ Claim.clamped w (ev .mul) (x * y) ∧
    Claim.clamped w (macRun t p rm a b d) (x * y + sextNat w d) ∧ Claim.clamped w (ev .min) (Min.min x y) ∧ Claim.clamped w (ev .max) (Max.max x y) ∧
    Claim.clamped w (absEval t a) |x| ∧ Claim.clamped w (negEval t a) (-x) ∧
    (y ≠ 0 → Claim.clamped w (ev .div) (x.tdiv y)) ∧
    (y = 0 → sextNat w (ev .div).bits = (if 0 < x then m else if x < 0 then -m else 0) ∧ (ev .div).fl = {} ∧ (ev .div).vo = true) ∧
    ev .and = ⟨a &&& b, {}, false⟩ ∧ ev .or = ⟨a ||| b, {}, false⟩ ∧ ev .xor = ⟨a ^^^ b, {}, false⟩ ∧
    ev .sll = ⟨if w ≤ b then 0 else a * 2 ^ b % 2 ^ w, {}, false⟩ ∧ ev .srl = ⟨if w ≤ b then 0 else a / 2 ^ b, {}, false⟩ ∧
    sextNat w (ev .sra).bits = x / 2 ^ Min.min b w ∧ (ev .sra).bits < 2 ^ w ∧ (ev .sra).fl = {} ∧ (ev .sra).vo = false) ∧
  (∀ (o : BinOp) (t : Ty) (p : Bool) (rm : RMode) (a b : Nat), t ≠ .i64 →
    let no := ({ bits := t.absentCode, fl := { abs := true } } : Res)
    let r := o.run t p rm a b
    (t.isAbsent a = false → t.isAbsent b = false → r = o.eval t rm a b) ∧
    (t.isAbsent a = true ∨ t.isAbsent b = true → r.fl = { abs := true } ∧ r.vo = false) ∧
    (t.isAbsent a = true → t.isAbsent b = true → r = no) ∧
    (p = false → (t.isAbsent a = true ∨ t.isAbsent b = true) → r = no) ∧
    (p = true → t.isAbsent a = false → t.isAbsent b = true → r.bits = deliver o t a) ∧
    (p = true → t.isAbsent a = true → t.isAbsent b = false →
      (o = .div ∨ o = .sll ∨ o = .srl ∨ o = .sra → r = no) ∧ (o = .sub → r.bits = negPat t b) ∧
      (o = .add ∨ o = .mul ∨ o = .min ∨ o = .max ∨ o = .and ∨ o = .or ∨ o = .xor → r.bits = deliver o t b)) ∧
    (t.isInt = true ∨ o.raw = true → ∀ x, deliver o t x = x))

/-- The comparisons of 09 R249. -/
def Sys2Proof.Claim.vcmps : List ((VName → BOp → Ty → Instr) × Cond × Bool) := [
  (.vcmpEq, .eq, false), (.vcmpNe, .ne, false), (.vcmpLt, .lt, false), (.vcmpLe, .le, false), (.vcmpuLt, .ult, true), (.vcmpuLe, .ule, true)]

/-- vcmp, vcmpu, vabsent and vomov write vm at the active elements alone (09 R249, 09 R250, 09 R252, 03 R83, 03 R84, 09 R239). -/
def Obligations.VectorComparisons : Prop :=
  ∀ (s : State) (a : VName) (b : BOp) (t : Ty) (rs : List Nat), Claim.bRegs s b rs → (∀ e ∈ s.dataActives, e < 2048) →
    let w := t.bits
    let x := fun e => s.opEl a.toNat w e
    let no := fun e => t.isAbsent (x e) || t.isAbsent (s.bEl b w e)
    (∀ o ∈ Claim.vcmps, t ≠ .i64 → t ≠ .f64 → (o.2.2 = true → t.isInt = true) → Claim.ready s w (a.toNat :: rs) →
      ∃ u, exec (o.1 a b t) s = .next u ∧ u = { s with g := { s.g with vm := u.g.vm, sticky := u.g.sticky }, trace := u.trace } ∧
        (∀ e, u.g.vm.getLsbD e = if e ∈ s.dataActives then !no e && (o.2.1.eval t (x e) (s.bEl b w e)).1 else s.g.vm.getLsbD e) ∧
        u.g.sticky = s.g.sticky.or (s.dataActives.foldl (fun f e => f.or (if no e then { abs := true } else (o.2.1.eval t (x e) (s.bEl b w e)).2)) {})) ∧
    (t ≠ .i64 → t ≠ .f64 → Claim.ready s w [a.toNat] →
      ∃ u, exec (.vabsent a t) s = .next u ∧ u = { s with g := { s.g with vm := u.g.vm, sticky := u.g.sticky }, trace := u.trace } ∧
        (∀ e, u.g.vm.getLsbD e = if e ∈ s.dataActives then t.isAbsent (x e) else s.g.vm.getLsbD e) ∧
        u.g.sticky = s.g.sticky.or { abs := s.dataActives.any fun e => t.isAbsent (x e) }) ∧
    ∃ u, exec .vomov s = .next u ∧ u = { s with g := { s.g with vm := u.g.vm, vo := u.g.vo }, trace := u.trace } ∧
      ∀ e, u.g.vm.getLsbD e = (if e ∈ s.dataActives then s.g.vo.getLsbD e else s.g.vm.getLsbD e) ∧
        u.g.vo.getLsbD e = (s.g.vo.getLsbD e && !decide (e ∈ s.dataActives))

/-- vsel, vmov, vbcast, vext, vsetabs and vfill: which elements they write and with what (09 R251, 09 R254, 09 R255, 09 R240, 09 R268). -/
def Obligations.VectorMoves : Prop :=
  ∀ (s : State) (d a : VName) (c : CReg) (b : BOp) (t : Ty) (rs : List Nat), Claim.bRegs s b rs →
    let w := if t = .f64 then 256 else t.bits
    let x := fun e => s.opEl a.toNat w e
    (t ≠ .i64 → (t = .f64 → s.vp = none) →
      (Claim.ready s w [a.toNat, d.toNat] → exec (.vmov d a t) s = .next (s.setOpEls d.toNat w (s.actives.map fun e => (e, x e)))) ∧
      (Claim.ready s w (a.toNat :: d.toNat :: rs) → (t = .f64 → rs ≠ []) → s.u.stageOk = true →
        exec (.vsel d a b t) s = .next (s.setOpEls d.toNat w ((match s.vp with | some v => [v] | none => List.range s.u.vl.toNat).map fun e =>
          (e, if s.g.vm.getLsbD e then x e else s.bEl b w e)))) ∧
      (s.vp = none → Claim.ready s w [a.toNat, d.toNat] →
        (s.u.opB.toNat < s.u.vl.toNat →
          exec (.vbcast d a c t) s = .next (s.setEls d.toNat w (s.active.map fun e => (e, s.el a.toNat w s.u.opB.toNat)))) ∧
        (s.u.vl.toNat ≤ s.u.opB.toNat → exec (.vbcast d a c t) s = .next (s.raiseTrap { cause := 0x0A, idx := s.u.opB })))) ∧
    (t ≠ .i64 → t ≠ .f64 →
      (Claim.ready s w [d.toNat] → exec (.vsetabs d t) s = .next (s.setOpEls d.toNat w (s.actives.map fun e => (e, t.absentCode)))) ∧
      (s.vp = none → Claim.ready s w [d.toNat] →
        exec (.vmovScalar d c t) s = .next (s.setEls d.toNat w (s.active.map fun e => (e, s.u.opB.toNat))) ∧
        (let rest := (List.range (s.g.grant / w)).filter fun e => !s.eff e
         exec (.vfill d t) s = .next (s.setEls d.toNat w (rest.map fun e => (e, t.absentCode))) ∧
         exec (.vfillScalar d c t) s = .next (s.setEls d.toNat w (rest.map fun e => (e, s.u.opB.toNat))))) ∧
      ∀ k : CReg, s.vp = none → Claim.ready s w [a.toNat] →
        (s.u.opB.toNat < s.u.vl.toNat → ∃ u, exec (.vext k a c t) s = .next u ∧
          Claim.wroteC s u k (let y := s.el a.toNat w s.u.opB.toNat
            if t.isInt then BitVec.ofInt 64 (sextNat w y) else BitVec.ofNat 64 y)) ∧
        (s.u.vl.toNat ≤ s.u.opB.toNat → exec (.vext k a c t) s = .next (s.raiseTrap { cause := 0x0A, idx := s.u.opB })))

/-- vmsave writes a whole mask to a vector register, and vmload a register's low bits to a mask, whatever vl, vm and the stage predicate say (09 R253, 02 R58, 01 R36, 18 R424). -/
def Obligations.MaskMoves : Prop :=
  ∀ (s : State) (v : VName) (m : MaskSel), s.vp = none → s.g.grant ≤ 16384 →
    v.toNat < s.g.budget → (∀ x ∈ s.g.streams, x.reg ≠ s.reg v.toNat) → (∀ x ∈ s.g.rpoison, x.1 ≠ s.reg v.toNat) →
    let n := match m with | .j _ => s.g.grant / 32 | _ => s.g.grant / 8
    let bit := fun (q : State) (i : Nat) => match m with
      | .vm => q.g.vm.getLsbD i | .vo => q.g.vo.getLsbD i | .j k => (Bank.get 0 q.g.j k.toNat).getLsbD i
    (∃ t, exec (.vmsave v m) s = .next t ∧ t = { s with g := { s.g with v := t.g.v }, trace := t.trace } ∧
      (∀ r, r ≠ s.reg v.toNat → t.vphys r = s.vphys r) ∧
      ∀ i, (t.vphys (s.reg v.toNat)).testBit i = (decide (i < n) && bit s i)) ∧
    (∃ t, exec (.vmload v m) s = .next t ∧ t = { s with g := { s.g with vm := t.g.vm, vo := t.g.vo, j := t.g.j }, trace := t.trace } ∧
      (m ≠ .vm → t.g.vm = s.g.vm) ∧ (m ≠ .vo → t.g.vo = s.g.vo) ∧ (∀ k, m ≠ .j k → Bank.get 0 t.g.j k.toNat = Bank.get 0 s.g.j k.toNat) ∧
      ∀ i, bit t i = if i < n then (s.vphys (s.reg v.toNat)).testBit i else bit s i)

/-- A run of `n` elements of `w` bits from register `r` is in order (09 R241, 01 R14, 05 R149): within the budget, not across
register 32, and none of its registers bound or poisoned. -/
def Sys2Proof.Claim.run (s : State) (r w n : Nat) : Prop :=
  let k := (n * w + s.g.grant - 1) / s.g.grant
  r < s.g.budget ∧ r + k ≤ s.g.budget ∧ ¬ (r ≤ 31 ∧ 32 < r + k) ∧
  ∀ i < k, (∀ x ∈ s.g.streams, x.reg ≠ s.reg (r + i)) ∧ ∀ x ∈ s.g.rpoison, x.1 ≠ s.reg (r + i)
/-- Registers of a run: none where it has no element. -/
def Sys2Proof.Claim.runLen (s : State) (w n : Nat) : Nat := (n * w + s.g.grant - 1) / s.g.grant
/-- Two runs have no register in common. -/
def Sys2Proof.Claim.apart (r n r' n' : Nat) : Prop := r + n ≤ r' ∨ r' + n' ≤ r

/-- Elements of a run written in order, with their vo bits and flags. -/
def Sys2Proof.Claim.putRun (s : State) (d w : Nat) (l : List (Nat × Res)) : State :=
  ((l.foldl (fun q r => q.setRunEl d w r.1 r.2.bits) s).setVo ((l.filter fun r => r.2.vo).map fun r => r.1)).raise (flagsOf l)

/-- The special functions of 09 R259. -/
def Sys2Proof.Claim.specials : List ((VName → VName → Ty → BitVec 4 → Instr) × SFn) := [
  (.vexp2, .exp2), (.vlog2, .log2), (.vrcp, .rcp), (.vrsqrt, .rsqrt), (.vsqrt, .sqrt), (.vsin, .sin), (.vcos, .cos),
  (.vtanh, .tanh), (.vsigm, .sigm), (.vexp, .exp), (.vgelu, .gelu)]

/-- vcvt, vquant and vdequant convert every active element, or facet, between runs of registers (09 R256, 09 R257, 09 R258, 09 R241, 09 R242, 03 R86).
That every NaN of a facet is quiet, and the special byte that an engine or vquant writes, are the model's readings (log entry 49). -/
def Obligations.VectorConversions : Prop :=
  (∀ (s : State) (d a : VName) (t tt : Ty) (la : BitVec 4), tt ≠ t → t ≠ .i64 → t ≠ .f64 → tt ≠ .i64 → tt ≠ .f64 →
    (s.vp = none → 0 < s.g.grant → s.u.vl.toNat ≤ s.g.grant / Min.min t.bits tt.bits →
      Claim.run s a.toNat t.bits s.u.vl.toNat → Claim.run s d.toNat tt.bits s.u.vl.toNat →
      (a = d ∧ t.bits = tt.bits ∨ Claim.apart a.toNat (Claim.runLen s t.bits s.u.vl.toNat) d.toNat (Claim.runLen s tt.bits s.u.vl.toNat)) →
      exec (.vcvt d a (tt.code.setWidth 6) t la) s = .next (Claim.putRun s d.toNat tt.bits
        (s.active.map fun e => (e, convert tt t s.u.rm (s.runEl a.toNat t.bits e))))) ∧
    (∀ v, s.vp = some v → Claim.ready s 32 [a.toNat, d.toNat] → (a = d → t.bits = tt.bits) →
      exec (.vcvt d a (tt.code.setWidth 6) t la) s = .next (s.putRes d.toNat tt.bits
        (if s.g.vm.getLsbD v then [(v, convert tt t s.u.rm (s.opEl a.toNat t.bits v))] else [])))) ∧
  (∀ (s : State) (d a : VName) (c : BitVec 6) (t : Ty) (la : BitVec 4) (f : Fmt) (ff : FacetFmt),
    quantTy t = .ok f → FacetFmt.ofCode c.toNat = some ff → s.vp = none → 0 < s.g.grant → s.u.vl.toNat ≤ s.g.grant / 256 →
    let n := s.u.vl.toNat * ff.count
    (Claim.run s a.toNat t.bits n → Claim.run s d.toNat 1 1 → Claim.apart a.toNat (Claim.runLen s t.bits n) d.toNat 1 →
      let rs := s.active.map fun e => (e, ff.quantise s.u.rm ((List.range ff.count).map fun i =>
        let x := s.runEl a.toNat t.bits (ff.count * e + i)
        if x = f.absent then none else some (f.decode x)))
      exec (.vquant d a c t la) s = .next (((s.setEls d.toNat 256 (rs.map fun r => (r.1, leNat r.2.1))).setVo
        ((rs.filter fun r => r.2.2.2).map fun r => r.1)).raise (rs.foldl (fun q r => q.or r.2.2.1) {}))) ∧
    (Claim.run s d.toNat t.bits n → Claim.run s a.toNat 1 1 → Claim.apart a.toNat 1 d.toNat (Claim.runLen s t.bits n) →
      exec (.vdequant d a c t la) s = .next (Claim.putRun s d.toNat t.bits (s.active.flatMap fun e =>
        (List.range ff.count).map fun i => (ff.count * e + i, match ff.elem (natLe 32 (s.el a.toNat 256 e)) i with
          | none => ({ bits := f.absent, fl := { abs := true } } : Res)
          | some (.nan _) => { bits := f.nan }
          | some (.inf sg) => { bits := f.withSign sg f.infBits }
          | some (.fin sg m q) => { bits := (f.round s.u.rm sg m q).bits, fl := (f.round s.u.rm sg m q).fl }))))) ∧
  ∀ (s : State) (d a : VName) (c : BitVec 6) (t : Ty) (la : BitVec 4),
    (t = .i64 ∨ t = .f64 ∨ 8 ≤ c.toNat ∨ c = t.code.setWidth 6 ∨ c = 3 ∨ c = 7 → exec (.vcvt d a c t la) s = .next (s.raiseTrap { cause := 0x01 })) ∧
    (t.isInt = true ∨ t = .f64 ∨ c.toNat < 8 ∨ 10 < c.toNat ∨ s.vp ≠ none →
      exec (.vquant d a c t la) s = .next (s.raiseTrap { cause := 0x01 }) ∧ exec (.vdequant d a c t la) s = .next (s.raiseTrap { cause := 0x01 }))

/-- The eleven special functions deliver their result to every active element; an absent operand gives the absent code with ABS (09 R259, 03 R92, 03 R93,
03 R83). Which of the results that the bound of R92 admits is delivered is free (log entry 14). -/
def Obligations.SpecialFunctions : Prop :=
  ∀ x ∈ Claim.specials, ∀ (s : State) (d a : VName) (t : Ty) (la : BitVec 4),
    (∀ f, (t = .f16 ∧ f = Fmt.f16 ∨ t = .bf16 ∧ f = Fmt.bf16 ∨ t = .f32 ∧ f = Fmt.f32) → Claim.ready s t.bits [a.toNat, d.toNat] →
      exec (x.1 d a t la) s = .next (s.putRes d.toNat t.bits (s.actives.map fun e =>
        let y := s.opEl a.toNat t.bits e
        (e, if y = f.absent then { bits := f.absent, fl := { abs := true } } else x.2.eval f y)))) ∧
    (t ≠ .f16 → t ≠ .bf16 → t ≠ .f32 → exec (x.1 d a t la) s = .next (s.raiseTrap { cause := 0x01 }))

/-- The whole-register shifts of 09 R261: the new string of L bits from the strings A and D and the amount n. -/
def Sys2Proof.Claim.wholeShifts : List ((VName → VName → CReg → Ty → Instr) × (Nat → Nat → Nat → Nat → Nat)) := [
  (.vshlw, fun A _ n L => A * 2 ^ n % 2 ^ L), (.vshrw, fun A _ n _ => A / 2 ^ n),
  (.vfsl, fun A D n L => (A * 2 ^ L + D) * 2 ^ n % 2 ^ (2 * L) / 2 ^ L), (.vfsr, fun A D n L => (D * 2 ^ L + A) / 2 ^ n % 2 ^ L)]

/-- vshlw, vshrw, vfsl and vfsr shift the string of the elements below vl and write its active elements (R261). -/
def Obligations.WholeRegisterShifts : Prop :=
  (∀ x ∈ Claim.wholeShifts, ∀ (s : State) (d a : VName) (b : CReg) (t : Ty), aibLegal (x.1 d a b t) = false ∧
    ((t = .i64 ∨ t = .f64 ∨ d = a) → s.vp = none → exec (x.1 d a b t) s = .next (s.raiseTrap { cause := 0x01 })) ∧
    (s.vp = none → t ≠ .i64 → t ≠ .f64 → d ≠ a → Claim.ready s t.bits [a.toNat, d.toNat] →
    let w := t.bits
    let str := fun (r : Nat) => ((List.range s.u.vl.toNat).map fun e => s.el r w e * 2 ^ (w * e)).sum
    exec (x.1 d a b t) s = .next (s.setEls d.toNat w (s.active.map fun e =>
      (e, getEl w (x.2 (str a.toNat) (str d.toNat) s.u.opB.toNat (s.u.vl.toNat * w)) e))))) ∧
  ∀ w : Word32, opOf w = 0x3D → (w.getLsbD 2 = false ∨ w.getLsbD 3 = true) → ∀ i, decodeWord w ≠ .ok i

/-- The reduction of 03 R89 over the leaves from `2^j · i` upwards, `2^j` of them: neighbours are combined level by level, and an
absent or inactive leaf is passed over. -/
def Sys2Proof.Claim.block {α : Type} (op : α → α → α) (leaf : Nat → Option α) : Nat → Nat → Option α
  | 0, i => leaf i
  | j + 1, i => match Claim.block op leaf j (2 * i), Claim.block op leaf j (2 * i + 1) with
    | some x, some y => some (op x y)
    | some x, none => some x
    | none, y => y

/-- Reductions: the sum, the extremes and the count of the present active elements, integer or floating-point, and the mask reductions (09 R262, 03 R89,
03 R69, 03 R72, 03 R84). How a NaN enters a reduction is the model's reading (log entry 50). -/
def Obligations.Reductions : Prop :=
  (∀ (s : State) (d : CReg) (a : VName) (t : Ty) (la : BitVec 4), s.vp = none → t = .i8 ∨ t = .i16 ∨ t = .i32 → Claim.ready s t.bits [a.toNat] →
    let ps := (s.active.map fun e => s.el a.toNat t.bits e).filter fun x => !t.isAbsent x
    let xs := ps.map (sextNat t.bits)
    let sum := satInt 32 xs.sum
    let val := fun (x : Nat) => if xs = [] then (0x80000000 : Nat) else x
    let ab : Sticky := { abs := decide (ps.length ≠ s.active.length) }
    let put := fun (u : State) (y : Word) (fl : Sticky) (vo : Bool) => ∃ q, Claim.wroteC s q d y ∧
      u = { q with g := { q.g with sticky := s.g.sticky.or fl, vo := if vo then s.g.vo ||| 1 else s.g.vo }, trace := u.trace }
    (∃ u, exec (.vredSum d a t la) s = .next u ∧ put u (BitVec.ofInt 64 (sextNat 32 (val sum.bits))) ab (decide (xs ≠ []) && sum.vo)) ∧
    (∃ u, exec (.vredSumc d a t la) s = .next u ∧ put u (BitVec.ofNat 64 (val sum.bits + ps.length * 2 ^ 32)) ab (decide (xs ≠ []) && sum.vo)) ∧
    (∃ u, exec (.vredMax d a t la) s = .next u ∧ put u (BitVec.ofInt 64 (xs.max?.getD (-2 ^ (t.bits - 1)))) ab false) ∧
    (∃ u, exec (.vredMin d a t la) s = .next u ∧ put u (BitVec.ofInt 64 (xs.min?.getD (-2 ^ (t.bits - 1)))) ab false) ∧
    (∃ u, exec (.vredCnt d a t la) s = .next u ∧ put u (BitVec.ofNat 64 ps.length) ab false) ∧
    (∃ u, exec (.vredPopc d t la) s = .next u ∧ put u (BitVec.ofNat 64 s.active.length) {} false) ∧
    ∃ u, exec (.vredFirst d t la) s = .next u ∧ put u (match s.active with | e :: _ => BitVec.ofNat 64 e | [] => BitVec.ofInt 64 (-1)) {} false) ∧
  ∀ (s : State) (d : CReg) (a : VName) (t : Ty) (la : BitVec 4), s.vp = none → t = .f16 ∨ t = .bf16 ∨ t = .f32 → Claim.ready s t.bits [a.toNat] →
    let leaf := fun e =>
      let x := s.el a.toNat t.bits e
      if e < s.u.vl.toNat ∧ s.eff e = true ∧ t.isAbsent x = false then some x else none
    let sum := Claim.block (fun (x y : Nat × Sticky) =>
        let r := Fmt.f32.addV s.u.rm (Fmt.f32.decode x.1) (Fmt.f32.decode y.1)
        (r.bits, (x.2.or y.2).or r.fl)) (fun e => (leaf e).map (widen t)) 12 0
    let ext := fun (o : BinOp) => (Claim.block (fun (x y : Nat × Sticky) =>
        let r := o.eval t s.u.rm x.1 y.1
        (r.bits, (x.2.or y.2).or r.fl)) (fun e => (leaf e).map (extLeaf t)) 12 0).getD (t.absentCode, {})
    let n := ((List.range s.u.vl.toNat).filter fun e => (leaf e).isSome).length
    let ab := decide (n ≠ s.active.length)
    let put := fun (u : State) (y : Nat) (fl : Sticky) => ∃ q, Claim.wroteC s q d (BitVec.ofNat 64 y) ∧
      u = { q with g := { q.g with sticky := s.g.sticky.or { fl with abs := fl.abs || ab } } }
    let sum := sum.getD (0xFFC00001, {})
    (∃ u, exec (.vredSum d a t la) s = .next u ∧ put u sum.1 sum.2) ∧
    (∃ u, exec (.vredSumc d a t la) s = .next u ∧ put u (sum.1 + n * 2 ^ 32) sum.2) ∧
    (∃ u, exec (.vredMax d a t la) s = .next u ∧ put u (ext .max).1 (ext .max).2) ∧
    (∃ u, exec (.vredMin d a t la) s = .next u ∧ put u (ext .min).1 (ext .min).2) ∧
    ∃ u, exec (.vredCnt d a t la) s = .next u ∧ put u n {}

/-- vcompress, vexpand, vperm, vslideup and vslidedn: which element of va each element of vd receives (09 R263, 09 R264, 09 R240, 09 R242). -/
def Obligations.PermutesAndSlides : Prop :=
  (∀ (s : State) (d a b : VName) (c : CReg) (t : Ty) (f : Bool), s.vp = none → (t = .i64 ∨ f = true ∧ t ≠ .f64 ∨ d = a) →
    ∀ i ∈ [Instr.vcompress d a t f, .vexpand d a t f, .vperm d a b t f, .vslideup d a c t f, .vslidedn d a c t f],
      exec i s = .next (s.raiseTrap { cause := 0x01 })) ∧
  ∀ (s : State) (d a b : VName) (c : CReg) (t : Ty) (f : Bool), s.vp = none → t ≠ .i64 → (f = true → t = .f64) → d ≠ a →
    let w := if t = .f64 then 256 else t.bits
    let x := fun e => s.el a.toNat w e
    let no := absentOf t f
    let vl := s.u.vl.toNat
    Claim.ready s w [a.toNat, d.toNat] →
    (exec (.vcompress d a t f) s = .next (s.setEls d.toNat w ((List.range vl).map fun e => (e, (s.active.map x).getD e no)))) ∧
    (exec (.vexpand d a t f) s = .next (s.setEls d.toNat w (s.active.mapIdx fun j e => (e, x j)))) ∧
    (exec (.vslideup d a c t f) s = .next (s.setEls d.toNat w ((s.active.filter fun e => decide (s.u.opB.toNat ≤ e)).map fun e => (e, x (e - s.u.opB.toNat))))) ∧
    (exec (.vslidedn d a c t f) s = .next (s.setEls d.toNat w (s.active.map fun e =>
      (e, if e + s.u.opB.toNat < vl then x (e + s.u.opB.toNat) else no)))) ∧
    (Claim.run s b.toNat 32 vl → Claim.apart b.toNat (Claim.runLen s 32 vl) d.toNat 1 →
      let i := fun e => s.runEl b.toNat 32 e
      exec (.vperm d a b t f) s = .next ((s.setEls d.toNat w (s.active.map fun e =>
        (e, if i e = 2 ^ 31 then no else if 0 ≤ sextNat 32 (i e) ∧ sextNat 32 (i e) < (s.g.grant / w : Nat) then x (sextNat 32 (i e)).toNat else no))).raise
          { abs := s.active.any fun e => decide (i e = 2 ^ 31) }))

/-- vregroup gives the stable order of the active elements by key, absent keys last, and the histogram of the keys (09 R265, 03 R71). -/
def Obligations.Regroup : Prop :=
  (∀ (s : State) (d a : VName) (t : Ty), s.vp = none → (t ≠ .i16 ∧ t ≠ .i32 ∨ a = d ∨ a.toNat = d.toNat + 1) →
    exec (.vregroup d a t) s = .next (s.raiseTrap { cause := 0x01 })) ∧
  ∀ (s : State) (d a : VName) (t : Ty), s.vp = none → t = .i16 ∨ t = .i32 → a ≠ d → a.toNat ≠ d.toNat + 1 →
    Claim.ready s 32 [d.toNat, d.toNat + 1, a.toNat] →
    let key := fun e => sextNat t.bits (s.el a.toNat t.bits e)
    let no := fun e => t.isAbsent (s.el a.toNat t.bits e)
    let m := s.g.grant / 32
    ((∀ e ∈ s.active, no e = false → 0 ≤ key e ∧ key e < m) →
      ∃ p : List Nat, p.Perm s.active ∧
        p.Pairwise (fun x y => (no x = false ∧ no y = true) ∨ (no x = false ∧ no y = false ∧ (key x < key y ∨ key x = key y ∧ x < y)) ∨ (no x = true ∧ no y = true ∧ x < y)) ∧
        exec (.vregroup d a t) s = .next (((s.setEls d.toNat 32 ((List.range s.u.vl.toNat).map fun i => (i, p.getD i 0x80000000))).setEls (d.toNat + 1) 32
          ((List.range m).map fun k => (k, (s.active.filter fun e => !no e && decide (key e = k)).length))).raise { abs := s.active.any no })) ∧
    (∀ e, s.active.find? (fun e => !no e && (decide (key e < 0) || decide (m ≤ key e))) = some e →
      exec (.vregroup d a t) s = .next (s.raiseTrap { cause := 0x0A, elem := BitVec.ofNat 64 e, idx := BitVec.ofInt 64 (key e) }))

/-- The listed elements are read in order, each as one access of an agent that passes its checks, and that keeps the leaves of the pages
it has crossed (17 R404): `xs` are the values, `u` the state and `h` the agent afterwards. -/
def Sys2Proof.Claim.reads (size : Nat) : Agent → State → List (Nat × Word) → List (Nat × Nat) → State → Agent → Prop
  | ag, s, [], xs, u, h => xs = [] ∧ u = s ∧ h = ag
  | ag, s, (e, a) :: l, xs, u, h => ∃ p s' ag' ys, s.placeVia ag .load a size size = .ok (p, s', ag') ∧
      xs = (e, leNat (s'.readPlace s.t.id p size)) :: ys ∧ Claim.reads size ag' s' l ys u h
/-- The listed elements pass the checks of a write in order: `ps` are their places, `u` the state and `h` the agent afterwards. -/
def Sys2Proof.Claim.places (k : AccKind) (size : Nat) : Agent → State → List (Nat × Word) → List (Nat × Place) → State → Agent → Prop
  | ag, s, [], ps, u, h => ps = [] ∧ u = s ∧ h = ag
  | ag, s, (e, va) :: l, ps, u, h => ∃ p s' ag' qs, s.placeVia ag k va size size = .ok (p, s', ag') ∧
      ps = (e, p) :: qs ∧ Claim.places k size ag' s' l qs u h
/-- The base that the register pair of an AIB access gives VP `v` (10 R271). -/
def Sys2Proof.Claim.pair (s : State) (a : BitVec 6) (v : Nat) : Word :=
  BitVec.ofNat 64 (s.el a.toNat 32 v + s.el (a.toNat + 1) 32 v * 2 ^ 32)
def Sys2Proof.Claim.pairOk (s : State) (a : BitVec 6) : Prop := a ≠ 31#6 ∧ a ≠ 63#6 ∧ a.toNat + 1 < s.g.budget

/-- Vector loads and stores: addresses, elements, the faults of the lowest element, and the bytes that they move (10 R270, 10 R271, 10 R273, 10 R274, 10 R276, 01 R24, 10 R272, 10 R275). -/
def Obligations.VectorLoadsAndStores : Prop :=
  (∀ (s : State) (d : VName) (a : BitVec 6) (sz : Sz) (o : BitVec 7) (la : BitVec 4),
    let n := sz.vbytes
    (s.vp = none → s.u.vl.toNat ≤ s.g.grant / (8 * n) → Claim.ready s (8 * n) [d.toNat] →
      ∀ x ∈ [((.vld d a sz o la : Instr), BitVec.ofNat 64 n), ((.vlds d a sz o la : Instr), s.u.vst)],
      let l := s.active.map fun e => (e, s.u.opA + Claim.off s o n + BitVec.ofNat 64 e * x.2)
      (∀ xs u h, Claim.reads n s.agent s l xs u h → exec x.1 s = .next ((u.leaveVl s.u.vl).setEls d.toNat (8 * n) xs)) ∧
      ∀ pre e va post xs u h c i k, l = pre ++ (e, va) :: post → Claim.reads n s.agent s pre xs u h → u.place h .load va n n = .error (.trap c i k) →
        c ≠ 0x1A → (0 < e → exec x.1 s = .next (((u.walked (some k)).leaveVl (BitVec.ofNat 12 e)).setEls d.toNat (8 * n) xs)) ∧
          (e = 0 → exec x.1 s = .next (s.raiseTrap { cause := c, elem := 0, addr := va, info := i, tlb := some k }))) ∧
    ∀ v, s.vp = some v → sz ≠ .d → Claim.pairOk s a → Claim.ready s 32 [d.toNat, a.toNat, a.toNat + 1] →
      ∀ x ∈ [(.vld d a sz o la : Instr), .vlds d a sz o la],
      (s.g.vm.getLsbD v = false → exec x s = .next s) ∧
      ∀ xs u h, s.g.vm.getLsbD v = true → Claim.reads n s.agent s [(v, Claim.pair s a v + Claim.off s o n)] xs u h →
        exec x s = .next (u.setOpEls d.toNat (8 * n) xs)) ∧
  (∀ (s : State) (d : VName) (a : BitVec 6) (sz : Sz) (o : BitVec 7) (la : BitVec 4), s.poison = [] →
    let n := sz.vbytes
    let put := fun (u : State) (ps : List (Nat × Place)) (f : Nat → Nat) => ps.foldl (fun (q : State) x => q.writePlace s.t.id x.2 (natLe n (f x.1))) u
    (s.vp = none → Claim.ready s (8 * n) [d.toNat] →
      ∀ x ∈ [((.vst d a sz o la : Instr), BitVec.ofNat 64 n), ((.vsts d a sz o la : Instr), s.u.vst)],
      let l := s.active.map fun e => (e, s.u.opA + Claim.off s o n + BitVec.ofNat 64 e * x.2)
      (∀ ps u h, Claim.places .store n s.agent s l ps u h → exec x.1 s = .next (put u ps fun e => s.el d.toNat (8 * n) e)) ∧
      ∀ pre e va post ps u h c i k, l = pre ++ (e, va) :: post → Claim.places .store n s.agent s pre ps u h →
        u.place h .store va n n = .error (.trap c i k) →
        exec x.1 s = .next (s.raiseTrap { cause := c, elem := BitVec.ofNat 64 e, addr := va, info := i, tlb := some k })) ∧
    ∀ v, s.vp = some v → sz ≠ .d → Claim.pairOk s a → Claim.ready s 32 [d.toNat, a.toNat, a.toNat + 1] →
      ∀ x ∈ [(.vst d a sz o la : Instr), .vsts d a sz o la],
      (s.g.vm.getLsbD v = false → exec x s = .next s) ∧
      ∀ ps u h, s.g.vm.getLsbD v = true → Claim.places .store n s.agent s [(v, Claim.pair s a v + Claim.off s o n)] ps u h →
        exec x s = .next (put u ps fun _ => s.el d.toNat 32 v))

/-- vldw deals 4·vl consecutive elements to four registers, and vpermw serves from them the elements whose index lies in the window (10 R277, 10 R278, 05 R158, 05 R159). -/
def Obligations.WindowedGather : Prop :=
  ∀ (s : State) (d a : VName) (c : CReg) (t : Ty) (la : BitVec 4), s.vp = none → t ≠ .i64 → t ≠ .f64 →
    let w := t.bits
    let n := 4 * s.u.vl.toNat
    (d.toNat + 3 < s.g.budget → ¬ (d.toNat ≤ 31 ∧ 32 ≤ d.toNat + 3) → Claim.ready s w [d.toNat, d.toNat + 1, d.toNat + 2, d.toNat + 3] →
      s.active ≠ [] →
      ∀ xs u h, Claim.reads (w / 8) s.agent s ((List.range n).map fun i => (i, s.u.opA + BitVec.ofNat 64 (i * (w / 8)))) xs u h →
        exec (.vldw d c t la) s = .next (xs.foldl (fun q x => q.setEl (d.toNat + x.1 % 4) w (x.1 / 4) x.2) (u.leaveVl s.u.vl))) ∧
    (a.toNat + 3 < s.g.budget → ¬ (a.toNat ≤ 31 ∧ 32 ≤ a.toNat + 3) → c ≠ 31 → d.toNat ∉ [a.toNat, a.toNat + 1, a.toNat + 2, a.toNat + 3] →
      Claim.ready s w [d.toNat, a.toNat, a.toNat + 1, a.toNat + 2, a.toNat + 3] →
      let ix := fun e => sextNat w (s.el d.toNat w e)
      let no := fun e => decide (s.el d.toNat w e = 2 ^ (w - 1))
      let org := s.u.opB.toInt
      let inW := fun e => no e || (decide (org ≤ ix e) && decide (ix e < org + n))
      ((∀ e ∈ s.active, no e = false → 0 ≤ ix e ∧ ix e < s.u.opX.toNat) →
        exec (.vpermw d a c t la) s = .next (((s.setEls d.toNat w ((s.active.filter inW).map fun e =>
            (e, if no e then t.absentCode else
              let k := (ix e - org).toNat
              s.el (a.toNat + k % 4) w (k / 4)))).writeVm (s.active.map fun e => (e, !inW e))).raise { abs := s.active.any no })) ∧
      ∀ e, s.active.find? (fun e => !no e && (decide (ix e < 0) || decide ((s.u.opX.toNat : Int) ≤ ix e))) = some e →
        exec (.vpermw d a c t la) s = .next (s.raiseTrap { cause := 0x0A, elem := BitVec.ofNat 64 e, idx := BitVec.ofInt 64 (ix e) }))

/-- vscat.o writes the elements in order and vscat.u one element of each location, at base plus index times size; absent indices write nothing (10 R279,
10 R272, 04 R132). Which of several elements vscat.u writes to one location is free (log entry 10). -/
def Obligations.Scatters : Prop :=
  ∀ (s : State) (d b : VName) (a : CReg) (t : Ty) (la : BitVec 4), s.vp = none → t ≠ .i64 → t ≠ .f64 → s.poison = [] →
    let w := t.bits
    let vl := s.u.vl.toNat
    let i := fun e => s.runEl b.toNat 32 e
    let es := s.active.filter fun e => decide (i e ≠ 2 ^ 31)
    let l := es.map fun e => (e, s.u.opA + BitVec.ofInt 64 (sextNat 32 (i e) * (w / 8 : Nat)))
    let put := fun (u : State) (k : Nat) (ws : List (Place × Nat)) =>
      ((ws.foldl (fun (q : State) x => q.writePlace s.t.id x.1 (natLe (w / 8) x.2)) { u with fresh := u.fresh + k }).raise { abs := s.active.any fun e => decide (i e = 2 ^ 31) })
    Claim.ready s w [d.toNat] → Claim.run s b.toNat 32 vl → Claim.apart b.toNat (Claim.runLen s 32 vl) d.toNat 1 →
    (∀ pre e va post ps u h c k j, l = pre ++ (e, va) :: post → Claim.places .store (w / 8) s.bankAgent s pre ps u h →
      u.place h .store va (w / 8) (w / 8) = .error (.trap c k j) →
      ∀ x ∈ [(.vscatO d a b t la : Instr), .vscatU d a b t la], exec x s = .next (s.raiseTrap
        { cause := c, elem := BitVec.ofNat 64 e, idx := BitVec.ofInt 64 (sextNat 32 (i e)), addr := va, info := k, tlb := some j })) ∧
    ∀ ps u h, Claim.places .store (w / 8) s.bankAgent s l ps u h →
      let all := ps.map fun x => (x.2, s.el d.toNat w x.1)
      exec (.vscatO d a b t la) s = .next (put u all.length all) ∧
      ∃ ws, (∀ x ∈ ws, x ∈ all) ∧ (∀ x ∈ all, ∃ y ∈ ws, y.1 = x.1) ∧ (ws.map fun x => x.1).Nodup ∧
        exec (.vscatU d a b t la) s = .next (put u ws.length ws)

/-- The atomics of 10 R280 in their scalar and their vector form. -/
def Sys2Proof.Claim.atomics : List ((CReg → CReg → CReg → Ty → Instr) × (VName → BitVec 6 → VName → Ty → Instr) × AmoFn) := [
  (.amoAdd, .vamoAdd, .add), (.amoAddf, .vamoAddf, .addf), (.amoAddc, .vamoAddc, .addc), (.amoMin, .vamoMin, .min),
  (.amoMax, .vamoMax, .max), (.amoMinf, .vamoMinf, .minf), (.amoMaxf, .vamoMaxf, .maxf), (.amoAnd, .vamoAnd, .and),
  (.amoOr, .vamoOr, .or), (.amoXor, .vamoXor, .xor), (.amoSwap, .vamoSwap, .swap), (.amoCas, .vamoCas, .cas)]

/-- amo and vamo: the old values they return, the new ones they write, and what they leave alone (10 R284, 10 R280, 10 R281, 05 R142, 04 R133, 10 R282, 10
R283). Which value an atomic outside the scope of others reads is free (log entry 6). The order in which the atomics of one vamo are performed is free
(log entry 10). -/
def Obligations.Atomics : Prop :=
  ((∀ x ∈ Claim.atomics, ∀ (s : State) (d a b : CReg) (t : Ty),
    (x.2.2.admits false t = true → (x.2.2 = .cas → d ≠ 31) → ∀ p u, s.place s.agent .atomic (s.c a) (x.2.2.size t) (x.2.2.size t) = .ok (p, u) →
      let r := u.amoAt x.2.2 t p ((s.c b).toNat % 2 ^ t.bits) (if x.2.2 = .cas then (s.c (d + 1)).toNat % 2 ^ t.bits else 0)
      ∃ q, exec (x.1 d a b t) s = .next q ∧
        Claim.wroteC r.2 q d (if x.2.2 ≠ .addc ∧ t.isInt = true then BitVec.ofInt 64 (sextNat t.bits r.1) else BitVec.ofNat 64 r.1)) ∧
    (x.2.2.admits false t = true → (x.2.2 = .cas → d ≠ 31) → ∀ c i k,
      s.place s.agent .atomic (s.c a) (x.2.2.size t) (x.2.2.size t) = .error (.trap c i k) →
      exec (x.1 d a b t) s = .next (s.raiseTrap { cause := c, addr := s.c a, info := i, tlb := some k })) ∧
    (x.2.2.admits false t = false → exec (x.1 d a b t) s = .next (s.raiseTrap { cause := 0x01 }))) ∧
  (∀ (u : State) (f : AmoFn) (t : Ty) (p : Place) (x y : Nat),
    let cur := u.readPlace u.t.id p (f.size t)
    ∃ b q, (b = cur ∨ ∃ pa, p = .hbm pa ∧ b ∈ u.staleAt u.u.scope pa u.amos.reverse cur) ∧ u.amoAt f t p x y = (leNat b, q) ∧
      q = { u.writePlace u.t.id p (natLe (f.size t) (f.new t (leNat b) x y)) with amos := q.amos, fresh := q.fresh } ∧
      (u.amos = [] → q.fresh = u.fresh)) ∧
  ∀ m x y : Nat, m < 2 ^ 64 → x < 2 ^ 64 →
    AmoFn.add.new .i64 m x y = (m + x) % 2 ^ 64 ∧ AmoFn.swap.new .i64 m x y = x ∧ AmoFn.cas.new .i64 m x y = (if m = x then y else m) ∧
    sextNat 64 (AmoFn.min.new .i64 m x y) = Min.min (sextNat 64 m) (sextNat 64 x) ∧
    (m < 2 ^ 32 → x < 2 ^ 32 → m ≠ 2 ^ 31 → x ≠ 2 ^ 31 →
      sextNat 32 (AmoFn.add.new .i32 m x y) = Max.max (-(2 ^ 31 - 1)) (Min.min (2 ^ 31 - 1) (sextNat 32 m + sextNat 32 x)) ∧
      sextNat 32 (AmoFn.max.new .i32 m x y) = Max.max (sextNat 32 m) (sextNat 32 x))) ∧
  (∀ x ∈ Claim.atomics, ∀ (s : State) (d b : VName) (a : BitVec 6) (t : Ty), x.2.2.admits true t = true →
    let f := x.2.2
    let n := f.size t
    let two := f = .cas ∨ f = .addc
    let arg := fun e => (s.el d.toNat 32 e, s.el (d.toNat + 1) 32 e)
    Claim.ready s 32 [d.toNat] → (two → d.toNat ≠ 31 ∧ Claim.ready s 32 [d.toNat + 1]) →
    (s.vp = none →
      let vl := s.u.vl.toNat
      let i := fun e => s.runEl b.toNat 32 e
      let es := s.active.filter fun e => decide (i e ≠ 2 ^ 31)
      let out := s.active.filter fun e => decide (i e = 2 ^ 31)
      let l := es.map fun e => (e, s.u.opA + BitVec.ofInt 64 (sextNat 32 (i e) * n))
      Claim.run s b.toNat 32 vl → Claim.apart b.toNat (Claim.runLen s 32 vl) d.toNat 1 →
      (two → Claim.apart b.toNat (Claim.runLen s 32 vl) (d.toNat + 1) 1) →
      (∀ pre e va post ps u h c k j, l = pre ++ (e, va) :: post → Claim.places .atomic n s.bankAgent s pre ps u h →
        u.place h .atomic va n n = .error (.trap c k j) →
        exec (x.2.1 d a b t) s = .next (s.raiseTrap { cause := c, elem := BitVec.ofNat 64 e, addr := va, info := k, tlb := some j })) ∧
      ∀ ps u h, Claim.places .atomic n s.bankAgent s l ps u h →
        ∃ order : List (Nat × Place), order.Perm ps ∧
          (let r := { u with fresh := u.fresh + ps.length }.amoAll f t arg order
           exec (x.2.1 d a b t) s = .next ((r.2.putOld f d.toNat (r.1 ++ out.map fun e => (e, t.absentCode))).raise
            { abs := decide (out ≠ []) || (f.numeric && es.any fun e => t.isAbsent (s.el d.toNat 32 e)) }))) ∧
    ∀ v, s.vp = some v → b = 0 → Claim.pairOk s a → Claim.ready s 32 [a.toNat, a.toNat + 1] →
      (s.g.vm.getLsbD v = false → exec (x.2.1 d a b t) s = .next s) ∧
      (∀ c i k, s.g.vm.getLsbD v = true → s.place s.agent .atomic (Claim.pair s a v) n n = .error (.trap c i k) →
        exec (x.2.1 d a b t) s = .next (s.raiseTrap { cause := c, elem := BitVec.ofNat 64 v, addr := Claim.pair s a v, info := i, tlb := some k })) ∧
      ∀ p u, s.g.vm.getLsbD v = true → s.place s.agent .atomic (Claim.pair s a v) n n = .ok (p, u) →
        let r := u.amoAt f t p (arg v).1 (arg v).2
        exec (x.2.1 d a b t) s = .next ((r.2.putOld f d.toNat [(v, r.1)]).raise { abs := f.numeric && t.isAbsent (s.el d.toNat 32 v) }))

/-- The 8 bytes of a pivot word (04 R119): X, the count of shared holds, the sequence number. -/
def Sys2Proof.Claim.pivotWord (x : Bool) (shr seq : Nat) : List Byte := natLe 8 ((if x then 2 ^ 63 else 0) + shr * 2 ^ 32 + seq % 2 ^ 32)
/-- A pivot at `pa` that is free for an exclusive, or a shared, hold (04 R120). -/
def Sys2Proof.Claim.pivotFree (s : State) (pa : Nat) (sh : Bool) : Prop :=
  (s.hbm.num pa 8).testBit 63 = false ∧ (if sh then s.hbm.num pa 8 / 2 ^ 32 % 2 ^ 16 < 65535 else s.hbm.num pa 8 / 2 ^ 32 % 2 ^ 16 = 0)

/-- acq, acq.sh, rel and the grant of a pivot; bind and unbind of the regions it guards (04 R119, 04 R120, 04 R121, 10 R286, 04 R117, 04 R118, 04 R124, 10
R287, 17 R414, 04 R126, 18 R424). Which address INFO of pivot-fault and binding-fault carries, and that acq asks for what a load needs, are the
model's readings (log entries 22 and 23); a wait is granted also where the word is a pivot no longer (log entry 63, DESIGN CHOICE). -/
def Obligations.PivotsAndBindings : Prop :=
  ((∀ (s : State) (a : CReg) (pa : Nat) (u : State), s.place s.agent .load (s.c a) 8 8 = .ok (.hbm pa, u) → pa ∈ s.pivots → s.g.id ≠ 0 →
    let seq := u.hbm.num pa 8 % 2 ^ 32
    let shr := u.hbm.num pa 8 / 2 ^ 32 % 2 ^ 16
    (∀ x ∈ [((.acq a : Instr), false), ((.acqSh a : Instr), true)], s.hbm.num pa 8 = u.hbm.num pa 8 →
      ((∀ h ∈ s.g.holds, h.1 ≠ pa) → s.g.holds.length < 8 →
        (Claim.pivotFree s pa x.2 → (∀ w ∈ s.pwaits, w.pa ≠ pa) →
          exec x.1 s = .next { u with
            hbm := u.hbm.store pa (if x.2 then Claim.pivotWord false (shr + 1) seq else Claim.pivotWord true 0 seq)
            g := { u.g with holds := s.g.holds ++ [(pa, !x.2)] } }) ∧
        (¬ Claim.pivotFree s pa x.2 ∨ (∃ w ∈ s.pwaits, w.pa = pa) →
          exec x.1 s = .next (({ u with pwaits := s.pwaits ++ [⟨pa, s.g.id, x.2⟩] } : State).holdUnit (.acq pa x.2)))) ∧
      ((∃ h ∈ s.g.holds, h.1 = pa) ∨ 8 ≤ s.g.holds.length → exec x.1 s = .next (s.raiseTrap { cause := 0x0F, info := s.c a, tlb := some u.tlb }))) ∧
    (∀ excl, s.g.holds.find? (fun h => decide (h.1 = pa)) = some (pa, excl) →
      (excl = true → ∀ o ∈ s.ops, o.g ≠ s.g.id) →
      exec (.rel a) s = .next { u with
        hbm := u.hbm.store pa (if excl then Claim.pivotWord false shr (seq + 1) else Claim.pivotWord ((u.hbm.num pa 8).testBit 63) (shr - 1) seq)
        g := { u.g with holds := s.g.holds.filter fun h => decide (h.1 ≠ pa) } }) ∧
    ((∀ h ∈ s.g.holds, h.1 ≠ pa) → exec (.rel a) s = .next (s.raiseTrap { cause := 0x0F, info := s.c a, tlb := some u.tlb }))) ∧
  (∀ s : State, (∀ w ∈ s.pwaits, w.pa ≠ s.ev.pa) → exec .pivotGrant s = .next s) ∧
  ∀ (s : State) (w : PivotWait), s.pwaits.find? (fun w => decide (w.pa = s.ev.pa)) = some w →
    let q := ({ s with pwaits := s.pwaits.erase w } : State).focus w.g
    let old := s.hbm.num w.pa 8
    (¬ Claim.pivotFree s w.pa w.sh → exec .pivotGrant s = .next s) ∧
    (Claim.pivotFree s w.pa w.sh → w.g ≠ 0 → q.g.id = w.g → exec .pivotGrant s = .next { q with
      hbm := s.hbm.store w.pa (if w.sh then Claim.pivotWord false (old / 2 ^ 32 % 2 ^ 16 + 1) (old % 2 ^ 32) else Claim.pivotWord true 0 (old % 2 ^ 32))
      g := { q.g with
        holds := q.g.holds ++ [(w.pa, !w.sh)]
        pc := q.g.pc + 4
        seq := q.g.seq + 1
        cwait := none } })) ∧
  (∀ (s : State) (d a b : CReg),
    let c := s.ctx s.t.ctx
    (∀ leaf level u, (s.c d).toNat < 2 ^ 52 → s.leafFor s.agent .store (s.c d).toNat = .ok (leaf, level, u) →
      let pa := ptePfn leaf * 65536 + pageOff level (s.c d).toNat
      let v := u.setCtx s.t.ctx { c with binds := c.binds ++ [⟨s.c a, s.c b, s.c d, pa⟩] }
      (State.bindBad c (s.c a) (s.c b) (s.c d) (pteSpace leaf) = false →
        (pa ∈ u.pivots → exec (.bind d a b) s = .next v) ∧
        (pa ∉ u.pivots →
          (v.lineUnder (pa / 128) (pteKey leaf) = none →
            exec (.bind d a b) s = .next (s.raiseTrap { cause := 0x09, addr := s.c d, tlb := some u.tlb })) ∧
          ∀ q, v.lineUnder (pa / 128) (pteKey leaf) = some q →
            ((∀ o ∈ q.ops, pa / 128 ∉ o.lines) →
              ((∀ x ∈ q.poison, x.1 ≠ pa / 128) →
                exec (.bind d a b) s = .next { q with hbm := q.hbm.store pa (natLe 8 0), pivots := pa :: u.pivots }) ∧
              ∀ x, q.poison.find? (fun x => decide (x.1 = pa / 128)) = some x →
                exec (.bind d a b) s = .next (s.raiseTrap { cause := 0x1A, addr := s.c d, info := x.2, tlb := some q.tlb })) ∧
            ((∀ o ∈ q.ops, o.id ≠ 0) → (∃ o ∈ q.ops, pa / 128 ∈ o.lines) → exec (.bind d a b) s = .next (s.holdUnit (.recall (pa / 128)))))) ∧
      (State.bindBad c (s.c a) (s.c b) (s.c d) (pteSpace leaf) = true → exec (.bind d a b) s = .next (s.raiseTrap { cause := 0x0E, info := s.c a, tlb := some u.tlb }))) ∧
    (s.c b = 0 ∨ (s.c d).toNat % 8 ≠ 0 ∨ 1024 ≤ c.binds.length ∨ 2 ^ 40 < (s.c b).toNat → ∀ sp, State.bindBad c (s.c a) (s.c b) (s.c d) sp = true) ∧
    (∀ x, c.binds.find? (fun x => decide (x.base = s.c a)) = some x → (∀ y ∈ s.g :: s.groups, ∀ h ∈ y.holds, h.1 ≠ x.pa) →
      let v := s.setCtx s.t.ctx { c with binds := c.binds.filter fun y => decide (y.base ≠ s.c a) }
      exec (.unbind a) s = .next (if v.regionsOf x.pa = [] then { v with pivots := v.pivots.filter fun p => decide (p ≠ x.pa) } else v)) ∧
    (∀ x, c.binds.find? (fun x => decide (x.base = s.c a)) = some x →
      ((∃ h ∈ s.g.holds, h.1 = x.pa) → exec (.unbind a) s = .next (s.raiseTrap { cause := 0x0F, info := x.pivot })) ∧
      ((∀ h ∈ s.g.holds, h.1 ≠ x.pa) → (∃ y ∈ s.groups, ∃ h ∈ y.holds, h.1 = x.pa) → exec (.unbind a) s = .next (s.holdUnit .unbind))) ∧
    ((∀ x ∈ c.binds, x.base ≠ s.c a) → exec (.unbind a) s = .next (s.raiseTrap { cause := 0x0E, info := s.c a })))

/-- Fences, barriers and vwait: when they let a group go, and what they write (10 R288, 10 R289, 04 R130, 04 R135, 10 R290, 03 R71, 17 R403, 17 R404).
That accesses happen one at a time, so that fence.acq changes nothing (log entry 6), and that vwait reads an operand bound to a stream as a plain
register, and when it looks again (log entry 24), are the model's readings. -/
def Obligations.FencesBarriersAndWaits : Prop :=
  ((∀ (s : State) (x : Scope), exec (.fenceAcq x) s = .next s ∧ exec .ifence s = .next { s with g := { s.g with fbuf := [] } } ∧
    ((∀ o ∈ s.ops, o.g = s.g.id → (∃ y z, o.kind = .fill y z ∨ o.kind = .drain y z)) →
      exec (.fenceRel x) s = .next s ∧ exec (.fenceFull x) s = .next s) ∧
    ((∃ o ∈ s.ops, o.g = s.g.id ∧ ∀ y z, o.kind ≠ .fill y z ∧ o.kind ≠ .drain y z) →
      exec (.fenceRel x) s = .next (s.holdUnit .fence) ∧ exec (.fenceFull x) s = .next (s.holdUnit .fence))) ∧
  ∀ (s : State) (k : BitVec 6) (a : CReg),
    let b := Bank.get ({} : Barrier) s.t.bars k.toNat
    let n := if s.c a = 0 then s.t.ngroups else (s.c a).toNat
    let put := fun (b : Barrier) => { s with t := { s.t with bars := Bank.set {} s.t.bars k.toNat b } }
    (k.toNat < s.t.nbar → n ≤ s.t.ngroups → s.g.id ∉ b.arrived → s.g.id ∉ b.waiting → s.g.id ∉ b.passed → (b.arrived = [] ∨ b.n = n) →
      (b.arrived.length + 1 ≠ n →
        exec (.barArrive k a) s = .next (put { b with n := n, arrived := b.arrived ++ [s.g.id] }) ∧
        exec (.bar k a) s = .next ((put { b with n := n, arrived := b.arrived ++ [s.g.id], waiting := b.waiting ++ [s.g.id] }).holdUnit (.bar k.toNat))) ∧
      (b.arrived.length + 1 = n → ∀ i ∈ [(.bar k a : Instr), .barArrive k a],
        exec i s = .next ((put { passed := b.passed ++ b.waiting }).wakeBar k.toNat))) ∧
    (∀ i ∈ [(.bar k a : Instr), .barArrive k a],
      (s.t.nbar ≤ k.toNat → exec i s = .next (s.raiseTrap { cause := 0x01 })) ∧
      (k.toNat < s.t.nbar → s.g.id ∉ b.waiting → s.g.id ∉ b.passed → s.g.id ∉ b.arrived → (s.t.ngroups < n ∨ (b.arrived ≠ [] ∧ b.n ≠ n)) →
        exec i s = .next (s.raiseTrap { cause := 0x10, info := k.setWidth 64 })))) ∧
  ((∀ (s : State) (d : CReg) (a b : VName), d ≠ 31 → a.toNat < s.g.budget → b.toNat < s.g.budget → s.u.vl.toNat ≤ s.g.grant / 32 →
    let es := (List.range s.g.vl.toNat).filter fun e => s.g.vm.getLsbD e
    (∀ e ∈ es, s.el a.toNat 32 e ≠ 2 ^ 31) → s.shadesHere = [] → (∀ x ∈ s.g.rpoison, x.1 ≠ s.reg a.toNat ∧ x.1 ≠ s.reg b.toNat) →
    ∀ xs u h, Claim.reads 4 s.bankAgent s (es.map fun e => (e, s.c d + BitVec.ofInt 64 (sextNat 32 (s.el a.toNat 32 e)))) xs u h →
      ((∀ x ∈ xs, x.2 = s.el b.toNat 32 x.1) → exec (.vwait d a b) s = .next ((u.writeVm (es.map fun e => (e, false))).raise {})) ∧
      ((∃ x ∈ xs, x.2 ≠ s.el b.toNat 32 x.1) → exec (.vwait d a b) s = .next (u.holdUnit (.vwait
        (if s.c (d + 1) = 0 then none else some ((s.dieAt s.t.die).clk.toNat + (s.c (d + 1)).toNat)) d a b)))) ∧
  ∀ (s : State) (dl : Option Nat) (d : CReg) (a b : VName), let q := s.focus s.ev.g
    let p := q.waitUnit
    let es := (List.range q.g.vl.toNat).filter fun e => q.g.vm.getLsbD e
    q.g.cwait = some (.vwait dl d a b) → (∀ e ∈ es, p.el a.toNat 32 e ≠ 2 ^ 31) → p.shadesHere = [] →
    (∀ x ∈ q.g.rpoison, x.1 ≠ p.reg a.toNat ∧ x.1 ≠ p.reg b.toNat) →
    ∀ xs u h, Claim.reads 4 p.bankAgent p (es.map fun e => (e, q.c d + BitVec.ofInt 64 (sextNat 32 (p.el a.toNat 32 e)))) xs u h →
      let past := fun (t : State) => t.g.pc = q.g.pc + 4 ∧ t.g.cwait = none ∧ t.g.c = q.g.c ∧ t.g.v = q.g.v ∧ t.hbm = u.hbm ∧
        ∀ e, t.g.vm.getLsbD e = if e ∈ es then decide (∃ x ∈ xs, x.1 = e ∧ x.2 ≠ p.el b.toNat 32 e) else q.g.vm.getLsbD e
      ((∀ x ∈ xs, x.2 = p.el b.toNat 32 x.1) → ∃ t, exec .vwaitWake s = .next t ∧ past t) ∧
      ((∃ x ∈ xs, x.2 ≠ p.el b.toNat 32 x.1) → exec .vwaitWake s = .next { s with
        tlb := u.tlb, wcache := u.wcache, hbm := u.hbm, lkeys := u.lkeys, ekeys := u.ekeys, veils := u.veils, fresh := u.fresh }) ∧
      (∀ n, dl = some n → n ≤ (q.dieAt q.t.die).clk.toNat → ∃ t, exec .vwaitTimeout s = .next t ∧ past t))

/-- vstream binds a register to a stream at element 0, vunbind frees it once its fill has ended, and a landed facet holds the stream's elements (05 R146, 05 R147, 05 R148, 05 R149, 10 R291, 17 R404). -/
def Obligations.Streams : Prop :=
  (∀ (s : State) (d : VName) (a : CReg), s.vp = none → d.toNat < s.g.budget →
    ∀ x u, s.readStream s.u.opA = .ok (x, u) → s.u.vl ≠ 0 → s.u.vl.toNat ≤ s.g.grant / fmtWidth x.fmt →
      (s.g.streams.filter fun y => decide (y.reg ≠ s.reg d.toNat)).length < 8 →
      ∃ t, exec (.vstream d a) s = .next t ∧ t = { u with g := { u.g with streams := t.g.streams } } ∧
        t.bound (s.reg d.toNat) = some { x with reg := s.reg d.toNat, c := s.u.vl.toNat, entry := s.u.addr } ∧
        (x.p = 0 ∧ x.landed = 0 ∧ x.failed = 0) ∧ ∀ r, r ≠ s.reg d.toNat → t.bound r = s.bound r) ∧
  (∀ (s : State) (d : VName), d.toNat < s.g.budget →
    (s.bound (s.reg d.toNat) = none → exec (.vunbind d) s = .next s) ∧
    ∀ x, s.bound (s.reg d.toNat) = some x →
      ((∀ f, f * 256 < x.c * fmtWidth x.fmt → x.landed.getLsbD f = true ∨ x.failed.getLsbD f = true) →
        exec (.vunbind d) s = .next { s with g := { s.g with streams := s.g.streams.filter fun y => decide (y.reg ≠ s.reg d.toNat) } }) ∧
      ((∃ f, f * 256 < x.c * fmtWidth x.fmt ∧ x.landed.getLsbD f = false ∧ x.failed.getLsbD f = false) →
        exec (.vunbind d) s = .next (s.holdUnit .vunbind))) ∧
  (∀ (s : State) (x : Stream), let q := s.focus s.ev.g
    q.g.alive = true → q.bound s.ev.e = some x → s.ev.i * 256 < x.c * fmtWidth x.fmt → x.landed.getLsbD s.ev.i = false →
    x.failed.getLsbD s.ev.i = false → x.stop = none →
    ∀ l u, q.fillFacet q.bankAgent x (x.elems s.ev.i) = (l, none, u) →
      exec .streamFacetLanded s = .next (((u.cleanReg s.ev.e (wordsOf (fmtWidth x.fmt) (l.map fun y => y.1))).putPhys s.ev.e (fmtWidth x.fmt) l false).updStream s.ev.e
        fun y => { y with landed := y.landed ||| (1#64 <<< s.ev.i) })) ∧
  ∀ (s : State) (d a : VName) (b : BOp) (t : Ty) (p : Bool) (rs : List Nat) (x : Stream), Claim.bRegs s b rs → s.vp = none → t ≠ .i64 → t ≠ .f64 →
    Claim.ready s t.bits (d.toNat :: rs) → a.toNat < s.g.budget → s.bound (s.reg a.toNat) = some x → (∀ y ∈ s.g.rpoison, y.1 ≠ s.reg a.toNat) →
    ∀ o ∈ Claim.vops, (o.2.2 = true → t.isInt = true) →
      let below := fun (f : Nat) => f < s.g.grant / 256 ∧ f * 256 < s.u.vl.toNat * t.bits
      (fmtWidth x.fmt ≠ t.bits ∨ x.c < s.u.vl.toNat → exec (o.1 d a b t p) s = .next (s.raiseTrap { cause := 0x01 })) ∧
      (fmtWidth x.fmt = t.bits → s.u.vl.toNat ≤ x.c → (∀ f, below f → x.failed.getLsbD f = false) →
        ((∃ f, below f ∧ x.landed.getLsbD f = false) → exec (o.1 d a b t p) s = .next (s.holdUnit .streamLand)) ∧
        ((∀ f, below f → x.landed.getLsbD f = true) →
          let q := s.putRes d.toNat t.bits (s.actives.map fun e => (e, o.2.1.run t p s.u.rm (s.opEl a.toNat t.bits e) (s.bEl b t.bits e)))
          let on := fun (y : Stream) => if y.reg ≠ s.reg a.toNat then y else
            { y with p := y.p + BitVec.ofNat 64 s.u.vl.toNat, landed := 0, failed := 0, faults := [], stop := none, got := [] }
          exec (o.1 d a b t p) s = .next { q with g := { q.g with streams := s.g.streams.map on } }))

/-- The state after an operation of kind `k` has started under tag `n` (05 R143, 04 R125): the tag's bit is clear, and one more
operation is in flight, with the next identifier. -/
def Sys2Proof.Claim.started (s t : State) (n : Nat) (k : OpKind) : Prop :=
  t.t.tags = s.t.tags &&& ~~~(1#64 <<< n) ∧ t.nextId = s.nextId + 1 ∧
  ∃ o : EngOp, t.ops = s.ops ++ [o] ∧ o.id = s.nextId ∧ o.kind = k ∧ o.tag = n ∧ o.g = s.g.id ∧ o.tm = s.t.id ∧ o.ctx = s.t.ctx ∧ o.die = s.t.die ∧
    o.entry = s.u.addr ∧ o.stop = none ∧
  t = { s with ops := t.ops, nextId := t.nextId, t := { s.t with tags := t.t.tags, tagSt := t.t.tagSt } }

/-- copy, egath and escat start an operation under their tag, and the tag instructions test and wait for it (10 R292, 10 R296, 10 R297, 05 R143, 05 R160,
04 R125, 04 R103, 10 R293, 05 R144). Which level may write the weight store, and when (log entry 62), which elements count as done as a gather starts
(log entry 31), and that the block that vgath makes is not checked (log entry 67), are the model's readings. -/
def Obligations.EngineStartsAndTags : Prop :=
  ((∀ (s : State) (k : BitVec 6) (a b : CReg) (la : BitVec 4), k.toNat < s.t.ntags →
    (∀ x y rx ry u v, s.u.opA.toNat % 128 = 0 → s.u.opB.toNat % 128 = 0 → s.readTlr s.u.opA = .ok (x, rx, u) → u.readTlr s.u.opB = .ok (y, ry, v) →
      v.badTlrs x y rx ry = none →
      (v.tagBusy k.toNat = false →
        (v.wsBreak (v.newOp k.toNat (.copy x y)) = none → ∃ t, exec (.copy k a b la) s = .next t ∧ Claim.started v t k.toNat (.copy x y)) ∧
        ∀ va, v.wsBreak (v.newOp k.toNat (.copy x y)) = some va →
          exec (.copy k a b la) s = .next (s.raiseTrap { cause := 0x09, addr := va, tlb := some v.tlb })) ∧
      (v.tagBusy k.toNat = true → exec (.copy k a b la) s = .next (s.holdUnit (.tagBusy k.toNat)))) ∧
    (s.u.opA.toNat % 128 ≠ 0 → exec (.copy k a b la) s = .next (s.raiseTrap { cause := 0x0B, info := s.u.opA })) ∧
    (s.u.opA.toNat % 128 = 0 → s.u.opB.toNat % 128 ≠ 0 → exec (.copy k a b la) s = .next (s.raiseTrap { cause := 0x0B, info := s.u.opB })) ∧
    (∀ ws u, s.u.opA.toNat % 64 = 0 → s.readWords s.agent .load s.u.opA 6 = .ok (ws, u) →
      let c := GathCmd.ofWords s.u.opA ws
      c.bad (field (ws.getD 3 0).toNat 0 26) = false →
      ∀ x ∈ [((.egath k a la : Instr), OpKind.gather c), ((.escat k a la : Instr), OpKind.scatter c)],
        (u.tagBusy k.toNat = true → exec x.1 s = .next (s.holdUnit (.tagBusy k.toNat))) ∧
        (u.tagBusy k.toNat = false →
          (u.wsBreak (u.newOp k.toNat x.2) = none → ∃ t, exec x.1 s = .next t ∧ Claim.started u t k.toNat x.2) ∧
          ∀ va, u.wsBreak (u.newOp k.toNat x.2) = some va →
            exec x.1 s = .next (s.raiseTrap { cause := 0x09, addr := va, tlb := some u.tlb }))) ∧
    (s.u.opA.toNat % 64 ≠ 0 → ∀ i ∈ [(.egath k a la : Instr), .escat k a la], exec i s = .next (s.raiseTrap { cause := 0x0B, info := s.u.opA }))) ∧
  (∀ (s : State) (k : BitVec 6) (a b : CReg) (la : BitVec 4), s.t.ntags ≤ k.toNat →
    ∀ i ∈ [(.copy k a b la : Instr), .egath k a la, .escat k a la], exec i s = .next (s.raiseTrap { cause := 0x01 })) ∧
  ∀ (s : State) (k : BitVec 6) (a : CReg) (b : VName) (t : Ty) (la : BitVec 4) (rec_ : Word), s.vp = none → t ≠ .i64 → t ≠ .f64 → a ≠ 31 →
    k.toNat < s.t.ntags → s.u.vl.toNat ≤ s.g.grant / t.bits → Claim.run s b.toNat 32 s.u.vl.toNat → s.tagBusy k.toNat = false → s.vgathSlot = some rec_ →
    (∀ o c, o.kind = .gather c → o.ctx = s.t.ctx → c.data = s.u.opX → c.n = s.u.vl.toNat → c.fmt = Machine.Ty.code t →
      (∀ e, e ∈ o.done ↔ e < s.u.vl.toNat ∧ s.eff e = false) → s.wsBreak o = none) →
    let n := s.u.vl.toNat
    let wm := ((List.range n).find? fun e => s.eff e).getD n
    let mask := ((List.range 64).map fun j => if wm + j < n ∧ s.eff (wm + j) = false then 2 ^ j else 0).sum
    let block := [s.u.opA, 0, s.u.opX, BitVec.ofNat 64 (n * 2 ^ 32 + (Machine.Ty.code t).toNat * 2 ^ 28), 2 ^ 31, rec_ + 64, BitVec.ofNat 64 (wm * 2 ^ 32), BitVec.ofNat 64 mask]
    ∃ u c o, exec (.vgath k a b t la) s = .next u ∧
      u = { s with g := u.g, t := u.t, ops := u.ops, nextId := s.nextId + 1, hbm := u.hbm, lkeys := u.lkeys, veils := u.veils, ekeys := u.ekeys, fresh := u.fresh } ∧
      u.g = { s.g with sticky := s.g.sticky.or { abs := s.active.any fun e => decide (s.runEl b.toNat 32 e = 2 ^ 31) } } ∧
      u.t = { s.t with tags := s.t.tags &&& ~~~(1#64 <<< k.toNat), tagSt := Bank.set 0 s.t.tagSt k.toNat 0 } ∧
      (∃ l, u.ops = l ++ [o] ∧ l.map (fun x => { x with laid := [] }) = s.ops.map fun x => { x with laid := [] }) ∧
      (∀ leaf level at_, s.devLeaf s.g.areaCtx true rec_.toNat = some (leaf, level, at_) → s.hbm.wf = true → s.g.area.toNat % 65536 = 0 →
        let pa := ptePfn leaf * 65536 + pageOff level rec_.toNat
        u.hbm.bytes pa 64 = (block.flatMap fun w => natLe 8 w.toNat) ∧
        ((∀ l, 128 * l < pa + 64 → pa < 128 * l + 128 → (l, pteKey leaf) ∈ s.lkeys ∧ ∀ x ∈ s.lkeys, x.1 = l → x.2 = pteKey leaf) →
          ∀ y, (y < pa ∨ pa + 64 ≤ y) → (y < at_ ∨ at_ + 8 ≤ y) → u.hbm.read y = s.hbm.read y)) ∧
      o.kind = .gather c ∧ o.tag = k.toNat ∧ o.id = s.nextId ∧
      c.addr = rec_ ∧ c.table = s.u.opA ∧ c.data = s.u.opX ∧ c.n = s.u.vl.toNat ∧ c.isVgath = true ∧
      c.idxs = (List.range s.u.vl.toNat).map (fun e => BitVec.ofNat 32 (s.runEl b.toNat 32 e)) ∧
      (∀ e, e ∈ c.done ↔ e < s.u.vl.toNat ∧ s.eff e = false) ∧ o.done = c.done ∧ u.t.tags.getLsbD k.toNat = false) ∧
  (∀ (s : State) (d a : CReg),
    let m := s.u.opA
    let on := s.t.tags &&& m
    let bad := fun (k : Nat) => Bank.get (0 : BitVec 4) s.t.tagSt k ≠ 0
    (m.toNat < 2 ^ s.t.ntags →
      (m ≠ 0 → on = 0 → exec (.tagwaitAny d a) s = .next (s.holdUnit (.tag m false))) ∧
      (on ≠ m → exec (.tagwaitAll d a) s = .next (s.holdUnit (.tag m true))) ∧
      (∀ i, (i = .tagwaitAny d a ∧ on ≠ 0) ∨ (i = .tagwaitAll d a ∧ on = m) →
        ((∀ k < 64, on.getLsbD k = true → ¬ bad k) → ∃ t, exec i s = .next t ∧ Claim.wroteC s t d on) ∧
        ∀ k < 64, on.getLsbD k = true → bad k → (∀ j < k, on.getLsbD j = true → ¬ bad j) →
          exec i s = .next (s.raiseTrap { cause := 0x0C, info := BitVec.ofNat 64 k })) ∧
      (on = 0 → ∃ t, exec (.tagffr d a) s = .next t ∧ Claim.wroteC s t d (BitVec.allOnes 64)) ∧
      ∀ k < 64, on.getLsbD k = true → (∀ j < k, on.getLsbD j = false) →
        (¬ bad k → ∃ t, exec (.tagffr d a) s = .next t ∧ Claim.wroteC s t d (BitVec.ofNat 64 k)) ∧
        (bad k → exec (.tagffr d a) s = .next (s.raiseTrap { cause := 0x0C, info := BitVec.ofNat 64 k }))) ∧
    (2 ^ s.t.ntags ≤ m.toNat → ∀ i ∈ [(.tagwaitAny d a : Instr), .tagwaitAll d a, .tagffr d a], exec i s = .next (s.raiseTrap { cause := 0x01 })) ∧
    (m = 0 → exec (.tagwaitAny d a) s = .next (s.raiseTrap { cause := 0x01 })))

/-- Coordinate `d` of the element of linear index `l` of a box of five dimensions (05 R139): its origin, and the index, dimension 0 fastest. -/
def Sys2Proof.Claim.coord (t : Tlr) (l d : Nat) : Int := t.org.getD d 0 + (l / (t.box.take d).prod % t.box.getD d 1 : Nat)
/-- The element lies in bounds, and its address (05 R139). -/
def Sys2Proof.Claim.inBox (t : Tlr) (l : Nat) : Prop := ∀ d < 5, 0 ≤ Claim.coord t l d ∧ Claim.coord t l d < t.ext.getD d 0
def Sys2Proof.Claim.elAt (t : Tlr) (l : Nat) : Word :=
  t.base + BitVec.ofInt 64 ((List.range 5).map fun d => Claim.coord t l d * (t.stride.getD d 0).toInt).sum
/-- Each list of a layout names five dimensions. -/
def Sys2Proof.Claim.fiveD (t : Tlr) : Prop := t.box.length = 5 ∧ t.org.length = 5 ∧ t.ext.length = 5 ∧ t.stride.length = 5
/-- An element as an engine writes it: the special byte of an e4m3f or e5m2f facet is 0 (03 R76). -/
def Sys2Proof.Claim.written (f : BitVec 4) (b : List Byte) : List Byte := if f = 8 ∨ f = 9 then b.set 1 0 else b
/-- An engine operation reads an element of `n` bytes at an address: the bytes there, and the state that the checks leave. -/
def Sys2Proof.Claim.engGot (s : State) (o : EngOp) (va : Word) (n : Nat) (b : List Byte) (u : State) : Prop :=
  ∃ p, s.place (s.opAgent o) .engSrc va n n = .ok (p, u) ∧ b = u.readPlace o.tm p n
/-- It writes an element there. -/
def Sys2Proof.Claim.engPut (s : State) (o : EngOp) (va : Word) (b : List Byte) (u : State) : Prop :=
  ∃ p q, s.place (s.opAgent o) .engDst va b.length b.length = .ok (p, q) ∧ u = q.writePlaceBy o.id o.tm p b

/-- An operation that ends leaves the machine and sets its tag; a recall gives a line up; a missing page stops the operation (05 R138, 05 R139, 05 R141,
05 R144, 05 R160, 05 R161, 05 R162, 05 R163, 04 R126, 04 R127, 17 R405). The status of a fault other than a missing page, and that an operation which
cannot write its status ends later, are the model's readings (log entries 26 and 31). -/
def Obligations.EngineOperationsEnd : Prop :=
  (∀ (s : State) (o : EngOp), s.op? s.ev.op = some o → o.stop = none → o.ended = none →
    (∀ v p st n, s.performRest o o.todo = .fin v p st n →
      ((∃ x y, o.kind = .copy x y ∧ x.rmt = false ∧ y.rmt = false) → exec .copyComplete s = .next (v.endOp p st n)) ∧
      ((∃ c, o.kind = .gather c ∨ o.kind = .scatter c) → exec .engineCommandComplete s = .next (v.endOp p st n))) ∧
    (∀ x y, o.kind = .copy x y → x.rmt = false → y.rmt = true → s.peerHeld (s.ctx o.ctx).part y.node = false → s.peerOk (s.ctx o.ctx).part y.node = true →
      exec .remoteCopyComplete s = .next ((s.updOp o.id fun z => { z with rdata := o.rdata }).complete o)) ∧
    (∀ x y, o.kind = .copy x y → x.rmt = true → s.peerHeld (s.ctx o.ctx).part x.node = false → s.peerOk (s.ctx o.ctx).part x.node = true → s.ev.data.length = x.remoteBytes →
      exec .remoteCopyComplete s = .next ((s.updOp o.id fun z => { z with rdata := s.ev.data }).complete { o with rdata := s.ev.data })) ∧
    ((∃ x y, o.kind = .copy x y ∧ (x.rmt = true ∨ y.rmt = true)) → exec .remoteCopyError s = .next (s.endOp { o with rout := [] } 4 (match o.kind with | .copy _ _ => o.cnt | _ => 0))) ∧
    (s.ev.line ∈ o.lines →
      let give := fun (v : State) => v.updOp o.id fun x => { x with lines := x.lines.filter fun l => decide (l ≠ s.ev.line) }
      (∀ i ∈ o.todo, s.ev.line ∈ s.gmLines o.ctx (s.unitDst o i) → i ∈ s.unitsFor o s.ev.line) ∧
      ((∀ y z, o.kind ≠ .drain y z) → (s.unitsFor o s.ev.line = [] ∨ o.supplied = true) →
        ∀ v p, s.performAll o (s.unitsFor o s.ev.line) = some (v, p) → exec .directoryRecall s = .next (give v)) ∧
      ((∃ y z, o.kind = .drain y z) → exec .directoryRecall s = .next (if (s.destLines o).contains s.ev.line then s else give s))) ∧
    (s.ev.op ≠ 0 → (s.groupD o.g).run ≠ .reclaimed → s.ev.i ∉ o.done → s.ev.i < o.units → (∃ x y, o.kind = .copy x y) → ∀ va dst i k, s.opUnit o s.ev.i = .fail (.trap 0x08 i k) va dst →
      ∃ t info x, exec .enginePageFault s = .next t ∧ t.op? o.id = some x ∧ x.stop = some (info, s.ev.i, va) ∧ x.lines = [])) ∧
  (∀ (s : State) (o : EngOp) (st n : Nat), let t := s.endOp o st n
    let r := match o.kind with
      | .copy _ d => (s.landAll o).opWrite o (d.addr + 120) (BitVec.ofNat 64 (st * 2 ^ 60 + n % 2 ^ 32))
      | _ => (s.landAll o).writeMarks o st
    ((∀ l, r ≠ .wait l) → (∀ x ∈ t.ops, x.id ≠ o.id) ∧ (s.team? o.tm ≠ none → o.tag < 64 → (t.teamD o.tm).tags.getLsbD o.tag = true)) ∧
    (∀ l, r = .wait l → s.op? o.id ≠ none → ∃ x, t.op? o.id = some x ∧ x.ended = some (st, n))) ∧
  (∀ (s : State) (o : EngOp) (x y : Tlr) (i : Nat), o.kind = .copy x y → x.packed = false → y.packed = false → x.rmt = false → y.rmt = false → y.op = 0 →
    Claim.fiveD x → Claim.fiveD y → ∀ b u,
    (Claim.inBox x i ∧ Claim.engGot s o (Claim.elAt x i) (fmtWidth x.fmt / 8) b u ∨ ¬ Claim.inBox x i ∧ b = fillBytes x.fmt x.fill ∧ u = s) →
    (∀ v, Claim.inBox y i → Claim.engPut u o (Claim.elAt y i) (Claim.written y.fmt b) v → s.opUnit o i = .ok v { o with done := i :: o.done }) ∧
    (¬ Claim.inBox y i → s.opUnit o i = .ok u { o with done := i :: o.done })) ∧
  (∀ (s : State) (o : EngOp) (c : GathCmd) (scatter : Bool) (i raw : Nat) (u : State), o.kind = (if scatter then .scatter c else .gather c) →
    let w := if c.iw then 8 else 4
    (c.isVgath = true ∧ raw = (c.idxs.getD i 0).toNat ∧ u = s ∨
      c.isVgath = false ∧ ∃ bs, Claim.engGot s o (c.index + BitVec.ofNat 64 (i * w)) w bs u ∧ raw = leNat bs) →
    let x := sextNat (8 * w) raw
    let none_ := c.iw = false ∧ raw = 2 ^ 31
    let n := fmtWidth c.fmt / 8
    let tab := c.table + BitVec.ofInt 64 (x * n)
    let dat := c.data + BitVec.ofNat 64 (i * n)
    let out := fun (v : State) (k : Nat) =>
      let z := { c with done := i :: c.done, cnt := Min.min (c.cnt + k) (2 ^ 28 - 1) }
      UnitRes.ok v { o with done := i :: o.done, kind := if scatter then .scatter z else .gather z }
    (¬ none_ → 0 ≤ x → x < c.lim.toNat → ∀ b q v, Claim.engGot u o (if scatter then dat else tab) n b q →
      Claim.engPut q o (if scatter then tab else dat) (Claim.written c.fmt b) v → s.opUnit o i = out v 0) ∧
    (none_ → (scatter = true → s.opUnit o i = out u 0) ∧
      ∀ v, scatter = false → Claim.engPut u o dat (fillBytes c.fmt true) v → s.opUnit o i = out v 0) ∧
    (¬ none_ → x < 0 ∨ c.lim.toNat ≤ x → (scatter = true → s.opUnit o i = out u 1) ∧
      ∀ v, scatter = false → Claim.engPut u o dat (fillBytes c.fmt c.fill) v → s.opUnit o i = out v 1)) ∧
  ∀ (f : BitVec 4) (absent : Bool), f.toNat < 7 → f ≠ 3 →
    fillBytes f absent = natLe (fmtWidth f / 8) (if absent then [0x80, 0x8000, 0x80000000, 0, 0xFE01, 0xFFC1, 0xFFC00001].getD f.toNat 0 else 0)

/-- The status byte of R152 for index `x` of a ring with 2^n slots: phase, ST and V. -/
def Sys2Proof.Claim.ringByte (r : RingHdr) (x st v : Nat) : Nat := (x / 2 ^ r.log2n % 2) * 128 + st * 32 + v * 16
/-- A slot is empty for index `x`, or full for it (05 R152). -/
def Sys2Proof.Claim.ringReady (r : RingHdr) (claim : Bool) (x b : Nat) : Prop :=
  if claim then b / 32 % 4 = 2 ∧ b / 128 % 2 = x / 2 ^ r.log2n % 2 else b / 32 % 4 = 0 ∧ b / 128 % 2 ≠ x / 2 ^ r.log2n % 2

/-- rres and rclaim take an index and its slot when ready, or wait; rcom and rfree pass the slot on; a wrong party or state is a ring-fault (05 R151, 05 R152, 05 R153, 10 R295, 06 R175, 07 R192). -/
def Obligations.Rings : Prop :=
  (∀ (s : State) (d a : CReg) (claim : Bool) (r : RingHdr) (res clm : Nat) (u : State),
    let i : Instr := if claim then .rclaim d a else .rres d a
    let h := s.u.opA
    let x := if claim then clm else res
    s.readRing s.agent .load h = .ok (r, res, clm, u) → s.u.tk = none →
    ((if claim then r.cons else r.prod) ≠ s.g.role.toNat → exec i s = .next (s.raiseTrap { cause := 0x0D, info := h, tlb := some u.tlb })) ∧
    ((if claim then r.cons else r.prod) = s.g.role.toNat →
      ∀ b v w, u.readStat s.agent .load r x = .ok (b, v) →
        v.ringWrite s.agent (r.addr + 24) (natLe 8 (if claim then res % 2 ^ 32 * 2 ^ 32 + (clm + 1) % 2 ^ 32 else (res + 1) % 2 ^ 32 * 2 ^ 32 + clm % 2 ^ 32)) = .ok w →
        (Claim.ringReady r claim x b →
          ∀ q, w.ringWrite s.agent (r.statAt x) (natLe 1 (if claim then (b / 128 % 2) * 128 + 3 * 32 + (b / 16 % 2) * 16 else Claim.ringByte r x 1 0)) = .ok q →
          ∃ t, exec i s = .next t ∧
            (claim = true → Claim.wroteC q t d (BitVec.ofNat 64 (x + (b / 16 % 2) * 2 ^ 32))) ∧
            (claim = false → ∃ p, Claim.wroteC q p d (BitVec.ofNat 64 x) ∧
              t = { p with g := { p.g with slots := p.g.slots ++ [(h, BitVec.ofNat 32 x)] } })) ∧
        (¬ Claim.ringReady r claim x b → exec i s = .next (({ w with u := { s.u with tk := some (BitVec.ofNat 32 x) } } : State).holdUnit
          (.ring (BitVec.ofNat 32 x) claim h))))) ∧
  (∀ (s : State) (a b : CReg) (claim : Bool) (r : RingHdr) (res clm : Nat) (u : State),
    let i : Instr := if claim then .rfree a b else .rcom a b
    let h := s.u.opA
    let x := s.u.opB.toNat % 2 ^ 32
    s.readRing s.agent .load h = .ok (r, res, clm, u) →
    ((if claim then r.cons else r.prod) ≠ s.g.role.toNat → exec i s = .next (s.raiseTrap { cause := 0x0D, info := h, tlb := some u.tlb })) ∧
    ((if claim then r.cons else r.prod) = s.g.role.toNat →
      ∀ y v, u.readStat s.agent .load r x = .ok (y, v) →
        (y / 32 % 4 ≠ (if claim then 3 else 1) ∨ y / 128 % 2 ≠ x / 2 ^ r.log2n % 2 → exec i s = .next (s.raiseTrap { cause := 0x0D, info := h, tlb := some v.tlb })) ∧
        (y / 32 % 4 = (if claim then 3 else 1) → y / 128 % 2 = x / 2 ^ r.log2n % 2 →
          ∀ w, v.ringWrite s.agent (r.statAt x) (natLe 1 ((y / 128 % 2) * 128 + (if claim then 0 else 2) * 32 + (y / 16 % 2) * 16)) = .ok w →
            exec i s = .next (if claim then w else w.dropSlot h x)))) ∧
  (∀ (s : State) (claim : Bool) (x : Word32) (h : Word) (un : Machine.Unit) (rest : List Machine.Unit), let q := s.focus s.ev.g
    q.g.pwait = some (.ring x claim h) → q.g.viq = un :: rest → q.g.portReady = true →
    ∀ d a t, decodeWord un.word = .ok (if claim then .rclaim d a else .rres d a) →
      ({ q with u := un, port := true, vp := none, g := { q.g with viq := rest, pwait := none } } : State).ringTake claim d = .ok (true, t) →
      exec (if claim then .ringClaim else .ringReserve) s = .next { t with port := false, g := if un.dead then { t.g with c := q.g.c, late := q.g.late } else t.g }) ∧
  ∀ (s : State) (p : PendingIdx) (b : Nat) (u w : State), s.pend[s.ev.n]? = some p →
    s.readStat (s.pendAgent p) .load p.ring p.x.toNat = .ok (b, u) → Claim.ringReady p.ring p.claim p.x.toNat b →
    u.writeStat (s.pendAgent p) p.ring p.x.toNat
      (if p.claim then (b / 128 % 2) * 128 + (b / 16 % 2) * 16 else Claim.ringByte p.ring p.x.toNat 2 1) = .ok w →
    exec (if p.claim then .pendingDiscard else .pendingVoid) s = .next { w with pend := w.pend.eraseIdx s.ev.n }

/-- Element `j` of slot `x` of a transfer, with the state after it (05 R156): it stands at its place in the slot, and at position `pos + j` of
the box; a drain beyond the box moves nothing, and a fill beyond it, or out of bounds, writes the fill value. -/
def Sys2Proof.Claim.slotMove (s : State) (o : EngOp) (t : Tlr) (r : RingHdr) (drain : Bool) (x j : Nat) (u : State) : Prop :=
  let n := fmtWidth t.fmt / 8
  let l := o.pos + j
  let va := r.slotbase + BitVec.ofNat 64 (x % 2 ^ r.log2n * r.slotsz) + BitVec.ofNat 64 (j * n)
  if drain = true then
    (t.box.prod ≤ l ∧ u = s) ∨
    (l < t.box.prod ∧ ∃ b q, Claim.engGot s o va n b q ∧
      (Claim.inBox t l ∧ Claim.engPut q o (Claim.elAt t l) (Claim.written t.fmt b) u ∨ ¬ Claim.inBox t l ∧ u = q))
  else ∃ b q, Claim.engPut q o va (Claim.written t.fmt b) u ∧
    ((l < t.box.prod ∧ Claim.inBox t l) ∧ Claim.engGot s o (Claim.elAt t l) n b q ∨ ¬ (l < t.box.prod ∧ Claim.inBox t l) ∧ b = fillBytes t.fmt t.fill ∧ q = s)
/-- Elements of a slot one after another, those done before a stop left alone; each is done then. -/
def Sys2Proof.Claim.slotMoves (t : Tlr) (r : RingHdr) (drain : Bool) (x : Nat) : List Nat → State → EngOp → State → EngOp → Prop
  | [], s, o, u, p => u = s ∧ p = o
  | j :: js, s, o, u, p => (o.pos + j ∈ o.done ∧ Claim.slotMoves t r drain x js s o u p) ∨
      (o.pos + j ∉ o.done ∧ ∃ v, Claim.slotMove s o t r drain x j v ∧ Claim.slotMoves t r drain x js v { o with done := (o.pos + j) :: o.done } u p)

/-- chgo queues a transfer and gives its number, chwait passes once it is done, and a channel moves one slot at a time or ends in error (05 R152, 05 R156,
05 R157, 05 R434, 10 R294, 04 R103, 06 R175). How far one event of a channel goes, and which failure gives which status, are the model's readings (log
entry 26). -/
def Obligations.Channels : Prop :=
  (∀ (s : State) (d a b : CReg) (k : BitVec 3) (r : RingHdr) (res clm : Nat) (u v : State) (t : Tlr) (rsv : Bool), k.toNat < s.t.nchan →
    let c := Bank.get ({} : Channel) s.t.chans k.toNat
    let fill := decide (r.prod = 8 + k.toNat)
    s.readRing s.agent .load s.u.opB = .ok (r, res, clm, u) → (r.prod = 8 + k.toNat ∨ r.cons = 8 + k.toNat) → u.readTlr s.u.opA = .ok (t, rsv, v) →
    t.badChannel rsv fill (!fill && !s.t.priv && (v.inSpace s.t.ctx 1 t.places).isSome) = false →
    v.wsBreak (v.newOp k.toNat (if fill then .fill t r else .drain t r)) = none →
    (8 ≤ c.queue.length → exec (.chgo d a b k) s = .next (s.holdUnit (.channel k.toNat))) ∧
    (c.queue.length < 8 → ∃ q o, exec (.chgo d a b k) s = .next q ∧ q.ops = v.ops ++ [o] ∧ o.id = v.nextId ∧
      o.kind = (if fill then .fill t r else .drain t r) ∧ o.tag = k.toNat ∧ q.c d = (if d = 0 then 0 else c.next.setWidth 64) ∧
      Bank.get ({} : Channel) q.t.chans k.toNat = { c with queue := c.queue ++ [⟨c.next, v.nextId⟩], next := c.next + 1 })) ∧
  (∀ (s : State) (a : CReg) (k : BitVec 3), k.toNat < s.t.nchan →
    let c := Bank.get ({} : Channel) s.t.chans k.toNat
    let i : Word32 := s.u.opA.setWidth 32
    let past := 1 ≤ (c.done - i).toNat ∧ (c.done - i).toNat ≤ 2 ^ 31
    (past → (∀ x ∈ c.sts, x.1 = i → x.2 = 0) → exec (.chwait a k) s = .next s) ∧
    (past → ∀ x, c.sts.find? (fun x => decide (x.1 = i)) = some x → x.2 ≠ 0 →
      exec (.chwait a k) s = .next (s.raiseTrap { cause := 0x0C, info := BitVec.ofNat 64 (0x100 + k.toNat) })) ∧
    (¬ past → exec (.chwait a k) s = .next (s.holdUnit (.chwait k.toNat i)))) ∧
  (∀ (s : State) (o : EngOp) (t : Tlr) (r : RingHdr) (drain : Bool), s.runningOp s.ev.tm s.ev.k = some o → o.chan = some (t, r, drain) → o.ended = none →
    (∀ q p, s.nextSlot o = .done q p →
      exec (if drain then .channelDrainSlot else .channelFillSlot) s = .next (if t.boxSize ≤ p.pos ∧ (q.putTransfer p).abandons p.g = false then (q.putTransfer p).endTransfer p t 0 else q.putTransfer p)) ∧
    (∀ q p, s.nextSlot o = .waits q p → exec (if drain then .channelDrainSlot else .channelFillSlot) s = .next (q.putOp p)) ∧
    ∀ q p st, s.nextSlot o = .err q p st → st = s.ev.st.toNat → q.abandons p.g = false →
      exec .channelTransferError s = .next ((q.putOp p).failTransfer p st)) ∧
  (∀ (s : State) (o : EngOp) (r0 r : RingHdr) (drain : Bool) (res clm : Nat) (u : State), s.readRing (s.opAgent o) .engSrc r0.addr = .ok (r, res, clm, u) → 0 < o.id →
    (∀ x : Word32, o.inSlot = true → o.taken = some x → s.slotTurn o r0 drain = .ok (r, x.toNat, some 0, u)) ∧
    (o.inSlot = false → o.taken = none →
      let x := if drain then clm else res
      ∀ b v w, u.readStat (s.opAgent o) .engSrc r x = .ok (b, v) →
        v.ringWrite (s.opAgent o) (r.addr + 24) (natLe 8 (if drain then res % 2 ^ 32 * 2 ^ 32 + (clm + 1) % 2 ^ 32 else (res + 1) % 2 ^ 32 * 2 ^ 32 + clm % 2 ^ 32)) = .ok w →
        (¬ Claim.ringReady r drain x b → s.slotTurn o r0 drain = .ok (r, x, none, w)) ∧
        ∀ q, Claim.ringReady r drain x b →
          w.ringWrite (s.opAgent o) (r.statAt x) (natLe 1 (if drain then (b / 128 % 2) * 128 + 3 * 32 + (b / 16 % 2) * 16 else Claim.ringByte r x 1 0)) = .ok q →
          s.slotTurn o r0 drain = .ok (r, x, some (b / 16 % 2), q))) ∧
  ∀ (s : State) (o : EngOp) (t : Tlr) (r0 r : RingHdr) (drain : Bool) (x v : Nat) (u w : State) (p : EngOp), o.chan = some (t, r0, drain) →
    t.rmt = false → t.op = 0 → Claim.fiveD t →
    s.slotTurn o r0 drain = .ok (r, x, some v, u) →
    let per := r.slotsz / (fmtWidth t.fmt / 8)
    let o' := { o with taken := some (BitVec.ofNat 32 x), inSlot := true }
    (if drain = true ∧ v = 1 then w = u ∧ p = o' else Claim.slotMoves t r drain x (List.range per) u o' w p) →
    let w' := if drain then w else w.landAll p
    ∀ b y z, w'.readStat (s.opAgent o) .engSrc r x = .ok (b, y) → b / 32 % 4 = (if drain then 3 else 1) → b / 128 % 2 = x / 2 ^ r.log2n % 2 →
      y.ringWrite (s.opAgent o) (r.statAt x) (natLe 1 ((b / 128 % 2) * 128 + (if drain then 0 else 2) * 32 + (if drain then b / 16 % 2 else 0) * 16)) = .ok z →
      s.nextSlot o = .done z { p with pos := o.pos + per, taken := none, inSlot := false, done := [] }

/-- men, mdis, mwin, mzero and mfence: what they write, what they wait for, and the traps of a group that may not (11 R304, 11 R305, 11 R306, 11 R307, 11
R308, 11 R309). That men of a team whose rows came with the launch ignores an operand above 512 too, and that a group other than the leader takes
illegal-instruction before matrix-state-disabled, is the model's choice (log entry 32). -/
def Obligations.MatrixControl : Prop :=
  ∀ (s : State) (a b : CReg),
    let fits := fun (n : Nat) => n ≤ s.freeRows s.t.coreId
    (s.g.num = 0 →
      (s.t.men = true → exec (.men a) s = .next s) ∧
      (s.t.men = false → 0 < s.t.accrows → exec (.men a) s = .next { s with t := { s.t with men := true } }) ∧
      (s.t.men = false → s.t.accrows = 0 → s.u.opA.toNat ≤ 512 →
        (s.u.opA = 0 → exec (.men a) s = .next { s with t := { s.t with men := true } }) ∧
        (s.u.opA ≠ 0 → (fits s.u.opA.toNat → exec (.men a) s = .next { s with t := { s.t with
            men := true, accrows := s.u.opA.toNat, acc := [], menRows := true } }) ∧
          (¬ fits s.u.opA.toNat → exec (.men a) s = .next (s.holdUnit .men))))) ∧
    (s.g.num = 0 → s.t.men = true → (∀ x ∈ s.mu.queue, x.g ∉ s.t.gids) → (∀ x, s.mu.ldw = some x → x.g ∉ s.t.gids) →
      ∃ t, exec .mdis s = .next t ∧ t.t.men = false ∧ t.t.accrows = (if s.t.menRows then 0 else s.t.accrows) ∧
        (s.g.team = s.t.id → t.g.awb = 0 ∧ t.g.awl = 0 ∧ t.g.mflags = {}) ∧ (∀ k, t.mu.sst = .held k → k ∉ s.t.gids) ∧
        (∀ k, t.mu.owner = some k → k ∉ s.t.gids) ∧ t.g.c = s.g.c ∧ t.g.v = s.g.v ∧
        (∀ x ∈ t.groups, x.team = s.t.id → x.awb = 0 ∧ x.awl = 0 ∧ x.mflags = {}) ∧
        ((∀ k ∈ s.t.gids, (s.groupD k).offSector = false) → t.hbm = s.hbm)) ∧
    (∀ id, s.t.men = true → s.g.num = 0 → s.t.gids[s.u.opA.toNat]? = some id → s.u.opA.toNat < s.t.ngroups → id ≠ 0 →
      let base := s.u.opB.toNat % 2 ^ 9
      let limit := s.u.opB.toNat / 2 ^ 16 % 2 ^ 10
      s.u.opB.toNat = base + limit * 2 ^ 16 → (base = 0 ∧ limit = 0 ∨ base < limit ∧ limit ≤ s.t.accrows ∧
        ∀ x ∈ s.allGroups, x.team = s.t.id → x.id ≠ id → (x.awb = 0 ∧ x.awl = 0) ∨ limit ≤ x.awb.toNat ∨ (x.awb.toNat ≤ x.awl.toNat ∧ x.awl.toNat ≤ base)) →
      (∀ x ∈ s.mu.queue, x.g ≠ id) →
      let y := s.groupD id
      let t := s.updGroup id fun x => { x with awb := BitVec.ofNat 9 base, awl := BitVec.ofNat 10 limit }
      exec (.mwin a b) s = .next (if y.offSector then t.devWrite y.areaCtx (y.area + 0x260) (natLe 8 (limit * 2 ^ 16 + base)) else t)) ∧
    (s.t.men = true →
      let row := s.g.awb.toNat + s.u.opA.toNat % 2 ^ 9
      let n := s.u.opA.toNat / 2 ^ 16 % 2 ^ 10
      s.u.opA.toNat = s.u.opA.toNat % 2 ^ 9 + n * 2 ^ 16 → n ≠ 0 →
      (row + n ≤ s.g.awl.toNat → s.rowsBusy row n = false → ∃ t, exec (.mzero a) s = .next t ∧ t = { s with t := { s.t with acc := t.t.acc }, trace := t.trace } ∧
        ∀ i, assocGet ({} : AccCell) t.t.acc i = if row * 128 ≤ i ∧ i < (row + n) * 128 then {} else assocGet {} s.t.acc i) ∧
      (s.g.awl.toNat < row + n → exec (.mzero a) s = .next (s.raiseTrap { cause := 0x14 }))) ∧
    (s.t.men = true → (s.mu.busyFor s.g.id = false → exec .mfence s = .next { s with g := { s.g with sticky := s.g.sticky.or s.g.mflags, mflags := {} } }) ∧
      (s.mu.busyFor s.g.id = true → exec .mfence s = .next (s.holdUnit .mfence))) ∧
    (s.t.men = false → (s.g.num = 0 → exec .mdis s = .next (s.raiseTrap { cause := 0x13 }) ∧ exec (.mwin a b) s = .next (s.raiseTrap { cause := 0x13 })) ∧
      exec (.mzero a) s = .next (s.raiseTrap { cause := 0x13 }) ∧ exec .mfence s = .next (s.raiseTrap { cause := 0x13 })) ∧
    (s.g.num ≠ 0 → ∀ i ∈ [(.men a : Instr), .mdis, .mwin a b], exec i s = .next (s.raiseTrap { cause := 0x01 }))

/-- The fields of the second operand of `ldw` (11 R310) and of the third word of a matrix descriptor (11 R312). -/
def Sys2Proof.Claim.ldwFields (w : Word) : Nat × Nat × Nat × Nat :=
  (w.toNat % 16, w.toNat / 2 ^ 4 % 2 ^ 10, w.toNat / 2 ^ 14 % 2 ^ 8, w.toNat / 2 ^ 22 % 2 ^ 20)

/-- The exact product of two elements of which both are present and finite (03 R90): its sign, magnitude and exponent. -/
def Sys2Proof.Claim.product (a b : Option FV) : Option (Bool × Nat × Int) :=
  match a, b with
  | some (.fin s m e), some (.fin s' m' e') => some (s != s', m * m', e + e')
  | _, _ => none

/-- ldw claims the shadow plane and its completion fills it; mop is queued; the unit starts the head and its completion writes exactly the operation's
cells (11 R300, 11 R301, 11 R302, 11 R303, 11 R310, 11 R311, 11 R312, 11 R313, 03 R90). K above the depth of the format as a descriptor fault, a mop
of no rows that frees the plane whatever its REUSE, and the wait of an ldw behind another are the model's choice (log entry 32); in what order the
unit reads scratch before it completes is no part of the statement. -/
def Obligations.MatrixCommands : Prop :=
  (∀ (s : State) (a b : CReg) (la : BitVec 4), s.t.men = true →
    let (f, k, n, st) := Claim.ldwFields s.u.opB
    s.u.opB.toNat < 2 ^ 42 → 1 ≤ k → k ≤ matDepth f → 1 ≤ n → n ≤ 128 → st % 32 = 0 → s.u.opA.toNat % 32 = 0 →
    ∀ u, s.needScratch ((List.range n).map fun j => (s.u.opA + BitVec.ofNat 64 (j * st), rowBytes f k)) = .ok u →
      (u.mu.sst = .free ∨ u.mu.sst = .held s.g.id) → u.mu.ldw = none →
      exec (.ldw a b la) s = .next (u.setMu { u.mu with
        sst := .held s.g.id, shadow := { fmt := BitVec.ofNat 4 f, k := k, ncol := n },
        ldw := some { g := s.g.id, tm := s.t.id, addr := s.u.opA, stride := st, fmt := BitVec.ofNat 4 f, k := k, ncol := n } })) ∧
  (∀ (s : State) (x : LdwCmd), (s.mat s.ev.core).ldw = some x →
    let cols := (List.range x.ncol).map fun j =>
      (s.teamD x.tm).scrBytes x.got (x.addr + BitVec.ofNat 64 (j * x.stride)) (rowBytes x.fmt.toNat x.k)
    exec .ldwComplete s = .next (s.setMat s.ev.core { s.mat s.ev.core with
      ldw := none, shadow := { (s.mat s.ev.core).shadow with cols := cols } })) ∧
  (∀ (s : State) (a : CReg) (la : BitVec 4) (ws : List Word) (u : State), s.t.men = true → s.u.opA.toNat % 64 = 0 →
    s.readWords s.agent .load s.u.opA 8 = .ok (ws, u) →
    let src := (ws.getD 0 0).toNat
    let stride := (ws.getD 1 0).toNat
    let bits := fun (lo n : Nat) => (ws.getD 2 0).toNat / 2 ^ lo % 2 ^ n
    stride < 2 ^ 32 → stride % 32 = 0 → bits 0 15 = 0 → (∀ x ∈ ws.drop 3, x = 0) → (if bits 15 1 = 1 then src < 64 else src % 32 = 0) →
    bits 46 10 = 0 → 1 ≤ bits 36 10 → bits 36 10 ≤ matDepth (bits 60 4) → 1 ≤ bits 28 8 → bits 28 8 ≤ 128 →
    matPair (bits 60 4) (bits 56 4) = true → ¬ (bits 17 1 = 1 ∧ bits 15 1 = 1) →
    exec (.mop a la) s = .next (u.setMu { u.mu with sst := if u.mu.sst = .held s.g.id then .free else u.mu.sst })) ∧
  (∀ (s : State) (a : CReg) (la : BitVec 4) (ws : List Word) (u v : State), s.t.men = true → s.u.opA.toNat % 64 = 0 →
    s.readWords s.agent .load s.u.opA 8 = .ok (ws, u) →
    let src := ws.getD 0 0
    let stride := (ws.getD 1 0).toNat
    let bits := fun (lo n : Nat) => (ws.getD 2 0).toNat / 2 ^ lo % 2 ^ n
    let m := bits 46 10
    let k := bits 36 10
    let reuse := decide (bits 16 1 = 1)
    src.toNat % 32 = 0 → stride < 2 ^ 32 → stride % 32 = 0 → bits 0 16 = 0 → (∀ x ∈ ws.drop 3, x = 0) → 1 ≤ m → m ≤ 512 → 1 ≤ k →
    k ≤ matDepth (bits 60 4) → 1 ≤ bits 28 8 → bits 28 8 ≤ 128 → matPair (bits 60 4) (bits 56 4) = true → u.planeBad reuse (bits 56 4) k = false →
    s.g.awb.toNat + bits 19 9 + m ≤ s.g.awl.toNat →
    u.needScratch ((List.range m).map fun i => (src + BitVec.ofNat 64 (i * stride), rowBytes (bits 60 4) k)) = .ok v →
    (u.mu.queue.filter fun x => !x.started).length < 4 →
    ∃ x : Mop, exec (.mop a la) s = .next (v.setMu { u.mu with queue := u.mu.queue ++ [x], sst := if reuse then u.mu.sst else .claimed s.g.id }) ∧
      x.g = s.g.id ∧ x.tm = s.t.id ∧ x.m = m ∧ x.k = k ∧ x.n = bits 28 8 ∧ x.row = s.g.awb.toNat + bits 19 9 ∧ x.reuse = reuse ∧
      x.ovw = decide (bits 18 1 = 1) ∧ x.zskip = decide (bits 17 1 = 1) ∧ x.areg = false ∧ x.asrc = src ∧ x.astride = stride ∧ x.started = false) ∧
  (∀ (s : State) (x : Mop) (r : List Mop), let m := s.mat s.ev.core
    m.queue = x :: r → x.started = false →
    (x.reuse = true → exec .mopStart s = .next (s.setMat s.ev.core { m with queue := { x with started := true } :: r })) ∧
    (x.reuse = false → m.ldw = none → exec .mopStart s = .next (s.setMat s.ev.core { m with
      queue := { x with started := true } :: r, stationary := m.shadow, owner := some x.g, sst := .free }))) ∧
  (∀ (s : State) (x : Mop) (r : List Mop) (tm : Team), (s.mat s.ev.core).queue = x :: r → x.started = true → 1 ≤ x.n → x.n ≤ 128 →
    s.team? x.tm = some tm → ∃ t, exec .mopComplete s = .next t ∧ (t.mat s.ev.core).queue = r ∧
      (∀ i j, x.rows ≤ i → i < x.m → j < x.n → assocGet ({} : AccCell) (t.teamD x.tm).acc ((x.row + i) * 128 + j) =
        (x.cell tm (s.mat s.ev.core).stationary i j (assocGet {} tm.acc ((x.row + i) * 128 + j))).1) ∧
      (∀ c, (∀ i j, x.rows ≤ i → i < x.m → j < x.n → c ≠ (x.row + i) * 128 + j) → assocGet ({} : AccCell) (t.teamD x.tm).acc c = assocGet {} tm.acc c) ∧
      (∀ y, s.group? x.g = some y → ∃ z, t.group? x.g = some z ∧ z.mflags = y.mflags.or
        (((List.range ((x.m - x.rows) * x.n)).map fun q => (x.cell tm (s.mat s.ev.core).stationary (x.rows + q / x.n) (q % x.n)
          (assocGet {} tm.acc ((x.row + (x.rows + q / x.n)) * 128 + q % x.n))).2).foldl Sticky.or {})) ∧
      t.hbm = s.hbm ∧ t.g.v = s.g.v ∧ t.g.c = s.g.c) ∧
  ∀ (x : Mop) (tm : Team) (p : Plane) (i j : Nat) (c : AccCell),
    let act := fun (k : Nat) => rowElem x.afmt.toNat (x.rowData tm i) k
    let wt := fun (k : Nat) => (p.cols[j]?).bind fun col => rowElem p.fmt.toNat col k
    (x.ovw = true → x.cell tm p i j c = ({ x with ovw := false } : Mop).cell tm p i j {}) ∧
    (x.ovw = false → (∀ k < x.k, act k = none ∨ wt k = none) →
      (x.cell tm p i j c).1 = c ∧ (x.zskip = false → 1 ≤ x.k → (x.cell tm p i j c).2 = { abs := true })) ∧
    (x.ovw = false → x.zskip = false → 1 ≤ x.k → x.k ≤ (match x.afmt with | 8 => 30 | 9 => 30 | 10 => 60 | _ => 8) →
      (∀ k < x.k, act k = none ∨ wt k = none ∨ (Claim.product (act k) (wt k)).isSome = true) →
      let ps := (List.range x.k).filterMap fun k => Claim.product (act k) (wt k)
      ∀ q : Int, (∃ z ∈ ps, z.2.2 = q) → (∀ z ∈ ps, q ≤ z.2.2) →
        let sum := (ps.map fun z => (if z.1 then -1 else 1) * (z.2.1 : Int) * 2 ^ (z.2.2 - q).toNat).sum
        let cnt := c.cnt.toNat + ps.length
        let r := Fmt.f32.addV 0 (Fmt.f32.decode c.val.toNat) (.fin (decide (sum < 0)) sum.natAbs q)
        (sum ≠ 0 → x.cell tm p i j c = ({ val := BitVec.ofNat 32 r.bits, cnt := BitVec.ofNat 16 (Min.min cnt 65535) },
          r.fl.or { abs := decide (ps.length < x.k), csat := decide (65535 < cnt) })) ∧
        (sum = 0 → c.val = 0 → (x.cell tm p i j c).1 = { val := 0, cnt := BitVec.ofNat 16 (Min.min cnt 65535) }))

/-- The row slice that a drain or row write names (11 R318): the team is enabled, the row lies in the group's window and the columns in the
row. -/
def Sys2Proof.Claim.sliceAt (s : State) (row col : Nat) : Prop :=
  s.t.men = true ∧ s.u.vl.toNat ≤ s.g.grant / 32 ∧
  (∃ r, r < 2 ^ 9 ∧ s.u.opA.toNat = r + col * 2 ^ 16 ∧ row = s.g.awb.toNat + r) ∧ col < 128 ∧ row < s.g.awl.toNat ∧
  col + s.u.vl.toNat ≤ 128
/-- The row slice is in order, and no operation of the group in flight writes the row; a drain (`rd`) of a team in compatibility mode
needs its row complete alone (11 R303). -/
def Sys2Proof.Claim.slice (s : State) (rd : Bool) (row col : Nat) : Prop :=
  Claim.sliceAt s row col ∧ (if rd = true ∧ s.t.compat = true then s.chained row else s.rowsBusy row 1) = false
/-- The row slice is in order, and operations of the group that have still to complete the row are all covered for the entry by their
lookahead (01 R27, 07 R192). -/
def Sys2Proof.Claim.covered (s : State) (row col : Nat) : Prop :=
  Claim.sliceAt s row col ∧ s.chained row = true ∧
  ∀ x ∈ s.mu.queue, x.g = s.g.id → x.row ≤ row → row < x.row + x.m → s.u.seq ≤ x.upto

/-- mrd gives the active elements the cells of a row slice, mwr writes them, in the modes of R91; a slice outside the window is a window-fault (11 R318,
11 R319, 11 R320, 03 R91, 11 R303, 01 R27, 07 R192). That mwr raises ABS for an absent element or count, that mrd.norm passes a NaN as it stands, and
that the checks of registers come before the others, is the model's choice (log entry 32), and so is how a covered drain reads a row (log entry 18). -/
def Obligations.DrainsAndRowWrites : Prop :=
  (∀ (s : State) (d b : VName) (a : CReg) (la : BitVec 4) (row col : Nat), s.vp = none →
    let cell := fun (e : Nat) => assocGet ({} : AccCell) s.t.acc (row * 128 + col + e)
    let rawOf := fun (c : AccCell) => if c.cnt = 0 then Fmt.f32.absent else c.val.toNat
    let raw := fun (e : Nat) => rawOf (cell e)
    (Claim.slice s true row col → Claim.ready s 32 [d.toNat] →
      exec (.mrdRaw d a la) s = .next (s.setEls d.toNat 32 (s.active.map fun e => (e, raw e))) ∧
      exec (.mrdCnt d a la) s = .next (s.setEls d.toNat 32 (s.active.map fun e => (e, (cell e).cnt.toNat))) ∧
      exec (.mrdNorm d a la) s = .next ((s.setEls d.toNat 32 (s.active.map fun e => (e, (cell e).norm.1))).raise
        (s.active.foldl (fun q e => q.or (cell e).norm.2) {})) ∧
      (d.toNat ≠ 31 → Claim.ready s 32 [d.toNat + 1] →
        exec (.mrdPair d a la) s = .next ((s.setEls d.toNat 32 (s.active.map fun e => (e, raw e))).setEls (d.toNat + 1) 32
          (s.active.map fun e => (e, (cell e).cnt.toNat))))) ∧
    (Claim.covered s row col → Claim.ready s 32 [d.toNat] → ∃ now : Nat → AccCell,
      (∀ e, now e = cell e ∨ ∃ x r, s.mu.queue = x :: r ∧ x.started = true ∧ x.g = s.g.id ∧
        now e = (x.cell s.t s.mu.stationary (row - x.row) (col + e) (cell e)).1) ∧
      let q : State := { s with fresh := s.fresh + 1 }
      exec (.mrdRaw d a la) s = .next (q.setEls d.toNat 32 (s.active.map fun e => (e, rawOf (now e)))) ∧
      exec (.mrdCnt d a la) s = .next (q.setEls d.toNat 32 (s.active.map fun e => (e, (now e).cnt.toNat))) ∧
      exec (.mrdNorm d a la) s = .next ((q.setEls d.toNat 32 (s.active.map fun e => (e, (now e).norm.1))).raise
        (s.active.foldl (fun q e => q.or (now e).norm.2) {})) ∧
      (d.toNat ≠ 31 → Claim.ready s 32 [d.toNat + 1] →
        exec (.mrdPair d a la) s = .next ((q.setEls d.toNat 32 (s.active.map fun e => (e, rawOf (now e)))).setEls (d.toNat + 1) 32
          (s.active.map fun e => (e, (now e).cnt.toNat))))) ∧
    (d.toNat = 31 → exec (.mrdPair d a la) s = .next (s.raiseTrap { cause := 0x01 })) ∧
    (Claim.slice s false row col → Claim.ready s 32 [b.toNat] →
      let x := fun e => s.el b.toNat 32 e
      let no := fun e => decide (x e = Fmt.f32.absent)
      (∃ t, exec (.mwrVal a b la) s = .next t ∧ t = { s with t := { s.t with acc := t.t.acc }, g := { s.g with sticky := s.g.sticky.or ({ abs := s.active.any no } : Sticky) }, trace := t.trace } ∧
        (∀ e ∈ s.active, assocGet ({} : AccCell) t.t.acc (row * 128 + col + e) = if no e then {} else ⟨BitVec.ofNat 32 (x e), 1⟩) ∧
        ∀ i, (∀ e ∈ s.active, i ≠ row * 128 + col + e) → assocGet ({} : AccCell) t.t.acc i = assocGet {} s.t.acc i) ∧
      (Claim.ready s 32 [b.toNat + 1] →
        let c := fun e => s.el (b.toNat + 1) 32 e
        let cAbs := fun e => decide (c e = 2 ^ 31)
        let n := fun e => if cAbs e then 0 else sextNat 32 (c e)
        let out := fun e => decide (n e < 0) || decide (65535 < n e)
        ∃ t, exec (.mwrPair a b la) s = .next t ∧
          t = { s with t := { s.t with acc := t.t.acc }, g := { s.g with sticky := t.g.sticky, vo := t.g.vo }, trace := t.trace } ∧
          t.g.sticky = s.g.sticky.or { abs := s.active.any fun e => no e || cAbs e } ∧
          (∀ e ∈ s.active, assocGet ({} : AccCell) t.t.acc (row * 128 + col + e) =
            if no e then {} else ⟨BitVec.ofNat 32 (x e), BitVec.ofNat 16 (Max.max 0 (Min.min 65535 (n e))).toNat⟩) ∧
          (∀ i < 2048, t.g.vo.getLsbD i = (s.g.vo.getLsbD i || decide (i ∈ s.active ∧ no i = false ∧ out i = true))) ∧
          ∀ i, (∀ e ∈ s.active, i ≠ row * 128 + col + e) → assocGet ({} : AccCell) t.t.acc i = assocGet {} s.t.acc i))) ∧
  ∀ (s : State) (d : VName) (a : CReg) (la : BitVec 4), s.t.men = true → Claim.ready s 32 [d.toNat] → s.vp = none →
    (∃ r col, r < 2 ^ 9 ∧ col < 128 ∧ s.u.opA.toNat = r + col * 2 ^ 16 ∧ (s.g.awl.toNat ≤ s.g.awb.toNat + r ∨ 128 < col + s.u.vl.toNat)) →
    (∀ i ∈ [Instr.mrdRaw d a la, .mrdNorm d a la, .mrdCnt d a la, .mwrVal a d la], exec i s = .next (s.raiseTrap { cause := 0x14 })) ∧
      (Claim.ready s 32 [d.toNat + 1] → exec (.mwrPair a d la) s = .next (s.raiseTrap { cause := 0x14 }) ∧
        (d.toNat ≠ 31 → exec (.mrdPair d a la) s = .next (s.raiseTrap { cause := 0x14 })))

/-- spawn, launch and emit make a task, a grid and a node record with half of the issuer's weight, or trap or wait without effect (06 R170, 06 R173, 06
R180, 06 R183, 06 R184, 06 R185, 11 R323, 11 R324, 11 R329, 11 R330). Which address INFO gives for a record, and the free INFO of a reference-limit,
are the model's choice (log entries 27 and 28), and so are that a malformed declaration, or a context without a table, counts as no declaration (log
entry 29), the wait of launch at a full store (log entry 36) and the descriptor-fault of a record outside global memory (log entry 68). -/
def Obligations.TaskCreation : Prop :=
  (∀ (s : State) (w : Nat) (u : State), s.split = .ok (w, u) →
    ∃ v p, s.refill s.t.root s.issuerWeight = some (v, p) ∧ w = v / 2 ∧ u = p.setIssuerWeight (v - w)) ∧
  (∀ (o p r : List Word), takeRefs o p = .ok r → ∀ x, r.count x + p.count x = o.count x) ∧
  (∀ (o p : List Word) (x : Word), takeRefs o p = .error x → o.count x < p.count x) ∧
  (∀ (s : State) (d a b : CReg), let cw := s.u.opB.toNat
    let h := s.newHandle s.t.die
    let passed := ((List.range 8).filter fun k => cw / 2 ^ (8 + k) % 2 = 1).map fun k => s.u.ops.getD k 0
    let x := BitVec.ofNat 64 (Config.freeNat s.fresh)
    let f : State := { s with fresh := s.fresh + 1 }
    ((2 ^ 24 ≤ cw ∨ cw / 128 % 2 = 1 ∨ 128 < cw / 2 ^ 16 % 256) → exec (.spawn d a b) s = .next (f.raiseTrap { cause := 0x01 })) ∧
    (cw < 2 ^ 24 → cw / 128 % 2 = 0 → cw / 2 ^ 16 % 256 ≤ 128 →
      (s.u.opA.toNat % 4 ≠ 0 → exec (.spawn d a b) s = .next (f.raiseTrap { cause := 0x06, addr := s.u.opA })) ∧
      (s.u.opA.toNat % 4 = 0 → ∀ k, passed.find? (fun k => !s.current k) = some k → exec (.spawn d a b) s = .next (f.raiseTrap { cause := 0x11, info := k })) ∧
      (s.u.opA.toNat % 4 = 0 → (∀ k ∈ passed, s.current k = true) → ∀ k, takeRefs s.t.owned passed = .error k →
        exec (.spawn d a b) s = .next (f.raiseTrap { cause := 0x11, info := k })) ∧
      (s.u.opA.toNat % 4 = 0 → (∀ k ∈ passed, s.current k = true) → ∀ owned, takeRefs s.t.owned passed = .ok owned →
        (f.setOwned (owned ++ [h]) = none → exec (.spawn d a b) s = .next (f.raiseTrap { cause := 0x12, info := x })) ∧
        ∀ q, f.setOwned (owned ++ [h]) = some q →
          (s.storeFull s.t.die = true → exec (.spawn d a b) s = .next (f.holdUnit .storeFull)) ∧
          (s.storeFull s.t.die = false → ∀ e, q.split = .error e → exec (.spawn d a b) s = .next (f.holdUnit .refill)) ∧
          (s.storeFull s.t.die = false → ∀ w p, q.split = .ok (w, p) → ∃ m t, exec (.spawn d a b) s = .next t ∧ Claim.wroteC m t d h ∧
            m.t.owned = owned ++ [h] ∧
            m.tasks = p.tasks ++ [{ handle := h, die := s.t.die, loc := s.t.die, ctx := s.t.ctx, entry := s.u.opA, args := s.u.ops, weight := w, parent := s.t.handle, root := s.t.root, cons := 1, pri := cw % 8, ecls := cw / 8 % 8, pin := decide (cw / 64 % 2 = 1), hmask := BitVec.ofNat 8 (cw / 256 % 256), budget := s.g.budget, gmax := s.g.grant, scr := cw / 2 ^ 16 % 256 }] ∧
            (m.dieAt s.t.die).cands = (p.dieAt s.t.die).cands ++ (if s.t.die < s.dies.length then [{ kind := .task h, pri := cw % 8 }] else []))))) ∧
  (∀ (s : State) (d a : CReg), let ptr := s.u.opA
    let h := s.newHandle s.t.die
    let f : State := { s with fresh := s.fresh + 1 }
    (ptr.toNat % 128 ≠ 0 → exec (.launch d a) s = .next (f.raiseTrap { cause := 0x06, addr := ptr })) ∧
    (ptr.toNat % 128 = 0 → ∀ ws u, f.readWords f.agent .load ptr 16 = .ok (ws, u) →
      (f.spaceOf s.t.ctx ptr ≠ some 0 → exec (.launch d a) s = .next (f.raiseTrap { cause := 0x0B, info := ptr, tlb := some u.tlb })) ∧
      (f.spaceOf s.t.ctx ptr = some 0 → loopNest ws = none → exec (.launch d a) s = .next (f.raiseTrap { cause := 0x0B, info := ptr, tlb := some u.tlb })) ∧
      (f.spaceOf s.t.ctx ptr = some 0 → ∀ n, loopNest ws = some n → u.setOwned (s.t.owned ++ [h]) = none →
        exec (.launch d a) s = .next (f.raiseTrap { cause := 0x12, info := BitVec.ofNat 64 (Config.freeNat s.fresh), tlb := some u.tlb })) ∧
      (f.spaceOf s.t.ctx ptr = some 0 → ∀ n q, loopNest ws = some n → u.setOwned (s.t.owned ++ [h]) = some q →
        (s.storeFull s.t.die = true → exec (.launch d a) s = .next (f.holdUnit .storeFull)) ∧
        (s.storeFull s.t.die = false → ∀ e, q.split = .error e → exec (.launch d a) s = .next (f.holdUnit .refill))) ∧
      (∀ n q w p, f.spaceOf s.t.ctx ptr = some 0 → loopNest ws = some n → u.setOwned (s.t.owned ++ [h]) = some q → s.storeFull s.t.die = false → q.split = .ok (w, p) →
        ∃ m t, exec (.launch d a) s = .next t ∧ Claim.wroteC m t d h ∧
          (∃ r, m.tasks = p.tasks ++ [r] ∧ r.handle = h ∧ r.grid = some n ∧ r.weight = w ∧ r.cons = 1 ∧ r.st = .ready ∧ r.parent = s.t.handle ∧
            r.shares = p.partDies (p.partOfDie s.t.die)) ∧
          m.msgs = p.msgs ++ (p.partDies (p.partOfDie s.t.die)).map fun k => ⟨s.t.die, k, .grid h⟩))) ∧
  ∀ (s : State) (a b : CReg), let i := s.u.opA.toNat
    (∀ l, i < 1024 → s.nodeHeld s.t.ctx i = some l → exec (.emit a b) s = .next (s.holdUnit (.recall l))) ∧
    ((i < 1024 → s.nodeHeld s.t.ctx i = none) →
    (¬ (i < 1024 ∧ s.nodeOk s.t.ctx i = true) → exec (.emit a b) s = .next (s.raiseTrap { cause := 0x0B, info := s.u.opB })) ∧
    (i < 1024 → s.nodeOk s.t.ctx i = true →
      (s.u.opB.toNat % 4 ≠ 0 → exec (.emit a b) s = .next (s.raiseTrap { cause := 0x06, addr := s.u.opB })) ∧
      (s.u.opB.toNat % 4 = 0 → ∀ bs u, s.readRec s.u.opB (s.nodeDecl s.t.ctx i).rsize = .ok (bs, u) →
        (2 ^ 22 < (s.dieAt s.t.die).binBytes + (bs.length + 31) / 32 * 32 → exec (.emit a b) s = .next (s.holdUnit .binFull)) ∧
        ((s.dieAt s.t.die).binBytes + (bs.length + 31) / 32 * 32 ≤ 2 ^ 22 → ∀ e, u.split = .error e → exec (.emit a b) s = .next (s.holdUnit .refill)) ∧
        ((s.dieAt s.t.die).binBytes + (bs.length + 31) / 32 * 32 ≤ 2 ^ 22 → ∀ w p, u.split = .ok (w, p) →
          exec (.emit a b) s = .next (p.intoBin s.t.die s.t.ctx i (bs, w, s.t.root))))))

/-- ftest, fget, fdup, fdrop, rpt, fret, lfree and yield: references, results, and what a group keeps when it gives way (06 R169, 06 R170, 06 R179, 11
R325, 11 R326, 11 R327, 11 R328, 16 R394, 11 R331, 11 R332, 04 R116, 04 R130). That a record in transit keeps ftest, fdup and fdrop waiting rests on
R179 and R394, where R326 says that ftest never waits. That a group which waits in fget on a ready task is saved as pre-empted (log entry 16), and
that words which lfree sets to zero hold no poisoned data (log entry 52), are the model's choice. -/
def Obligations.ReferencesYieldsAndLfree : Prop :=
  ((∀ (s : State) (d a b : CReg), let h := s.u.opA
    (s.owns h = false → ∀ i ∈ [Instr.ftest d a, .fget d a, .fdup a, .fdrop a], exec i s = .next (s.raiseTrap { cause := 0x11, info := h })) ∧
    (s.owns h = false → exec (.rpt a b) s = .next (s.raiseTrap { cause := 0x11, info := h })) ∧
    (64 ≤ s.u.opB.toNat → s.owns h = true → exec (.rpt a b) s = .next (s.raiseTrap { cause := 0x01 })) ∧
    (s.owns h = true → ∀ r, s.task? h = some r →
      (s.refWaits r = true → exec (.ftest d a) s = .next (s.holdUnit (.record h)) ∧
        (∀ q, s.setOwned (s.t.owned ++ [h]) = some q → exec (.fdup a) s = .next (s.holdUnit (.record h))) ∧
        (∀ q, s.setOwned (s.t.owned.erase h) = some q → exec (.fdrop a) s = .next (s.holdUnit (.record h)))) ∧
      (s.refWaits r = false → ∃ t, exec (.ftest d a) s = .next t ∧ Claim.wroteC s t d (if r.st = .finished then 1 else 0)) ∧
      (r.st = .finished → ∃ t, exec (.fget d a) s = .next t ∧ Claim.wroteC s t d r.result) ∧
      (r.st ≠ .finished → r.st ≠ .ready → exec (.fget d a) s = .next (s.holdUnit (.fget h))) ∧
      (r.st = .ready → s.fenceWaits = true → exec (.fget d a) s = .next (s.holdUnit (.fget h))) ∧
      (r.st = .ready → s.fenceWaits = false → ∃ t, exec (.fget d a) s = .next t ∧ t.g.run = .saved 1 ∧ t.g.pwait = some (.fget h)) ∧
      (r.orphan = false → r.st ≠ .lost → s.refWaits r = false → ∀ q, s.setOwned (s.t.owned ++ [h]) = some q →
        ∃ t, exec (.fdup a) s = .next t ∧ t.t = q.t ∧ t.hbm = q.hbm ∧ t.tasks = s.tasks.map fun x => if x.handle = h then { x with cons := x.cons + 1 } else x) ∧
      (s.setOwned (s.t.owned ++ [h]) = none → exec (.fdup a) s = .next (s.raiseTrap { cause := 0x12, info := h })) ∧
      (r.orphan = false → r.st ≠ .lost → s.refWaits r = false → 2 ≤ r.cons → ∀ q, s.setOwned (s.t.owned.erase h) = some q →
        ∃ t, exec (.fdrop a) s = .next t ∧ t.t = q.t ∧ t.hbm = q.hbm ∧ t.tasks = s.tasks.map fun x => if x.handle = h then { x with cons := r.cons - 1 } else x) ∧
      (s.u.opB.toNat < 64 → (r.st = .finished ∨ r.st = .reclaiming ∨ r.st = .lost) → exec (.rpt a b) s = .next s) ∧
      (s.u.opB.toNat < 64 → (r.st = .ready ∨ r.st = .running ∨ r.st = .transit) → s.refWaits r = true →
        exec (.rpt a b) s = .next (s.send s.t.die (hHome h) (.rpt h (s.u.opB.toNat % 8) (s.u.opB.toNat / 8 % 8)))) ∧
      (s.u.opB.toNat < 64 → (r.st = .ready ∨ r.st = .running) → s.refWaits r = false → ∃ t y, exec (.rpt a b) s = .next t ∧ t.task? h = some y ∧
        y = { r with pri := s.u.opB.toNat % 8, ecls := s.u.opB.toNat / 8 % 8, grid := y.grid }))) ∧
  ∀ (s : State) (a : CReg),
    (s.t.stopping = false → exec (.fret a) s = .next { s with g := { s.g with run := .returned s.u.opA } }) ∧
    (s.t.stopping = true → exec (.fret a) s = .next s.reclaim)) ∧
  ((∀ (s : State) (a : CReg), let m := s.u.opA
    ((2 ^ s.g.budget ≤ m.toNat ∨ s.g.streams ≠ []) → exec (.lfree a) s = .next (s.raiseTrap { cause := 0x01 })) ∧
    (m.toNat < 2 ^ s.g.budget → s.g.streams = [] → s.g.req = true → s.fenceWaits = true → exec (.lfree a) s = .next (s.holdUnit .fence)) ∧
    (m.toNat < 2 ^ s.g.budget → s.g.streams = [] → (s.g.req = true → s.fenceWaits = false) → ∃ t, exec (.lfree a) s = .next t ∧ t.g.vl = 0 ∧
      (∀ p, p < s.g.budget → t.vphys p = if s.liveRegs m p then s.vphys p % 2 ^ 256 else 0) ∧
      (∀ k, 256 ≤ k → k < 2048 → t.g.vm.getLsbD k = true ∧ t.g.vo.getLsbD k = false) ∧
      (∀ k, k < 256 → t.g.vm.getLsbD k = s.g.vm.getLsbD k ∧ t.g.vo.getLsbD k = s.g.vo.getLsbD k) ∧
      (s.g.req = false → t.g.run = .running ∧ t.g.lfree = true ∧
        ∀ x ∈ t.g.rpoison, x.1 < s.g.budget → x.2.1 < 512 → s.liveRegs m x.1 = true ∧ x.2.1 < 8) ∧ (s.g.req = true → t.g.run = .saved 3))) ∧
  ∀ (s : State), ((s.dieAt s.t.die).cands.any s.waitsFor = false → exec .yield s = .next s) ∧
    ((s.dieAt s.t.die).cands.any s.waitsFor = true → s.fenceWaits = true → exec .yield s = .next (s.holdUnit .fence)) ∧
    ((s.dieAt s.t.die).cands.any s.waitsFor = true → s.fenceWaits = false → ∃ t, exec .yield s = .next t ∧ t.g.run = .saved 1))

/-- Trap stops, handler spawns, pre-emption, resume, the end of groups and of their tasks, reclamation and its settling (01 R44, 06 R172, 06 R174, 06
R175, 06 R177, 11 R327, 15 R363, 15 R365, 15 R367, 15 R369, 15 R377, 16 R388). The cause and arguments of TRAP_STOP come from outside (log entry 37);
what a reclamation point takes away at once, and when the group then ends, is the model's choice (log entry 56), and so is that a pending handler
takes the registers of its context as it is spawned (log entry 70). -/
def Obligations.GroupsEndAndReturn : Prop :=
  (∀ (s : State), let q := s.focus s.ev.g
    let tr : Trap := { cause := s.ev.cause, elem := s.ev.elem, idx := s.ev.idx, addr := s.ev.addr, info := s.ev.info }
    (q.g.controlReady = false → q.g.portReady = false → exec .trapStop s = .next s) ∧
    (q.g.controlReady = true → s.ev.flag = false → q.g.viq = [] → q.g.pfx = [] → ∃ t, exec .trapStop s = .next t ∧ t.g.run = .saved 2 ∧
      t.g.pc = q.g.pc ∧ t.g.lastTrap = some (s.ev.cause, q.g.area)) ∧
    (s.ev.flag = true → q.g.portReady = true → q.g.vps = [] → ∀ e rest, q.g.viq = e :: rest →
      exec .trapStop s = .next (({ q with u := e, port := true, vp := none, g := { q.g with viq := rest } } : State).takeTrap tr))) ∧
  (∀ (s : State) (c : Nat) (args : List Word) (rest : List (Nat × List Word)), (s.dieAt s.ev.die).spawns = (c, args) :: rest →
    (s.spawnHandler s.ev.die c args = none → exec .handlerSpawn s = .next s) ∧
    (∀ q, s.spawnHandler s.ev.die c args = some q → s.ev.die < s.dies.length → ∃ t r, exec .handlerSpawn s = .next t ∧ (t.dieAt s.ev.die).spawns = rest ∧
      t.tasks = s.tasks ++ [r] ∧ r.entry = (s.ctx c).shent ∧ r.root = (s.ctx c).sroot ∧ r.cons = 0 ∧ r.pin = true ∧ r.st = .ready ∧ r.args = (args ++ List.replicate 8 0).take 8)) ∧
  (∀ (s : State), let q := s.focus s.ev.g
    let may := (q.g.controlReady || q.g.portReady || q.g.cwait.isSome) && q.g.resident && (q.g.req || s.isVictim q.t.die q.g.id) && !q.fenceWaits
    (may = true → ∃ t, exec .preEmption s = .next t ∧ t.g.run = .saved 1 ∧ t.g.id = q.g.id ∧ t.g.v = q.g.v ∧ t.g.viq = q.g.viq ∧ t.g.vl = q.g.vl) ∧
    (may = false → exec .preEmption s = .next s)) ∧
  (∀ (s : State) (g : Group) (n : Nat), s.group? s.ev.g = some g → g.run = .resuming n →
    let held := s.devHeld g.areaCtx g.area 0x30000
    ((n ≠ 2 ∧ s.fenceWaitsOf g.id = true ∨ held.isSome = true) → exec .resume s = .next s) ∧
    ((n = 2 ∨ s.fenceWaitsOf g.id = false) → held = none → (s.teamD g.team).die = s.ev.die → (s.teamD g.team).core = s.ev.core → g.sector = s.ev.sector → g.grant = s.ev.grant →
      ∃ t b, exec .resume s = .next t ∧ t.group? g.id = some { s.restored g g.grant with req := b }) ∧
    ((s.teamD g.team).die ≠ s.ev.die ∨ (s.teamD g.team).core ≠ s.ev.core ∨ g.sector ≠ s.ev.sector ∨ g.grant ≠ s.ev.grant → exec .resume s = .next s)) ∧
  (∀ (s : State) (x : Word), let q := s.focus s.ev.g
    q.g.run = .returned x →
    (((∃ o ∈ q.ownOps, q.inert o = false) ∨ (∃ y ∈ q.g.streams, y.stop ≠ none) ∨ q.mu.busyFor q.g.id = true) → exec .groupEnd s = .next s) ∧
    ((∀ o ∈ q.ownOps, q.inert o = true) → (∀ y ∈ q.g.streams, y.stop = none) → q.mu.busyFor q.g.id = false → q.t.stopping = true →
      exec .groupEnd s = .next q.reclaim) ∧
    ((∀ o ∈ q.ownOps, q.inert o = true) → (∀ y ∈ q.g.streams, y.stop = none) → q.mu.busyFor q.g.id = false → q.t.stopping = false →
      let free := fun (t : State) => (∀ k, (t.mat q.t.coreId).sst = .held k → k ≠ q.g.id) ∧ ∀ k, (t.mat q.t.coreId).owner = some k → k ≠ q.g.id
      ((∃ k ∈ q.t.gids, k ≠ q.g.id ∧ (q.groupD k).alive = true) → ∃ t, exec .groupEnd s = .next t ∧ t.g.run = .ended ∧ t.g.holds = [] ∧ t.g.viq = [] ∧
        t.tasks = q.tasks ∧ free t ∧ ∀ a, a ∈ t.areas ↔ a ∈ q.areas ∧ a.g ≠ q.g.id) ∧
      (∀ h r, q.t.gids = [q.g.id] → q.t.id ≠ 0 → q.t.halted = none → q.t.owned = [] → q.t.kind = .task h → q.task? h = some r → r.st = .running → 1 ≤ r.cons →
        ∃ t, exec .groupEnd s = .next t ∧ t.task? h = some { r with st := .finished, result := x, weight := 0, team := none, args := [] } ∧ free t ∧
          ∀ a, a ∈ t.areas ↔ a ∈ q.areas ∧ a.g ≠ q.g.id) ∧
      (∀ h r, q.t.gids = [q.g.id] → q.t.id ≠ 0 → q.t.kind = .task h → q.task? h = some r → r.st = .lost →
        ∃ t, exec .groupEnd s = .next t ∧ t.task? h = some r))) ∧
  (∀ (s : State), let q := s.focus s.ev.g
    (q.reclaimable = false → exec .reclamation s = .next s) ∧
    (q.reclaimable = true → ∃ t, exec .reclamation s = .next t ∧ t.g.run = .reclaimed ∧ t.g.viq = [] ∧ t.g.vps = [] ∧ t.g.taken = q.g.viq.filterMap Unit.takes ∧ t.g.id = q.g.id) ∧
    (q.g.run = .reclaimed → q.settled = false → exec .groupEnd s = .next s) ∧
    (q.g.run = .reclaimed → q.settled = true → q.g.slots = [] → q.g.taken = [] → q.ownOps = [] → exec .groupEnd s = .next (q.endGroup 0))) ∧
  ∀ (s : State) (r : TaskRec), s.task? s.ev.h = some r → r.st = .reclaiming →
    ((r.team = none ∧ r.shares ≠ [] ∨ (∃ tm k, r.team = some tm ∧ k ∈ (s.teamD tm).gids ∧ (s.groupD k).alive = true)) → exec .reclaimSettle s = .next s) ∧
    ((r.team = none ∧ r.shares = [] ∨ (∃ tm, r.team = some tm ∧ ∀ k ∈ (s.teamD tm).gids, (s.groupD k).alive = false)) →
      ∃ t, exec .reclaimSettle s = .next t ∧ t.task? s.ev.h = none ∧ (r.weight ≠ 0 → ⟨hHome r.root, hHome r.root, .weight r.root r.weight⟩ ∈ t.msgs))

/-- eret and halt act on a saved group or answer why not; tlbinv removes the translations it names and settles stopped work; stest waits (15 R378, 15
R379, 17 R406, 17 R407, 17 R408, 17 R410, 18 R425). That an operand above the context number is illegal, and for which other contexts a page leads to
a G = 1 leaf, is the model's choice (log entry 38), and so is that the result of a targeted test comes from outside (log entry 60), and what eret does
for a saved group in transit (log entry 46). -/
def Obligations.SupervisorOverGroups : Prop :=
  (∀ (s : State) (d a b : CReg),
    (8 ≤ (s.c b).toNat → exec (.eret d a b) s = .next (s.raiseTrap { cause := 0x01 })) ∧
    (∀ l, s.areaHeld (s.c a) = some l → exec (.halt d a b) s = .next (s.holdUnit (.recall l)) ∧
      ((s.c b).toNat < 8 → exec (.eret d a b) s = .next (s.holdUnit (.recall l)))) ∧
    (s.areaHeld (s.c a) = none →
    (∀ x n, (x, n) ∈ [(AreaAt.none, (3 : Word)), (.freed, 1), (.placed, 2)] → s.areaAt (s.c a) = x →
      (∃ t, exec (.halt d a b) s = .next t ∧ Claim.wroteC s t d n) ∧
      ((s.c b).toNat < 8 → ∃ t, exec (.eret d a b) s = .next t ∧ Claim.wroteC s t d n)) ∧
    (∀ g st, s.areaAt (s.c a) = .group g st →
      (∃ t, exec (.halt d a b) s = .next t ∧ Claim.wroteC (s.updTeam g.team fun x => { x with stopping := true, halted := some (s.c b) }) t d 0) ∧
      ((s.c b).toNat < 8 →
        let any := decide (4 ≤ (s.c b).toNat)
        let grant := 2048 * 2 ^ ((s.c b).toNat % 4)
        let pc := s.areaWord g.areaCtx g.area 0x20
        ((s.areaBreaks g st = true ∨ any = false ∧ grant ∉ s.grantsOf g st) → ∃ t, exec (.eret d a b) s = .next t ∧ Claim.wroteC s t d 2) ∧
        (s.areaBreaks g st = false → (any = true ∨ grant ∈ s.grantsOf g st) →
          (pc % 4 ≠ 0 → exec (.eret d a b) s = .next (s.raiseTrap { cause := 0x06, addr := BitVec.ofNat 64 pc })) ∧
          (pc % 4 = 0 → s.travels g.id = true → ∃ m t, exec (.eret d a b) s = .next t ∧ Claim.wroteC s m d 0 ∧ t.c = m.c ∧ t.hbm = s.hbm ∧
            t.dies.map (fun x => x.cands) = s.dies.map (fun x => x.cands) ∧
            ∀ x ∈ t.dies, ∀ y ∈ x.shadows, ∀ n, y.item = .group g.id n → n = if any then none else some grant) ∧
          (pc % 4 = 0 → s.travels g.id = false → (s.teamD g.team).die < s.dies.length → ∃ m t, exec (.eret d a b) s = .next t ∧ Claim.wroteC s m d 0 ∧
            (t.dieAt (s.teamD g.team).die).cands = ((s.dieAt (s.teamD g.team).die).cands.filter fun c => match c.kind with | .saved k _ => decide (k ≠ g.id) | _ => true) ++
              [{ kind := .saved g.id (if any then none else some grant), pri := (s.teamD g.team).pri }] ∧
            t.c = m.c ∧ t.hbm = s.hbm)))))) ∧
  (∀ (s : State) (a b : CReg), let c := (s.c b).toNat
    let ok := c < 4096 ∧ (s.ctx c).valid = true ∧ (s.ctx c).part = (s.ctx s.t.ctx).part
    (¬ ok → ∀ i ∈ [Instr.tlbinvVa a b, .tlbinvCtx b, .tlbinvRetry a b, .tlbinvFail a b], exec i s = .next (s.raiseTrap { cause := 0x01 })) ∧
    (ok → s.fenceWaits = true → ∀ i ∈ [Instr.tlbinvVa a b, .tlbinvCtx b, .tlbinvRetry a b, .tlbinvFail a b], exec i s = .next (s.holdUnit .tlbinv)) ∧
    (s.fenceWaits = true → exec .tlbinvAll s = .next (s.holdUnit .tlbinv)) ∧
    (s.fenceWaits = false →
      let mine := fun (e : TlbEntry) => e.die ∈ s.partDies (s.ctx s.t.ctx).part
      let here := fun (e : WalkEntry) => e.die ∈ s.partDies (s.ctx s.t.ctx).part
      let u := s.performed
      u.tlb = s.tlb ∧ u.wcache = s.wcache ∧ u.hbm = s.hbm ∧ (∀ n o, u.op? n = some o → (s.ctx o.ctx).part = (s.ctx s.t.ctx).part → o.late = []) ∧
      (∃ t, exec .tlbinvAll s = .next t ∧ t = { u with tlb := t.tlb, wcache := t.wcache } ∧ (∀ e, e ∈ t.tlb ↔ e ∈ s.tlb ∧ ¬ mine e) ∧
        ∀ e, e ∈ t.wcache ↔ e ∈ s.wcache ∧ ¬ here e) ∧
      (ok →
        (∃ t, exec (.tlbinvCtx b) s = .next t ∧ t = { u with tlb := t.tlb, wcache := t.wcache } ∧
          (∀ e, e ∈ t.tlb ↔ e ∈ s.tlb ∧ ¬ (mine e ∧ e.ctx = c ∧ e.global = false)) ∧ ∀ e, e ∈ t.wcache ↔ e ∈ s.wcache ∧ ¬ (here e ∧ e.ctx = c)) ∧
        (∃ t, exec (.tlbinvVa a b) s = .next t ∧ t = { u with tlb := t.tlb, wcache := t.wcache } ∧
          (∀ e, e ∈ t.wcache ↔ e ∈ s.wcache ∧ ¬ (here e ∧ (e.ctx = c ∨ s.leadsGlobal e.die e.ctx (s.c a).toNat = true) ∧ e.tag = walkTag e.level (s.c a).toNat)) ∧ ∀ e, e ∈ t.tlb ↔ e ∈ s.tlb ∧
          ¬ (mine e ∧ (e.ctx = c ∨ e.global = true) ∧
            (if e.level = 1 then e.page / 4096 = (s.c a).toNat / 2 ^ 28 else e.page = (s.c a).toNat / 2 ^ 16))) ∧
        ∀ i ∈ [Instr.tlbinvRetry a b, .tlbinvFail a b], ∃ t, exec i s = .next t ∧
          (∀ o ∈ t.ops, o.ctx = c → ∀ x, o.stop = some x → x.1 ≠ s.c a) ∧
          ∀ g ∈ t.allGroups, (t.teamD g.team).ctx = c → ∀ x ∈ g.streams, x.desc = s.c a → x.stop = none))) ∧
  (∀ (s : State) (d a : CReg), let w := (s.c a).toNat
    let ok := 1 ≤ w % 16 ∧ w % 16 ≤ 6 ∧ w / 16 % 16 = 0 ∧ w / 2 ^ 11 % 32 = 0 ∧ w / 2 ^ 8 % 8 ∈ s.partDies (s.ctx s.t.ctx).part
    (ok → exec (.stest d a) s = .next ((s.beginTest (s.c a)).holdUnit .stest) ∧
      (w % 16 ≠ 1 ∨ s.paIn (s.ctx s.t.ctx).part (w / 2 ^ 16) = false → s.beginTest (s.c a) = { s with g := { s.g with testSel := s.c a, testClk := (s.dieAt s.t.die).clk } }) ∧
      (w % 16 = 1 → s.paIn (s.ctx s.t.ctx).part (w / 2 ^ 16) = true → (s.beginTest (s.c a)).g.testSel = s.c a ∧ ∀ x ∈ (s.beginTest (s.c a)).lkeys, x.1 ≠ w / 2 ^ 16 / 128)) ∧ (¬ ok → exec (.stest d a) s = .next (s.raiseTrap { cause := 0x01 }))) ∧
  ∀ (s : State) (d : CReg) (w : Word), let q := s.focus s.ev.g
    q.g.cwait = some .stest → q.testOf = some (d, w) →
    let sel := q.g.testSel.toNat
    let busy := q.allGroups.any fun x => x.resident && decide (q.sectorOf x = sel / 2 ^ 8 % 8 * 256 + sel / 2 ^ 16 % 256)
    let may := if sel % 16 = 6 then (if busy = true then s.ev.n = 2 ∧ 2 ^ 20 ≤ ((q.dieAt q.t.die).clk - q.g.testClk).toNat else s.ev.n ≤ 1) else s.ev.n ≤ 2
    (may → ∃ t, exec .targetedTestEnd s = .next t ∧ (d ≠ 0 → t.c d = BitVec.ofNat 64 s.ev.n) ∧ t.g.pc = q.g.pc + 4 ∧ t.g.cwait = none ∧ t.hbm = q.hbm) ∧
    (¬ may → exec .targetedTestEnd s = .next s)

/-- Refills and returns of weight, the completion of a graph, bin timers, and the shares of a grid (06 R180, 06 R181, 06 R183, 06 R185, 16 R381, 16 R382).
That the shares of a grid whose record went with its die run on to their end, and report to nobody, is the model's choice (log entry 43). -/
def Obligations.WeightBinsAndGrids : Prop :=
  (∀ (s : State) (x : Graph), let q := s.focus s.ev.g
    (q.g.pwait ≠ some .refill → exec .weightRefill s = .next s) ∧
    (q.g.pwait = some .refill → q.issuerWeight < 2 → q.graph? q.t.root = some x → (∀ h, q.t.kind = .task h → (q.task? h).isSome = true) →
      (x.pool < 2 ^ 32 → exec .weightRefill s = .next s) ∧
      (2 ^ 32 ≤ x.pool → ∃ t, exec .weightRefill s = .next t ∧ t.g.pwait = none ∧ t.graph? q.t.root = some { x with pool := x.pool - 2 ^ 32 } ∧
        t.issuerWeight = q.issuerWeight + 2 ^ 32))) ∧
  (∀ (s : State) (m : Msg) (x : Graph), s.msgs.find? (fun m => decide (m.body = .weight s.ev.h s.ev.n)) = some m → s.graph? s.ev.h = some x →
    (x.pool + s.ev.n ≠ 2 ^ 63 → ∃ t, exec .weightReturn s = .next t ∧ t.msgs = s.msgs.erase m ∧ t.graph? s.ev.h = some { x with pool := x.pool + s.ev.n } ∧
      t.toHost = s.toHost) ∧
    (x.pool + s.ev.n = 2 ^ 63 → ∃ t, exec .weightReturn s = .next t ∧ t.msgs = s.msgs.erase m ∧ t.graph? s.ev.h = none ∧
      t.toHost = s.toHost ++ [.event 1 (s.partOfDie x.die) [s.ev.h, x.result, if x.reclaimed then 1 else 0]])) ∧
  (∀ (s : State), let b := s.binOf s.ev.die s.ev.ctx s.ev.node
    ((b.recs = [] ∨ (s.dieAt s.ev.die).past b.deadline = false ∨ (s.nodeHeld b.ctx b.node).isSome = true) → exec .binTimerExpiry s = .next s) ∧
    (b.recs ≠ [] → (s.dieAt s.ev.die).past b.deadline = true → s.nodeHeld b.ctx b.node = none → s.ev.die < s.dies.length → ∃ t, exec .binTimerExpiry s = .next t ∧
      (t.binOf s.ev.die s.ev.ctx s.ev.node).recs = [] ∧
      (t.dieAt s.ev.die).cands = (s.dieAt s.ev.die).cands ++ [{ kind := .batch s.ev.ctx s.ev.node b.recs, pri := (s.nodeDecl s.ev.ctx s.ev.node).pri }])) ∧
  (∀ (s : State) (m : Msg) (r : TaskRec) (n : LoopNest), let d := s.ev.die
    s.msgs.find? (fun m => decide (m.dst = d) && decide (m.body = .grid s.ev.h)) = some m → s.task? s.ev.h = some r → r.st ≠ .reclaiming → r.grid = some n →
    (∀ w ∈ (s.dieAt d).walks, w.grid ≠ s.ev.h) → d < s.dies.length →
    ∃ t l, exec .gridRecordArrival s = .next t ∧ t.msgs = s.msgs.erase m ∧ (t.dieAt d).walks = (s.dieAt d).walks ++ [{ grid := s.ev.h, todo := l }] ∧
      (∀ o, o ∈ l ↔ o < n.tiles ∧ o / n.chunk % s.partSize = d % s.partSize) ∧ l.Pairwise (· < ·) ∧
      (t.dieAt d).cands = (s.dieAt d).cands ++ (if l = [] then [] else [{ kind := .walker s.ev.h, pri := n.pri }])) ∧
  (∀ (s : State) (m : Msg) (r : TaskRec), let d := s.ev.die
    let x := s.dieAt d
    s.msgs.find? (fun m => decide (m.dst = d) && decide (m.body = .grid s.ev.h)) = some m → s.task? s.ev.h = some r → r.st = .reclaiming →
    exec .gridRecordArrival s = .next (({ s with msgs := s.msgs.erase m } : State).setDie d { x with
      walks := if x.walks.any (fun w => decide (w.grid = s.ev.h)) = true then x.walks.map fun w => if w.grid = s.ev.h then { w with parts := w.parts + 1 } else w
        else x.walks ++ [{ grid := s.ev.h, todo := [] }] })) ∧
  ∀ (s : State) (w : Walk) (r : TaskRec), let d := s.ev.die
    (s.dieAt d).walks.find? (fun w => decide (w.grid = s.ev.h)) = some w → (∀ y ∈ (s.dieAt d).shadows, ∀ l, y.item ≠ .tiles s.ev.h l) →
    ((w.todo ≠ [] ∨ w.live ≠ 0 ∨ s.onTheWay d s.ev.h = true) → exec .gridShareReport s = .next s) ∧
    (w.todo = [] → w.live = 0 → s.onTheWay d s.ev.h = false → s.task? s.ev.h = some r → r.st = .running → r.orphan = false → r.grid.isSome = true → 1 ≤ r.cons → w.parts = 1 → d < s.dies.length →
      ∃ t, exec .gridShareReport s = .next t ∧ (∀ x ∈ (t.dieAt d).walks, x.grid ≠ s.ev.h) ∧
        (r.shares.erase d ≠ [] → t.task? s.ev.h = some { r with shares := r.shares.erase d }) ∧
        (r.shares.erase d = [] → t.task? s.ev.h = some { r with shares := [], st := .finished, result := 0, weight := 0, team := none, args := [] })) ∧
    (w.todo = [] → w.live = 0 → s.onTheWay d s.ev.h = false → s.task? s.ev.h = some r → r.orphan = true → r.grid.isSome = true → w.parts = 1 → d < s.dies.length →
      r.shares.erase d = [] → ∃ t, exec .gridShareReport s = .next t ∧ (∀ x ∈ (t.dieAt d).walks, x.grid ≠ s.ev.h) ∧ t.task? s.ev.h = none)

/-- Temperature samples, refresh windows, power gating, links that fail, resets of a die and of the device, and detected errors (02 R62, 02 R63, 16 R393,
16 R439, 18 R421, 18 R422, 18 R424, 18 R431). The edges of the refresh window are steps of the model's clock (log entry 11). What the reset of a die
and of the device takes and leaves (log entries 43 and 44), when a gate closes (log entry 45), which messages a failing link loses (log entry 46), and
how an uncorrected error poisons a register (log entry 52) are the model's choice. -/
def Obligations.DiesAndErrors : Prop :=
  (∀ (s : State), s.ev.die < s.dies.length → ∃ t, exec .temperatureSample s = .next t ∧
      (t.dieAt s.ev.die).temp = some (Min.min 255 s.ev.temp.toNat) ∧ ((s.dieAt s.ev.die).temp = none → s.ev.die ∈ t.due) ∧ t.tasks = s.tasks) ∧
  (∀ (s : State), s.ev.die < s.dies.length → ∃ t n, exec .weightStoreRefresh s = .next t ∧ 1 ≤ n ∧ n ≤ 768 ∧
      (t.dieAt s.ev.die).clk = (s.dieAt s.ev.die).clk + BitVec.ofNat 64 n ∧
      (t.dieAt s.ev.die).phase.toNat % 1024 = (if (s.dieAt s.ev.die).phase.toNat % 1024 < 256 then 256 else 0) ∧ t.wstore = s.wstore) ∧
  (∀ (s : State), let x := s.dieAt s.ev.die
    ((x.shadows = [] ∧ ∀ v it n, x.steal ≠ .acking v it n) → exec .powerGatingRequest s = .next (s.setDie s.ev.die { x with gating := true, gated := true })) ∧
    ((x.shadows ≠ [] ∨ ∃ v it n, x.steal = .acking v it n) → exec .powerGatingRequest s = .next (s.setDie s.ev.die { x with gating := true }))) ∧
  (∀ (s : State), ∃ t, exec .linkFailure s = .next t ∧ t.tasks = s.tasks ∧ t.groups = s.groups ∧ (∀ m, m ∈ t.msgs ↔ m ∈ s.msgs ∧
      ¬ ((m.src = s.ev.die ∧ m.dst = s.ev.n ∨ m.src = s.ev.n ∧ m.dst = s.ev.die) ∧ (m.body.isAnswer = true ∨ ∃ k it, m.body = .ack k it))) ∧
      ∀ it n, (s.dieAt s.ev.die).steal = .acking s.ev.n it n → s.ev.die ≠ s.ev.n → s.ev.die < s.dies.length →
        (∀ m ∈ s.msgs, m.src = s.ev.n → m.dst = s.ev.die → m.body ≠ .accepted ∧ m.body ≠ .stale) → (t.dieAt s.ev.die).steal = .idle) ∧
  (∀ (s : State), let d := s.ev.die
    let away := fun (tm : Nat) => (s.teamD tm).die ≠ d ∨ ∃ k ∈ (s.teamD tm).gids, (s.givenBy d).any (StealItem.isGroup k) = true
    let given := fun (tm : Nat) => ∃ k ∈ (s.teamD tm).gids, ∃ it, s.givenIn d = some it ∧ it.isGroup k = true
    ∃ t, exec .dieReset s = .next t ∧ (∀ x ∈ t.allTeams, x ∈ s.allTeams ∧ away x.id ∧ ¬ given x.id) ∧ (∀ g ∈ t.allGroups, g ∈ s.allGroups ∧ away g.team ∧ ¬ given g.team) ∧
      (t.dieAt d).cands = [] ∧ (t.dieAt d).walks = [] ∧ (t.dieAt d).temp = none ∧ (∀ r ∈ t.tasks, hHome r.handle = d → r.orphan = true ∧
        (r.die ≠ d ∨ (s.givenBy d).any (StealItem.isRecord r.handle) = true ∨ r.grid.isSome = true)) ∧
      (let arrives := fun (m : Msg) => m.body = .accepted ∨ m.body = .stale ∨ (∃ h k, m.body = .loc h k) ∨ (∃ h n, m.body = .refAct h n) ∨ ∃ h p e, m.body = .rpt h p e
       (∀ m ∈ t.msgs, m.dst ≠ d ∧ (m.src = d → arrives m)) ∧ (∀ m ∈ s.msgs, m.dst ≠ d → (m.src = d → arrives m) → m ∈ t.msgs) ∧
       ∀ m ∈ s.msgs, m.dst = d → ∀ h, ((∃ n, m.body = .refAct h n) ∨ ∃ p e, m.body = .rpt h p e) → hHome h ≠ d →
         (∃ r ∈ t.tasks, r.handle = h ∧ r.st ≠ .lost) → ⟨m.src, hHome h, m.body⟩ ∈ t.msgs) ∧
      (∀ r ∈ s.tasks, r.remnant = false → hHome r.handle ≠ d → s.losesGroupOf d r = true → ∃ x ∈ t.tasks, x.handle = r.handle ∧ x.st = .lost) ∧ t.toHost = s.toHost ++ (s.losses d).map fun w => ToHost.event 4 (s.partOfDie d) w) ∧
  (∀ (s : State), let e := s.ev
    let p := s.partOfDie e.die
    let n := s.prt p
    ((e.k = 0 ∨ 6 < e.k ∨ 2 < e.i) → exec .errorDetected s = .next s) ∧
    (1 ≤ e.k → e.k ≤ 6 → e.i ≤ 2 → ∃ t, exec .errorDetected s = .next t ∧ (t.prt p).seq = n.seq + 1 ∧
      (∀ base c, n.logBase = some base → s.supCtx p = some c →
        let a := base + BitVec.ofNat 64 (64 * (n.seq.toNat % n.logCount))
        t.toHost = s.toHost ++ [.event 3 p [a]] ∧
        (e.flag = true → (e.k = 1 ∨ e.k = 2) → t.poison = (e.pa / 128, a) :: s.poison) ∧
        (e.flag = true → e.k = 4 → ∀ x, s.group? e.g = some x → ∃ y, t.group? e.g = some y ∧ (e.e, e.n, a) ∈ y.rpoison) ∧ (e.flag = false → t.poison = s.poison)) ∧
      ((n.logBase = none ∨ s.supCtx p = none) → t.toHost = s.toHost))) ∧
  ∀ (s : State), exec .deviceReset s = .next { State.reset with fwOk := s.ev.flag, agenda := s.agenda, fresh := s.fresh, nextId := s.nextId, pick := s.pick }

/-- A steal leaves its item with exactly one die, and locators and forwarded actions follow the record (16 R391, 16 R392, 16 R393, 06 R179, 16 R394). That
a die answers NONE also once its gate has closed (log entry 45), and that a shadow is found by its item (log entry 46), are the model's choice. -/
def Obligations.StealsAndLocators : Prop :=
  ((∀ (s : State) (k : Nat), let v := s.ev.die
    let th := s.ev.n
    let q := s.setSteal th (.asking k)
    (∀ m ∈ s.msgs, m.dst = th → m.body.isAnswer = false) →
    ((s.dieAt th).steal = .asking k → s.dry th = false → exec .stealRequest s = .next (s.setSteal th .idle)) ∧
    (((s.dieAt th).steal = .asking k ∨ (s.dieAt th).steal = .idle ∧ k = 0) → s.dry th = true → (s.askOrder th)[k]? = some v →
    (((q.dieAt v).gating = true ∨ q.offerOf v th = none) → exec .stealRequest s = .next (q.send v th .none)) ∧
    (∀ it, (q.dieAt v).gating = false → q.offerOf v th = some it → v < s.dies.length → ∃ t, exec .stealRequest s = .next t ∧
      t.msgs = s.msgs ++ [⟨v, th, .offer it (s.dieAt v).stg⟩] ∧
      (t.dieAt v).shadows = (s.dieAt v).shadows ++ [⟨it, th, ((s.dieAt v).clk + 4096).toNat⟩] ∧
      (∀ h, it = .record h ∨ it = .finished h → t.task? h = (s.task? h).map fun r => { r with st := .transit }) ∧
      (∀ h, it = .record h → (t.dieAt v).cands = (s.dieAt v).cands.filter fun c => decide (c.kind ≠ .task h))))) ∧
  (∀ (s : State) (m : Msg) (it : StealItem) (stg : Byte) (k : Nat), let th := s.ev.die
    let v := s.ev.n
    s.msgs.find? (fun m => decide (m.src = v) && decide (m.dst = th) && m.body.isAnswer) = some m → (s.dieAt th).steal = .asking k → th < s.dies.length →
    (m.body = .offer it stg → ∃ t, exec .stealOffer s = .next t ∧ (t.dieAt th).steal = .acking v it stg ∧ t.msgs = s.msgs.erase m ++ [⟨th, v, .ack stg it⟩]) ∧
    (m.body = .none → exec .stealOffer s = .next s)) ∧
  (∀ (s : State) (m : Msg) (stg : Byte) (it : StealItem) (y : Shadow), let v := s.ev.die
    let th := s.ev.n
    let x := s.dieAt v
    s.msgs.find? (fun m => decide (m.src = th) && decide (m.dst = v) && (match m.body with | .ack _ _ => true | _ => false)) = some m → m.body = .ack stg it →
    (x.shadows.find? (fun y => decide (y.thief = th) && decide (y.item = it)) = none → exec .stealAck s = .next (({ s with msgs := s.msgs.erase m } : State).send v th .stale)) ∧
    (x.shadows.find? (fun y => decide (y.thief = th) && decide (y.item = it)) = some y → v < s.dies.length →
      (stg ≠ x.stg → exec .stealAck s = .next (({ s with msgs := s.msgs.erase m } : State).send v th .stale)) ∧
      (stg = x.stg → x.past y.deadline = true → exec .stealAck s = .next s) ∧
      (stg = x.stg → x.past y.deadline = false → ∃ t, exec .stealAck s = .next t ∧ (t.dieAt v).shadows = x.shadows.erase y ∧
        (∀ h, it = .record h ∨ it = .finished h → (t.dieAt v).fwd = (h, th) :: x.fwd.filter (fun z => decide (z.1 ≠ h)) ∧
          t.msgs = s.msgs.erase m ++ [⟨v, hHome h, .loc h th⟩, ⟨v, th, .accepted⟩]) ∧
        ((∀ h, it ≠ .record h ∧ it ≠ .finished h) → t.msgs = s.msgs.erase m ++ [⟨v, th, .accepted⟩])))) ∧
  (∀ (s : State) (m : Msg) (v : Nat) (it : StealItem) (stg : Byte), let th := s.ev.die
    (s.dieAt th).steal = .acking v it stg → th < s.dies.length →
    (s.msgs.find? (fun m => decide (m.src = v) && decide (m.dst = th) && decide (m.body = .accepted)) = some m → ∃ t, exec .stealReceiptAccepted s = .next t ∧
      (t.dieAt th).steal = .idle ∧ t.msgs = s.msgs.erase m ∧
      (∀ h r, it = .finished h → s.task? h = some r → r.st = .transit → t.task? h = some { r with st := .finished, die := th }) ∧
      (∀ h r, it = .record h → s.task? h = some r → r.st = .transit → t.task? h = some { r with st := .ready, die := th } ∧
        (t.dieAt th).cands = (s.dieAt th).cands ++ [{ kind := .task h, pri := r.pri }])) ∧
    (s.msgs.find? (fun m => decide (m.src = v) && decide (m.dst = th) && decide (m.body = .stale)) = some m → ∃ t, exec .stealReceiptStale s = .next t ∧
      (t.dieAt th).steal = (if s.dry th = true then .asking ((s.askOrder th).idxOf v) else .idle) ∧ t.msgs = s.msgs.erase m ∧ t.tasks = s.tasks ∧ (t.dieAt th).cands = (s.dieAt th).cands)) ∧
  (∀ (s : State) (m : Msg) (k : Nat), let th := s.ev.die
    s.msgs.find? (fun m => decide (m.src = s.ev.n) && decide (m.dst = th) && decide (m.body = .none)) = some m → (s.dieAt th).steal = .asking k → th < s.dies.length →
    ∃ t, exec .stealNone s = .next t ∧ t.msgs = s.msgs.erase m ∧ t.tasks = s.tasks ∧
      (t.dieAt th).steal = (if s.dry th = true ∧ k + 1 < (s.askOrder th).length then .asking (k + 1) else .idle)) ∧
  ∀ (s : State) (y : Shadow), let v := s.ev.die
    let x := s.dieAt v
    (x.shadows.find? (fun y => decide (y.thief = s.ev.n) && x.past y.deadline) = none → exec .stealTimerExpiry s = .next s) ∧
    (x.shadows.find? (fun y => decide (y.thief = s.ev.n) && x.past y.deadline) = some y → v < s.dies.length → ∃ t, exec .stealTimerExpiry s = .next t ∧
      (t.dieAt v).shadows = x.shadows.erase y ∧ (t.dieAt v).stg = x.stg + 1 ∧
      (∀ h r, y.item = .record h → s.task? h = some r → r.st = .transit → t.task? h = some { r with st := .ready, die := v } ∧
        (t.dieAt v).cands = x.cands ++ [{ kind := .task h, pri := r.pri }]))) ∧
  ((∀ (s : State) (src d : Nat), s.msgs.find? (fun m => decide (m.dst = s.ev.die) && (match m.body with | .loc h _ => decide (h = s.ev.h) | _ => false)) =
      some ⟨src, s.ev.die, .loc s.ev.h d⟩ →
    exec .loc s = .next { s with
      tasks := s.tasks.map fun r => if r.handle = s.ev.h then { r with loc := d } else r
      msgs := s.msgs.erase ⟨src, s.ev.die, .loc s.ev.h d⟩ ++ [⟨s.ev.die, src, .confirm s.ev.h⟩] }) ∧
  (∀ (s : State) (m : Msg), s.msgs.find? (fun m => decide (m.dst = s.ev.die) && decide (m.body = .confirm s.ev.h)) = some m → s.ev.die < s.dies.length →
    ∃ t, exec .homeConfirm s = .next t ∧ t.msgs = s.msgs.erase m ∧ t.tasks = s.tasks ∧
      ∀ x, x ∈ (t.dieAt s.ev.die).fwd ↔ x ∈ (s.dieAt s.ev.die).fwd ∧ x.1 ≠ s.ev.h) ∧
  ∀ (s : State) (m : Msg) (r : TaskRec),
    s.msgs.find? (fun m => match m.body with | .refAct h _ => decide (h = s.ev.h) | .rpt h _ _ => decide (h = s.ev.h) | _ => false) = some m →
    s.task? s.ev.h = some r →
    ((m.dst ≠ s.ev.die ∨ r.die = m.dst ∧ r.st = .transit) → exec .forwardedReferenceAction s = .next s) ∧
    (m.dst = s.ev.die → r.die ≠ m.dst → exec .forwardedReferenceAction s = .next { s with
      msgs := ⟨m.src, (match (s.dieAt m.dst).fwd.find? fun x => x.1 = r.handle with | some x => x.2 | none => if m.dst = hHome r.handle then r.loc else hHome r.handle),
        m.body⟩ :: s.msgs.erase m }) ∧
    (m.dst = s.ev.die → r.st ≠ .transit → r.die = s.ev.die →
      (∀ n : Int, 0 ≤ n → m.body = .refAct s.ev.h n → r.orphan = false → r.st ≠ .lost → ∃ t, exec .forwardedReferenceAction s = .next t ∧ t.msgs = s.msgs.erase m ∧
        t.task? s.ev.h = some { r with cons := r.cons + 1 }) ∧
      (∀ n : Int, n < 0 → m.body = .refAct s.ev.h n → r.orphan = false → r.st ≠ .lost → 2 ≤ r.cons → ∃ t, exec .forwardedReferenceAction s = .next t ∧
        t.msgs = s.msgs.erase m ∧ t.task? s.ev.h = some { r with cons := r.cons - 1 }) ∧
      (∀ p e, m.body = .rpt s.ev.h p e → (r.st = .ready ∨ r.st = .running) → ∃ t y, exec .forwardedReferenceAction s = .next t ∧
        t.task? s.ev.h = some y ∧ y = { r with pri := p, ecls := e, grid := y.grid } ∧ t.msgs = s.msgs.erase m)))

/-- Remote reads, writes and additions of the host and of nodes act through an enabled window of their R_Key, or answer NAK (04 R131, 05 R142, 05 R163, 18
R436). That the accesses of a node go through the host-access table as those of a host do (log entry 17), and that an access arrives once the table
can be read (log entry 39), is the model's choice. -/
def Obligations.RemoteAccesses : Prop :=
  (∀ (s : State) (p : Nat) (key : Word32) (va : Word) (len c : Nat) (wr : Bool), s.window p key va len wr = some c ↔ ∃ sup i, s.supCtx p = some sup ∧ i < (s.prt p).shatn ∧
    let w := fun (j k : Nat) => (s.devWord sup ((s.prt p).shat + BitVec.ofNat 64 (32 * j + 8 * k))).toNat
    let named := fun j => w j 0 / 2 ^ 63 % 2 = 1 ∧ w j 0 % 2 ^ 32 = key.toNat
    (∀ j, j < (s.prt p).shatn → (named j ↔ j = i)) ∧ w i 0 / 2 ^ 44 % 2 ^ 17 = 0 ∧ w i 3 = 0 ∧ 1 ≤ w i 2 ∧ w i 2 ≤ 2 ^ 40 ∧
    w i 0 / 2 ^ (if wr then 62 else 61) % 2 = 1 ∧ c = w i 0 / 2 ^ 32 % 4096 ∧ w i 1 ≤ va.toNat ∧
    va.toNat + len ≤ w i 1 + w i 2 ∧ (s.ctx c).valid = true ∧ (s.ctx c).part = p) ∧
  (∀ (s : State), let p := s.ev.part
    (s.tableHeld p = true → ∀ i ∈ [Instr.hostRdmaRead, .remoteRdmaRead, .hostRdmaWrite, .remoteRdmaWrite, .remoteAddWithCount], exec i s = .next s) ∧
    (s.tableHeld p = false →
    (s.window p s.ev.rkey s.ev.va s.ev.len false = none →
      exec .hostRdmaRead s = .next { s with toHost := s.toHost ++ [.rdma p true []] } ∧
      exec .remoteRdmaRead s = .next { s with toHost := s.toHost ++ [.remoteReply p true []] }) ∧
    (s.window p s.ev.rkey s.ev.va s.ev.data.length true = none →
      exec .hostRdmaWrite s = .next { s with toHost := s.toHost ++ [.rdma p true []] } ∧
      exec .remoteRdmaWrite s = .next { s with toHost := s.toHost ++ [.remoteReply p true []] }) ∧
    (s.window p s.ev.rkey s.ev.va (8 * s.ev.words.length) true = none →
      exec .remoteAddWithCount s = .next { s with toHost := s.toHost ++ [.remoteReply p true []] }))) ∧
  (∀ (s : State) (c pa : Nat) (q : State), let p := s.ev.part
    let n := s.ev.len
    s.tableHeld p = false → s.window p s.ev.rkey s.ev.va n false = some c → 1 ≤ n → s.ev.va.toNat % 8 + n ≤ 8 →
    (s.place (s.rdmaAgent p c) .load s.ev.va n 1 = .ok (.hbm pa, q) →
      exec .hostRdmaRead s = .next { q with toHost := q.toHost ++ [.rdma p false (q.hbm.bytes pa n)] } ∧
      exec .remoteRdmaRead s = .next { q with toHost := q.toHost ++ [.remoteReply p false (q.hbm.bytes pa n)] }) ∧
    (∀ l, s.place (s.rdmaAgent p c) .load s.ev.va n 1 = .error (.recall l) →
      exec .hostRdmaRead s = .next { s with held := s.held ++ [(Instr.hostRdmaRead, s.ev, c)] } ∧
      exec .remoteRdmaRead s = .next { s with held := s.held ++ [(Instr.remoteRdmaRead, s.ev, c)] }) ∧
    (∀ k x y, s.place (s.rdmaAgent p c) .load s.ev.va n 1 = .error (.trap k x y) → let v := s.walked (some y)
      exec .hostRdmaRead s = .next { v with toHost := v.toHost ++ [.rdma p true []] } ∧
      exec .remoteRdmaRead s = .next { v with toHost := v.toHost ++ [.remoteReply p true []] })) ∧
  (∀ (s q : State) (n c pa : Nat) (e : EvArgs), s.held[n]? = some (Instr.hostRdmaRead, e, c) → 1 ≤ e.len → e.va.toNat % 8 + e.len ≤ 8 →
    let v : State := { s with held := s.held.eraseIdx n, ev := e }
    v.place (v.rdmaAgent e.part c) .load e.va e.len 1 = .ok (.hbm pa, q) →
    s.retryHeld n = { q with toHost := q.toHost ++ [.rdma q.ev.part false (q.hbm.bytes pa e.len)] }) ∧
  (∀ (s : State) (c pa : Nat) (q : State), let p := s.ev.part
    let n := s.ev.data.length
    s.tableHeld p = false → s.window p s.ev.rkey s.ev.va n true = some c → 1 ≤ n → s.ev.va.toNat % 8 + n ≤ 8 →
    s.place (s.rdmaAgent p c) .store s.ev.va n 1 = .ok (.hbm pa, q) → ∃ t v, exec .hostRdmaWrite s = .next t ∧ exec .remoteRdmaWrite s = .next v ∧
      t.toHost = q.toHost ++ [.rdma p false []] ∧ v.toHost = q.toHost ++ [.remoteReply p false []] ∧ t.hbm = v.hbm ∧ t.hbm.bytes pa n = s.ev.data ∧
      ∀ a, (a < pa ∨ pa + n ≤ a) → t.hbm.read a = q.hbm.read a) ∧
  ∀ (s : State) (c pa : Nat) (q : State) (x : Word), let p := s.ev.part
    s.ev.words = [x] → s.tableHeld p = false → s.window p s.ev.rkey s.ev.va 8 true = some c → s.place (s.rdmaAgent p c) .atomic s.ev.va 8 8 = .ok (.hbm pa, q) →
    ∃ t, exec .remoteAddWithCount s = .next t ∧ t.toHost = q.toHost ++ [.remoteReply p false []] ∧
      t.hbm.num pa 8 = addCount (addTy s.ev.fmt) (q.hbm.num pa 8) (x.toNat % 2 ^ 32) % 2 ^ 64 ∧
      ∀ a, (a < pa ∨ pa + 8 ≤ a) → t.hbm.read a = q.hbm.read a

/-- A host command that the device hears (18 R418): it is enrolled with a set that holds the sender, its firmware has verified,
LEN is that of the body and at most 1,024, the reserved words are zero and the partition exists. -/
def Sys2Proof.Claim.heard (s : State) : Prop :=
  s.fwOk = true ∧ s.enrolled = true ∧ s.ev.hdr.src ∈ s.hosts ∧ s.ev.hdr.rsvd = 0 ∧ s.ev.hdr.other = none ∧
  s.ev.words.length + (s.ev.data.length + 7) / 8 ≤ 1024 ∧
  (∀ n, s.ev.hdr.len = some n → n = s.ev.words.length + (s.ev.data.length + 7) / 8) ∧ s.ev.hdr.part < 16 ∧ s.ev.hdr.part < s.nparts
/-- `t` is `q` with the reply to command `op` of the event of `s`: TAG and PART of its header, a status and a body. -/
def Sys2Proof.Claim.replied (s q : State) (op status : Nat) (body : List Word) : Host.Outcome State Fault Refusal :=
  .next { q with toHost := q.toHost ++ [.reply s.ev.hdr.tag s.ev.hdr.part op status body] }
/-- The host commands and their opcodes (18 R419, R420, R431). -/
def Sys2Proof.Claim.commands : List (Instr × Nat) := [(.ident, 1), (.parts, 2), (.context, 3), (.power, 4), (.start, 5), (.grid, 6), (.release, 7), (.wstore, 8),
  (.errlog, 9), (.nodes, 10), (.load, 11), (.enroll, 12), (.keyload, 12), (.keyunload, 12), (.attest, 12)]

/-- Which host commands are turned away, and what IDENT, PARTS, CONTEXT, POWER, ERRLOG, NODES, ENROLL, the key commands and ATTEST do (16 R384, 17 R400,
17 R409, 17 R412, 17 R415, 18 R417, 18 R418, 18 R419, 18 R420, 18 R422, 18 R431). Which status a refusal has where 18 R419 names none (log entry 39),
what a change of partitions discards (log entry 40), and that a key goes and a message is accepted within the step of its command (log entry 41) are
the model's choice. -/
def Obligations.HostCommands : Prop :=
  (∀ (s : State) (i : Instr) (op : Nat), (i, op) ∈ Claim.commands → let no := fun st => exec i s = Claim.replied s s op st []
    let open_ := op = 1 ∨ i = .enroll
    (∀ n, s.ev.hdr.other = some n → (n = 0 ∨ 11 < n) → exec i s = Claim.replied s s n
      (if s.fwOk = false then 1 else if s.enrolled = false ∨ s.ev.hdr.src ∉ s.hosts then 3 else 2) []) ∧
    (s.ev.hdr.other = none →
    (s.fwOk = false → op ≠ 1 → no 1) ∧
    ((s.fwOk = true ∨ op = 1) → (s.enrolled = false → ¬ open_ → no 3) ∧ (s.enrolled = true → s.ev.hdr.src ∉ s.hosts → no 3) ∧
      ((s.enrolled = true ∧ s.ev.hdr.src ∈ s.hosts ∨ s.enrolled = false ∧ open_) →
        ((s.ev.hdr.rsvd ≠ 0 ∨ 16 ≤ s.ev.hdr.part ∨ 1024 < s.ev.words.length + (s.ev.data.length + 7) / 8 ∨
          ∃ n, s.ev.hdr.len = some n ∧ n ≠ s.ev.words.length + (s.ev.data.length + 7) / 8) → no 2) ∧
        (s.ev.hdr.rsvd = 0 → s.ev.hdr.part < 16 → s.ev.words.length + (s.ev.data.length + 7) / 8 ≤ 1024 →
          (∀ n, s.ev.hdr.len = some n → n = s.ev.words.length + (s.ev.data.length + 7) / 8) → s.nparts ≤ s.ev.hdr.part → no 3))))) ∧
  (∀ (s : State), let w := s.ev.words
    let n := s.arg 0
    Claim.heard s →
    (w.length = 0 → ∃ b, exec .ident s = Claim.replied s s 1 0 b ∧ b.length = 8 ∧ (b.getD 0 0).toNat / 2 ^ 48 = 0x0F1A ∧ b.getD 1 0 = Config.serial ∧ Config.serial ≠ 0) ∧
    (w.length = 1 → n ∈ [1, 2, 4, 8] →
      (n = s.partSize → exec .parts s = Claim.replied s { s with partsSet := true } 2 0 []) ∧
      (n ≠ s.partSize → s.idle = false → exec .parts s = Claim.replied s s 2 1 []) ∧
      (n ≠ s.partSize → s.idle = true → ∃ q, exec .parts s = Claim.replied s q 2 0 [] ∧ q.partSize = n ∧ q.partsSet = true ∧ q.tlb = [] ∧ q.wcache = [] ∧ q.ctxs = [] ∧
        q.keys = [] ∧ q.lkeys = [] ∧ q.veils = [] ∧ q.pivots = [] ∧ (s.veils = [] → q.hbm = s.hbm ∧
          ∀ l k p, s.lkeys.find? (fun x => decide (x.1 = l)) = some (l, k) → s.keyPair k = some p → ∀ b, b / 8 = l → q.blockKey b = some p))) ∧
    (w.length = 2 → s.dieHere n = true → n < s.dies.length → 60 ≤ s.arg 1 / 2 ^ 24 % 256 → s.arg 1 / 2 ^ 24 % 256 ≤ 110 → s.arg 1 / 2 ^ 32 % 256 = 0 →
      s.arg 1 / 2 ^ 16 % 256 = 0 → ∃ q x, exec .power s = Claim.replied s q 4 0 [x] ∧ (q.dieAt n).budget = s.arg 1 % 2 ^ 16 ∧ (q.dieAt n).tlimit = s.arg 1 / 2 ^ 24 % 256 ∧
        (s.headroom n < q.headroom n → n ∈ q.due) ∧ x.toNat % 2 ^ 16 = s.arg 1 % 2 ^ 16 ∧ x.toNat / 2 ^ 24 % 256 = s.arg 1 / 2 ^ 24 % 256) ∧
    (w.length = 2 → 64 ≤ s.arg 1 → s.arg 1 ≤ 65536 → 2 ^ (s.arg 1).log2 = s.arg 1 → let p := s.ev.hdr.part
      ∃ q, exec .errlog s = Claim.replied s q 9 0 [] ∧ (q.prt p).logBase = some (w.getD 0 0) ∧ (q.prt p).logCount = s.arg 1 ∧ (q.prt p).seq = (s.prt p).seq) ∧
    (w.length = 2 → n < 0xFFFFF → ∃ q, exec .nodes s = Claim.replied s q 10 0 [] ∧ q.nodeId = BitVec.ofNat 20 n ∧ q.nodeSet = true ∧ (q.prt s.ev.hdr.part).qpt = w.getD 1 0) ∧
    (w.length = 2 → n < 4096 → s.arg 1 = s.ev.hdr.part → assocGet .empty s.keys n = .empty → Config.accepts s.message = true →
      ∃ q, exec .keyload s = Claim.replied s q 12 0 [] ∧ assocGet .empty q.keys n = .loaded s.ev.hdr.part (Config.unwrap s.message).1 (Config.unwrap s.message).2 ∧
        ∀ k, k ≠ n → assocGet .empty q.keys k = assocGet .empty s.keys k) ∧
    (w.length = 2 → n < 4096 → s.arg 1 = s.ev.hdr.part → Config.accepts s.message = false → assocGet .empty s.keys n = .empty → exec .keyload s = Claim.replied s s 12 3 []) ∧
    (∀ x y, w.length = 1 → n < 4096 → assocGet .empty s.keys n = .loaded s.ev.hdr.part x y → ∃ q, exec .keyunload s = Claim.replied s q 12 0 [] ∧ assocGet .empty q.keys n = .empty ∧
      (∀ x, x ∈ q.lkeys ↔ x ∈ s.lkeys ∧ x.2 ≠ n) ∧ ∀ k, k ≠ n → assocGet .empty q.keys k = assocGet .empty s.keys k) ∧
    (w.length = 4 → ∃ q b d e, exec .attest s = Claim.replied s q 12 0 b ∧ b = [BitVec.ofNat 64 Config.stepping.toNat, BitVec.ofNat 64 Config.fwver.toNat] ++ d ++ w ++ e ∧ e.length = 12 ∧
      q = { s with fresh := q.fresh })) ∧
  (∀ (s : State), Claim.heard s → s.ev.words.length = 9 → s.arg 0 < 4096 → (s.arg 1) % 2 ^ 16 = 0 → s.arg 1 / 2 ^ 48 = 0 → s.arg 2 < 2 ^ 32 →
    s.arg 2 / 2 ^ 17 % 8 = 0 → s.arg 2 / 2 % 2 ^ 11 = 0 → (∀ x ∈ s.ev.words.drop 3, x = 0) → s.arg 2 / 2 ^ 12 % 16 = s.ev.hdr.part →
    (s.ctx (s.arg 0)).valid = false → (∀ g ∈ s.allGroups, g.alive = true → (s.teamD g.team).ctx ≠ s.arg 0) → s.arg 2 / 2 ^ 16 % 2 = 0 →
    ∃ q, exec .context s = Claim.replied s q 3 0 [] ∧ q.ctx (s.arg 0) = { s.ctx (s.arg 0) with
      root := BitVec.ofNat 64 (s.arg 1 / 2 ^ 16)
      wkey := s.arg 2 / 2 ^ 20
      priv := false
      part := s.ev.hdr.part
      valid := decide (s.arg 2 % 2 = 1) } ∧ ∀ k, k ≠ s.arg 0 → q.ctx k = s.ctx k) ∧
  ∀ (s : State), (s.fwOk = true) → (s.enrolled = true → s.ev.hdr.src ∈ s.hosts) → s.ev.hdr.rsvd = 0 → s.ev.hdr.part < 16 → s.ev.hdr.part < s.nparts →
    s.ev.hdr.other = none → s.ev.words.length + (s.ev.data.length + 7) / 8 ≤ 1024 →
    (∀ n, s.ev.hdr.len = some n → n = s.ev.words.length + (s.ev.data.length + 7) / 8) →
    (s.partsSet = true → exec .enroll s = Claim.replied s s 12 1 []) ∧
    (s.partsSet = false → Config.accepts s.message = false → exec .enroll s = Claim.replied s s 12 3 []) ∧
    (s.partsSet = false → Config.accepts s.message = true → exec .enroll s =
      Claim.replied s { s with hosts := s.ev.words.map (fun w => w.toNat), enrolled := true } 12 0 [])

/-- START, GRID, RELEASE, WSTORE and LOAD of a command that is heard, with the refusals of START, and the end of a translation (06 R169, 06 R180, 06 R184,
18 R419, 18 R421, 18 R426, 18 R427, 18 R428, 18 R429, 18 R438). The status of a malformed GRID, and of WSTORE for a context that does not exist (log
entry 39), and of a GRID whose record lies outside global memory (log entry 68), which groups hold up WSTORE (log entry 20), and the form of a module
and of its translation (log entry 47) are the model's choice. -/
def Obligations.HostWork : Prop :=
  (∀ (s : State), Claim.heard s → let c := s.arg 0
    let cw := s.arg 3
    let bad := (s.ev.words.getD 2 0).toNat % 4 ≠ 0 ∨ 2 ^ 28 ≤ cw ∨ cw / 128 % 2 = 1 ∨ 128 < cw / 2 ^ 16 % 256 ∨ cw / 256 % 256 ≠ 0
    s.ev.words.length = 12 →
    (bad → exec .start s = Claim.replied s s 5 2 []) ∧
    (¬ bad → (4096 ≤ c ∨ (s.ctx c).valid = false) → exec .start s = Claim.replied s s 5 1 []) ∧
    (¬ bad → c < 4096 → (s.ctx c).valid = true → ((s.ctx c).part ≠ s.ev.hdr.part ∨ s.arg 1 ∉ s.partDies s.ev.hdr.part) → exec .start s = Claim.replied s s 5 3 [])) ∧
  (∀ (s : State), Claim.heard s → let c := s.arg 0
    let d := s.arg 1
    let cw := s.arg 3
    let e := s.ev.words.getD 2 0
    let h := s.newHandle d
    s.ev.words.length = 12 → c < 4096 → s.ctxHere c = true → s.dieHere d = true → e.toNat % 4 = 0 → cw < 2 ^ 28 → cw / 128 % 2 = 0 → cw / 2 ^ 16 % 256 ≤ 128 → cw / 256 % 256 = 0 →
    (s.storeFull d = true → exec .start s = Claim.replied s s 5 1 []) ∧
    (s.storeFull d = false → ∃ q r, exec .start s = Claim.replied s q 5 0 [h] ∧ q.tasks = s.tasks ++ [r] ∧
      q.graphs = s.graphs ++ [{ root := h, die := d, ctx := c, pool := 2 ^ 62 }] ∧
      r.handle = h ∧ r.die = d ∧ r.entry = e ∧ r.args = s.ev.words.drop 4 ∧ r.weight = 2 ^ 62 ∧ r.cons = 1 ∧ r.st = .ready ∧ r.root = h ∧ r.pri = cw % 8 ∧
      r.ecls = cw / 8 % 8 ∧ r.budget = 16 * (cw / 2 ^ 26 + 1) ∧ r.gmax = 2048 * 2 ^ (cw / 2 ^ 24 % 4))) ∧
  (∀ (s : State) (ws : List Word) (q : State) (n : LoopNest), Claim.heard s → let c := s.arg 0
    let d := s.arg 1
    let a := s.ev.words.getD 2 0
    s.ev.words.length = 3 → a.toNat % 128 = 0 → c < 4096 → s.ctxHere c = true → s.dieHere d = true →
    s.readWords { ctx := c, priv := (s.ctx c).priv, die := d, tm := 0 } .load a 16 = .ok (ws, q) →
    ((q.spaceOf c a ≠ some 0 ∨ loopNest ws = none) → exec .grid s = Claim.replied s s 6 2 []) ∧
    (q.spaceOf c a = some 0 → loopNest ws = some n → q.storeFull d = true → exec .grid s = Claim.replied s s 6 1 []) ∧
    (q.spaceOf c a = some 0 → loopNest ws = some n → q.storeFull d = false → ∃ t r, exec .grid s = Claim.replied s t 6 0 [q.newHandle d] ∧ t.tasks = q.tasks ++ [r] ∧ r.grid = some n ∧
      r.handle = q.newHandle d ∧ r.weight = 2 ^ 62 ∧ t.graphs = q.graphs ++ [{ root := q.newHandle d, die := d, ctx := c, pool := 2 ^ 62 }] ∧
      t.msgs = q.msgs ++ (q.partDies (q.partOfDie d)).map fun k => ⟨d, k, .grid (q.newHandle d)⟩)) ∧
  (∀ (s : State) (x : Graph) (r : TaskRec), Claim.heard s → let h := s.ev.words.getD 0 0
    s.ev.words.length = 1 →
    (s.graph? h = none → exec .release s = Claim.replied s s 7 1 []) ∧
    (s.graph? h = some x → s.dieHere x.die = true → (x.host = false ∨ s.current h = false) → exec .release s = Claim.replied s s 7 1 []) ∧
    (s.graph? h = some x → s.dieHere x.die = true → x.host = true → s.current h = true → s.task? h = some r → r.orphan = false → r.st ≠ .lost → s.refWaits r = false → 2 ≤ r.cons →
      ∃ q, exec .release s = Claim.replied s q 7 0 [] ∧ q.graph? h = some { x with host := false } ∧ q.task? h = some { r with cons := r.cons - 1 })) ∧
  (∀ (s : State), Claim.heard s → let c := s.arg 0
    let src := s.ev.words.getD 2 0
    let n := s.arg 4
    s.ev.words.length = 5 → s.arg 3 + n ≤ 2 ^ 28 → s.ctxHere c = true → s.dieHere (s.arg 1) = true →
    (s.kernelRuns (fun k => decide (k = c)) = true → exec .wstore s = Claim.replied s s 8 1 []) ∧
    (∀ k, 65536 * k < n + src.toNat % 65536 → s.devLeaf c false (BitVec.ofNat 64 (src.toNat / 65536 * 65536 + 65536 * k)).toNat = none →
      exec .wstore s = Claim.replied s s 8 1 []) ∧
    (s.kernelRuns (fun k => decide (k = c)) = false → (∀ k, 65536 * k < n + src.toNat % 65536 → (s.devLeaf c false (BitVec.ofNat 64 (src.toNat / 65536 * 65536 + 65536 * k)).toNat).isSome = true) →
      ((s.devHeld c src n).isSome = true → exec .wstore s = .next s) ∧ (s.devHeld c src n = none → ∃ q, exec .wstore s = Claim.replied s q 8 0 [] ∧ q.hbm = s.hbm ∧ (∀ i, i < n → q.wstore.read (wsAddr (s.arg 1) (s.arg 3) + i) = (s.devRead c src n).getD i 0) ∧
        ∀ a, (a < wsAddr (s.arg 1) (s.arg 3) ∨ wsAddr (s.arg 1) (s.arg 3) + n ≤ a) → q.wstore.read a = s.wstore.read a))) ∧
  (∀ (s : State), Claim.heard s → s.ev.words.length = 5 → s.arg 3 + s.arg 4 ≤ 2 ^ 28 → (4096 ≤ s.arg 0 ∨ (s.ctx (s.arg 0)).valid = false) →
    exec .wstore s = Claim.replied s s 8 1 []) ∧
  (∀ (s : State), Claim.heard s → let c := s.arg 0
    s.ev.words.length = 5 → s.arg 4 ≤ 1 → c < 4096 → s.ctxHere c = true →
    ((s.ctx c).loading.isSome = true → exec .load s = Claim.replied s s 11 1 []) ∧
    ((s.ctx c).loading = none → ∃ q, exec .load s = Claim.replied s q 11 0 [] ∧ (q.ctx c).loading = some (decide (s.arg 4 = 1), s.ev.words.getD 2 0) ∧
      (s.arg 4 = 1 → (q.ctx c).container = s.ev.load) ∧
      (s.arg 4 = 0 → (s.refuses c s.ev.load = true ∨ ∃ m, s.ev.load = some m ∧ s.arg 3 < 16 * m.code.length) → (q.ctx c).container = none) ∧
      ((s.arg 4 = 1 ∨ s.refuses c s.ev.load = true ∨ ∃ m, s.ev.load = some m ∧ s.arg 3 < 16 * m.code.length) →
        q.hbm = s.hbm ∧ (q.ctx c).stubs = (s.ctx c).stubs ∧ (q.ctx c).heaps = (s.ctx c).heaps) ∧
      (∀ m, s.arg 4 = 0 → s.refuses c s.ev.load = false → s.ev.load = some m → 16 * m.code.length ≤ s.arg 3 → let base := s.ev.words.getD 2 0
        (q.ctx c).container = some m ∧ (q.ctx c).stubs = (s.ctx c).stubs ++ [(base, m.code.length)] ∧
        (q.ctx c).heaps.find? (fun h => decide (h.base = base)) = some { base := base, bytes := s.arg 3, count := m.code.length, node := (s.ctx c).nodesUsed }))) ∧
  (∀ (s : State) (c : Nat) (m : Module),
    ((16 ≤ (s.ctx c).modules ∨ 1024 < (s.ctx c).nodesUsed + m.nodes.length) → s.refuses c (some m) = true) ∧
    ∀ again : Bool, ((8192 < m.code.length ∨ Config.needsSignature c = true ∧ m.signature ≠ some true) → s.refuses c (some m) again = true) ∧
    ∀ w ∈ m.code.flatten, opOf w = 0x70 → (m.lifetime < 2 ∨ m.stepping ≠ some Config.stepping) → s.refuses c (some m) again = true) ∧
  (∀ (s : State) (m : Module) (h : Heap) (l : List Nat), ∃ r, (s.relocated m h l).2 = { h with bodies := h.bodies ++ r } ∧
    r.Pairwise (fun b y => b.2.1.toNat + 4 * b.2.2 ≤ y.2.1.toNat ∨ y.2.1.toNat + 4 * y.2.2 ≤ b.2.1.toNat) ∧
    ∀ b ∈ r, h.base.toNat + 16 * h.count ≤ b.2.1.toNat ∧ b.2.1.toNat + 4 * b.2.2 ≤ h.base.toNat + h.bytes ∧
      (∀ y ∈ h.bodies, b.2.1.toNat + 4 * b.2.2 ≤ y.2.1.toNat ∨ y.2.1.toNat + 4 * y.2.2 ≤ b.2.1.toNat) ∧
      ∃ ws, s.ev.bodies.getD b.1 none = some (b.2.1, ws) ∧ ws.length = b.2.2 ∧
        ((s.ev.refs.filter fun x => decide (x.fn = b.1)).map fun x => refTarget x b.2.1 ws) =
          (m.refs.filter fun x => decide (x.1 = b.1)).map fun x => h.base + BitVec.ofNat 64 (16 * x.2)) ∧
  ∀ (s : State), let c := s.ev.ctx
    let x := s.ctx c
    let told := fun (t : State) (st n : Nat) => (t.ctx c).loading = none ∧ t.toHost = s.toHost ++ [.event 6 x.part [BitVec.ofNat 64 c, BitVec.ofNat 64 st, BitVec.ofNat 64 n]]
    let left := fun (m : Module) (h : Heap) => h.count - (s.relocated m h (List.range h.count)).2.bodies.length
    (x.loading = none → exec .translationEnd s = .next s) ∧
    (x.loading.isSome = true → x.container = none → ∃ t, exec .translationEnd s = .next t ∧ told t 2 0 ∧ t.hbm = s.hbm) ∧
    (∀ heap m, x.loading = some (false, heap) → x.container = some m →
      (x.heaps.find? (fun h => decide (h.base = heap)) = none → ∃ t, exec .translationEnd s = .next t ∧ told t 2 0 ∧ t.hbm = s.hbm) ∧
      (∀ h, x.heaps.find? (fun h => decide (h.base = heap)) = some h → let n := left m h
        ∃ t, exec .translationEnd s = .next t ∧ told t (if n = 0 then 0 else 1) n ∧ (t.ctx c).modules = x.modules + 1 ∧
        (t.ctx c).nodesUsed = x.nodesUsed + m.nodes.length ∧ (t.ctx c).nodeBases = x.nodeBases ++ [x.nodesUsed] ∧ (t.ctx c).stubs = x.stubs)) ∧
    (∀ heap m, x.loading = some (true, heap) → x.container = some m →
      ((x.heaps.find? (fun h => decide (h.base = heap)) = none ∨ s.refuses c (some m) true = true) →
        ∃ t, exec .translationEnd s = .next t ∧ told t 2 0 ∧ t.hbm = s.hbm) ∧
      (∀ h, x.heaps.find? (fun h => decide (h.base = heap)) = some h → s.refuses c (some m) true = false →
        (m.code.length ≠ h.count → ∃ t, exec .translationEnd s = .next t ∧ told t 2 0 ∧ t.hbm = s.hbm) ∧
        (m.code.length = h.count → let n := left m h
          ∃ t, exec .translationEnd s = .next t ∧ told t (if n = 0 then 0 else 1) n ∧ (t.ctx c).modules = x.modules ∧ (t.ctx c).nodesUsed = x.nodesUsed ∧
            (t.ctx c).nodeBases = x.nodeBases ∧ (t.ctx c).stubs = x.stubs))) ∧
    (∀ stub i, stubWords stub i none = [encode (.trap (BitVec.ofNat 13 i)), 0x06000000, 0x06000000, 0x06000000])

/-- Words that the worked examples of the spec give decode to the instructions that they stand for (07 R187, 07 R188, 07 R191, 07 R198, 08 R213, 09 R245, 10 R270, 11 R323, 15 R378). -/
def Obligations.SpecWordsDecode : Prop :=
  decodeWord 0x02516600 = .ok (.add 10 11 12) ∧
  decodeWord 0x06281FFD = .ok (.addi 5 0 0x1FFD) ∧
  decodeWord 0x14280092 = .ok (.lui 5 0x92) ∧
  decodeWord 0x0E28D003 = .ok (.srai 5 6 3) ∧
  decodeWord 0x1850B041 = .ok (.ld 10 5 .w 4 1) ∧
  decodeWord 0x1C4BD810 = .ok (.st 9 30 .d 1 0) ∧
  decodeWord 0x20085FFD = .ok (.beq 1 2 0x1FFD) ∧
  decodeWord 0x2CF80028 = .ok (.jal 31 0x28) ∧
  decodeWord 0x30516168 = .ok (.fcvt 10 11 2 .f32) ∧
  decodeWord 0x32516662 = .ok (.fdiv 10 11 12 .f32 2) ∧
  decodeWord 0x38408020 = .ok (.setvl 8 4 32) ∧
  decodeWord 0x3C012003 = .ok (.cwr 9 3) ∧
  decodeWord 0x4000000C = .ok (.vf 12) ∧
  decodeWord 0x46081FFE = .ok (.fetchNz 1 0x1FFE) ∧
  decodeWord 0x4A000001 = .ok (.jpark 0) ∧
  decodeWord 0x4C500001 = .ok (.qget 10) ∧
  decodeWord 0x601022EC = .ok (.vadd 2 1 (.c 5) .f32 true) ∧
  decodeWord 0x68002262 = .ok (.vcmpLt 1 (.v 4) .f32) ∧
  decodeWord 0x6E480501 = .ok (.vmsave 9 (.j 2)) ∧
  decodeWord 0x72A30560 = .ok (.vquant 20 24 10 .f32 0) ∧
  decodeWord 0x761882EA = .ok (.vdiv 3 4 5 .f32 true 2) ∧
  decodeWord 0x7C504260 = .ok (.vredSumc 10 2 .f32 0) ∧
  decodeWord 0x802064A4 = .ok (.vslideup 4 3 9 .i32 false) ∧
  decodeWord 0x84001FFB = .ok (.splb 0x1FFB) ∧
  decodeWord 0xA618E830 = .ok (.vsts 3 7 .h 3 0) ∧
  decodeWord 0xAC30A620 = .ok (.vscatO 6 5 12 .i32 0) ∧
  decodeWord 0xB250A5BB = .ok (.amoCas 10 5 11 .i64) ∧
  decodeWord 0xB4000115 = .ok (.fenceFull .team) ∧
  decodeWord 0xC64945B0 = .ok (.chgo 9 10 11 3) ∧
  decodeWord 0xD000A302 = .ok (.mwin 5 6) ∧
  decodeWord 0xD62120E0 = .ok (.mrdNorm 4 9 0) ∧
  decodeWord 0xDA494580 = .ok (.spawn 9 10 11) ∧
  decodeWord 0xE020A328 = .ok (.vdot4X 4 5 (.v 6) true) ∧
  decodeWord 0xF000002A = .ok (.trap 42) ∧
  decodeWord 0xF4516600 = .ok (.eret 10 11 12) ∧
  decodeWord 0xFC400001 = .ok (.pfxScope .none .team)

/-- The decoder reads from the word of every well-formed instruction that instruction, with every operand, alone and at the head of a program (07 R187, 07 R190, 07 R191, 07 R198). -/
def Obligations.EncodingRoundTrip : Prop :=
  ∀ i : Instr, i.wf = true → decodeWord (encode i) = .ok i ∧ ∀ rest, decodeBytes (bytesOfWord (encode i) ++ rest) = some (.ok i, rest)

/-- A word that decodes is the one word of a well-formed instruction: reserved fields are zero, and no two instructions share a word (07 R187, 07 R188, 07 R191, 07 R198, 07 R199). -/
def Obligations.OneReadingPerWord : Prop :=
  (∀ (w : Word32) (i : Instr), decodeWord w = .ok i → i.wf = true ∧ encode i = w) ∧
  ∀ w : Word32, (opOf w ∈ [0x00, 0x0F, 0x1F, 0x6E, 0x6F, 0x67, 0x7F] ∨ 0x2A ≤ opOf w ∧ opOf w ≤ 0x2F ∨ 0x43 ≤ opOf w ∧ opOf w ≤ 0x4F ∨ 0x5C ≤ opOf w ∧ opOf w ≤ 0x5F ∨
    0x71 ≤ opOf w ∧ opOf w ≤ 0x77) → ∀ i, decodeWord w ≠ .ok i

/-- The current group is about to take the word `w`, which decodes to `i`: it runs, it is its turn at the control port, no late result, prefix or running loop stands in the
way, the fetch succeeds, giving `f`, and the checks of 07 R200 up to its own and the stalls of 01 R23 let it pass. -/
def Sys2Proof.Claim.takes (s : State) (w : Word32) (i : Instr) (f : State) : Prop :=
  s.g.controlReady = true ∧ s.turn s.g 0 = true ∧ s.reclaimable = false ∧ s.g.late = [] ∧ s.g.lateUnits = [] ∧ s.g.pfx = [] ∧ s.g.loop = false ∧
  ({ s.served 0 with port := false, vp := none, g := { s.g with cwait := none } } : State).fetchWord s.g.pc = .ok (w, f) ∧ decodeWord w = .ok i ∧
  f.g = { s.g with cwait := none, fbuf := f.g.fbuf } ∧ f.budgetOk i = true ∧ (∀ r, capA i = some r → r ≤ 31) ∧ (∀ r, capX i = some r → r ≤ 31) ∧
  (0x7A ≤ opOf w → opOf w ≤ 0x7D → f.t.priv = true) ∧ ({ f with u := f.capture w i } : State).awaitsViq i = false
/-- The step that follows a choice made in `q`: the outcome of the choice, then the decisions that fall due, what the groups that the
step has moved have seen of atomics, and one tick of the clocks. -/
def Sys2Proof.Claim.after (q : State) (o : Host.Outcome State Fault Refusal) : Host.Outcome State Fault Refusal :=
  match o with
  | .next t => .next (t.decideAll.seenSince q).tick
  | o => o
/-- A control thread that goes on waiting has not been served: it is its turn still. -/
def Sys2Proof.Claim.waited (r t : State) : State := if t.g.id = r.g.id ∧ t.g.cwait.isSome = true then { t with turns := r.turns } else t

/-- A step runs the instruction that the word at the program counter decodes to, with the program counter past it (01 R21, 01 R22, 01 R25, 04 R134, 07
R186, 07 R200). The order of moves that an agenda names, and the one where it is empty (log entry 4), the tick of the clocks (log entry 11), that a
unit takes one step (log entry 12), what of a block the fetch buffer serves (log entry 19) and which entry of a VIQ may pass one that waits (log entry
66) are the model's choice. -/
def Obligations.StepRunsTheDecodedInstruction : Prop :=
  (∀ (s q : State) (g : Nat) (w : Word32) (i : Instr) (f : State), s.choice = (.control g, q) → Claim.takes (q.focus g) w i f →
    (clsOf i = .ctl ∨ clsOf i = .drain ∧ f.g.viq = []) →
    let p : State := { f with
      u := f.capture w i
      g := { f.g with
        pc := f.g.pc + 4
        ran := f.g.pc + 4
        pfx := []
        seq := (f.capture w i).seq + 1 } }
    step s = Claim.after q (match exec i p with
      | .next t => .next (Claim.waited (q.focus g) (if (q.focus g).backward t then t.reclaim else p.afterUnit t i))
      | o => o)) ∧
  (∀ (s q : State) (g : Nat) (w : Word32) (i : Instr) (f : State), s.choice = (.unit g, q) → Claim.takes (q.focus g) w i f →
    (clsOf i = .vec ∨ clsOf i = .mem) → (q.focus g).g.viq = [] → f.g.viq = [] → f.g.vps = [] → (opOf w = 0x21 → (f.capture w i).opA.toNat % 4 = 0) →
    (∀ a, i ≠ .fret a) → (∀ a, i ≠ .lfree a) →
    let e : State := { f with
      u := f.capture w i
      g := { f.g with
        pc := f.g.pc + 4
        ran := f.g.pc + 4
        pfx := []
        seq := (f.capture w i).seq + 1
        lfree := false
        viq := [f.capture w i] } }
    e.turn e.g e.portOf = true →
    let p : State := { e.served e.portOf with
      port := true
      vp := none
      g := { e.g with
        pwait := none
        viq := [] } }
    step s = Claim.after q (match State.entry exec i p with
      | .next t => .next (if t.g.id = e.g.id ∧ t.g.pwait.isSome = true then { t with turns := e.turns } else t)
      | o => o)) ∧
  (∀ (s : State) (i : Instr), s.vp = none → s.g.shades = [] → laOf i = 0 → s.u.dead = false →
    State.entry exec i s = match exec i s with
      | .next t => .next { t with port := false }
      | o => o) ∧
  (∀ (s q : State) (va : Word) (pa : Nat), s.g.fbuf = [] → s.place s.agent .fetch va 4 4 = .ok (.hbm pa, q) → pa % 32 = va.toNat % 32 → va.toNat % 4 = 0 →
    ∃ t, s.fetchWord va = .ok (BitVec.ofNat 32 (q.hbm.num pa 4), t) ∧ t.hbm = q.hbm) ∧
  (∀ (s q : State) (i : Instr) (e : EvArgs), s.choice = (.event i e, q) → agendaEvent i = true → step s = Claim.after q (exec i { q with ev := e })) ∧
  ∀ (i : Instr) (s : State), aibLegal i = true → aibExec i s = exec i s

/-- The control thread takes illegal-instruction for a word that stands for none, and privileged-instruction for eret, halt, tlbinv and stest of a user group (07 R199, 07 R200, 15 R363). -/
def Obligations.PrivilegedAndIllegalWords : Prop :=
  ∀ (s q f : State) (g : Nat) (w : Word32), s.choice = (.control g, q) → let r := q.focus g
    r.g.controlReady = true → r.turn r.g 0 = true → r.reclaimable = false → r.g.late = [] → r.g.pfx = [] → r.g.loop = false →
    ({ r.served 0 with port := false, vp := none, g := { r.g with cwait := none } } : State).fetchWord r.g.pc = .ok (w, f) → f.g = { r.g with cwait := none, fbuf := f.g.fbuf } → f.t = r.t →
    (((∃ e, decodeWord w = .error e) ∨ ∃ i, decodeWord w = .ok i ∧ clsOf i = .aib) →
      step s = Claim.after q (.next (Claim.waited r (({ f with u := { addr := r.g.pc, ipc := r.g.pc, word := w, seq := r.g.seq } } : State).raiseTrap { cause := 0x01, vcp := some r.g.pc })))) ∧
    (∀ i, decodeWord w = .ok i → 0x7A ≤ opOf w → opOf w ≤ 0x7D → r.t.priv = false → 
      step s = Claim.after q (.next (Claim.waited r (({ f with u := f.capture w i } : State).raiseTrap { cause := 0x02 }))))

/-- Every step keeps global memory, the weight stores and every scratch in their one canonical form (00 R6, 04 R101, 04 R102, 04 R103). -/
def Obligations.MemoriesStayCanonical : Prop :=
  ∀ s t : State, Safety.memories s → step s = .next t → Safety.memories t

/-- After reset no group, team, task or translation exists, every die has its reset budget and limit, and every memory is in canonical form (16 R384, 16
R439, 17 R409, 18 R417, 18 R422, 18 R431, 18 R432). That a byte that nothing has written reads 0 (log entry 2), and that the eight dies are one
partition (log entry 3), is the model's choice. -/
def Obligations.ResetState : Prop :=
  Safety.memories State.reset ∧ State.reset.allGroups = [] ∧ State.reset.allTeams = [] ∧ State.reset.tasks = [] ∧ State.reset.graphs = [] ∧ State.reset.ops = [] ∧
  State.reset.tlb = [] ∧ State.reset.keys = [] ∧ State.reset.msgs = [] ∧ State.reset.dies.length = 8 ∧
  (∀ d, d < 8 → (State.reset.dieAt d).budget = 1000 ∧ (State.reset.dieAt d).tlimit = 95 ∧ (State.reset.dieAt d).temp = none ∧ (State.reset.dieAt d).cands = [] ∧ State.reset.used d = 0) ∧
  State.reset.nodeId = 0xFFFFF#20 ∧ State.reset.nodeSet = false ∧ State.reset.enrolled = false ∧ (∀ p, (State.reset.prt p).logBase = none) ∧
  (∀ a, State.reset.hbm.read a = 0) ∧ State.reset.nparts = 1

/-- Element-wise vector arithmetic, logic, shifts, dot products and element indices deliver their results to the active elements (09 R245, 09 R246, 09 R247, 09 R248, 09 R239, 09 R243, 03 R83, 11 R335, 03 R69, 08 R238). -/
def Obligations.ElementArithmetic : Prop :=
  (∀ (s : State) (d a b' : VName) (b : BOp) (t : Ty) (p : Bool) (la : BitVec 3) (rs : List Nat), Claim.bRegs s b rs →
    let w := t.bits
    let x := fun e => s.opEl a.toNat w e
    let put := fun (f : Nat → Res) => s.putRes d.toNat w (s.actives.map fun e => (e, f e))
    (∀ o ∈ Claim.vops, t ≠ .i64 → t ≠ .f64 → (o.2.2 = true → t.isInt = true) → Claim.ready s w (a.toNat :: d.toNat :: rs) →
      exec (o.1 d a b t p) s = .next (put fun e => o.2.1.run t p s.u.rm (x e) (s.bEl b w e))) ∧
    (∀ o ∈ Claim.vops, (t = .i64 ∨ t = .f64 ∨ (o.2.2 = true ∧ t.isInt = false)) →
      exec (o.1 d a b t p) s = .next (s.raiseTrap { cause := 0x01 })) ∧
    (t ≠ .i64 → t ≠ .f64 →
      (Claim.ready s w [a.toNat, b'.toNat, d.toNat] →
        exec (.vdiv d a b' t p la) s = .next (put fun e => BinOp.div.run t p s.u.rm (x e) (s.opEl b'.toNat w e))) ∧
      (Claim.ready s w (a.toNat :: d.toNat :: rs) →
        exec (.vmac d a b t p) s = .next (put fun e => macRun t p s.u.rm (x e) (s.bEl b w e) (s.opEl d.toNat w e))) ∧
      (Claim.ready s w [a.toNat, d.toNat] →
        exec (.vabs d a t p) s = .next (put fun e => unRun t (absEval t) (x e)) ∧
        exec (.vneg d a t p) s = .next (put fun e => unRun t (negEval t) (x e)) ∧
        exec (.vnot d a t p) s = .next (put fun e => unRun t (fun y => ⟨2 ^ w - 1 - y, {}, false⟩) (x e))))) ∧
  (∀ (s : State) (d a : VName) (b : BOp) (p : Bool) (rs : List Nat), Claim.bRegs s b rs → s.vp = none →
    Claim.ready s 32 (a.toNat :: d.toNat :: rs) →
    let one := fun e =>
      let x := s.el a.toNat 32 e
      let y := s.bEl b 32 e
      let z := s.el d.toNat 32 e
      let pairs := (List.range 4).map fun i => (getEl 8 x i, getEl 8 y i)
      let good := pairs.filter fun q => decide (q.1 ≠ 128) && decide (q.2 ≠ 128)
      let zAbs := decide (z = 2 ^ 31)
      let ab := decide (good.length ≠ 4) || zAbs
      let sum := satInt 32 ((if zAbs then 0 else sextNat 32 z) + (good.map fun q => sextNat 8 q.1 * sextNat 8 q.2).sum)
      let none_ := if p then decide (good = []) && zAbs else ab
      ({ bits := if none_ then 2 ^ 31 else sum.bits, fl := { abs := ab }, vo := !none_ && sum.vo } : Res)
    exec (.vdot4X d a b p) s = .next (s.putRes d.toNat 32 (s.active.map fun e => (e, one e)))) ∧
  (∀ (s : State) (d : VName) (a : BitVec 6) (t : Ty),
    (t ≠ .i16 → t ≠ .i32 → exec (.vid d a t) s = .next (s.raiseTrap { cause := 0x01 })) ∧
    ((t = .i16 ∨ t = .i32) →
      (s.vp = none → Claim.ready s t.bits [d.toNat] →
        exec (.vid d a t) s = .next (s.putRes d.toNat t.bits (s.actives.map fun e => (e, satInt t.bits (s.u.opA.toInt + e))))) ∧
      (∀ v, s.vp = some v → Claim.ready s t.bits [a.toNat, d.toNat] →
        exec (.vid d a t) s = .next (s.putRes d.toNat t.bits (s.actives.map fun e =>
          (e, let x := s.opEl a.toNat t.bits e
              if t.isAbsent x then ⟨t.absentCode, { abs := true }, false⟩ else satInt t.bits (sextNat t.bits x + v)))))))
end

