-- ==== Sys2Proof/Laws/Memory.lean ====
section
/-! SUPPORT. Banks of registers and byte memories: reading back what was written, what a write leaves alone, and that every
memory operation keeps the canonical form. -/

namespace Sys2Proof

/-- Reading a bank after a write: the written cell holds the value, and every other cell what it held. -/
@[simp] theorem Bank.get_set {α : Type} (d : α) (b : Bank α) (n m : Nat) (v : α) :
    Bank.get d (Bank.set d b n v) m = if m = n then v else Bank.get d b m := by
  induction n generalizing b m with
  | zero => cases b <;> cases m <;> simp [Bank.set, Bank.get]
  | succ n ih =>
    cases b with
    | nil =>
      cases m with
      | zero => simp [Bank.set, Bank.get]
      | succ m => simpa [Bank.set, Bank.get] using ih [] m
    | cons x xs =>
      cases m with
      | zero => simp [Bank.set, Bank.get]
      | succ m => simpa [Bank.set, Bank.get] using ih xs m

@[simp] theorem Bank.get_nil {α : Type} (d : α) (n : Nat) : Bank.get d [] n = d := by simp [Bank.get]

namespace Machine

@[simp] theorem Memory.read_nil (x : Nat) : Memory.read [] x = Memory.unlisted := rfl

/-- A canonical memory above `lo` is canonical above anything lower. -/
theorem Memory.wfFrom_mono {lo lo' : Nat} {m : Memory} (h : lo' ≤ lo) (w : Memory.wfFrom lo m = true) :
    Memory.wfFrom lo' m = true := by
  cases m with
  | nil => rfl
  | cons c m =>
    obtain ⟨a, b⟩ := c
    simp only [Memory.wfFrom, Bool.and_eq_true, decide_eq_true_eq] at w ⊢
    exact ⟨⟨by omega, w.1.2⟩, w.2⟩

/-- What lies below a canonical memory reads as unlisted. -/
theorem Memory.read_below {lo x : Nat} {m : Memory} (w : Memory.wfFrom lo m = true) (h : x < lo) :
    m.read x = Memory.unlisted := by
  induction m generalizing lo with
  | nil => rfl
  | cons c m ih =>
    obtain ⟨a, b⟩ := c
    simp only [Memory.wfFrom, Bool.and_eq_true, decide_eq_true_eq] at w
    have : x ≠ a := by omega
    simp only [Memory.read, this, if_false]
    exact ih w.2 (by omega)

theorem Memory.wfFrom_write {lo x : Nat} {v : Byte} {m : Memory} (w : Memory.wfFrom lo m = true) (h : lo ≤ x) :
    Memory.wfFrom lo (m.write x v) = true := by
  induction m generalizing lo with
  | nil => unfold Memory.write; split <;> simp_all [Memory.wfFrom]
  | cons c m ih =>
    obtain ⟨a, b⟩ := c
    have w' := w
    simp only [Memory.wfFrom, Bool.and_eq_true, decide_eq_true_eq] at w'
    obtain ⟨⟨h1, h2⟩, h3⟩ := w'
    unfold Memory.write
    split
    · split
      · exact w
      · simp_all [Memory.wfFrom]
    · split
      · split
        · exact Memory.wfFrom_mono (by omega) h3
        · simp_all [Memory.wfFrom]
      · simp only [Memory.wfFrom, Bool.and_eq_true, decide_eq_true_eq]
        exact ⟨⟨h1, h2⟩, ih h3 (by omega)⟩

/-- A write of one byte keeps the canonical form. -/
theorem Memory.wf_write {m : Memory} (x : Nat) (v : Byte) (w : m.wf = true) : (m.write x v).wf = true :=
  Memory.wfFrom_write w (Nat.zero_le x)

theorem Memory.read_write_from {lo : Nat} {m : Memory} (x y : Nat) (v : Byte) (w : Memory.wfFrom lo m = true) :
    (m.write x v).read y = if y = x then v else m.read y := by
  induction m generalizing lo with
  | nil =>
    unfold Memory.write
    split
    · simp_all [Memory.read]
    · simp [Memory.read]
  | cons c m ih =>
    obtain ⟨a, b⟩ := c
    simp only [Memory.wfFrom, Bool.and_eq_true, decide_eq_true_eq] at w
    have ih := ih w.2
    unfold Memory.write
    split
    · rename_i hx
      split
      · rename_i hv
        by_cases hy : y = x
        · subst hy
          have : y ≠ a := by omega
          simp [Memory.read, this, hv, Memory.read_below w.2 (show y < a + 1 by omega)]
        · simp [hy]
      · simp [Memory.read]
    · split
      · rename_i h1 hxa
        subst hxa
        split
        · rename_i hv
          by_cases hy : y = x
          · subst hy; simp [hv, Memory.read_below w.2 (show y < y + 1 by omega)]
          · simp [Memory.read, hy]
        · by_cases hy : y = x <;> simp [Memory.read, hy]
      · simp only [Memory.read, ih]
        by_cases hy : y = a
        · subst hy
          rename_i h1 h2
          have : y ≠ x := fun h => h2 h.symm
          simp [this]
        · simp [hy]

/-- Reading back one byte after a write: the byte written there, and what stood there elsewhere. -/
theorem Memory.read_write {m : Memory} (x y : Nat) (v : Byte) (w : m.wf = true) :
    (m.write x v).read y = if y = x then v else m.read y := Memory.read_write_from x y v w

/-- A store of several bytes keeps the canonical form. -/
theorem Memory.wf_store {m : Memory} (bs : List Byte) (a : Nat) (w : m.wf = true) : (m.store a bs).wf = true := by
  induction bs generalizing m a with
  | nil => exact w
  | cons b bs ih => exact ih (a + 1) (Memory.wf_write a b w)

/-- Reading one byte after a store. -/
theorem Memory.read_store {m : Memory} (bs : List Byte) (a y : Nat) (w : m.wf = true) :
    (m.store a bs).read y = if a ≤ y ∧ y < a + bs.length then bs.getD (y - a) 0 else m.read y := by
  induction bs generalizing m a with
  | nil => simp [Memory.store]
  | cons b bs ih =>
    simp only [Memory.store]
    rw [ih (a + 1) (Memory.wf_write a b w), Memory.read_write a y b w]
    by_cases h : y = a
    · subst h; simp
    · by_cases h2 : a ≤ y
      · have e : y - a = (y - (a + 1)) + 1 := by omega
        rw [e]
        simp only [List.length_cons, List.getD_cons_succ, if_neg h]
        by_cases h3 : y < a + 1 + bs.length
        · rw [if_pos (by omega), if_pos (by omega)]
        · rw [if_neg (by omega), if_neg (by omega)]
      · rw [if_neg (by omega), if_neg h, if_neg (by omega)]

theorem Memory.wfFrom_filter {lo : Nat} {m : Memory} (p : Host.Cell → Bool) (w : Memory.wfFrom lo m = true) :
    Memory.wfFrom lo (m.filter p) = true := by
  induction m generalizing lo with
  | nil => rfl
  | cons c m ih =>
    obtain ⟨a, b⟩ := c
    simp only [Memory.wfFrom, Bool.and_eq_true, decide_eq_true_eq] at w
    simp only [List.filter_cons]
    split
    · simp only [Memory.wfFrom, Bool.and_eq_true, decide_eq_true_eq]
      exact ⟨w.1, ih w.2⟩
    · exact Memory.wfFrom_mono (by omega) (ih w.2)

/-- Clearing a range keeps the canonical form. -/
theorem Memory.wf_clear {m : Memory} (a n : Nat) (w : m.wf = true) : (m.clear a n).wf = true := Memory.wfFrom_filter _ w

/-- Reading one byte after a range was cleared. -/
theorem Memory.read_clear (m : Memory) (a n y : Nat) :
    (m.clear a n).read y = if a ≤ y ∧ y < a + n then 0 else m.read y := by
  induction m with
  | nil => simp [Memory.clear, Memory.read, Memory.unlisted]
  | cons c m ih =>
    obtain ⟨x, b⟩ := c
    simp only [Memory.clear, List.filter_cons] at ih ⊢
    by_cases hx : a ≤ x ∧ x < a + n
    · simp only [hx, decide_true, Bool.and_self, Bool.not_true, Bool.false_eq_true, if_false, ih, Memory.read]
      by_cases hy : y = x
      · subst hy; simp [hx]
      · simp [hy]
    · have : (!(decide (a ≤ x) && decide (x < a + n))) = true := by
        rcases Nat.lt_or_ge x a with h | h
        · simp [Nat.not_le.mpr h]
        · simp [Nat.not_lt.mpr (show a + n ≤ x by omega)]
      simp only [this, if_true, Memory.read]
      by_cases hy : y = x
      · subst hy; simp [hx]
      · simp only [hy, if_false]; exact ih

@[simp] theorem Memory.wf_nil : Memory.wf [] = true := rfl
@[simp] theorem natLe_length (n x : Nat) : (natLe n x).length = n := by
  induction n generalizing x with
  | zero => rfl
  | succ n ih => simp [natLe, ih]

/-- The bytes of a number hold its low bits. -/
theorem leNat_natLe (n x : Nat) : leNat (natLe n x) = x % 256 ^ n := by
  induction n generalizing x with
  | zero => simp [natLe, leNat, Nat.mod_one]
  | succ n ih =>
    simp only [natLe, leNat, ih, BitVec.toNat_ofNat]
    rw [show (256 : Nat) ^ (n + 1) = 256 * 256 ^ n by rw [Nat.pow_succ, Nat.mul_comm], Nat.mod_mul]

theorem leNat_lt (l : List Byte) : leNat l < 256 ^ l.length := by
  induction l with
  | nil => simp [leNat]
  | cons b l ih => simp only [leNat, List.length_cons, Nat.pow_succ]; have := b.isLt; omega

@[simp] theorem Memory.bytes_length (m : Memory) (a n : Nat) : (m.bytes a n).length = n := by simp [Memory.bytes]

/-- What a store wrote is what the same range reads. -/
theorem Memory.bytes_store {m : Memory} (bs : List Byte) (a : Nat) (w : m.wf = true) :
    (m.store a bs).bytes a bs.length = bs := by
  apply List.ext_getElem
  · simp
  · intro i h1 h2
    have hi : i < bs.length := by simpa using h1
    simp [Memory.bytes, Memory.read_store bs a _ w, hi]

end Machine

end Sys2Proof
end

