-- ==== Sys2Proof/Laws/Caches.lean ====
section
/-! SUPPORT. What the shared operations on caches and on a distributor's choices can do: a line that leaves or enters an L2
changes no other line of memory, a use of a leaf changes the bytes of its entry only, and a choice is one of the things offered. -/

namespace Sys2Proof.Machine

/-- Two states differ in what is known of lines, and in the bytes of line `l` alone. -/
structure State.SameBut (s q : State) (l : Nat) : Prop where
  frame : q = { s with lkeys := q.lkeys, ekeys := q.ekeys, veils := q.veils, fresh := q.fresh, hbm := q.hbm }
  wf : s.hbm.wf = true → q.hbm.wf = true
  read : s.hbm.wf = true → ∀ x, x / 128 ≠ l → q.hbm.read x = s.hbm.read x

theorem State.SameBut.refl (s : State) (l : Nat) : s.SameBut s l := ⟨rfl, id, fun _ _ _ => rfl⟩

theorem State.SameBut.trans {s p q : State} {l : Nat} (h : s.SameBut p l) (k : p.SameBut q l) : s.SameBut q l :=
  ⟨by rw [k.frame, h.frame], fun w => k.wf (h.wf w), fun w x hx => (k.read (h.wf w) x hx).trans (h.read w x hx)⟩

/-- Bytes stored within a line change no other line. -/
theorem Memory.read_store_line {m : Memory} (bs : List Byte) (b l x : Nat) (w : m.wf = true) (hb : b / 8 = l) (hl : bs.length ≤ 16)
    (hx : x / 128 ≠ l) : (m.store (16 * b) bs).read x = m.read x := by
  rw [Memory.read_store _ _ _ w, if_neg]
  omega

/-- A line written back changes no other line (17 R414). -/
theorem State.writeBack_same (s : State) (l k : Nat) : s.SameBut (s.writeBack l k) l := by
  unfold State.writeBack
  split
  · exact .refl s l
  · next p _ =>
    dsimp only
    generalize hk : s.veils.filter (fun v => decide (v.block / 8 = l) && decide (s.hbm.bytes (16 * v.block) 16 = v.seen)) = kept
    have hl : ∀ v ∈ kept, v.block / 8 = l := by
      intro v hv
      rw [← hk, List.mem_filter, Bool.and_eq_true, decide_eq_true_eq] at hv
      exact hv.2.1
    clear hk
    suffices h : ∀ q : State, s.SameBut q l → s.SameBut (kept.foldl (fun q v => match s.blockKey v.block with
        | some p => { q.setKeys v.block 1 p with hbm := q.hbm.store (16 * v.block) (v.held.take 16) }
        | none => q) q) l from h _ ⟨rfl, id, fun _ _ _ => rfl⟩
    induction kept with
    | nil => exact fun q h => h
    | cons v r ih =>
      intro q h
      rw [List.foldl_cons]
      refine ih (fun v hv => hl v (List.mem_cons_of_mem _ hv)) _ (h.trans ?_)
      split
      · refine ⟨rfl, fun w => Memory.wf_store _ _ w, fun w x hx => ?_⟩
        exact Memory.read_store_line _ _ _ _ w (hl v (List.mem_cons_self ..)) (by rw [List.length_take]; omega) hx
      · exact .refl q l

/-- A line that leaves the caches changes no other line. -/
theorem State.evict_same (s : State) (l : Nat) : s.SameBut (s.evict l) l := by
  unfold State.evict
  split
  · exact .refl s l
  · next k _ =>
    obtain ⟨h, w, r⟩ := s.writeBack_same l k
    exact ⟨by rw [h], w, r⟩

/-- A line that enters an L2 changes no other line (17 R414). -/
theorem State.fill_same (s : State) (l k : Nat) : s.SameBut (s.fill l k) l := by
  unfold State.fill
  split
  · exact .refl s l
  · dsimp only
    split
    · exact ⟨rfl, id, fun _ _ _ => rfl⟩
    · generalize hk : (((List.range 8).map fun i => 8 * l + i).filter fun b => !s.deciphers k b) = bad
      have hl : ∀ b ∈ bad, b / 8 = l := by
        intro b hb
        rw [← hk, List.mem_filter, List.mem_map] at hb
        obtain ⟨⟨i, hi, rfl⟩, -⟩ := hb
        have := List.mem_range.mp hi
        omega
      clear hk
      suffices h : s.hbm.wf = true → ∀ f : Nat → List Byte, (∀ b, (f b).length = 16) →
          (bad.foldl (fun m b => m.store (16 * b) (f b)) s.hbm).wf = true ∧
          ∀ x, x / 128 ≠ l → (bad.foldl (fun m b => m.store (16 * b) (f b)) s.hbm).read x = s.hbm.read x from
        ⟨rfl, fun w => (h w _ (fun b => by rw [List.length_map, List.length_range])).1,
          fun w => (h w _ (fun b => by rw [List.length_map, List.length_range])).2⟩
      intro w f hf
      generalize s.hbm = m at w ⊢
      induction bad generalizing m with
      | nil => exact ⟨w, fun _ _ => rfl⟩
      | cons b r ih =>
        rw [List.foldl_cons]
        obtain ⟨h1, h2⟩ := ih (fun b hb => hl b (List.mem_cons_of_mem _ hb)) _ (Memory.wf_store (f b) (16 * b) w)
        exact ⟨h1, fun x hx => (h2 x hx).trans
          (Memory.read_store_line _ _ _ _ w (hl b (List.mem_cons_self ..)) (Nat.le_of_eq (hf b)) hx)⟩

/-- A line that can be held under a key slot is so in a state that differs in what is known of lines and in that line alone. -/
theorem State.lineUnder_same {s q : State} {l k : Nat} (h : s.lineUnder l k = some q) : s.SameBut q l := by
  unfold State.lineUnder at h
  split at h
  · split at h
    · cases h; exact .refl s l
    · dsimp only at h
      split at h
      · cases h
      · cases h
        have f : s.SameBut s.free.2 l := ⟨rfl, id, fun _ _ _ => rfl⟩
        exact (f.trans (s.free.2.evict_same l)).trans (State.fill_same _ l k)
  · cases h
    exact s.fill_same l k

/-- A choice of a distributor is one of what it may take, and changes `pick` alone (16 R437). -/
theorem State.choose_spec {α : Type} {s q : State} {l : List α} {x : α} (h : s.choose l = some (x, q)) :
    x ∈ l ∧ q = { s with pick := q.pick } := by
  unfold State.choose at h
  obtain ⟨y, hy, he⟩ := Option.map_eq_some_iff.mp h
  cases he
  exact ⟨List.mem_of_getElem? hy, rfl⟩

end Sys2Proof.Machine
end

