-- ==== Sys2Proof/Laws/Decode.lean ====
section
/-! SUPPORT. Words and fields: splitting a joined word gives the fields back, and each field reader accepts what the
encoder writes. -/

namespace Sys2Proof

/-- Splitting a word that was joined from fields gives the fields. -/
@[simp] theorem Fields.ofWord_toWord (f : Fields) : Fields.ofWord f.toWord = f := by
  obtain ⟨op, d, a, b, t, fn⟩ := f
  simp only [Fields.ofWord, Fields.toWord, Fields.mk.injEq]
  refine ⟨?_, ?_, ?_, ?_, ?_, ?_⟩ <;>
    · apply BitVec.eq_of_getLsbD_eq
      intro i hi
      simp only [BitVec.getLsbD_extractLsb', BitVec.getLsbD_append]
      interval_cases i <;> simp

/-- Joining the fields of a word gives the word. -/
@[simp] theorem Fields.toWord_ofWord (w : Word32) : (Fields.ofWord w).toWord = w := by
  simp only [Fields.ofWord, Fields.toWord]
  apply BitVec.eq_of_getLsbD_eq
  intro i hi
  simp only [BitVec.getLsbD_extractLsb', BitVec.getLsbD_append]
  interval_cases i <;> simp

@[simp] theorem rC_zeroExtend (r : CReg) (k : CReg → Decoded) : rC (r.zeroExtend 6) k = k r := by
  have h : (r.zeroExtend 6).toNat = r.toNat := by simp; omega
  have e : (r.zeroExtend 6).truncate 5 = r := by
    apply BitVec.eq_of_toNat_eq; simp
  unfold rC
  rw [h, if_pos r.isLt, e]

@[simp] theorem rJ_zeroExtend (r : JReg) (k : JReg → Decoded) : rJ (r.zeroExtend 6) k = k r := by
  have h : (r.zeroExtend 6).toNat = r.toNat := by simp; omega
  have e : (r.zeroExtend 6).truncate 3 = r := by
    apply BitVec.eq_of_toNat_eq; simp
  unfold rJ
  rw [h, if_pos r.isLt, e]

@[simp] theorem rB_field (b : BOp) (k : BOp → Decoded) : rB b.isC b.field k = k b := by
  cases b with
  | v r => rfl
  | c r => exact rC_zeroExtend r (fun c => k (.c c))

@[simp] theorem rM_field (m : MaskSel) (k : MaskSel → Decoded) : rM m.field k = k m := by
  cases m with
  | vm => rfl
  | vo => rfl
  | j r => obtain ⟨r⟩ := r; fin_cases r <;> rfl

@[simp] theorem rS_code (x : Scope) (k : Scope → Decoded) : rS x.code k = k x := by cases x <;> rfl
@[simp] theorem rH_code (x : Hint) (k : Hint → Decoded) : rH x.code k = k x := by cases x <;> rfl
@[simp] theorem Ty.ofCode_code (t : Ty) : Ty.ofCode t.code = t := by cases t <;> rfl
@[simp] theorem Sz.ofCode_code (z : Sz) : Sz.ofCode z.code = z := by cases z <;> rfl
theorem Ty.code_ofCode (x : BitVec 3) : (Ty.ofCode x).code = x := by obtain ⟨x⟩ := x; fin_cases x <;> rfl
theorem Sz.code_ofCode (x : BitVec 2) : (Sz.ofCode x).code = x := by obtain ⟨x⟩ := x; fin_cases x <;> rfl

@[simp] theorem res_true (p : Prop) [Decidable p] (k : Decoded) (h : p) : res p k = k := by simp [res, h]

/-- A 13-bit field is the join of the fields it covers. -/
@[simp] theorem join13 (x : BitVec 13) : x.extractLsb' 7 6 ++ x.extractLsb' 4 3 ++ x.extractLsb' 0 4 = x := by
  apply BitVec.eq_of_getLsbD_eq
  intro i hi
  simp only [BitVec.getLsbD_extractLsb', BitVec.getLsbD_append]
  interval_cases i <;> simp

/-- A 19-bit field is the join of the fields it covers. -/
@[simp] theorem join19 (x : BitVec 19) :
    x.extractLsb' 13 6 ++ x.extractLsb' 7 6 ++ x.extractLsb' 4 3 ++ x.extractLsb' 0 4 = x := by
  apply BitVec.eq_of_getLsbD_eq
  intro i hi
  simp only [BitVec.getLsbD_extractLsb', BitVec.getLsbD_append]
  interval_cases i <;> simp

end Sys2Proof
end

