-- ==== Sys2Proof/Laws/PerInstr.lean ====
section
/-! SUPPORT. Facts about every constructor of `Instr`, one lemma each. Family `Kind`: a step has no instruction word exactly
when it has no issue class (95_what_each_step_holds.md; 01 R21). -/

open Sys2Proof Sys2Proof.Machine

def Sys2Proof.Laws.Kind.Statement (i : Instr) : Prop := i.hasWord = false ↔ clsOf i = .event

theorem Sys2Proof.Laws.Kind.add (d : CReg) (a : CReg) (b : CReg) : Sys2Proof.Laws.Kind.Statement (.add d a b) := iff_of_false Bool.noConfusion Cls.noConfusion
theorem Sys2Proof.Laws.Kind.sub (d : CReg) (a : CReg) (b : CReg) : Sys2Proof.Laws.Kind.Statement (.sub d a b) := iff_of_false Bool.noConfusion Cls.noConfusion
theorem Sys2Proof.Laws.Kind.mul (d : CReg) (a : CReg) (b : CReg) : Sys2Proof.Laws.Kind.Statement (.mul d a b) := iff_of_false Bool.noConfusion Cls.noConfusion
theorem Sys2Proof.Laws.Kind.mulh (d : CReg) (a : CReg) (b : CReg) : Sys2Proof.Laws.Kind.Statement (.mulh d a b) := iff_of_false Bool.noConfusion Cls.noConfusion
theorem Sys2Proof.Laws.Kind.mulhu (d : CReg) (a : CReg) (b : CReg) : Sys2Proof.Laws.Kind.Statement (.mulhu d a b) := iff_of_false Bool.noConfusion Cls.noConfusion
theorem Sys2Proof.Laws.Kind.and (d : CReg) (a : CReg) (b : CReg) : Sys2Proof.Laws.Kind.Statement (.and d a b) := iff_of_false Bool.noConfusion Cls.noConfusion
theorem Sys2Proof.Laws.Kind.or (d : CReg) (a : CReg) (b : CReg) : Sys2Proof.Laws.Kind.Statement (.or d a b) := iff_of_false Bool.noConfusion Cls.noConfusion
theorem Sys2Proof.Laws.Kind.xor (d : CReg) (a : CReg) (b : CReg) : Sys2Proof.Laws.Kind.Statement (.xor d a b) := iff_of_false Bool.noConfusion Cls.noConfusion
theorem Sys2Proof.Laws.Kind.sll (d : CReg) (a : CReg) (b : CReg) : Sys2Proof.Laws.Kind.Statement (.sll d a b) := iff_of_false Bool.noConfusion Cls.noConfusion
theorem Sys2Proof.Laws.Kind.srl (d : CReg) (a : CReg) (b : CReg) : Sys2Proof.Laws.Kind.Statement (.srl d a b) := iff_of_false Bool.noConfusion Cls.noConfusion
theorem Sys2Proof.Laws.Kind.sra (d : CReg) (a : CReg) (b : CReg) : Sys2Proof.Laws.Kind.Statement (.sra d a b) := iff_of_false Bool.noConfusion Cls.noConfusion
theorem Sys2Proof.Laws.Kind.slt (d : CReg) (a : CReg) (b : CReg) : Sys2Proof.Laws.Kind.Statement (.slt d a b) := iff_of_false Bool.noConfusion Cls.noConfusion
theorem Sys2Proof.Laws.Kind.sltu (d : CReg) (a : CReg) (b : CReg) : Sys2Proof.Laws.Kind.Statement (.sltu d a b) := iff_of_false Bool.noConfusion Cls.noConfusion
theorem Sys2Proof.Laws.Kind.min (d : CReg) (a : CReg) (b : CReg) : Sys2Proof.Laws.Kind.Statement (.min d a b) := iff_of_false Bool.noConfusion Cls.noConfusion
theorem Sys2Proof.Laws.Kind.max (d : CReg) (a : CReg) (b : CReg) : Sys2Proof.Laws.Kind.Statement (.max d a b) := iff_of_false Bool.noConfusion Cls.noConfusion
theorem Sys2Proof.Laws.Kind.div (d : CReg) (a : CReg) (b : CReg) (la : BitVec 4) : Sys2Proof.Laws.Kind.Statement (.div d a b la) := iff_of_false Bool.noConfusion Cls.noConfusion
theorem Sys2Proof.Laws.Kind.divu (d : CReg) (a : CReg) (b : CReg) (la : BitVec 4) : Sys2Proof.Laws.Kind.Statement (.divu d a b la) := iff_of_false Bool.noConfusion Cls.noConfusion
theorem Sys2Proof.Laws.Kind.rem (d : CReg) (a : CReg) (b : CReg) (la : BitVec 4) : Sys2Proof.Laws.Kind.Statement (.rem d a b la) := iff_of_false Bool.noConfusion Cls.noConfusion
theorem Sys2Proof.Laws.Kind.remu (d : CReg) (a : CReg) (b : CReg) (la : BitVec 4) : Sys2Proof.Laws.Kind.Statement (.remu d a b la) := iff_of_false Bool.noConfusion Cls.noConfusion
theorem Sys2Proof.Laws.Kind.addi (d : CReg) (a : CReg) (imm : BitVec 13) : Sys2Proof.Laws.Kind.Statement (.addi d a imm) := iff_of_false Bool.noConfusion Cls.noConfusion
theorem Sys2Proof.Laws.Kind.andi (d : CReg) (a : CReg) (imm : BitVec 13) : Sys2Proof.Laws.Kind.Statement (.andi d a imm) := iff_of_false Bool.noConfusion Cls.noConfusion
theorem Sys2Proof.Laws.Kind.ori (d : CReg) (a : CReg) (imm : BitVec 13) : Sys2Proof.Laws.Kind.Statement (.ori d a imm) := iff_of_false Bool.noConfusion Cls.noConfusion
theorem Sys2Proof.Laws.Kind.xori (d : CReg) (a : CReg) (imm : BitVec 13) : Sys2Proof.Laws.Kind.Statement (.xori d a imm) := iff_of_false Bool.noConfusion Cls.noConfusion
theorem Sys2Proof.Laws.Kind.slti (d : CReg) (a : CReg) (imm : BitVec 13) : Sys2Proof.Laws.Kind.Statement (.slti d a imm) := iff_of_false Bool.noConfusion Cls.noConfusion
theorem Sys2Proof.Laws.Kind.sltiu (d : CReg) (a : CReg) (imm : BitVec 13) : Sys2Proof.Laws.Kind.Statement (.sltiu d a imm) := iff_of_false Bool.noConfusion Cls.noConfusion
theorem Sys2Proof.Laws.Kind.slli (d : CReg) (a : CReg) (n : BitVec 6) : Sys2Proof.Laws.Kind.Statement (.slli d a n) := iff_of_false Bool.noConfusion Cls.noConfusion
theorem Sys2Proof.Laws.Kind.srli (d : CReg) (a : CReg) (n : BitVec 6) : Sys2Proof.Laws.Kind.Statement (.srli d a n) := iff_of_false Bool.noConfusion Cls.noConfusion
theorem Sys2Proof.Laws.Kind.srai (d : CReg) (a : CReg) (n : BitVec 6) : Sys2Proof.Laws.Kind.Statement (.srai d a n) := iff_of_false Bool.noConfusion Cls.noConfusion
theorem Sys2Proof.Laws.Kind.lui (d : CReg) (imm : BitVec 19) : Sys2Proof.Laws.Kind.Statement (.lui d imm) := iff_of_false Bool.noConfusion Cls.noConfusion
theorem Sys2Proof.Laws.Kind.lpc (d : CReg) (imm : BitVec 19) : Sys2Proof.Laws.Kind.Statement (.lpc d imm) := iff_of_false Bool.noConfusion Cls.noConfusion
theorem Sys2Proof.Laws.Kind.ld (d : CReg) (a : CReg) (sz : Sz) (off : BitVec 7) (la : BitVec 4) : Sys2Proof.Laws.Kind.Statement (.ld d a sz off la) := iff_of_false Bool.noConfusion Cls.noConfusion
theorem Sys2Proof.Laws.Kind.ldu (d : CReg) (a : CReg) (sz : Sz) (off : BitVec 7) (la : BitVec 4) : Sys2Proof.Laws.Kind.Statement (.ldu d a sz off la) := iff_of_false Bool.noConfusion Cls.noConfusion
theorem Sys2Proof.Laws.Kind.st (d : CReg) (a : CReg) (sz : Sz) (off : BitVec 7) (la : BitVec 4) : Sys2Proof.Laws.Kind.Statement (.st d a sz off la) := iff_of_false Bool.noConfusion Cls.noConfusion
theorem Sys2Proof.Laws.Kind.beq (a : CReg) (b : CReg) (off : BitVec 13) : Sys2Proof.Laws.Kind.Statement (.beq a b off) := iff_of_false Bool.noConfusion Cls.noConfusion
theorem Sys2Proof.Laws.Kind.bne (a : CReg) (b : CReg) (off : BitVec 13) : Sys2Proof.Laws.Kind.Statement (.bne a b off) := iff_of_false Bool.noConfusion Cls.noConfusion
theorem Sys2Proof.Laws.Kind.blt (a : CReg) (b : CReg) (off : BitVec 13) : Sys2Proof.Laws.Kind.Statement (.blt a b off) := iff_of_false Bool.noConfusion Cls.noConfusion
theorem Sys2Proof.Laws.Kind.bge (a : CReg) (b : CReg) (off : BitVec 13) : Sys2Proof.Laws.Kind.Statement (.bge a b off) := iff_of_false Bool.noConfusion Cls.noConfusion
theorem Sys2Proof.Laws.Kind.bltu (a : CReg) (b : CReg) (off : BitVec 13) : Sys2Proof.Laws.Kind.Statement (.bltu a b off) := iff_of_false Bool.noConfusion Cls.noConfusion
theorem Sys2Proof.Laws.Kind.bgeu (a : CReg) (b : CReg) (off : BitVec 13) : Sys2Proof.Laws.Kind.Statement (.bgeu a b off) := iff_of_false Bool.noConfusion Cls.noConfusion
theorem Sys2Proof.Laws.Kind.jal (d : CReg) (off : BitVec 19) : Sys2Proof.Laws.Kind.Statement (.jal d off) := iff_of_false Bool.noConfusion Cls.noConfusion
theorem Sys2Proof.Laws.Kind.jalr (d : CReg) (a : CReg) (imm : BitVec 13) : Sys2Proof.Laws.Kind.Statement (.jalr d a imm) := iff_of_false Bool.noConfusion Cls.noConfusion
theorem Sys2Proof.Laws.Kind.fadd (d : CReg) (a : CReg) (b : CReg) (t : Ty) : Sys2Proof.Laws.Kind.Statement (.fadd d a b t) := iff_of_false Bool.noConfusion Cls.noConfusion
theorem Sys2Proof.Laws.Kind.fsub (d : CReg) (a : CReg) (b : CReg) (t : Ty) : Sys2Proof.Laws.Kind.Statement (.fsub d a b t) := iff_of_false Bool.noConfusion Cls.noConfusion
theorem Sys2Proof.Laws.Kind.fmul (d : CReg) (a : CReg) (b : CReg) (t : Ty) : Sys2Proof.Laws.Kind.Statement (.fmul d a b t) := iff_of_false Bool.noConfusion Cls.noConfusion
theorem Sys2Proof.Laws.Kind.fmin (d : CReg) (a : CReg) (b : CReg) (t : Ty) : Sys2Proof.Laws.Kind.Statement (.fmin d a b t) := iff_of_false Bool.noConfusion Cls.noConfusion
theorem Sys2Proof.Laws.Kind.fmax (d : CReg) (a : CReg) (b : CReg) (t : Ty) : Sys2Proof.Laws.Kind.Statement (.fmax d a b t) := iff_of_false Bool.noConfusion Cls.noConfusion
theorem Sys2Proof.Laws.Kind.fcmpEq (d : CReg) (a : CReg) (b : CReg) (t : Ty) : Sys2Proof.Laws.Kind.Statement (.fcmpEq d a b t) := iff_of_false Bool.noConfusion Cls.noConfusion
theorem Sys2Proof.Laws.Kind.fcmpLt (d : CReg) (a : CReg) (b : CReg) (t : Ty) : Sys2Proof.Laws.Kind.Statement (.fcmpLt d a b t) := iff_of_false Bool.noConfusion Cls.noConfusion
theorem Sys2Proof.Laws.Kind.fcmpLe (d : CReg) (a : CReg) (b : CReg) (t : Ty) : Sys2Proof.Laws.Kind.Statement (.fcmpLe d a b t) := iff_of_false Bool.noConfusion Cls.noConfusion
theorem Sys2Proof.Laws.Kind.fcvt (d : CReg) (a : CReg) (code : BitVec 6) (t : Ty) : Sys2Proof.Laws.Kind.Statement (.fcvt d a code t) := iff_of_false Bool.noConfusion Cls.noConfusion
theorem Sys2Proof.Laws.Kind.fdiv (d : CReg) (a : CReg) (b : CReg) (t : Ty) (la : BitVec 4) : Sys2Proof.Laws.Kind.Statement (.fdiv d a b t la) := iff_of_false Bool.noConfusion Cls.noConfusion
theorem Sys2Proof.Laws.Kind.fsqrt (d : CReg) (a : CReg) (t : Ty) (la : BitVec 4) : Sys2Proof.Laws.Kind.Statement (.fsqrt d a t la) := iff_of_false Bool.noConfusion Cls.noConfusion
theorem Sys2Proof.Laws.Kind.fma (d : CReg) (a : CReg) (b : CReg) (t : Ty) (la : BitVec 4) : Sys2Proof.Laws.Kind.Statement (.fma d a b t la) := iff_of_false Bool.noConfusion Cls.noConfusion
theorem Sys2Proof.Laws.Kind.setvl (d : CReg) (a : CReg) (imm : BitVec 13) : Sys2Proof.Laws.Kind.Statement (.setvl d a imm) := iff_of_false Bool.noConfusion Cls.noConfusion
theorem Sys2Proof.Laws.Kind.crd (d : CReg) (n : BitVec 12) : Sys2Proof.Laws.Kind.Statement (.crd d n) := iff_of_false Bool.noConfusion Cls.noConfusion
theorem Sys2Proof.Laws.Kind.cwr (a : CReg) (n : BitVec 12) : Sys2Proof.Laws.Kind.Statement (.cwr a n) := iff_of_false Bool.noConfusion Cls.noConfusion
theorem Sys2Proof.Laws.Kind.vf (off : BitVec 19) : Sys2Proof.Laws.Kind.Statement (.vf off) := iff_of_false Bool.noConfusion Cls.noConfusion
theorem Sys2Proof.Laws.Kind.vfr (a : CReg) : Sys2Proof.Laws.Kind.Statement (.vfr a) := iff_of_false Bool.noConfusion Cls.noConfusion
theorem Sys2Proof.Laws.Kind.fetch (off : BitVec 19) : Sys2Proof.Laws.Kind.Statement (.fetch off) := iff_of_false Bool.noConfusion Cls.noConfusion
theorem Sys2Proof.Laws.Kind.fetchNz (a : VName) (off : BitVec 13) : Sys2Proof.Laws.Kind.Statement (.fetchNz a off) := iff_of_false Bool.noConfusion Cls.noConfusion
theorem Sys2Proof.Laws.Kind.stop : Sys2Proof.Laws.Kind.Statement .stop := iff_of_false Bool.noConfusion Cls.noConfusion
theorem Sys2Proof.Laws.Kind.jenrol (j : JReg) : Sys2Proof.Laws.Kind.Statement (.jenrol j) := iff_of_false Bool.noConfusion Cls.noConfusion
theorem Sys2Proof.Laws.Kind.jpark (j : JReg) : Sys2Proof.Laws.Kind.Statement (.jpark j) := iff_of_false Bool.noConfusion Cls.noConfusion
theorem Sys2Proof.Laws.Kind.jstrike (j : JReg) : Sys2Proof.Laws.Kind.Statement (.jstrike j) := iff_of_false Bool.noConfusion Cls.noConfusion
theorem Sys2Proof.Laws.Kind.qput (a : CReg) : Sys2Proof.Laws.Kind.Statement (.qput a) := iff_of_false Bool.noConfusion Cls.noConfusion
theorem Sys2Proof.Laws.Kind.qget (d : CReg) : Sys2Proof.Laws.Kind.Statement (.qget d) := iff_of_false Bool.noConfusion Cls.noConfusion
theorem Sys2Proof.Laws.Kind.qclr : Sys2Proof.Laws.Kind.Statement .qclr := iff_of_false Bool.noConfusion Cls.noConfusion
theorem Sys2Proof.Laws.Kind.vsend (a : VName) : Sys2Proof.Laws.Kind.Statement (.vsend a) := iff_of_false Bool.noConfusion Cls.noConfusion
theorem Sys2Proof.Laws.Kind.vrecv (d : VName) : Sys2Proof.Laws.Kind.Statement (.vrecv d) := iff_of_false Bool.noConfusion Cls.noConfusion
theorem Sys2Proof.Laws.Kind.vid (d : VName) (a : BitVec 6) (t : Ty) : Sys2Proof.Laws.Kind.Statement (.vid d a t) := iff_of_false Bool.noConfusion Cls.noConfusion
theorem Sys2Proof.Laws.Kind.vadd (d : VName) (a : VName) (b : BOp) (t : Ty) (p : Bool) : Sys2Proof.Laws.Kind.Statement (.vadd d a b t p) := iff_of_false Bool.noConfusion Cls.noConfusion
theorem Sys2Proof.Laws.Kind.vsub (d : VName) (a : VName) (b : BOp) (t : Ty) (p : Bool) : Sys2Proof.Laws.Kind.Statement (.vsub d a b t p) := iff_of_false Bool.noConfusion Cls.noConfusion
theorem Sys2Proof.Laws.Kind.vmul (d : VName) (a : VName) (b : BOp) (t : Ty) (p : Bool) : Sys2Proof.Laws.Kind.Statement (.vmul d a b t p) := iff_of_false Bool.noConfusion Cls.noConfusion
theorem Sys2Proof.Laws.Kind.vmac (d : VName) (a : VName) (b : BOp) (t : Ty) (p : Bool) : Sys2Proof.Laws.Kind.Statement (.vmac d a b t p) := iff_of_false Bool.noConfusion Cls.noConfusion
theorem Sys2Proof.Laws.Kind.vmin (d : VName) (a : VName) (b : BOp) (t : Ty) (p : Bool) : Sys2Proof.Laws.Kind.Statement (.vmin d a b t p) := iff_of_false Bool.noConfusion Cls.noConfusion
theorem Sys2Proof.Laws.Kind.vmax (d : VName) (a : VName) (b : BOp) (t : Ty) (p : Bool) : Sys2Proof.Laws.Kind.Statement (.vmax d a b t p) := iff_of_false Bool.noConfusion Cls.noConfusion
theorem Sys2Proof.Laws.Kind.vabs (d : VName) (a : VName) (t : Ty) (p : Bool) : Sys2Proof.Laws.Kind.Statement (.vabs d a t p) := iff_of_false Bool.noConfusion Cls.noConfusion
theorem Sys2Proof.Laws.Kind.vneg (d : VName) (a : VName) (t : Ty) (p : Bool) : Sys2Proof.Laws.Kind.Statement (.vneg d a t p) := iff_of_false Bool.noConfusion Cls.noConfusion
theorem Sys2Proof.Laws.Kind.vand (d : VName) (a : VName) (b : BOp) (t : Ty) (p : Bool) : Sys2Proof.Laws.Kind.Statement (.vand d a b t p) := iff_of_false Bool.noConfusion Cls.noConfusion
theorem Sys2Proof.Laws.Kind.vor (d : VName) (a : VName) (b : BOp) (t : Ty) (p : Bool) : Sys2Proof.Laws.Kind.Statement (.vor d a b t p) := iff_of_false Bool.noConfusion Cls.noConfusion
theorem Sys2Proof.Laws.Kind.vxor (d : VName) (a : VName) (b : BOp) (t : Ty) (p : Bool) : Sys2Proof.Laws.Kind.Statement (.vxor d a b t p) := iff_of_false Bool.noConfusion Cls.noConfusion
theorem Sys2Proof.Laws.Kind.vnot (d : VName) (a : VName) (t : Ty) (p : Bool) : Sys2Proof.Laws.Kind.Statement (.vnot d a t p) := iff_of_false Bool.noConfusion Cls.noConfusion
theorem Sys2Proof.Laws.Kind.vsll (d : VName) (a : VName) (b : BOp) (t : Ty) (p : Bool) : Sys2Proof.Laws.Kind.Statement (.vsll d a b t p) := iff_of_false Bool.noConfusion Cls.noConfusion
theorem Sys2Proof.Laws.Kind.vsrl (d : VName) (a : VName) (b : BOp) (t : Ty) (p : Bool) : Sys2Proof.Laws.Kind.Statement (.vsrl d a b t p) := iff_of_false Bool.noConfusion Cls.noConfusion
theorem Sys2Proof.Laws.Kind.vsra (d : VName) (a : VName) (b : BOp) (t : Ty) (p : Bool) : Sys2Proof.Laws.Kind.Statement (.vsra d a b t p) := iff_of_false Bool.noConfusion Cls.noConfusion
theorem Sys2Proof.Laws.Kind.vdiv (d : VName) (a : VName) (b : VName) (t : Ty) (p : Bool) (la : BitVec 3) : Sys2Proof.Laws.Kind.Statement (.vdiv d a b t p la) := iff_of_false Bool.noConfusion Cls.noConfusion
theorem Sys2Proof.Laws.Kind.vcmpEq (a : VName) (b : BOp) (t : Ty) : Sys2Proof.Laws.Kind.Statement (.vcmpEq a b t) := iff_of_false Bool.noConfusion Cls.noConfusion
theorem Sys2Proof.Laws.Kind.vcmpNe (a : VName) (b : BOp) (t : Ty) : Sys2Proof.Laws.Kind.Statement (.vcmpNe a b t) := iff_of_false Bool.noConfusion Cls.noConfusion
theorem Sys2Proof.Laws.Kind.vcmpLt (a : VName) (b : BOp) (t : Ty) : Sys2Proof.Laws.Kind.Statement (.vcmpLt a b t) := iff_of_false Bool.noConfusion Cls.noConfusion
theorem Sys2Proof.Laws.Kind.vcmpLe (a : VName) (b : BOp) (t : Ty) : Sys2Proof.Laws.Kind.Statement (.vcmpLe a b t) := iff_of_false Bool.noConfusion Cls.noConfusion
theorem Sys2Proof.Laws.Kind.vcmpuLt (a : VName) (b : BOp) (t : Ty) : Sys2Proof.Laws.Kind.Statement (.vcmpuLt a b t) := iff_of_false Bool.noConfusion Cls.noConfusion
theorem Sys2Proof.Laws.Kind.vcmpuLe (a : VName) (b : BOp) (t : Ty) : Sys2Proof.Laws.Kind.Statement (.vcmpuLe a b t) := iff_of_false Bool.noConfusion Cls.noConfusion
theorem Sys2Proof.Laws.Kind.vabsent (a : VName) (t : Ty) : Sys2Proof.Laws.Kind.Statement (.vabsent a t) := iff_of_false Bool.noConfusion Cls.noConfusion
theorem Sys2Proof.Laws.Kind.vsel (d : VName) (a : VName) (b : BOp) (t : Ty) : Sys2Proof.Laws.Kind.Statement (.vsel d a b t) := iff_of_false Bool.noConfusion Cls.noConfusion
theorem Sys2Proof.Laws.Kind.vmov (d : VName) (a : VName) (t : Ty) : Sys2Proof.Laws.Kind.Statement (.vmov d a t) := iff_of_false Bool.noConfusion Cls.noConfusion
theorem Sys2Proof.Laws.Kind.vmovScalar (d : VName) (b : CReg) (t : Ty) : Sys2Proof.Laws.Kind.Statement (.vmovScalar d b t) := iff_of_false Bool.noConfusion Cls.noConfusion
theorem Sys2Proof.Laws.Kind.vbcast (d : VName) (a : VName) (b : CReg) (t : Ty) : Sys2Proof.Laws.Kind.Statement (.vbcast d a b t) := iff_of_false Bool.noConfusion Cls.noConfusion
theorem Sys2Proof.Laws.Kind.vext (d : CReg) (a : VName) (b : CReg) (t : Ty) : Sys2Proof.Laws.Kind.Statement (.vext d a b t) := iff_of_false Bool.noConfusion Cls.noConfusion
theorem Sys2Proof.Laws.Kind.vsetabs (d : VName) (t : Ty) : Sys2Proof.Laws.Kind.Statement (.vsetabs d t) := iff_of_false Bool.noConfusion Cls.noConfusion
theorem Sys2Proof.Laws.Kind.vfill (d : VName) (t : Ty) : Sys2Proof.Laws.Kind.Statement (.vfill d t) := iff_of_false Bool.noConfusion Cls.noConfusion
theorem Sys2Proof.Laws.Kind.vfillScalar (d : VName) (b : CReg) (t : Ty) : Sys2Proof.Laws.Kind.Statement (.vfillScalar d b t) := iff_of_false Bool.noConfusion Cls.noConfusion
theorem Sys2Proof.Laws.Kind.vmsave (d : VName) (m : MaskSel) : Sys2Proof.Laws.Kind.Statement (.vmsave d m) := iff_of_false Bool.noConfusion Cls.noConfusion
theorem Sys2Proof.Laws.Kind.vmload (a : VName) (m : MaskSel) : Sys2Proof.Laws.Kind.Statement (.vmload a m) := iff_of_false Bool.noConfusion Cls.noConfusion
theorem Sys2Proof.Laws.Kind.vomov : Sys2Proof.Laws.Kind.Statement .vomov := iff_of_false Bool.noConfusion Cls.noConfusion
theorem Sys2Proof.Laws.Kind.vcvt (d : VName) (a : VName) (code : BitVec 6) (t : Ty) (la : BitVec 4) : Sys2Proof.Laws.Kind.Statement (.vcvt d a code t la) := iff_of_false Bool.noConfusion Cls.noConfusion
theorem Sys2Proof.Laws.Kind.vquant (d : VName) (a : VName) (code : BitVec 6) (t : Ty) (la : BitVec 4) : Sys2Proof.Laws.Kind.Statement (.vquant d a code t la) := iff_of_false Bool.noConfusion Cls.noConfusion
theorem Sys2Proof.Laws.Kind.vdequant (d : VName) (a : VName) (code : BitVec 6) (t : Ty) (la : BitVec 4) : Sys2Proof.Laws.Kind.Statement (.vdequant d a code t la) := iff_of_false Bool.noConfusion Cls.noConfusion
theorem Sys2Proof.Laws.Kind.vexp2 (d : VName) (a : VName) (t : Ty) (la : BitVec 4) : Sys2Proof.Laws.Kind.Statement (.vexp2 d a t la) := iff_of_false Bool.noConfusion Cls.noConfusion
theorem Sys2Proof.Laws.Kind.vlog2 (d : VName) (a : VName) (t : Ty) (la : BitVec 4) : Sys2Proof.Laws.Kind.Statement (.vlog2 d a t la) := iff_of_false Bool.noConfusion Cls.noConfusion
theorem Sys2Proof.Laws.Kind.vrcp (d : VName) (a : VName) (t : Ty) (la : BitVec 4) : Sys2Proof.Laws.Kind.Statement (.vrcp d a t la) := iff_of_false Bool.noConfusion Cls.noConfusion
theorem Sys2Proof.Laws.Kind.vrsqrt (d : VName) (a : VName) (t : Ty) (la : BitVec 4) : Sys2Proof.Laws.Kind.Statement (.vrsqrt d a t la) := iff_of_false Bool.noConfusion Cls.noConfusion
theorem Sys2Proof.Laws.Kind.vsqrt (d : VName) (a : VName) (t : Ty) (la : BitVec 4) : Sys2Proof.Laws.Kind.Statement (.vsqrt d a t la) := iff_of_false Bool.noConfusion Cls.noConfusion
theorem Sys2Proof.Laws.Kind.vsin (d : VName) (a : VName) (t : Ty) (la : BitVec 4) : Sys2Proof.Laws.Kind.Statement (.vsin d a t la) := iff_of_false Bool.noConfusion Cls.noConfusion
theorem Sys2Proof.Laws.Kind.vcos (d : VName) (a : VName) (t : Ty) (la : BitVec 4) : Sys2Proof.Laws.Kind.Statement (.vcos d a t la) := iff_of_false Bool.noConfusion Cls.noConfusion
theorem Sys2Proof.Laws.Kind.vtanh (d : VName) (a : VName) (t : Ty) (la : BitVec 4) : Sys2Proof.Laws.Kind.Statement (.vtanh d a t la) := iff_of_false Bool.noConfusion Cls.noConfusion
theorem Sys2Proof.Laws.Kind.vsigm (d : VName) (a : VName) (t : Ty) (la : BitVec 4) : Sys2Proof.Laws.Kind.Statement (.vsigm d a t la) := iff_of_false Bool.noConfusion Cls.noConfusion
theorem Sys2Proof.Laws.Kind.vexp (d : VName) (a : VName) (t : Ty) (la : BitVec 4) : Sys2Proof.Laws.Kind.Statement (.vexp d a t la) := iff_of_false Bool.noConfusion Cls.noConfusion
theorem Sys2Proof.Laws.Kind.vgelu (d : VName) (a : VName) (t : Ty) (la : BitVec 4) : Sys2Proof.Laws.Kind.Statement (.vgelu d a t la) := iff_of_false Bool.noConfusion Cls.noConfusion
theorem Sys2Proof.Laws.Kind.vshlw (d : VName) (a : VName) (b : CReg) (t : Ty) : Sys2Proof.Laws.Kind.Statement (.vshlw d a b t) := iff_of_false Bool.noConfusion Cls.noConfusion
theorem Sys2Proof.Laws.Kind.vshrw (d : VName) (a : VName) (b : CReg) (t : Ty) : Sys2Proof.Laws.Kind.Statement (.vshrw d a b t) := iff_of_false Bool.noConfusion Cls.noConfusion
theorem Sys2Proof.Laws.Kind.vfsl (d : VName) (a : VName) (b : CReg) (t : Ty) : Sys2Proof.Laws.Kind.Statement (.vfsl d a b t) := iff_of_false Bool.noConfusion Cls.noConfusion
theorem Sys2Proof.Laws.Kind.vfsr (d : VName) (a : VName) (b : CReg) (t : Ty) : Sys2Proof.Laws.Kind.Statement (.vfsr d a b t) := iff_of_false Bool.noConfusion Cls.noConfusion
theorem Sys2Proof.Laws.Kind.vredSum (d : CReg) (a : VName) (t : Ty) (la : BitVec 4) : Sys2Proof.Laws.Kind.Statement (.vredSum d a t la) := iff_of_false Bool.noConfusion Cls.noConfusion
theorem Sys2Proof.Laws.Kind.vredMax (d : CReg) (a : VName) (t : Ty) (la : BitVec 4) : Sys2Proof.Laws.Kind.Statement (.vredMax d a t la) := iff_of_false Bool.noConfusion Cls.noConfusion
theorem Sys2Proof.Laws.Kind.vredMin (d : CReg) (a : VName) (t : Ty) (la : BitVec 4) : Sys2Proof.Laws.Kind.Statement (.vredMin d a t la) := iff_of_false Bool.noConfusion Cls.noConfusion
theorem Sys2Proof.Laws.Kind.vredCnt (d : CReg) (a : VName) (t : Ty) (la : BitVec 4) : Sys2Proof.Laws.Kind.Statement (.vredCnt d a t la) := iff_of_false Bool.noConfusion Cls.noConfusion
theorem Sys2Proof.Laws.Kind.vredSumc (d : CReg) (a : VName) (t : Ty) (la : BitVec 4) : Sys2Proof.Laws.Kind.Statement (.vredSumc d a t la) := iff_of_false Bool.noConfusion Cls.noConfusion
theorem Sys2Proof.Laws.Kind.vredPopc (d : CReg) (t : Ty) (la : BitVec 4) : Sys2Proof.Laws.Kind.Statement (.vredPopc d t la) := iff_of_false Bool.noConfusion Cls.noConfusion
theorem Sys2Proof.Laws.Kind.vredFirst (d : CReg) (t : Ty) (la : BitVec 4) : Sys2Proof.Laws.Kind.Statement (.vredFirst d t la) := iff_of_false Bool.noConfusion Cls.noConfusion
theorem Sys2Proof.Laws.Kind.vcompress (d : VName) (a : VName) (t : Ty) (f : Bool) : Sys2Proof.Laws.Kind.Statement (.vcompress d a t f) := iff_of_false Bool.noConfusion Cls.noConfusion
theorem Sys2Proof.Laws.Kind.vexpand (d : VName) (a : VName) (t : Ty) (f : Bool) : Sys2Proof.Laws.Kind.Statement (.vexpand d a t f) := iff_of_false Bool.noConfusion Cls.noConfusion
theorem Sys2Proof.Laws.Kind.vperm (d : VName) (a : VName) (b : VName) (t : Ty) (f : Bool) : Sys2Proof.Laws.Kind.Statement (.vperm d a b t f) := iff_of_false Bool.noConfusion Cls.noConfusion
theorem Sys2Proof.Laws.Kind.vslideup (d : VName) (a : VName) (b : CReg) (t : Ty) (f : Bool) : Sys2Proof.Laws.Kind.Statement (.vslideup d a b t f) := iff_of_false Bool.noConfusion Cls.noConfusion
theorem Sys2Proof.Laws.Kind.vslidedn (d : VName) (a : VName) (b : CReg) (t : Ty) (f : Bool) : Sys2Proof.Laws.Kind.Statement (.vslidedn d a b t f) := iff_of_false Bool.noConfusion Cls.noConfusion
theorem Sys2Proof.Laws.Kind.vregroup (d : VName) (a : VName) (t : Ty) : Sys2Proof.Laws.Kind.Statement (.vregroup d a t) := iff_of_false Bool.noConfusion Cls.noConfusion
theorem Sys2Proof.Laws.Kind.spl (a : CReg) (s : BitVec 2) (l : BitVec 7) : Sys2Proof.Laws.Kind.Statement (.spl a s l) := iff_of_false Bool.noConfusion Cls.noConfusion
theorem Sys2Proof.Laws.Kind.splb (off : BitVec 13) : Sys2Proof.Laws.Kind.Statement (.splb off) := iff_of_false Bool.noConfusion Cls.noConfusion
theorem Sys2Proof.Laws.Kind.vld (d : VName) (a : BitVec 6) (sz : Sz) (off : BitVec 7) (la : BitVec 4) : Sys2Proof.Laws.Kind.Statement (.vld d a sz off la) := iff_of_false Bool.noConfusion Cls.noConfusion
theorem Sys2Proof.Laws.Kind.vlds (d : VName) (a : BitVec 6) (sz : Sz) (off : BitVec 7) (la : BitVec 4) : Sys2Proof.Laws.Kind.Statement (.vlds d a sz off la) := iff_of_false Bool.noConfusion Cls.noConfusion
theorem Sys2Proof.Laws.Kind.vst (d : VName) (a : BitVec 6) (sz : Sz) (off : BitVec 7) (la : BitVec 4) : Sys2Proof.Laws.Kind.Statement (.vst d a sz off la) := iff_of_false Bool.noConfusion Cls.noConfusion
theorem Sys2Proof.Laws.Kind.vsts (d : VName) (a : BitVec 6) (sz : Sz) (off : BitVec 7) (la : BitVec 4) : Sys2Proof.Laws.Kind.Statement (.vsts d a sz off la) := iff_of_false Bool.noConfusion Cls.noConfusion
theorem Sys2Proof.Laws.Kind.vldw (d : VName) (a : CReg) (t : Ty) (la : BitVec 4) : Sys2Proof.Laws.Kind.Statement (.vldw d a t la) := iff_of_false Bool.noConfusion Cls.noConfusion
theorem Sys2Proof.Laws.Kind.vpermw (d : VName) (a : VName) (b : CReg) (t : Ty) (la : BitVec 4) : Sys2Proof.Laws.Kind.Statement (.vpermw d a b t la) := iff_of_false Bool.noConfusion Cls.noConfusion
theorem Sys2Proof.Laws.Kind.vscatO (d : VName) (a : CReg) (b : VName) (t : Ty) (la : BitVec 4) : Sys2Proof.Laws.Kind.Statement (.vscatO d a b t la) := iff_of_false Bool.noConfusion Cls.noConfusion
theorem Sys2Proof.Laws.Kind.vscatU (d : VName) (a : CReg) (b : VName) (t : Ty) (la : BitVec 4) : Sys2Proof.Laws.Kind.Statement (.vscatU d a b t la) := iff_of_false Bool.noConfusion Cls.noConfusion
theorem Sys2Proof.Laws.Kind.vamoAdd (d : VName) (a : BitVec 6) (b : VName) (t : Ty) : Sys2Proof.Laws.Kind.Statement (.vamoAdd d a b t) := iff_of_false Bool.noConfusion Cls.noConfusion
theorem Sys2Proof.Laws.Kind.vamoAddf (d : VName) (a : BitVec 6) (b : VName) (t : Ty) : Sys2Proof.Laws.Kind.Statement (.vamoAddf d a b t) := iff_of_false Bool.noConfusion Cls.noConfusion
theorem Sys2Proof.Laws.Kind.vamoAddc (d : VName) (a : BitVec 6) (b : VName) (t : Ty) : Sys2Proof.Laws.Kind.Statement (.vamoAddc d a b t) := iff_of_false Bool.noConfusion Cls.noConfusion
theorem Sys2Proof.Laws.Kind.vamoMin (d : VName) (a : BitVec 6) (b : VName) (t : Ty) : Sys2Proof.Laws.Kind.Statement (.vamoMin d a b t) := iff_of_false Bool.noConfusion Cls.noConfusion
theorem Sys2Proof.Laws.Kind.vamoMax (d : VName) (a : BitVec 6) (b : VName) (t : Ty) : Sys2Proof.Laws.Kind.Statement (.vamoMax d a b t) := iff_of_false Bool.noConfusion Cls.noConfusion
theorem Sys2Proof.Laws.Kind.vamoMinf (d : VName) (a : BitVec 6) (b : VName) (t : Ty) : Sys2Proof.Laws.Kind.Statement (.vamoMinf d a b t) := iff_of_false Bool.noConfusion Cls.noConfusion
theorem Sys2Proof.Laws.Kind.vamoMaxf (d : VName) (a : BitVec 6) (b : VName) (t : Ty) : Sys2Proof.Laws.Kind.Statement (.vamoMaxf d a b t) := iff_of_false Bool.noConfusion Cls.noConfusion
theorem Sys2Proof.Laws.Kind.vamoAnd (d : VName) (a : BitVec 6) (b : VName) (t : Ty) : Sys2Proof.Laws.Kind.Statement (.vamoAnd d a b t) := iff_of_false Bool.noConfusion Cls.noConfusion
theorem Sys2Proof.Laws.Kind.vamoOr (d : VName) (a : BitVec 6) (b : VName) (t : Ty) : Sys2Proof.Laws.Kind.Statement (.vamoOr d a b t) := iff_of_false Bool.noConfusion Cls.noConfusion
theorem Sys2Proof.Laws.Kind.vamoXor (d : VName) (a : BitVec 6) (b : VName) (t : Ty) : Sys2Proof.Laws.Kind.Statement (.vamoXor d a b t) := iff_of_false Bool.noConfusion Cls.noConfusion
theorem Sys2Proof.Laws.Kind.vamoSwap (d : VName) (a : BitVec 6) (b : VName) (t : Ty) : Sys2Proof.Laws.Kind.Statement (.vamoSwap d a b t) := iff_of_false Bool.noConfusion Cls.noConfusion
theorem Sys2Proof.Laws.Kind.vamoCas (d : VName) (a : BitVec 6) (b : VName) (t : Ty) : Sys2Proof.Laws.Kind.Statement (.vamoCas d a b t) := iff_of_false Bool.noConfusion Cls.noConfusion
theorem Sys2Proof.Laws.Kind.amoAdd (d : CReg) (a : CReg) (b : CReg) (t : Ty) : Sys2Proof.Laws.Kind.Statement (.amoAdd d a b t) := iff_of_false Bool.noConfusion Cls.noConfusion
theorem Sys2Proof.Laws.Kind.amoAddf (d : CReg) (a : CReg) (b : CReg) (t : Ty) : Sys2Proof.Laws.Kind.Statement (.amoAddf d a b t) := iff_of_false Bool.noConfusion Cls.noConfusion
theorem Sys2Proof.Laws.Kind.amoAddc (d : CReg) (a : CReg) (b : CReg) (t : Ty) : Sys2Proof.Laws.Kind.Statement (.amoAddc d a b t) := iff_of_false Bool.noConfusion Cls.noConfusion
theorem Sys2Proof.Laws.Kind.amoMin (d : CReg) (a : CReg) (b : CReg) (t : Ty) : Sys2Proof.Laws.Kind.Statement (.amoMin d a b t) := iff_of_false Bool.noConfusion Cls.noConfusion
theorem Sys2Proof.Laws.Kind.amoMax (d : CReg) (a : CReg) (b : CReg) (t : Ty) : Sys2Proof.Laws.Kind.Statement (.amoMax d a b t) := iff_of_false Bool.noConfusion Cls.noConfusion
theorem Sys2Proof.Laws.Kind.amoMinf (d : CReg) (a : CReg) (b : CReg) (t : Ty) : Sys2Proof.Laws.Kind.Statement (.amoMinf d a b t) := iff_of_false Bool.noConfusion Cls.noConfusion
theorem Sys2Proof.Laws.Kind.amoMaxf (d : CReg) (a : CReg) (b : CReg) (t : Ty) : Sys2Proof.Laws.Kind.Statement (.amoMaxf d a b t) := iff_of_false Bool.noConfusion Cls.noConfusion
theorem Sys2Proof.Laws.Kind.amoAnd (d : CReg) (a : CReg) (b : CReg) (t : Ty) : Sys2Proof.Laws.Kind.Statement (.amoAnd d a b t) := iff_of_false Bool.noConfusion Cls.noConfusion
theorem Sys2Proof.Laws.Kind.amoOr (d : CReg) (a : CReg) (b : CReg) (t : Ty) : Sys2Proof.Laws.Kind.Statement (.amoOr d a b t) := iff_of_false Bool.noConfusion Cls.noConfusion
theorem Sys2Proof.Laws.Kind.amoXor (d : CReg) (a : CReg) (b : CReg) (t : Ty) : Sys2Proof.Laws.Kind.Statement (.amoXor d a b t) := iff_of_false Bool.noConfusion Cls.noConfusion
theorem Sys2Proof.Laws.Kind.amoSwap (d : CReg) (a : CReg) (b : CReg) (t : Ty) : Sys2Proof.Laws.Kind.Statement (.amoSwap d a b t) := iff_of_false Bool.noConfusion Cls.noConfusion
theorem Sys2Proof.Laws.Kind.amoCas (d : CReg) (a : CReg) (b : CReg) (t : Ty) : Sys2Proof.Laws.Kind.Statement (.amoCas d a b t) := iff_of_false Bool.noConfusion Cls.noConfusion
theorem Sys2Proof.Laws.Kind.acq (a : CReg) : Sys2Proof.Laws.Kind.Statement (.acq a) := iff_of_false Bool.noConfusion Cls.noConfusion
theorem Sys2Proof.Laws.Kind.acqSh (a : CReg) : Sys2Proof.Laws.Kind.Statement (.acqSh a) := iff_of_false Bool.noConfusion Cls.noConfusion
theorem Sys2Proof.Laws.Kind.rel (a : CReg) : Sys2Proof.Laws.Kind.Statement (.rel a) := iff_of_false Bool.noConfusion Cls.noConfusion
theorem Sys2Proof.Laws.Kind.bind (d : CReg) (a : CReg) (b : CReg) : Sys2Proof.Laws.Kind.Statement (.bind d a b) := iff_of_false Bool.noConfusion Cls.noConfusion
theorem Sys2Proof.Laws.Kind.unbind (a : CReg) : Sys2Proof.Laws.Kind.Statement (.unbind a) := iff_of_false Bool.noConfusion Cls.noConfusion
theorem Sys2Proof.Laws.Kind.fenceAcq (scope : Scope) : Sys2Proof.Laws.Kind.Statement (.fenceAcq scope) := iff_of_false Bool.noConfusion Cls.noConfusion
theorem Sys2Proof.Laws.Kind.fenceRel (scope : Scope) : Sys2Proof.Laws.Kind.Statement (.fenceRel scope) := iff_of_false Bool.noConfusion Cls.noConfusion
theorem Sys2Proof.Laws.Kind.fenceFull (scope : Scope) : Sys2Proof.Laws.Kind.Statement (.fenceFull scope) := iff_of_false Bool.noConfusion Cls.noConfusion
theorem Sys2Proof.Laws.Kind.ifence : Sys2Proof.Laws.Kind.Statement .ifence := iff_of_false Bool.noConfusion Cls.noConfusion
theorem Sys2Proof.Laws.Kind.bar (k : BitVec 6) (a : CReg) : Sys2Proof.Laws.Kind.Statement (.bar k a) := iff_of_false Bool.noConfusion Cls.noConfusion
theorem Sys2Proof.Laws.Kind.barArrive (k : BitVec 6) (a : CReg) : Sys2Proof.Laws.Kind.Statement (.barArrive k a) := iff_of_false Bool.noConfusion Cls.noConfusion
theorem Sys2Proof.Laws.Kind.vwait (d : CReg) (a : VName) (b : VName) : Sys2Proof.Laws.Kind.Statement (.vwait d a b) := iff_of_false Bool.noConfusion Cls.noConfusion
theorem Sys2Proof.Laws.Kind.vgath (k : BitVec 6) (a : CReg) (b : VName) (t : Ty) (la : BitVec 4) : Sys2Proof.Laws.Kind.Statement (.vgath k a b t la) := iff_of_false Bool.noConfusion Cls.noConfusion
theorem Sys2Proof.Laws.Kind.vstream (d : VName) (a : CReg) : Sys2Proof.Laws.Kind.Statement (.vstream d a) := iff_of_false Bool.noConfusion Cls.noConfusion
theorem Sys2Proof.Laws.Kind.vunbind (d : VName) : Sys2Proof.Laws.Kind.Statement (.vunbind d) := iff_of_false Bool.noConfusion Cls.noConfusion
theorem Sys2Proof.Laws.Kind.copy (k : BitVec 6) (a : CReg) (b : CReg) (la : BitVec 4) : Sys2Proof.Laws.Kind.Statement (.copy k a b la) := iff_of_false Bool.noConfusion Cls.noConfusion
theorem Sys2Proof.Laws.Kind.tagwaitAny (d : CReg) (a : CReg) : Sys2Proof.Laws.Kind.Statement (.tagwaitAny d a) := iff_of_false Bool.noConfusion Cls.noConfusion
theorem Sys2Proof.Laws.Kind.tagwaitAll (d : CReg) (a : CReg) : Sys2Proof.Laws.Kind.Statement (.tagwaitAll d a) := iff_of_false Bool.noConfusion Cls.noConfusion
theorem Sys2Proof.Laws.Kind.tagffr (d : CReg) (a : CReg) : Sys2Proof.Laws.Kind.Statement (.tagffr d a) := iff_of_false Bool.noConfusion Cls.noConfusion
theorem Sys2Proof.Laws.Kind.chgo (d : CReg) (a : CReg) (b : CReg) (k : BitVec 3) : Sys2Proof.Laws.Kind.Statement (.chgo d a b k) := iff_of_false Bool.noConfusion Cls.noConfusion
theorem Sys2Proof.Laws.Kind.chwait (a : CReg) (k : BitVec 3) : Sys2Proof.Laws.Kind.Statement (.chwait a k) := iff_of_false Bool.noConfusion Cls.noConfusion
theorem Sys2Proof.Laws.Kind.rres (d : CReg) (a : CReg) : Sys2Proof.Laws.Kind.Statement (.rres d a) := iff_of_false Bool.noConfusion Cls.noConfusion
theorem Sys2Proof.Laws.Kind.rcom (a : CReg) (b : CReg) : Sys2Proof.Laws.Kind.Statement (.rcom a b) := iff_of_false Bool.noConfusion Cls.noConfusion
theorem Sys2Proof.Laws.Kind.rclaim (d : CReg) (a : CReg) : Sys2Proof.Laws.Kind.Statement (.rclaim d a) := iff_of_false Bool.noConfusion Cls.noConfusion
theorem Sys2Proof.Laws.Kind.rfree (a : CReg) (b : CReg) : Sys2Proof.Laws.Kind.Statement (.rfree a b) := iff_of_false Bool.noConfusion Cls.noConfusion
theorem Sys2Proof.Laws.Kind.egath (k : BitVec 6) (a : CReg) (la : BitVec 4) : Sys2Proof.Laws.Kind.Statement (.egath k a la) := iff_of_false Bool.noConfusion Cls.noConfusion
theorem Sys2Proof.Laws.Kind.escat (k : BitVec 6) (a : CReg) (la : BitVec 4) : Sys2Proof.Laws.Kind.Statement (.escat k a la) := iff_of_false Bool.noConfusion Cls.noConfusion
theorem Sys2Proof.Laws.Kind.men (a : CReg) : Sys2Proof.Laws.Kind.Statement (.men a) := iff_of_false Bool.noConfusion Cls.noConfusion
theorem Sys2Proof.Laws.Kind.mdis : Sys2Proof.Laws.Kind.Statement .mdis := iff_of_false Bool.noConfusion Cls.noConfusion
theorem Sys2Proof.Laws.Kind.mwin (a : CReg) (b : CReg) : Sys2Proof.Laws.Kind.Statement (.mwin a b) := iff_of_false Bool.noConfusion Cls.noConfusion
theorem Sys2Proof.Laws.Kind.mzero (a : CReg) : Sys2Proof.Laws.Kind.Statement (.mzero a) := iff_of_false Bool.noConfusion Cls.noConfusion
theorem Sys2Proof.Laws.Kind.mfence : Sys2Proof.Laws.Kind.Statement .mfence := iff_of_false Bool.noConfusion Cls.noConfusion
theorem Sys2Proof.Laws.Kind.ldw (a : CReg) (b : CReg) (la : BitVec 4) : Sys2Proof.Laws.Kind.Statement (.ldw a b la) := iff_of_false Bool.noConfusion Cls.noConfusion
theorem Sys2Proof.Laws.Kind.mop (a : CReg) (la : BitVec 4) : Sys2Proof.Laws.Kind.Statement (.mop a la) := iff_of_false Bool.noConfusion Cls.noConfusion
theorem Sys2Proof.Laws.Kind.mrdRaw (d : VName) (a : CReg) (la : BitVec 4) : Sys2Proof.Laws.Kind.Statement (.mrdRaw d a la) := iff_of_false Bool.noConfusion Cls.noConfusion
theorem Sys2Proof.Laws.Kind.mrdNorm (d : VName) (a : CReg) (la : BitVec 4) : Sys2Proof.Laws.Kind.Statement (.mrdNorm d a la) := iff_of_false Bool.noConfusion Cls.noConfusion
theorem Sys2Proof.Laws.Kind.mrdCnt (d : VName) (a : CReg) (la : BitVec 4) : Sys2Proof.Laws.Kind.Statement (.mrdCnt d a la) := iff_of_false Bool.noConfusion Cls.noConfusion
theorem Sys2Proof.Laws.Kind.mrdPair (d : VName) (a : CReg) (la : BitVec 4) : Sys2Proof.Laws.Kind.Statement (.mrdPair d a la) := iff_of_false Bool.noConfusion Cls.noConfusion
theorem Sys2Proof.Laws.Kind.mwrVal (a : CReg) (b : VName) (la : BitVec 4) : Sys2Proof.Laws.Kind.Statement (.mwrVal a b la) := iff_of_false Bool.noConfusion Cls.noConfusion
theorem Sys2Proof.Laws.Kind.mwrPair (a : CReg) (b : VName) (la : BitVec 4) : Sys2Proof.Laws.Kind.Statement (.mwrPair a b la) := iff_of_false Bool.noConfusion Cls.noConfusion
theorem Sys2Proof.Laws.Kind.spawn (d : CReg) (a : CReg) (b : CReg) : Sys2Proof.Laws.Kind.Statement (.spawn d a b) := iff_of_false Bool.noConfusion Cls.noConfusion
theorem Sys2Proof.Laws.Kind.fdup (a : CReg) : Sys2Proof.Laws.Kind.Statement (.fdup a) := iff_of_false Bool.noConfusion Cls.noConfusion
theorem Sys2Proof.Laws.Kind.fdrop (a : CReg) : Sys2Proof.Laws.Kind.Statement (.fdrop a) := iff_of_false Bool.noConfusion Cls.noConfusion
theorem Sys2Proof.Laws.Kind.fget (d : CReg) (a : CReg) : Sys2Proof.Laws.Kind.Statement (.fget d a) := iff_of_false Bool.noConfusion Cls.noConfusion
theorem Sys2Proof.Laws.Kind.ftest (d : CReg) (a : CReg) : Sys2Proof.Laws.Kind.Statement (.ftest d a) := iff_of_false Bool.noConfusion Cls.noConfusion
theorem Sys2Proof.Laws.Kind.fret (a : CReg) : Sys2Proof.Laws.Kind.Statement (.fret a) := iff_of_false Bool.noConfusion Cls.noConfusion
theorem Sys2Proof.Laws.Kind.rpt (a : CReg) (b : CReg) : Sys2Proof.Laws.Kind.Statement (.rpt a b) := iff_of_false Bool.noConfusion Cls.noConfusion
theorem Sys2Proof.Laws.Kind.emit (a : CReg) (b : CReg) : Sys2Proof.Laws.Kind.Statement (.emit a b) := iff_of_false Bool.noConfusion Cls.noConfusion
theorem Sys2Proof.Laws.Kind.launch (d : CReg) (a : CReg) : Sys2Proof.Laws.Kind.Statement (.launch d a) := iff_of_false Bool.noConfusion Cls.noConfusion
theorem Sys2Proof.Laws.Kind.yield : Sys2Proof.Laws.Kind.Statement .yield := iff_of_false Bool.noConfusion Cls.noConfusion
theorem Sys2Proof.Laws.Kind.lfree (a : CReg) : Sys2Proof.Laws.Kind.Statement (.lfree a) := iff_of_false Bool.noConfusion Cls.noConfusion
theorem Sys2Proof.Laws.Kind.vdot4X (d : VName) (a : VName) (b : BOp) (p : Bool) : Sys2Proof.Laws.Kind.Statement (.vdot4X d a b p) := iff_of_false Bool.noConfusion Cls.noConfusion
theorem Sys2Proof.Laws.Kind.trap (n : BitVec 13) : Sys2Proof.Laws.Kind.Statement (.trap n) := iff_of_false Bool.noConfusion Cls.noConfusion
theorem Sys2Proof.Laws.Kind.brk : Sys2Proof.Laws.Kind.Statement .brk := iff_of_false Bool.noConfusion Cls.noConfusion
theorem Sys2Proof.Laws.Kind.eret (d : CReg) (a : CReg) (b : CReg) : Sys2Proof.Laws.Kind.Statement (.eret d a b) := iff_of_false Bool.noConfusion Cls.noConfusion
theorem Sys2Proof.Laws.Kind.tlbinvVa (a : CReg) (b : CReg) : Sys2Proof.Laws.Kind.Statement (.tlbinvVa a b) := iff_of_false Bool.noConfusion Cls.noConfusion
theorem Sys2Proof.Laws.Kind.tlbinvCtx (b : CReg) : Sys2Proof.Laws.Kind.Statement (.tlbinvCtx b) := iff_of_false Bool.noConfusion Cls.noConfusion
theorem Sys2Proof.Laws.Kind.tlbinvAll : Sys2Proof.Laws.Kind.Statement .tlbinvAll := iff_of_false Bool.noConfusion Cls.noConfusion
theorem Sys2Proof.Laws.Kind.tlbinvRetry (a : CReg) (b : CReg) : Sys2Proof.Laws.Kind.Statement (.tlbinvRetry a b) := iff_of_false Bool.noConfusion Cls.noConfusion
theorem Sys2Proof.Laws.Kind.tlbinvFail (a : CReg) (b : CReg) : Sys2Proof.Laws.Kind.Statement (.tlbinvFail a b) := iff_of_false Bool.noConfusion Cls.noConfusion
theorem Sys2Proof.Laws.Kind.stest (d : CReg) (a : CReg) : Sys2Proof.Laws.Kind.Statement (.stest d a) := iff_of_false Bool.noConfusion Cls.noConfusion
theorem Sys2Proof.Laws.Kind.halt (d : CReg) (a : CReg) (b : CReg) : Sys2Proof.Laws.Kind.Statement (.halt d a b) := iff_of_false Bool.noConfusion Cls.noConfusion
theorem Sys2Proof.Laws.Kind.pfxImm (hi : BitVec 19) : Sys2Proof.Laws.Kind.Statement (.pfxImm hi) := iff_of_false Bool.noConfusion Cls.noConfusion
theorem Sys2Proof.Laws.Kind.pfxScope (hint : Hint) (scope : Scope) : Sys2Proof.Laws.Kind.Statement (.pfxScope hint scope) := iff_of_false Bool.noConfusion Cls.noConfusion
theorem Sys2Proof.Laws.Kind.crdVcs : Sys2Proof.Laws.Kind.Statement .crdVcs := iff_of_true rfl rfl
theorem Sys2Proof.Laws.Kind.cwrVcs : Sys2Proof.Laws.Kind.Statement .cwrVcs := iff_of_true rfl rfl
theorem Sys2Proof.Laws.Kind.cwrVl : Sys2Proof.Laws.Kind.Statement .cwrVl := iff_of_true rfl rfl
theorem Sys2Proof.Laws.Kind.cwrTags : Sys2Proof.Laws.Kind.Statement .cwrTags := iff_of_true rfl rfl
theorem Sys2Proof.Laws.Kind.cwrSavePool : Sys2Proof.Laws.Kind.Statement .cwrSavePool := iff_of_true rfl rfl
theorem Sys2Proof.Laws.Kind.viqEnqueue : Sys2Proof.Laws.Kind.Statement .viqEnqueue := iff_of_true rfl rfl
theorem Sys2Proof.Laws.Kind.vfComplete : Sys2Proof.Laws.Kind.Statement .vfComplete := iff_of_true rfl rfl
theorem Sys2Proof.Laws.Kind.vpIssue : Sys2Proof.Laws.Kind.Statement .vpIssue := iff_of_true rfl rfl
theorem Sys2Proof.Laws.Kind.chordUnderflow : Sys2Proof.Laws.Kind.Statement .chordUnderflow := iff_of_true rfl rfl
theorem Sys2Proof.Laws.Kind.chordOverflow : Sys2Proof.Laws.Kind.Statement .chordOverflow := iff_of_true rfl rfl
theorem Sys2Proof.Laws.Kind.pivotGrant : Sys2Proof.Laws.Kind.Statement .pivotGrant := iff_of_true rfl rfl
theorem Sys2Proof.Laws.Kind.vwaitWake : Sys2Proof.Laws.Kind.Statement .vwaitWake := iff_of_true rfl rfl
theorem Sys2Proof.Laws.Kind.vwaitTimeout : Sys2Proof.Laws.Kind.Statement .vwaitTimeout := iff_of_true rfl rfl
theorem Sys2Proof.Laws.Kind.streamFacetLanded : Sys2Proof.Laws.Kind.Statement .streamFacetLanded := iff_of_true rfl rfl
theorem Sys2Proof.Laws.Kind.copyComplete : Sys2Proof.Laws.Kind.Statement .copyComplete := iff_of_true rfl rfl
theorem Sys2Proof.Laws.Kind.channelFillSlot : Sys2Proof.Laws.Kind.Statement .channelFillSlot := iff_of_true rfl rfl
theorem Sys2Proof.Laws.Kind.channelDrainSlot : Sys2Proof.Laws.Kind.Statement .channelDrainSlot := iff_of_true rfl rfl
theorem Sys2Proof.Laws.Kind.channelTransferError : Sys2Proof.Laws.Kind.Statement .channelTransferError := iff_of_true rfl rfl
theorem Sys2Proof.Laws.Kind.ringReserve : Sys2Proof.Laws.Kind.Statement .ringReserve := iff_of_true rfl rfl
theorem Sys2Proof.Laws.Kind.ringClaim : Sys2Proof.Laws.Kind.Statement .ringClaim := iff_of_true rfl rfl
theorem Sys2Proof.Laws.Kind.pendingVoid : Sys2Proof.Laws.Kind.Statement .pendingVoid := iff_of_true rfl rfl
theorem Sys2Proof.Laws.Kind.pendingDiscard : Sys2Proof.Laws.Kind.Statement .pendingDiscard := iff_of_true rfl rfl
theorem Sys2Proof.Laws.Kind.engineCommandComplete : Sys2Proof.Laws.Kind.Statement .engineCommandComplete := iff_of_true rfl rfl
theorem Sys2Proof.Laws.Kind.enginePageFault : Sys2Proof.Laws.Kind.Statement .enginePageFault := iff_of_true rfl rfl
theorem Sys2Proof.Laws.Kind.directoryRecall : Sys2Proof.Laws.Kind.Statement .directoryRecall := iff_of_true rfl rfl
theorem Sys2Proof.Laws.Kind.weightStoreRefresh : Sys2Proof.Laws.Kind.Statement .weightStoreRefresh := iff_of_true rfl rfl
theorem Sys2Proof.Laws.Kind.mopStart : Sys2Proof.Laws.Kind.Statement .mopStart := iff_of_true rfl rfl
theorem Sys2Proof.Laws.Kind.mopComplete : Sys2Proof.Laws.Kind.Statement .mopComplete := iff_of_true rfl rfl
theorem Sys2Proof.Laws.Kind.trapStop : Sys2Proof.Laws.Kind.Statement .trapStop := iff_of_true rfl rfl
theorem Sys2Proof.Laws.Kind.handlerSpawn : Sys2Proof.Laws.Kind.Statement .handlerSpawn := iff_of_true rfl rfl
theorem Sys2Proof.Laws.Kind.preEmption : Sys2Proof.Laws.Kind.Statement .preEmption := iff_of_true rfl rfl
theorem Sys2Proof.Laws.Kind.resume : Sys2Proof.Laws.Kind.Statement .resume := iff_of_true rfl rfl
theorem Sys2Proof.Laws.Kind.groupEnd : Sys2Proof.Laws.Kind.Statement .groupEnd := iff_of_true rfl rfl
theorem Sys2Proof.Laws.Kind.reclamation : Sys2Proof.Laws.Kind.Statement .reclamation := iff_of_true rfl rfl
theorem Sys2Proof.Laws.Kind.reclaimSettle : Sys2Proof.Laws.Kind.Statement .reclaimSettle := iff_of_true rfl rfl
theorem Sys2Proof.Laws.Kind.weightRefill : Sys2Proof.Laws.Kind.Statement .weightRefill := iff_of_true rfl rfl
theorem Sys2Proof.Laws.Kind.weightReturn : Sys2Proof.Laws.Kind.Statement .weightReturn := iff_of_true rfl rfl
theorem Sys2Proof.Laws.Kind.binTimerExpiry : Sys2Proof.Laws.Kind.Statement .binTimerExpiry := iff_of_true rfl rfl
theorem Sys2Proof.Laws.Kind.gridRecordArrival : Sys2Proof.Laws.Kind.Statement .gridRecordArrival := iff_of_true rfl rfl
theorem Sys2Proof.Laws.Kind.gridShareReport : Sys2Proof.Laws.Kind.Statement .gridShareReport := iff_of_true rfl rfl
theorem Sys2Proof.Laws.Kind.temperatureSample : Sys2Proof.Laws.Kind.Statement .temperatureSample := iff_of_true rfl rfl
theorem Sys2Proof.Laws.Kind.stealRequest : Sys2Proof.Laws.Kind.Statement .stealRequest := iff_of_true rfl rfl
theorem Sys2Proof.Laws.Kind.stealOffer : Sys2Proof.Laws.Kind.Statement .stealOffer := iff_of_true rfl rfl
theorem Sys2Proof.Laws.Kind.stealAck : Sys2Proof.Laws.Kind.Statement .stealAck := iff_of_true rfl rfl
theorem Sys2Proof.Laws.Kind.stealReceiptAccepted : Sys2Proof.Laws.Kind.Statement .stealReceiptAccepted := iff_of_true rfl rfl
theorem Sys2Proof.Laws.Kind.stealReceiptStale : Sys2Proof.Laws.Kind.Statement .stealReceiptStale := iff_of_true rfl rfl
theorem Sys2Proof.Laws.Kind.stealNone : Sys2Proof.Laws.Kind.Statement .stealNone := iff_of_true rfl rfl
theorem Sys2Proof.Laws.Kind.stealTimerExpiry : Sys2Proof.Laws.Kind.Statement .stealTimerExpiry := iff_of_true rfl rfl
theorem Sys2Proof.Laws.Kind.loc : Sys2Proof.Laws.Kind.Statement .loc := iff_of_true rfl rfl
theorem Sys2Proof.Laws.Kind.homeConfirm : Sys2Proof.Laws.Kind.Statement .homeConfirm := iff_of_true rfl rfl
theorem Sys2Proof.Laws.Kind.forwardedReferenceAction : Sys2Proof.Laws.Kind.Statement .forwardedReferenceAction := iff_of_true rfl rfl
theorem Sys2Proof.Laws.Kind.linkFailure : Sys2Proof.Laws.Kind.Statement .linkFailure := iff_of_true rfl rfl
theorem Sys2Proof.Laws.Kind.dieReset : Sys2Proof.Laws.Kind.Statement .dieReset := iff_of_true rfl rfl
theorem Sys2Proof.Laws.Kind.powerGatingRequest : Sys2Proof.Laws.Kind.Statement .powerGatingRequest := iff_of_true rfl rfl
theorem Sys2Proof.Laws.Kind.remoteCopyComplete : Sys2Proof.Laws.Kind.Statement .remoteCopyComplete := iff_of_true rfl rfl
theorem Sys2Proof.Laws.Kind.remoteCopyError : Sys2Proof.Laws.Kind.Statement .remoteCopyError := iff_of_true rfl rfl
theorem Sys2Proof.Laws.Kind.remoteAddWithCount : Sys2Proof.Laws.Kind.Statement .remoteAddWithCount := iff_of_true rfl rfl
theorem Sys2Proof.Laws.Kind.hostRdmaWrite : Sys2Proof.Laws.Kind.Statement .hostRdmaWrite := iff_of_true rfl rfl
theorem Sys2Proof.Laws.Kind.hostRdmaRead : Sys2Proof.Laws.Kind.Statement .hostRdmaRead := iff_of_true rfl rfl
theorem Sys2Proof.Laws.Kind.ident : Sys2Proof.Laws.Kind.Statement .ident := iff_of_true rfl rfl
theorem Sys2Proof.Laws.Kind.parts : Sys2Proof.Laws.Kind.Statement .parts := iff_of_true rfl rfl
theorem Sys2Proof.Laws.Kind.context : Sys2Proof.Laws.Kind.Statement .context := iff_of_true rfl rfl
theorem Sys2Proof.Laws.Kind.power : Sys2Proof.Laws.Kind.Statement .power := iff_of_true rfl rfl
theorem Sys2Proof.Laws.Kind.start : Sys2Proof.Laws.Kind.Statement .start := iff_of_true rfl rfl
theorem Sys2Proof.Laws.Kind.grid : Sys2Proof.Laws.Kind.Statement .grid := iff_of_true rfl rfl
theorem Sys2Proof.Laws.Kind.release : Sys2Proof.Laws.Kind.Statement .release := iff_of_true rfl rfl
theorem Sys2Proof.Laws.Kind.wstore : Sys2Proof.Laws.Kind.Statement .wstore := iff_of_true rfl rfl
theorem Sys2Proof.Laws.Kind.errlog : Sys2Proof.Laws.Kind.Statement .errlog := iff_of_true rfl rfl
theorem Sys2Proof.Laws.Kind.nodes : Sys2Proof.Laws.Kind.Statement .nodes := iff_of_true rfl rfl
theorem Sys2Proof.Laws.Kind.load : Sys2Proof.Laws.Kind.Statement .load := iff_of_true rfl rfl
theorem Sys2Proof.Laws.Kind.translationEnd : Sys2Proof.Laws.Kind.Statement .translationEnd := iff_of_true rfl rfl
theorem Sys2Proof.Laws.Kind.enroll : Sys2Proof.Laws.Kind.Statement .enroll := iff_of_true rfl rfl
theorem Sys2Proof.Laws.Kind.keyload : Sys2Proof.Laws.Kind.Statement .keyload := iff_of_true rfl rfl
theorem Sys2Proof.Laws.Kind.keyunload : Sys2Proof.Laws.Kind.Statement .keyunload := iff_of_true rfl rfl
theorem Sys2Proof.Laws.Kind.attest : Sys2Proof.Laws.Kind.Statement .attest := iff_of_true rfl rfl
theorem Sys2Proof.Laws.Kind.errorDetected : Sys2Proof.Laws.Kind.Statement .errorDetected := iff_of_true rfl rfl
theorem Sys2Proof.Laws.Kind.deviceReset : Sys2Proof.Laws.Kind.Statement .deviceReset := iff_of_true rfl rfl
theorem Sys2Proof.Laws.Kind.divideUnitResult : Sys2Proof.Laws.Kind.Statement .divideUnitResult := iff_of_true rfl rfl
theorem Sys2Proof.Laws.Kind.loadedValueArrives : Sys2Proof.Laws.Kind.Statement .loadedValueArrives := iff_of_true rfl rfl
theorem Sys2Proof.Laws.Kind.ldwComplete : Sys2Proof.Laws.Kind.Statement .ldwComplete := iff_of_true rfl rfl
theorem Sys2Proof.Laws.Kind.targetedTestEnd : Sys2Proof.Laws.Kind.Statement .targetedTestEnd := iff_of_true rfl rfl
theorem Sys2Proof.Laws.Kind.remoteRdmaWrite : Sys2Proof.Laws.Kind.Statement .remoteRdmaWrite := iff_of_true rfl rfl
theorem Sys2Proof.Laws.Kind.remoteRdmaRead : Sys2Proof.Laws.Kind.Statement .remoteRdmaRead := iff_of_true rfl rfl
end

