-- ==== Sys2Proof/Laws/State.lean ====
section
/-! SUPPORT. The state: for each named update, what it leaves unchanged, field by field, and what it writes. -/

namespace Sys2Proof.Machine

/-- A write of a `c` register changes that bank and the late results, and nothing else. -/
@[simp] theorem State.setC_rest (s : State) (r : CReg) (x : Word) :
    (s.setC r x).t = s.t ∧ (s.setC r x).u = s.u ∧ (s.setC r x).trace = s.trace ∧
    (s.setC r x).port = s.port ∧ (s.setC r x).vp = s.vp ∧ (s.setC r x).ev = s.ev ∧
    (s.setC r x).groups = s.groups ∧ (s.setC r x).teams = s.teams ∧ (s.setC r x).mats = s.mats ∧
    (s.setC r x).dies = s.dies ∧ (s.setC r x).ctxs = s.ctxs ∧ (s.setC r x).parts = s.parts ∧
    (s.setC r x).partSize = s.partSize ∧ (s.setC r x).partsSet = s.partsSet ∧ (s.setC r x).tasks = s.tasks ∧
    (s.setC r x).graphs = s.graphs ∧ (s.setC r x).areas = s.areas ∧ (s.setC r x).ops = s.ops ∧
    (s.setC r x).pend = s.pend ∧ (s.setC r x).pivots = s.pivots ∧ (s.setC r x).pwaits = s.pwaits ∧
    (s.setC r x).tlb = s.tlb ∧ (s.setC r x).wcache = s.wcache ∧ (s.setC r x).amos = s.amos ∧
    (s.setC r x).hbm = s.hbm ∧ (s.setC r x).wstore = s.wstore ∧ (s.setC r x).poison = s.poison ∧
    (s.setC r x).wpoison = s.wpoison ∧ (s.setC r x).lkeys = s.lkeys ∧ (s.setC r x).ekeys = s.ekeys ∧
    (s.setC r x).veils = s.veils ∧ (s.setC r x).keys = s.keys ∧ (s.setC r x).msgs = s.msgs ∧
    (s.setC r x).held = s.held ∧ (s.setC r x).nodeId = s.nodeId ∧ (s.setC r x).nodeSet = s.nodeSet ∧
    (s.setC r x).hosts = s.hosts ∧ (s.setC r x).enrolled = s.enrolled ∧ (s.setC r x).fwOk = s.fwOk ∧
    (s.setC r x).toHost = s.toHost ∧ (s.setC r x).agenda = s.agenda ∧ (s.setC r x).turns = s.turns ∧
    (s.setC r x).pick = s.pick ∧ (s.setC r x).due = s.due ∧ (s.setC r x).fresh = s.fresh ∧
    (s.setC r x).nextId = s.nextId ∧ (s.setC r x).g.id = s.g.id ∧ (s.setC r x).g.team = s.g.team ∧
    (s.setC r x).g.role = s.g.role ∧ (s.setC r x).g.num = s.g.num ∧ (s.setC r x).g.sector = s.g.sector ∧
    (s.setC r x).g.run = s.g.run ∧ (s.setC r x).g.offSlot = s.g.offSlot ∧ (s.setC r x).g.cwait = s.g.cwait ∧
    (s.setC r x).g.pwait = s.g.pwait ∧ (s.setC r x).g.pc = s.g.pc ∧ (s.setC r x).g.grant = s.g.grant ∧
    (s.setC r x).g.budget = s.g.budget ∧ (s.setC r x).g.vl = s.g.vl ∧ (s.setC r x).g.vst = s.g.vst ∧
    (s.setC r x).g.sticky = s.g.sticky ∧ (s.setC r x).g.rm = s.g.rm ∧ (s.setC r x).g.awb = s.g.awb ∧
    (s.setC r x).g.awl = s.g.awl ∧ (s.setC r x).g.smap = s.g.smap ∧ (s.setC r x).g.spr = s.g.spr ∧
    (s.setC r x).g.splc = s.g.splc ∧ (s.setC r x).g.rot = s.g.rot ∧ (s.setC r x).g.lfree = s.g.lfree ∧
    (s.setC r x).g.req = s.g.req ∧ (s.setC r x).g.small = s.g.small ∧ (s.setC r x).g.loop = s.g.loop ∧
    (s.setC r x).g.kfirst = s.g.kfirst ∧ (s.setC r x).g.klast = s.g.klast ∧ (s.setC r x).g.nst = s.g.nst ∧
    (s.setC r x).g.pfx = s.g.pfx ∧ (s.setC r x).g.fbuf = s.g.fbuf ∧ (s.setC r x).g.ran = s.g.ran ∧
    (s.setC r x).g.lateUnits = s.g.lateUnits ∧ (s.setC r x).g.lateRest = s.g.lateRest ∧ (s.setC r x).g.seq = s.g.seq ∧
    (s.setC r x).g.shades = s.g.shades ∧ (s.setC r x).g.v = s.g.v ∧ (s.setC r x).g.vm = s.g.vm ∧
    (s.setC r x).g.vo = s.g.vo ∧ (s.setC r x).g.j = s.g.j ∧ (s.setC r x).g.streams = s.g.streams ∧
    (s.setC r x).g.inlet = s.g.inlet ∧ (s.setC r x).g.outlet = s.g.outlet ∧ (s.setC r x).g.links = s.g.links ∧
    (s.setC r x).g.vps = s.g.vps ∧ (s.setC r x).g.turnPcs = s.g.turnPcs ∧ (s.setC r x).g.viq = s.g.viq ∧
    (s.setC r x).g.dead = s.g.dead ∧ (s.setC r x).g.mflags = s.g.mflags ∧ (s.setC r x).g.holds = s.g.holds ∧
    (s.setC r x).g.slots = s.g.slots ∧ (s.setC r x).g.taken = s.g.taken ∧ (s.setC r x).g.rpoison = s.g.rpoison ∧
    (s.setC r x).g.testSel = s.g.testSel ∧ (s.setC r x).g.testClk = s.g.testClk ∧ (s.setC r x).g.area = s.g.area ∧
    (s.setC r x).g.areaCtx = s.g.areaCtx ∧ (s.setC r x).g.nfac = s.g.nfac ∧ (s.setC r x).g.sgid = s.g.sgid ∧
    (s.setC r x).g.sctl = s.g.sctl ∧ (s.setC r x).g.sctx = s.g.sctx ∧ (s.setC r x).g.lastTrap = s.g.lastTrap := by
  unfold State.setC
  split <;> and_intros <;> rfl

/-- Raising flags changes the sticky bits alone. -/
@[simp] theorem State.raise_rest (s : State) (f : Sticky) :
    (s.raise f).t = s.t ∧ (s.raise f).u = s.u ∧ (s.raise f).trace = s.trace ∧
    (s.raise f).port = s.port ∧ (s.raise f).vp = s.vp ∧ (s.raise f).ev = s.ev ∧
    (s.raise f).groups = s.groups ∧ (s.raise f).teams = s.teams ∧ (s.raise f).mats = s.mats ∧
    (s.raise f).dies = s.dies ∧ (s.raise f).ctxs = s.ctxs ∧ (s.raise f).parts = s.parts ∧
    (s.raise f).partSize = s.partSize ∧ (s.raise f).partsSet = s.partsSet ∧ (s.raise f).tasks = s.tasks ∧
    (s.raise f).graphs = s.graphs ∧ (s.raise f).areas = s.areas ∧ (s.raise f).ops = s.ops ∧
    (s.raise f).pend = s.pend ∧ (s.raise f).pivots = s.pivots ∧ (s.raise f).pwaits = s.pwaits ∧
    (s.raise f).tlb = s.tlb ∧ (s.raise f).wcache = s.wcache ∧ (s.raise f).amos = s.amos ∧
    (s.raise f).hbm = s.hbm ∧ (s.raise f).wstore = s.wstore ∧ (s.raise f).poison = s.poison ∧
    (s.raise f).wpoison = s.wpoison ∧ (s.raise f).lkeys = s.lkeys ∧ (s.raise f).ekeys = s.ekeys ∧
    (s.raise f).veils = s.veils ∧ (s.raise f).keys = s.keys ∧ (s.raise f).msgs = s.msgs ∧
    (s.raise f).held = s.held ∧ (s.raise f).nodeId = s.nodeId ∧ (s.raise f).nodeSet = s.nodeSet ∧
    (s.raise f).hosts = s.hosts ∧ (s.raise f).enrolled = s.enrolled ∧ (s.raise f).fwOk = s.fwOk ∧
    (s.raise f).toHost = s.toHost ∧ (s.raise f).agenda = s.agenda ∧ (s.raise f).turns = s.turns ∧
    (s.raise f).pick = s.pick ∧ (s.raise f).due = s.due ∧ (s.raise f).fresh = s.fresh ∧
    (s.raise f).nextId = s.nextId ∧ (s.raise f).g.id = s.g.id ∧ (s.raise f).g.team = s.g.team ∧
    (s.raise f).g.role = s.g.role ∧ (s.raise f).g.num = s.g.num ∧ (s.raise f).g.sector = s.g.sector ∧
    (s.raise f).g.run = s.g.run ∧ (s.raise f).g.offSlot = s.g.offSlot ∧ (s.raise f).g.cwait = s.g.cwait ∧
    (s.raise f).g.pwait = s.g.pwait ∧ (s.raise f).g.c = s.g.c ∧ (s.raise f).g.pc = s.g.pc ∧
    (s.raise f).g.grant = s.g.grant ∧ (s.raise f).g.budget = s.g.budget ∧ (s.raise f).g.vl = s.g.vl ∧
    (s.raise f).g.vst = s.g.vst ∧ (s.raise f).g.rm = s.g.rm ∧ (s.raise f).g.awb = s.g.awb ∧
    (s.raise f).g.awl = s.g.awl ∧ (s.raise f).g.smap = s.g.smap ∧ (s.raise f).g.spr = s.g.spr ∧
    (s.raise f).g.splc = s.g.splc ∧ (s.raise f).g.rot = s.g.rot ∧ (s.raise f).g.lfree = s.g.lfree ∧
    (s.raise f).g.req = s.g.req ∧ (s.raise f).g.small = s.g.small ∧ (s.raise f).g.loop = s.g.loop ∧
    (s.raise f).g.kfirst = s.g.kfirst ∧ (s.raise f).g.klast = s.g.klast ∧ (s.raise f).g.nst = s.g.nst ∧
    (s.raise f).g.pfx = s.g.pfx ∧ (s.raise f).g.fbuf = s.g.fbuf ∧ (s.raise f).g.ran = s.g.ran ∧
    (s.raise f).g.late = s.g.late ∧ (s.raise f).g.lateUnits = s.g.lateUnits ∧ (s.raise f).g.lateRest = s.g.lateRest ∧
    (s.raise f).g.seq = s.g.seq ∧ (s.raise f).g.shades = s.g.shades ∧ (s.raise f).g.v = s.g.v ∧
    (s.raise f).g.vm = s.g.vm ∧ (s.raise f).g.vo = s.g.vo ∧ (s.raise f).g.j = s.g.j ∧
    (s.raise f).g.streams = s.g.streams ∧ (s.raise f).g.inlet = s.g.inlet ∧ (s.raise f).g.outlet = s.g.outlet ∧
    (s.raise f).g.links = s.g.links ∧ (s.raise f).g.vps = s.g.vps ∧ (s.raise f).g.turnPcs = s.g.turnPcs ∧
    (s.raise f).g.viq = s.g.viq ∧ (s.raise f).g.dead = s.g.dead ∧ (s.raise f).g.mflags = s.g.mflags ∧
    (s.raise f).g.holds = s.g.holds ∧ (s.raise f).g.slots = s.g.slots ∧ (s.raise f).g.taken = s.g.taken ∧
    (s.raise f).g.rpoison = s.g.rpoison ∧ (s.raise f).g.testSel = s.g.testSel ∧ (s.raise f).g.testClk = s.g.testClk ∧
    (s.raise f).g.area = s.g.area ∧ (s.raise f).g.areaCtx = s.g.areaCtx ∧ (s.raise f).g.nfac = s.g.nfac ∧
    (s.raise f).g.sgid = s.g.sgid ∧ (s.raise f).g.sctl = s.g.sctl ∧ (s.raise f).g.sctx = s.g.sctx ∧
    (s.raise f).g.lastTrap = s.g.lastTrap := by
  and_intros <;> rfl

/-- A transfer of control changes the program counter alone. -/
@[simp] theorem State.jump_rest (s : State) (a : Word) :
    (s.jump a).t = s.t ∧ (s.jump a).u = s.u ∧ (s.jump a).trace = s.trace ∧
    (s.jump a).port = s.port ∧ (s.jump a).vp = s.vp ∧ (s.jump a).ev = s.ev ∧
    (s.jump a).groups = s.groups ∧ (s.jump a).teams = s.teams ∧ (s.jump a).mats = s.mats ∧
    (s.jump a).dies = s.dies ∧ (s.jump a).ctxs = s.ctxs ∧ (s.jump a).parts = s.parts ∧
    (s.jump a).partSize = s.partSize ∧ (s.jump a).partsSet = s.partsSet ∧ (s.jump a).tasks = s.tasks ∧
    (s.jump a).graphs = s.graphs ∧ (s.jump a).areas = s.areas ∧ (s.jump a).ops = s.ops ∧
    (s.jump a).pend = s.pend ∧ (s.jump a).pivots = s.pivots ∧ (s.jump a).pwaits = s.pwaits ∧
    (s.jump a).tlb = s.tlb ∧ (s.jump a).wcache = s.wcache ∧ (s.jump a).amos = s.amos ∧
    (s.jump a).hbm = s.hbm ∧ (s.jump a).wstore = s.wstore ∧ (s.jump a).poison = s.poison ∧
    (s.jump a).wpoison = s.wpoison ∧ (s.jump a).lkeys = s.lkeys ∧ (s.jump a).ekeys = s.ekeys ∧
    (s.jump a).veils = s.veils ∧ (s.jump a).keys = s.keys ∧ (s.jump a).msgs = s.msgs ∧
    (s.jump a).held = s.held ∧ (s.jump a).nodeId = s.nodeId ∧ (s.jump a).nodeSet = s.nodeSet ∧
    (s.jump a).hosts = s.hosts ∧ (s.jump a).enrolled = s.enrolled ∧ (s.jump a).fwOk = s.fwOk ∧
    (s.jump a).toHost = s.toHost ∧ (s.jump a).agenda = s.agenda ∧ (s.jump a).turns = s.turns ∧
    (s.jump a).pick = s.pick ∧ (s.jump a).due = s.due ∧ (s.jump a).fresh = s.fresh ∧
    (s.jump a).nextId = s.nextId ∧ (s.jump a).g.id = s.g.id ∧ (s.jump a).g.team = s.g.team ∧
    (s.jump a).g.role = s.g.role ∧ (s.jump a).g.num = s.g.num ∧ (s.jump a).g.sector = s.g.sector ∧
    (s.jump a).g.run = s.g.run ∧ (s.jump a).g.offSlot = s.g.offSlot ∧ (s.jump a).g.cwait = s.g.cwait ∧
    (s.jump a).g.pwait = s.g.pwait ∧ (s.jump a).g.c = s.g.c ∧ (s.jump a).g.grant = s.g.grant ∧
    (s.jump a).g.budget = s.g.budget ∧ (s.jump a).g.vl = s.g.vl ∧ (s.jump a).g.vst = s.g.vst ∧
    (s.jump a).g.sticky = s.g.sticky ∧ (s.jump a).g.rm = s.g.rm ∧ (s.jump a).g.awb = s.g.awb ∧
    (s.jump a).g.awl = s.g.awl ∧ (s.jump a).g.smap = s.g.smap ∧ (s.jump a).g.spr = s.g.spr ∧
    (s.jump a).g.splc = s.g.splc ∧ (s.jump a).g.rot = s.g.rot ∧ (s.jump a).g.lfree = s.g.lfree ∧
    (s.jump a).g.req = s.g.req ∧ (s.jump a).g.small = s.g.small ∧ (s.jump a).g.loop = s.g.loop ∧
    (s.jump a).g.kfirst = s.g.kfirst ∧ (s.jump a).g.klast = s.g.klast ∧ (s.jump a).g.nst = s.g.nst ∧
    (s.jump a).g.pfx = s.g.pfx ∧ (s.jump a).g.fbuf = s.g.fbuf ∧ (s.jump a).g.ran = s.g.ran ∧
    (s.jump a).g.late = s.g.late ∧ (s.jump a).g.lateUnits = s.g.lateUnits ∧ (s.jump a).g.lateRest = s.g.lateRest ∧
    (s.jump a).g.seq = s.g.seq ∧ (s.jump a).g.shades = s.g.shades ∧ (s.jump a).g.v = s.g.v ∧
    (s.jump a).g.vm = s.g.vm ∧ (s.jump a).g.vo = s.g.vo ∧ (s.jump a).g.j = s.g.j ∧
    (s.jump a).g.streams = s.g.streams ∧ (s.jump a).g.inlet = s.g.inlet ∧ (s.jump a).g.outlet = s.g.outlet ∧
    (s.jump a).g.links = s.g.links ∧ (s.jump a).g.vps = s.g.vps ∧ (s.jump a).g.turnPcs = s.g.turnPcs ∧
    (s.jump a).g.viq = s.g.viq ∧ (s.jump a).g.dead = s.g.dead ∧ (s.jump a).g.mflags = s.g.mflags ∧
    (s.jump a).g.holds = s.g.holds ∧ (s.jump a).g.slots = s.g.slots ∧ (s.jump a).g.taken = s.g.taken ∧
    (s.jump a).g.rpoison = s.g.rpoison ∧ (s.jump a).g.testSel = s.g.testSel ∧ (s.jump a).g.testClk = s.g.testClk ∧
    (s.jump a).g.area = s.g.area ∧ (s.jump a).g.areaCtx = s.g.areaCtx ∧ (s.jump a).g.nfac = s.g.nfac ∧
    (s.jump a).g.sgid = s.g.sgid ∧ (s.jump a).g.sctl = s.g.sctl ∧ (s.jump a).g.sctx = s.g.sctx ∧
    (s.jump a).g.lastTrap = s.g.lastTrap := by
  and_intros <;> rfl

/-- Delivering a result, at once or late, changes that bank and the late results alone. -/
@[simp] theorem State.setLate_rest (s : State) (d : CReg) (x : Word) (la : Nat) (b : Bool) :
    (s.setLate d x la b).t = s.t ∧ (s.setLate d x la b).u = s.u ∧ (s.setLate d x la b).trace = s.trace ∧
    (s.setLate d x la b).port = s.port ∧ (s.setLate d x la b).vp = s.vp ∧ (s.setLate d x la b).ev = s.ev ∧
    (s.setLate d x la b).groups = s.groups ∧ (s.setLate d x la b).teams = s.teams ∧ (s.setLate d x la b).mats = s.mats ∧
    (s.setLate d x la b).dies = s.dies ∧ (s.setLate d x la b).ctxs = s.ctxs ∧ (s.setLate d x la b).parts = s.parts ∧
    (s.setLate d x la b).partSize = s.partSize ∧ (s.setLate d x la b).partsSet = s.partsSet ∧ (s.setLate d x la b).tasks = s.tasks ∧
    (s.setLate d x la b).graphs = s.graphs ∧ (s.setLate d x la b).areas = s.areas ∧ (s.setLate d x la b).ops = s.ops ∧
    (s.setLate d x la b).pend = s.pend ∧ (s.setLate d x la b).pivots = s.pivots ∧ (s.setLate d x la b).pwaits = s.pwaits ∧
    (s.setLate d x la b).tlb = s.tlb ∧ (s.setLate d x la b).wcache = s.wcache ∧ (s.setLate d x la b).amos = s.amos ∧
    (s.setLate d x la b).hbm = s.hbm ∧ (s.setLate d x la b).wstore = s.wstore ∧ (s.setLate d x la b).poison = s.poison ∧
    (s.setLate d x la b).wpoison = s.wpoison ∧ (s.setLate d x la b).lkeys = s.lkeys ∧ (s.setLate d x la b).ekeys = s.ekeys ∧
    (s.setLate d x la b).veils = s.veils ∧ (s.setLate d x la b).keys = s.keys ∧ (s.setLate d x la b).msgs = s.msgs ∧
    (s.setLate d x la b).held = s.held ∧ (s.setLate d x la b).nodeId = s.nodeId ∧ (s.setLate d x la b).nodeSet = s.nodeSet ∧
    (s.setLate d x la b).hosts = s.hosts ∧ (s.setLate d x la b).enrolled = s.enrolled ∧ (s.setLate d x la b).fwOk = s.fwOk ∧
    (s.setLate d x la b).toHost = s.toHost ∧ (s.setLate d x la b).agenda = s.agenda ∧ (s.setLate d x la b).turns = s.turns ∧
    (s.setLate d x la b).pick = s.pick ∧ (s.setLate d x la b).due = s.due ∧ (s.setLate d x la b).fresh = s.fresh ∧
    (s.setLate d x la b).nextId = s.nextId ∧ (s.setLate d x la b).g.id = s.g.id ∧ (s.setLate d x la b).g.team = s.g.team ∧
    (s.setLate d x la b).g.role = s.g.role ∧ (s.setLate d x la b).g.num = s.g.num ∧ (s.setLate d x la b).g.sector = s.g.sector ∧
    (s.setLate d x la b).g.run = s.g.run ∧ (s.setLate d x la b).g.offSlot = s.g.offSlot ∧ (s.setLate d x la b).g.cwait = s.g.cwait ∧
    (s.setLate d x la b).g.pwait = s.g.pwait ∧ (s.setLate d x la b).g.pc = s.g.pc ∧ (s.setLate d x la b).g.grant = s.g.grant ∧
    (s.setLate d x la b).g.budget = s.g.budget ∧ (s.setLate d x la b).g.vl = s.g.vl ∧ (s.setLate d x la b).g.vst = s.g.vst ∧
    (s.setLate d x la b).g.sticky = s.g.sticky ∧ (s.setLate d x la b).g.rm = s.g.rm ∧ (s.setLate d x la b).g.awb = s.g.awb ∧
    (s.setLate d x la b).g.awl = s.g.awl ∧ (s.setLate d x la b).g.smap = s.g.smap ∧ (s.setLate d x la b).g.spr = s.g.spr ∧
    (s.setLate d x la b).g.splc = s.g.splc ∧ (s.setLate d x la b).g.rot = s.g.rot ∧ (s.setLate d x la b).g.lfree = s.g.lfree ∧
    (s.setLate d x la b).g.req = s.g.req ∧ (s.setLate d x la b).g.small = s.g.small ∧ (s.setLate d x la b).g.loop = s.g.loop ∧
    (s.setLate d x la b).g.kfirst = s.g.kfirst ∧ (s.setLate d x la b).g.klast = s.g.klast ∧ (s.setLate d x la b).g.nst = s.g.nst ∧
    (s.setLate d x la b).g.pfx = s.g.pfx ∧ (s.setLate d x la b).g.fbuf = s.g.fbuf ∧ (s.setLate d x la b).g.ran = s.g.ran ∧
    (s.setLate d x la b).g.lateUnits = s.g.lateUnits ∧ (s.setLate d x la b).g.lateRest = s.g.lateRest ∧ (s.setLate d x la b).g.seq = s.g.seq ∧
    (s.setLate d x la b).g.shades = s.g.shades ∧ (s.setLate d x la b).g.v = s.g.v ∧ (s.setLate d x la b).g.vm = s.g.vm ∧
    (s.setLate d x la b).g.vo = s.g.vo ∧ (s.setLate d x la b).g.j = s.g.j ∧ (s.setLate d x la b).g.streams = s.g.streams ∧
    (s.setLate d x la b).g.inlet = s.g.inlet ∧ (s.setLate d x la b).g.outlet = s.g.outlet ∧ (s.setLate d x la b).g.links = s.g.links ∧
    (s.setLate d x la b).g.vps = s.g.vps ∧ (s.setLate d x la b).g.turnPcs = s.g.turnPcs ∧ (s.setLate d x la b).g.viq = s.g.viq ∧
    (s.setLate d x la b).g.dead = s.g.dead ∧ (s.setLate d x la b).g.mflags = s.g.mflags ∧ (s.setLate d x la b).g.holds = s.g.holds ∧
    (s.setLate d x la b).g.slots = s.g.slots ∧ (s.setLate d x la b).g.taken = s.g.taken ∧ (s.setLate d x la b).g.rpoison = s.g.rpoison ∧
    (s.setLate d x la b).g.testSel = s.g.testSel ∧ (s.setLate d x la b).g.testClk = s.g.testClk ∧ (s.setLate d x la b).g.area = s.g.area ∧
    (s.setLate d x la b).g.areaCtx = s.g.areaCtx ∧ (s.setLate d x la b).g.nfac = s.g.nfac ∧ (s.setLate d x la b).g.sgid = s.g.sgid ∧
    (s.setLate d x la b).g.sctl = s.g.sctl ∧ (s.setLate d x la b).g.sctx = s.g.sctx ∧ (s.setLate d x la b).g.lastTrap = s.g.lastTrap := by
  unfold State.setLate
  split
  · exact State.setC_rest s d x
  · and_intros <;> rfl

/-- A write of a vector register changes the vector registers alone. -/
@[simp] theorem State.setVphys_rest (s : State) (n x : Nat) :
    (s.setVphys n x).t = s.t ∧ (s.setVphys n x).u = s.u ∧ (s.setVphys n x).trace = s.trace ∧
    (s.setVphys n x).port = s.port ∧ (s.setVphys n x).vp = s.vp ∧ (s.setVphys n x).ev = s.ev ∧
    (s.setVphys n x).groups = s.groups ∧ (s.setVphys n x).teams = s.teams ∧ (s.setVphys n x).mats = s.mats ∧
    (s.setVphys n x).dies = s.dies ∧ (s.setVphys n x).ctxs = s.ctxs ∧ (s.setVphys n x).parts = s.parts ∧
    (s.setVphys n x).partSize = s.partSize ∧ (s.setVphys n x).partsSet = s.partsSet ∧ (s.setVphys n x).tasks = s.tasks ∧
    (s.setVphys n x).graphs = s.graphs ∧ (s.setVphys n x).areas = s.areas ∧ (s.setVphys n x).ops = s.ops ∧
    (s.setVphys n x).pend = s.pend ∧ (s.setVphys n x).pivots = s.pivots ∧ (s.setVphys n x).pwaits = s.pwaits ∧
    (s.setVphys n x).tlb = s.tlb ∧ (s.setVphys n x).wcache = s.wcache ∧ (s.setVphys n x).amos = s.amos ∧
    (s.setVphys n x).hbm = s.hbm ∧ (s.setVphys n x).wstore = s.wstore ∧ (s.setVphys n x).poison = s.poison ∧
    (s.setVphys n x).wpoison = s.wpoison ∧ (s.setVphys n x).lkeys = s.lkeys ∧ (s.setVphys n x).ekeys = s.ekeys ∧
    (s.setVphys n x).veils = s.veils ∧ (s.setVphys n x).keys = s.keys ∧ (s.setVphys n x).msgs = s.msgs ∧
    (s.setVphys n x).held = s.held ∧ (s.setVphys n x).nodeId = s.nodeId ∧ (s.setVphys n x).nodeSet = s.nodeSet ∧
    (s.setVphys n x).hosts = s.hosts ∧ (s.setVphys n x).enrolled = s.enrolled ∧ (s.setVphys n x).fwOk = s.fwOk ∧
    (s.setVphys n x).toHost = s.toHost ∧ (s.setVphys n x).agenda = s.agenda ∧ (s.setVphys n x).turns = s.turns ∧
    (s.setVphys n x).pick = s.pick ∧ (s.setVphys n x).due = s.due ∧ (s.setVphys n x).fresh = s.fresh ∧
    (s.setVphys n x).nextId = s.nextId ∧ (s.setVphys n x).g.id = s.g.id ∧ (s.setVphys n x).g.team = s.g.team ∧
    (s.setVphys n x).g.role = s.g.role ∧ (s.setVphys n x).g.num = s.g.num ∧ (s.setVphys n x).g.sector = s.g.sector ∧
    (s.setVphys n x).g.run = s.g.run ∧ (s.setVphys n x).g.offSlot = s.g.offSlot ∧ (s.setVphys n x).g.cwait = s.g.cwait ∧
    (s.setVphys n x).g.pwait = s.g.pwait ∧ (s.setVphys n x).g.c = s.g.c ∧ (s.setVphys n x).g.pc = s.g.pc ∧
    (s.setVphys n x).g.grant = s.g.grant ∧ (s.setVphys n x).g.budget = s.g.budget ∧ (s.setVphys n x).g.vl = s.g.vl ∧
    (s.setVphys n x).g.vst = s.g.vst ∧ (s.setVphys n x).g.sticky = s.g.sticky ∧ (s.setVphys n x).g.rm = s.g.rm ∧
    (s.setVphys n x).g.awb = s.g.awb ∧ (s.setVphys n x).g.awl = s.g.awl ∧ (s.setVphys n x).g.smap = s.g.smap ∧
    (s.setVphys n x).g.spr = s.g.spr ∧ (s.setVphys n x).g.splc = s.g.splc ∧ (s.setVphys n x).g.rot = s.g.rot ∧
    (s.setVphys n x).g.lfree = s.g.lfree ∧ (s.setVphys n x).g.req = s.g.req ∧ (s.setVphys n x).g.small = s.g.small ∧
    (s.setVphys n x).g.loop = s.g.loop ∧ (s.setVphys n x).g.kfirst = s.g.kfirst ∧ (s.setVphys n x).g.klast = s.g.klast ∧
    (s.setVphys n x).g.nst = s.g.nst ∧ (s.setVphys n x).g.pfx = s.g.pfx ∧ (s.setVphys n x).g.fbuf = s.g.fbuf ∧
    (s.setVphys n x).g.ran = s.g.ran ∧ (s.setVphys n x).g.late = s.g.late ∧ (s.setVphys n x).g.lateUnits = s.g.lateUnits ∧
    (s.setVphys n x).g.lateRest = s.g.lateRest ∧ (s.setVphys n x).g.seq = s.g.seq ∧ (s.setVphys n x).g.shades = s.g.shades ∧
    (s.setVphys n x).g.vm = s.g.vm ∧ (s.setVphys n x).g.vo = s.g.vo ∧ (s.setVphys n x).g.j = s.g.j ∧
    (s.setVphys n x).g.streams = s.g.streams ∧ (s.setVphys n x).g.inlet = s.g.inlet ∧ (s.setVphys n x).g.outlet = s.g.outlet ∧
    (s.setVphys n x).g.links = s.g.links ∧ (s.setVphys n x).g.vps = s.g.vps ∧ (s.setVphys n x).g.turnPcs = s.g.turnPcs ∧
    (s.setVphys n x).g.viq = s.g.viq ∧ (s.setVphys n x).g.dead = s.g.dead ∧ (s.setVphys n x).g.mflags = s.g.mflags ∧
    (s.setVphys n x).g.holds = s.g.holds ∧ (s.setVphys n x).g.slots = s.g.slots ∧ (s.setVphys n x).g.taken = s.g.taken ∧
    (s.setVphys n x).g.rpoison = s.g.rpoison ∧ (s.setVphys n x).g.testSel = s.g.testSel ∧ (s.setVphys n x).g.testClk = s.g.testClk ∧
    (s.setVphys n x).g.area = s.g.area ∧ (s.setVphys n x).g.areaCtx = s.g.areaCtx ∧ (s.setVphys n x).g.nfac = s.g.nfac ∧
    (s.setVphys n x).g.sgid = s.g.sgid ∧ (s.setVphys n x).g.sctl = s.g.sctl ∧ (s.setVphys n x).g.sctx = s.g.sctx ∧
    (s.setVphys n x).g.lastTrap = s.g.lastTrap := by
  and_intros <;> rfl

/-- Setting bits of `vo` changes `vo`, and the note of it, alone. -/
@[simp] theorem State.setVo_rest (s : State) (l : List Nat) :
    (s.setVo l).t = s.t ∧ (s.setVo l).u = s.u ∧ (s.setVo l).port = s.port ∧
    (s.setVo l).vp = s.vp ∧ (s.setVo l).ev = s.ev ∧ (s.setVo l).groups = s.groups ∧
    (s.setVo l).teams = s.teams ∧ (s.setVo l).mats = s.mats ∧ (s.setVo l).dies = s.dies ∧
    (s.setVo l).ctxs = s.ctxs ∧ (s.setVo l).parts = s.parts ∧ (s.setVo l).partSize = s.partSize ∧
    (s.setVo l).partsSet = s.partsSet ∧ (s.setVo l).tasks = s.tasks ∧ (s.setVo l).graphs = s.graphs ∧
    (s.setVo l).areas = s.areas ∧ (s.setVo l).ops = s.ops ∧ (s.setVo l).pend = s.pend ∧
    (s.setVo l).pivots = s.pivots ∧ (s.setVo l).pwaits = s.pwaits ∧ (s.setVo l).tlb = s.tlb ∧
    (s.setVo l).wcache = s.wcache ∧ (s.setVo l).amos = s.amos ∧ (s.setVo l).hbm = s.hbm ∧
    (s.setVo l).wstore = s.wstore ∧ (s.setVo l).poison = s.poison ∧ (s.setVo l).wpoison = s.wpoison ∧
    (s.setVo l).lkeys = s.lkeys ∧ (s.setVo l).ekeys = s.ekeys ∧ (s.setVo l).veils = s.veils ∧
    (s.setVo l).keys = s.keys ∧ (s.setVo l).msgs = s.msgs ∧ (s.setVo l).held = s.held ∧
    (s.setVo l).nodeId = s.nodeId ∧ (s.setVo l).nodeSet = s.nodeSet ∧ (s.setVo l).hosts = s.hosts ∧
    (s.setVo l).enrolled = s.enrolled ∧ (s.setVo l).fwOk = s.fwOk ∧ (s.setVo l).toHost = s.toHost ∧
    (s.setVo l).agenda = s.agenda ∧ (s.setVo l).turns = s.turns ∧ (s.setVo l).pick = s.pick ∧
    (s.setVo l).due = s.due ∧ (s.setVo l).fresh = s.fresh ∧ (s.setVo l).nextId = s.nextId ∧
    (s.setVo l).g.id = s.g.id ∧ (s.setVo l).g.team = s.g.team ∧ (s.setVo l).g.role = s.g.role ∧
    (s.setVo l).g.num = s.g.num ∧ (s.setVo l).g.sector = s.g.sector ∧ (s.setVo l).g.run = s.g.run ∧
    (s.setVo l).g.offSlot = s.g.offSlot ∧ (s.setVo l).g.cwait = s.g.cwait ∧ (s.setVo l).g.pwait = s.g.pwait ∧
    (s.setVo l).g.c = s.g.c ∧ (s.setVo l).g.pc = s.g.pc ∧ (s.setVo l).g.grant = s.g.grant ∧
    (s.setVo l).g.budget = s.g.budget ∧ (s.setVo l).g.vl = s.g.vl ∧ (s.setVo l).g.vst = s.g.vst ∧
    (s.setVo l).g.sticky = s.g.sticky ∧ (s.setVo l).g.rm = s.g.rm ∧ (s.setVo l).g.awb = s.g.awb ∧
    (s.setVo l).g.awl = s.g.awl ∧ (s.setVo l).g.smap = s.g.smap ∧ (s.setVo l).g.spr = s.g.spr ∧
    (s.setVo l).g.splc = s.g.splc ∧ (s.setVo l).g.rot = s.g.rot ∧ (s.setVo l).g.lfree = s.g.lfree ∧
    (s.setVo l).g.req = s.g.req ∧ (s.setVo l).g.small = s.g.small ∧ (s.setVo l).g.loop = s.g.loop ∧
    (s.setVo l).g.kfirst = s.g.kfirst ∧ (s.setVo l).g.klast = s.g.klast ∧ (s.setVo l).g.nst = s.g.nst ∧
    (s.setVo l).g.pfx = s.g.pfx ∧ (s.setVo l).g.fbuf = s.g.fbuf ∧ (s.setVo l).g.ran = s.g.ran ∧
    (s.setVo l).g.late = s.g.late ∧ (s.setVo l).g.lateUnits = s.g.lateUnits ∧ (s.setVo l).g.lateRest = s.g.lateRest ∧
    (s.setVo l).g.seq = s.g.seq ∧ (s.setVo l).g.shades = s.g.shades ∧ (s.setVo l).g.v = s.g.v ∧
    (s.setVo l).g.vm = s.g.vm ∧ (s.setVo l).g.j = s.g.j ∧ (s.setVo l).g.streams = s.g.streams ∧
    (s.setVo l).g.inlet = s.g.inlet ∧ (s.setVo l).g.outlet = s.g.outlet ∧ (s.setVo l).g.links = s.g.links ∧
    (s.setVo l).g.vps = s.g.vps ∧ (s.setVo l).g.turnPcs = s.g.turnPcs ∧ (s.setVo l).g.viq = s.g.viq ∧
    (s.setVo l).g.dead = s.g.dead ∧ (s.setVo l).g.mflags = s.g.mflags ∧ (s.setVo l).g.holds = s.g.holds ∧
    (s.setVo l).g.slots = s.g.slots ∧ (s.setVo l).g.taken = s.g.taken ∧ (s.setVo l).g.rpoison = s.g.rpoison ∧
    (s.setVo l).g.testSel = s.g.testSel ∧ (s.setVo l).g.testClk = s.g.testClk ∧ (s.setVo l).g.area = s.g.area ∧
    (s.setVo l).g.areaCtx = s.g.areaCtx ∧ (s.setVo l).g.nfac = s.g.nfac ∧ (s.setVo l).g.sgid = s.g.sgid ∧
    (s.setVo l).g.sctl = s.g.sctl ∧ (s.setVo l).g.sctx = s.g.sctx ∧ (s.setVo l).g.lastTrap = s.g.lastTrap := by
  unfold State.setVo State.noteMask State.noteWrite
  split <;> and_intros <;> rfl

/-- Writing bits of `vm` changes `vm`, and the note of it, alone. -/
@[simp] theorem State.writeVm_rest (s : State) (l : List (Nat × Bool)) :
    (s.writeVm l).t = s.t ∧ (s.writeVm l).u = s.u ∧ (s.writeVm l).port = s.port ∧
    (s.writeVm l).vp = s.vp ∧ (s.writeVm l).ev = s.ev ∧ (s.writeVm l).groups = s.groups ∧
    (s.writeVm l).teams = s.teams ∧ (s.writeVm l).mats = s.mats ∧ (s.writeVm l).dies = s.dies ∧
    (s.writeVm l).ctxs = s.ctxs ∧ (s.writeVm l).parts = s.parts ∧ (s.writeVm l).partSize = s.partSize ∧
    (s.writeVm l).partsSet = s.partsSet ∧ (s.writeVm l).tasks = s.tasks ∧ (s.writeVm l).graphs = s.graphs ∧
    (s.writeVm l).areas = s.areas ∧ (s.writeVm l).ops = s.ops ∧ (s.writeVm l).pend = s.pend ∧
    (s.writeVm l).pivots = s.pivots ∧ (s.writeVm l).pwaits = s.pwaits ∧ (s.writeVm l).tlb = s.tlb ∧
    (s.writeVm l).wcache = s.wcache ∧ (s.writeVm l).amos = s.amos ∧ (s.writeVm l).hbm = s.hbm ∧
    (s.writeVm l).wstore = s.wstore ∧ (s.writeVm l).poison = s.poison ∧ (s.writeVm l).wpoison = s.wpoison ∧
    (s.writeVm l).lkeys = s.lkeys ∧ (s.writeVm l).ekeys = s.ekeys ∧ (s.writeVm l).veils = s.veils ∧
    (s.writeVm l).keys = s.keys ∧ (s.writeVm l).msgs = s.msgs ∧ (s.writeVm l).held = s.held ∧
    (s.writeVm l).nodeId = s.nodeId ∧ (s.writeVm l).nodeSet = s.nodeSet ∧ (s.writeVm l).hosts = s.hosts ∧
    (s.writeVm l).enrolled = s.enrolled ∧ (s.writeVm l).fwOk = s.fwOk ∧ (s.writeVm l).toHost = s.toHost ∧
    (s.writeVm l).agenda = s.agenda ∧ (s.writeVm l).turns = s.turns ∧ (s.writeVm l).pick = s.pick ∧
    (s.writeVm l).due = s.due ∧ (s.writeVm l).fresh = s.fresh ∧ (s.writeVm l).nextId = s.nextId ∧
    (s.writeVm l).g.id = s.g.id ∧ (s.writeVm l).g.team = s.g.team ∧ (s.writeVm l).g.role = s.g.role ∧
    (s.writeVm l).g.num = s.g.num ∧ (s.writeVm l).g.sector = s.g.sector ∧ (s.writeVm l).g.run = s.g.run ∧
    (s.writeVm l).g.offSlot = s.g.offSlot ∧ (s.writeVm l).g.cwait = s.g.cwait ∧ (s.writeVm l).g.pwait = s.g.pwait ∧
    (s.writeVm l).g.c = s.g.c ∧ (s.writeVm l).g.pc = s.g.pc ∧ (s.writeVm l).g.grant = s.g.grant ∧
    (s.writeVm l).g.budget = s.g.budget ∧ (s.writeVm l).g.vl = s.g.vl ∧ (s.writeVm l).g.vst = s.g.vst ∧
    (s.writeVm l).g.sticky = s.g.sticky ∧ (s.writeVm l).g.rm = s.g.rm ∧ (s.writeVm l).g.awb = s.g.awb ∧
    (s.writeVm l).g.awl = s.g.awl ∧ (s.writeVm l).g.smap = s.g.smap ∧ (s.writeVm l).g.spr = s.g.spr ∧
    (s.writeVm l).g.splc = s.g.splc ∧ (s.writeVm l).g.rot = s.g.rot ∧ (s.writeVm l).g.lfree = s.g.lfree ∧
    (s.writeVm l).g.req = s.g.req ∧ (s.writeVm l).g.small = s.g.small ∧ (s.writeVm l).g.loop = s.g.loop ∧
    (s.writeVm l).g.kfirst = s.g.kfirst ∧ (s.writeVm l).g.klast = s.g.klast ∧ (s.writeVm l).g.nst = s.g.nst ∧
    (s.writeVm l).g.pfx = s.g.pfx ∧ (s.writeVm l).g.fbuf = s.g.fbuf ∧ (s.writeVm l).g.ran = s.g.ran ∧
    (s.writeVm l).g.late = s.g.late ∧ (s.writeVm l).g.lateUnits = s.g.lateUnits ∧ (s.writeVm l).g.lateRest = s.g.lateRest ∧
    (s.writeVm l).g.seq = s.g.seq ∧ (s.writeVm l).g.shades = s.g.shades ∧ (s.writeVm l).g.v = s.g.v ∧
    (s.writeVm l).g.vo = s.g.vo ∧ (s.writeVm l).g.j = s.g.j ∧ (s.writeVm l).g.streams = s.g.streams ∧
    (s.writeVm l).g.inlet = s.g.inlet ∧ (s.writeVm l).g.outlet = s.g.outlet ∧ (s.writeVm l).g.links = s.g.links ∧
    (s.writeVm l).g.vps = s.g.vps ∧ (s.writeVm l).g.turnPcs = s.g.turnPcs ∧ (s.writeVm l).g.viq = s.g.viq ∧
    (s.writeVm l).g.dead = s.g.dead ∧ (s.writeVm l).g.mflags = s.g.mflags ∧ (s.writeVm l).g.holds = s.g.holds ∧
    (s.writeVm l).g.slots = s.g.slots ∧ (s.writeVm l).g.taken = s.g.taken ∧ (s.writeVm l).g.rpoison = s.g.rpoison ∧
    (s.writeVm l).g.testSel = s.g.testSel ∧ (s.writeVm l).g.testClk = s.g.testClk ∧ (s.writeVm l).g.area = s.g.area ∧
    (s.writeVm l).g.areaCtx = s.g.areaCtx ∧ (s.writeVm l).g.nfac = s.g.nfac ∧ (s.writeVm l).g.sgid = s.g.sgid ∧
    (s.writeVm l).g.sctl = s.g.sctl ∧ (s.writeVm l).g.sctx = s.g.sctx ∧ (s.writeVm l).g.lastTrap = s.g.lastTrap := by
  unfold State.writeVm State.noteMask State.noteWrite
  split <;> and_intros <;> rfl

/-- Leaving a vector length changes `vl`, here and in waiting entries, alone. -/
@[simp] theorem State.leaveVl_rest (s : State) (v : BitVec 12) :
    (s.leaveVl v).t = s.t ∧ (s.leaveVl v).u = s.u ∧ (s.leaveVl v).trace = s.trace ∧
    (s.leaveVl v).port = s.port ∧ (s.leaveVl v).vp = s.vp ∧ (s.leaveVl v).ev = s.ev ∧
    (s.leaveVl v).groups = s.groups ∧ (s.leaveVl v).teams = s.teams ∧ (s.leaveVl v).mats = s.mats ∧
    (s.leaveVl v).dies = s.dies ∧ (s.leaveVl v).ctxs = s.ctxs ∧ (s.leaveVl v).parts = s.parts ∧
    (s.leaveVl v).partSize = s.partSize ∧ (s.leaveVl v).partsSet = s.partsSet ∧ (s.leaveVl v).tasks = s.tasks ∧
    (s.leaveVl v).graphs = s.graphs ∧ (s.leaveVl v).areas = s.areas ∧ (s.leaveVl v).ops = s.ops ∧
    (s.leaveVl v).pend = s.pend ∧ (s.leaveVl v).pivots = s.pivots ∧ (s.leaveVl v).pwaits = s.pwaits ∧
    (s.leaveVl v).tlb = s.tlb ∧ (s.leaveVl v).wcache = s.wcache ∧ (s.leaveVl v).amos = s.amos ∧
    (s.leaveVl v).hbm = s.hbm ∧ (s.leaveVl v).wstore = s.wstore ∧ (s.leaveVl v).poison = s.poison ∧
    (s.leaveVl v).wpoison = s.wpoison ∧ (s.leaveVl v).lkeys = s.lkeys ∧ (s.leaveVl v).ekeys = s.ekeys ∧
    (s.leaveVl v).veils = s.veils ∧ (s.leaveVl v).keys = s.keys ∧ (s.leaveVl v).msgs = s.msgs ∧
    (s.leaveVl v).held = s.held ∧ (s.leaveVl v).nodeId = s.nodeId ∧ (s.leaveVl v).nodeSet = s.nodeSet ∧
    (s.leaveVl v).hosts = s.hosts ∧ (s.leaveVl v).enrolled = s.enrolled ∧ (s.leaveVl v).fwOk = s.fwOk ∧
    (s.leaveVl v).toHost = s.toHost ∧ (s.leaveVl v).agenda = s.agenda ∧ (s.leaveVl v).turns = s.turns ∧
    (s.leaveVl v).pick = s.pick ∧ (s.leaveVl v).due = s.due ∧ (s.leaveVl v).fresh = s.fresh ∧
    (s.leaveVl v).nextId = s.nextId ∧ (s.leaveVl v).g.id = s.g.id ∧ (s.leaveVl v).g.team = s.g.team ∧
    (s.leaveVl v).g.role = s.g.role ∧ (s.leaveVl v).g.num = s.g.num ∧ (s.leaveVl v).g.sector = s.g.sector ∧
    (s.leaveVl v).g.run = s.g.run ∧ (s.leaveVl v).g.offSlot = s.g.offSlot ∧ (s.leaveVl v).g.cwait = s.g.cwait ∧
    (s.leaveVl v).g.pwait = s.g.pwait ∧ (s.leaveVl v).g.c = s.g.c ∧ (s.leaveVl v).g.pc = s.g.pc ∧
    (s.leaveVl v).g.grant = s.g.grant ∧ (s.leaveVl v).g.budget = s.g.budget ∧ (s.leaveVl v).g.vst = s.g.vst ∧
    (s.leaveVl v).g.sticky = s.g.sticky ∧ (s.leaveVl v).g.rm = s.g.rm ∧ (s.leaveVl v).g.awb = s.g.awb ∧
    (s.leaveVl v).g.awl = s.g.awl ∧ (s.leaveVl v).g.smap = s.g.smap ∧ (s.leaveVl v).g.spr = s.g.spr ∧
    (s.leaveVl v).g.splc = s.g.splc ∧ (s.leaveVl v).g.rot = s.g.rot ∧ (s.leaveVl v).g.lfree = s.g.lfree ∧
    (s.leaveVl v).g.req = s.g.req ∧ (s.leaveVl v).g.small = s.g.small ∧ (s.leaveVl v).g.loop = s.g.loop ∧
    (s.leaveVl v).g.kfirst = s.g.kfirst ∧ (s.leaveVl v).g.klast = s.g.klast ∧ (s.leaveVl v).g.nst = s.g.nst ∧
    (s.leaveVl v).g.pfx = s.g.pfx ∧ (s.leaveVl v).g.fbuf = s.g.fbuf ∧ (s.leaveVl v).g.ran = s.g.ran ∧
    (s.leaveVl v).g.late = s.g.late ∧ (s.leaveVl v).g.lateUnits = s.g.lateUnits ∧ (s.leaveVl v).g.lateRest = s.g.lateRest ∧
    (s.leaveVl v).g.seq = s.g.seq ∧ (s.leaveVl v).g.shades = s.g.shades ∧ (s.leaveVl v).g.v = s.g.v ∧
    (s.leaveVl v).g.vm = s.g.vm ∧ (s.leaveVl v).g.vo = s.g.vo ∧ (s.leaveVl v).g.j = s.g.j ∧
    (s.leaveVl v).g.streams = s.g.streams ∧ (s.leaveVl v).g.inlet = s.g.inlet ∧ (s.leaveVl v).g.outlet = s.g.outlet ∧
    (s.leaveVl v).g.links = s.g.links ∧ (s.leaveVl v).g.vps = s.g.vps ∧ (s.leaveVl v).g.turnPcs = s.g.turnPcs ∧
    (s.leaveVl v).g.dead = s.g.dead ∧ (s.leaveVl v).g.mflags = s.g.mflags ∧ (s.leaveVl v).g.holds = s.g.holds ∧
    (s.leaveVl v).g.slots = s.g.slots ∧ (s.leaveVl v).g.taken = s.g.taken ∧ (s.leaveVl v).g.rpoison = s.g.rpoison ∧
    (s.leaveVl v).g.testSel = s.g.testSel ∧ (s.leaveVl v).g.testClk = s.g.testClk ∧ (s.leaveVl v).g.area = s.g.area ∧
    (s.leaveVl v).g.areaCtx = s.g.areaCtx ∧ (s.leaveVl v).g.nfac = s.g.nfac ∧ (s.leaveVl v).g.sgid = s.g.sgid ∧
    (s.leaveVl v).g.sctl = s.g.sctl ∧ (s.leaveVl v).g.sctx = s.g.sctx ∧ (s.leaveVl v).g.lastTrap = s.g.lastTrap := by
  and_intros <;> rfl

/-- A write of a rejoin mask changes the masks alone. -/
@[simp] theorem State.setJ_rest (s : State) (k : Nat) (m : JMask) :
    (s.setJ k m).t = s.t ∧ (s.setJ k m).u = s.u ∧ (s.setJ k m).trace = s.trace ∧
    (s.setJ k m).port = s.port ∧ (s.setJ k m).vp = s.vp ∧ (s.setJ k m).ev = s.ev ∧
    (s.setJ k m).groups = s.groups ∧ (s.setJ k m).teams = s.teams ∧ (s.setJ k m).mats = s.mats ∧
    (s.setJ k m).dies = s.dies ∧ (s.setJ k m).ctxs = s.ctxs ∧ (s.setJ k m).parts = s.parts ∧
    (s.setJ k m).partSize = s.partSize ∧ (s.setJ k m).partsSet = s.partsSet ∧ (s.setJ k m).tasks = s.tasks ∧
    (s.setJ k m).graphs = s.graphs ∧ (s.setJ k m).areas = s.areas ∧ (s.setJ k m).ops = s.ops ∧
    (s.setJ k m).pend = s.pend ∧ (s.setJ k m).pivots = s.pivots ∧ (s.setJ k m).pwaits = s.pwaits ∧
    (s.setJ k m).tlb = s.tlb ∧ (s.setJ k m).wcache = s.wcache ∧ (s.setJ k m).amos = s.amos ∧
    (s.setJ k m).hbm = s.hbm ∧ (s.setJ k m).wstore = s.wstore ∧ (s.setJ k m).poison = s.poison ∧
    (s.setJ k m).wpoison = s.wpoison ∧ (s.setJ k m).lkeys = s.lkeys ∧ (s.setJ k m).ekeys = s.ekeys ∧
    (s.setJ k m).veils = s.veils ∧ (s.setJ k m).keys = s.keys ∧ (s.setJ k m).msgs = s.msgs ∧
    (s.setJ k m).held = s.held ∧ (s.setJ k m).nodeId = s.nodeId ∧ (s.setJ k m).nodeSet = s.nodeSet ∧
    (s.setJ k m).hosts = s.hosts ∧ (s.setJ k m).enrolled = s.enrolled ∧ (s.setJ k m).fwOk = s.fwOk ∧
    (s.setJ k m).toHost = s.toHost ∧ (s.setJ k m).agenda = s.agenda ∧ (s.setJ k m).turns = s.turns ∧
    (s.setJ k m).pick = s.pick ∧ (s.setJ k m).due = s.due ∧ (s.setJ k m).fresh = s.fresh ∧
    (s.setJ k m).nextId = s.nextId ∧ (s.setJ k m).g.id = s.g.id ∧ (s.setJ k m).g.team = s.g.team ∧
    (s.setJ k m).g.role = s.g.role ∧ (s.setJ k m).g.num = s.g.num ∧ (s.setJ k m).g.sector = s.g.sector ∧
    (s.setJ k m).g.run = s.g.run ∧ (s.setJ k m).g.offSlot = s.g.offSlot ∧ (s.setJ k m).g.cwait = s.g.cwait ∧
    (s.setJ k m).g.pwait = s.g.pwait ∧ (s.setJ k m).g.c = s.g.c ∧ (s.setJ k m).g.pc = s.g.pc ∧
    (s.setJ k m).g.grant = s.g.grant ∧ (s.setJ k m).g.budget = s.g.budget ∧ (s.setJ k m).g.vl = s.g.vl ∧
    (s.setJ k m).g.vst = s.g.vst ∧ (s.setJ k m).g.sticky = s.g.sticky ∧ (s.setJ k m).g.rm = s.g.rm ∧
    (s.setJ k m).g.awb = s.g.awb ∧ (s.setJ k m).g.awl = s.g.awl ∧ (s.setJ k m).g.smap = s.g.smap ∧
    (s.setJ k m).g.spr = s.g.spr ∧ (s.setJ k m).g.splc = s.g.splc ∧ (s.setJ k m).g.rot = s.g.rot ∧
    (s.setJ k m).g.lfree = s.g.lfree ∧ (s.setJ k m).g.req = s.g.req ∧ (s.setJ k m).g.small = s.g.small ∧
    (s.setJ k m).g.loop = s.g.loop ∧ (s.setJ k m).g.kfirst = s.g.kfirst ∧ (s.setJ k m).g.klast = s.g.klast ∧
    (s.setJ k m).g.nst = s.g.nst ∧ (s.setJ k m).g.pfx = s.g.pfx ∧ (s.setJ k m).g.fbuf = s.g.fbuf ∧
    (s.setJ k m).g.ran = s.g.ran ∧ (s.setJ k m).g.late = s.g.late ∧ (s.setJ k m).g.lateUnits = s.g.lateUnits ∧
    (s.setJ k m).g.lateRest = s.g.lateRest ∧ (s.setJ k m).g.seq = s.g.seq ∧ (s.setJ k m).g.shades = s.g.shades ∧
    (s.setJ k m).g.v = s.g.v ∧ (s.setJ k m).g.vm = s.g.vm ∧ (s.setJ k m).g.vo = s.g.vo ∧
    (s.setJ k m).g.streams = s.g.streams ∧ (s.setJ k m).g.inlet = s.g.inlet ∧ (s.setJ k m).g.outlet = s.g.outlet ∧
    (s.setJ k m).g.links = s.g.links ∧ (s.setJ k m).g.vps = s.g.vps ∧ (s.setJ k m).g.turnPcs = s.g.turnPcs ∧
    (s.setJ k m).g.viq = s.g.viq ∧ (s.setJ k m).g.dead = s.g.dead ∧ (s.setJ k m).g.mflags = s.g.mflags ∧
    (s.setJ k m).g.holds = s.g.holds ∧ (s.setJ k m).g.slots = s.g.slots ∧ (s.setJ k m).g.taken = s.g.taken ∧
    (s.setJ k m).g.rpoison = s.g.rpoison ∧ (s.setJ k m).g.testSel = s.g.testSel ∧ (s.setJ k m).g.testClk = s.g.testClk ∧
    (s.setJ k m).g.area = s.g.area ∧ (s.setJ k m).g.areaCtx = s.g.areaCtx ∧ (s.setJ k m).g.nfac = s.g.nfac ∧
    (s.setJ k m).g.sgid = s.g.sgid ∧ (s.setJ k m).g.sctl = s.g.sctl ∧ (s.setJ k m).g.sctx = s.g.sctx ∧
    (s.setJ k m).g.lastTrap = s.g.lastTrap := by
  and_intros <;> rfl

/-- Writing the part of one die changes that list alone. -/
@[simp] theorem State.setDie_rest (s : State) (d : Nat) (x : Die) :
    (s.setDie d x).g = s.g ∧ (s.setDie d x).t = s.t ∧ (s.setDie d x).u = s.u ∧
    (s.setDie d x).trace = s.trace ∧ (s.setDie d x).port = s.port ∧ (s.setDie d x).vp = s.vp ∧
    (s.setDie d x).ev = s.ev ∧ (s.setDie d x).groups = s.groups ∧ (s.setDie d x).teams = s.teams ∧
    (s.setDie d x).mats = s.mats ∧ (s.setDie d x).ctxs = s.ctxs ∧ (s.setDie d x).parts = s.parts ∧
    (s.setDie d x).partSize = s.partSize ∧ (s.setDie d x).partsSet = s.partsSet ∧ (s.setDie d x).tasks = s.tasks ∧
    (s.setDie d x).graphs = s.graphs ∧ (s.setDie d x).areas = s.areas ∧ (s.setDie d x).ops = s.ops ∧
    (s.setDie d x).pend = s.pend ∧ (s.setDie d x).pivots = s.pivots ∧ (s.setDie d x).pwaits = s.pwaits ∧
    (s.setDie d x).tlb = s.tlb ∧ (s.setDie d x).wcache = s.wcache ∧ (s.setDie d x).amos = s.amos ∧
    (s.setDie d x).hbm = s.hbm ∧ (s.setDie d x).wstore = s.wstore ∧ (s.setDie d x).poison = s.poison ∧
    (s.setDie d x).wpoison = s.wpoison ∧ (s.setDie d x).lkeys = s.lkeys ∧ (s.setDie d x).ekeys = s.ekeys ∧
    (s.setDie d x).veils = s.veils ∧ (s.setDie d x).keys = s.keys ∧ (s.setDie d x).msgs = s.msgs ∧
    (s.setDie d x).held = s.held ∧ (s.setDie d x).nodeId = s.nodeId ∧ (s.setDie d x).nodeSet = s.nodeSet ∧
    (s.setDie d x).hosts = s.hosts ∧ (s.setDie d x).enrolled = s.enrolled ∧ (s.setDie d x).fwOk = s.fwOk ∧
    (s.setDie d x).toHost = s.toHost ∧ (s.setDie d x).agenda = s.agenda ∧ (s.setDie d x).turns = s.turns ∧
    (s.setDie d x).pick = s.pick ∧ (s.setDie d x).due = s.due ∧ (s.setDie d x).fresh = s.fresh ∧
    (s.setDie d x).nextId = s.nextId := by
  and_intros <;> rfl

/-- Writing a context changes the contexts alone. -/
@[simp] theorem State.setCtx_rest (s : State) (n : Nat) (x : Context) :
    (s.setCtx n x).g = s.g ∧ (s.setCtx n x).t = s.t ∧ (s.setCtx n x).u = s.u ∧
    (s.setCtx n x).trace = s.trace ∧ (s.setCtx n x).port = s.port ∧ (s.setCtx n x).vp = s.vp ∧
    (s.setCtx n x).ev = s.ev ∧ (s.setCtx n x).groups = s.groups ∧ (s.setCtx n x).teams = s.teams ∧
    (s.setCtx n x).mats = s.mats ∧ (s.setCtx n x).dies = s.dies ∧ (s.setCtx n x).parts = s.parts ∧
    (s.setCtx n x).partSize = s.partSize ∧ (s.setCtx n x).partsSet = s.partsSet ∧ (s.setCtx n x).tasks = s.tasks ∧
    (s.setCtx n x).graphs = s.graphs ∧ (s.setCtx n x).areas = s.areas ∧ (s.setCtx n x).ops = s.ops ∧
    (s.setCtx n x).pend = s.pend ∧ (s.setCtx n x).pivots = s.pivots ∧ (s.setCtx n x).pwaits = s.pwaits ∧
    (s.setCtx n x).tlb = s.tlb ∧ (s.setCtx n x).wcache = s.wcache ∧ (s.setCtx n x).amos = s.amos ∧
    (s.setCtx n x).hbm = s.hbm ∧ (s.setCtx n x).wstore = s.wstore ∧ (s.setCtx n x).poison = s.poison ∧
    (s.setCtx n x).wpoison = s.wpoison ∧ (s.setCtx n x).lkeys = s.lkeys ∧ (s.setCtx n x).ekeys = s.ekeys ∧
    (s.setCtx n x).veils = s.veils ∧ (s.setCtx n x).keys = s.keys ∧ (s.setCtx n x).msgs = s.msgs ∧
    (s.setCtx n x).held = s.held ∧ (s.setCtx n x).nodeId = s.nodeId ∧ (s.setCtx n x).nodeSet = s.nodeSet ∧
    (s.setCtx n x).hosts = s.hosts ∧ (s.setCtx n x).enrolled = s.enrolled ∧ (s.setCtx n x).fwOk = s.fwOk ∧
    (s.setCtx n x).toHost = s.toHost ∧ (s.setCtx n x).agenda = s.agenda ∧ (s.setCtx n x).turns = s.turns ∧
    (s.setCtx n x).pick = s.pick ∧ (s.setCtx n x).due = s.due ∧ (s.setCtx n x).fresh = s.fresh ∧
    (s.setCtx n x).nextId = s.nextId := by
  and_intros <;> rfl

/-- Writing a partition changes the partitions alone. -/
@[simp] theorem State.setPrt_rest (s : State) (n : Nat) (x : Partition) :
    (s.setPrt n x).g = s.g ∧ (s.setPrt n x).t = s.t ∧ (s.setPrt n x).u = s.u ∧
    (s.setPrt n x).trace = s.trace ∧ (s.setPrt n x).port = s.port ∧ (s.setPrt n x).vp = s.vp ∧
    (s.setPrt n x).ev = s.ev ∧ (s.setPrt n x).groups = s.groups ∧ (s.setPrt n x).teams = s.teams ∧
    (s.setPrt n x).mats = s.mats ∧ (s.setPrt n x).dies = s.dies ∧ (s.setPrt n x).ctxs = s.ctxs ∧
    (s.setPrt n x).partSize = s.partSize ∧ (s.setPrt n x).partsSet = s.partsSet ∧ (s.setPrt n x).tasks = s.tasks ∧
    (s.setPrt n x).graphs = s.graphs ∧ (s.setPrt n x).areas = s.areas ∧ (s.setPrt n x).ops = s.ops ∧
    (s.setPrt n x).pend = s.pend ∧ (s.setPrt n x).pivots = s.pivots ∧ (s.setPrt n x).pwaits = s.pwaits ∧
    (s.setPrt n x).tlb = s.tlb ∧ (s.setPrt n x).wcache = s.wcache ∧ (s.setPrt n x).amos = s.amos ∧
    (s.setPrt n x).hbm = s.hbm ∧ (s.setPrt n x).wstore = s.wstore ∧ (s.setPrt n x).poison = s.poison ∧
    (s.setPrt n x).wpoison = s.wpoison ∧ (s.setPrt n x).lkeys = s.lkeys ∧ (s.setPrt n x).ekeys = s.ekeys ∧
    (s.setPrt n x).veils = s.veils ∧ (s.setPrt n x).keys = s.keys ∧ (s.setPrt n x).msgs = s.msgs ∧
    (s.setPrt n x).held = s.held ∧ (s.setPrt n x).nodeId = s.nodeId ∧ (s.setPrt n x).nodeSet = s.nodeSet ∧
    (s.setPrt n x).hosts = s.hosts ∧ (s.setPrt n x).enrolled = s.enrolled ∧ (s.setPrt n x).fwOk = s.fwOk ∧
    (s.setPrt n x).toHost = s.toHost ∧ (s.setPrt n x).agenda = s.agenda ∧ (s.setPrt n x).turns = s.turns ∧
    (s.setPrt n x).pick = s.pick ∧ (s.setPrt n x).due = s.due ∧ (s.setPrt n x).fresh = s.fresh ∧
    (s.setPrt n x).nextId = s.nextId := by
  and_intros <;> rfl

/-- Writing a matrix unit changes the matrix units alone. -/
@[simp] theorem State.setMat_rest (s : State) (n : Nat) (x : MatrixUnit) :
    (s.setMat n x).g = s.g ∧ (s.setMat n x).t = s.t ∧ (s.setMat n x).u = s.u ∧
    (s.setMat n x).trace = s.trace ∧ (s.setMat n x).port = s.port ∧ (s.setMat n x).vp = s.vp ∧
    (s.setMat n x).ev = s.ev ∧ (s.setMat n x).groups = s.groups ∧ (s.setMat n x).teams = s.teams ∧
    (s.setMat n x).dies = s.dies ∧ (s.setMat n x).ctxs = s.ctxs ∧ (s.setMat n x).parts = s.parts ∧
    (s.setMat n x).partSize = s.partSize ∧ (s.setMat n x).partsSet = s.partsSet ∧ (s.setMat n x).tasks = s.tasks ∧
    (s.setMat n x).graphs = s.graphs ∧ (s.setMat n x).areas = s.areas ∧ (s.setMat n x).ops = s.ops ∧
    (s.setMat n x).pend = s.pend ∧ (s.setMat n x).pivots = s.pivots ∧ (s.setMat n x).pwaits = s.pwaits ∧
    (s.setMat n x).tlb = s.tlb ∧ (s.setMat n x).wcache = s.wcache ∧ (s.setMat n x).amos = s.amos ∧
    (s.setMat n x).hbm = s.hbm ∧ (s.setMat n x).wstore = s.wstore ∧ (s.setMat n x).poison = s.poison ∧
    (s.setMat n x).wpoison = s.wpoison ∧ (s.setMat n x).lkeys = s.lkeys ∧ (s.setMat n x).ekeys = s.ekeys ∧
    (s.setMat n x).veils = s.veils ∧ (s.setMat n x).keys = s.keys ∧ (s.setMat n x).msgs = s.msgs ∧
    (s.setMat n x).held = s.held ∧ (s.setMat n x).nodeId = s.nodeId ∧ (s.setMat n x).nodeSet = s.nodeSet ∧
    (s.setMat n x).hosts = s.hosts ∧ (s.setMat n x).enrolled = s.enrolled ∧ (s.setMat n x).fwOk = s.fwOk ∧
    (s.setMat n x).toHost = s.toHost ∧ (s.setMat n x).agenda = s.agenda ∧ (s.setMat n x).turns = s.turns ∧
    (s.setMat n x).pick = s.pick ∧ (s.setMat n x).due = s.due ∧ (s.setMat n x).fresh = s.fresh ∧
    (s.setMat n x).nextId = s.nextId := by
  and_intros <;> rfl

/-- A message changes the messages alone. -/
@[simp] theorem State.send_rest (s : State) (a b : Nat) (m : MsgBody) :
    (s.send a b m).g = s.g ∧ (s.send a b m).t = s.t ∧ (s.send a b m).u = s.u ∧
    (s.send a b m).trace = s.trace ∧ (s.send a b m).port = s.port ∧ (s.send a b m).vp = s.vp ∧
    (s.send a b m).ev = s.ev ∧ (s.send a b m).groups = s.groups ∧ (s.send a b m).teams = s.teams ∧
    (s.send a b m).mats = s.mats ∧ (s.send a b m).dies = s.dies ∧ (s.send a b m).ctxs = s.ctxs ∧
    (s.send a b m).parts = s.parts ∧ (s.send a b m).partSize = s.partSize ∧ (s.send a b m).partsSet = s.partsSet ∧
    (s.send a b m).tasks = s.tasks ∧ (s.send a b m).graphs = s.graphs ∧ (s.send a b m).areas = s.areas ∧
    (s.send a b m).ops = s.ops ∧ (s.send a b m).pend = s.pend ∧ (s.send a b m).pivots = s.pivots ∧
    (s.send a b m).pwaits = s.pwaits ∧ (s.send a b m).tlb = s.tlb ∧ (s.send a b m).wcache = s.wcache ∧
    (s.send a b m).amos = s.amos ∧ (s.send a b m).hbm = s.hbm ∧ (s.send a b m).wstore = s.wstore ∧
    (s.send a b m).poison = s.poison ∧ (s.send a b m).wpoison = s.wpoison ∧ (s.send a b m).lkeys = s.lkeys ∧
    (s.send a b m).ekeys = s.ekeys ∧ (s.send a b m).veils = s.veils ∧ (s.send a b m).keys = s.keys ∧
    (s.send a b m).held = s.held ∧ (s.send a b m).nodeId = s.nodeId ∧ (s.send a b m).nodeSet = s.nodeSet ∧
    (s.send a b m).hosts = s.hosts ∧ (s.send a b m).enrolled = s.enrolled ∧ (s.send a b m).fwOk = s.fwOk ∧
    (s.send a b m).toHost = s.toHost ∧ (s.send a b m).agenda = s.agenda ∧ (s.send a b m).turns = s.turns ∧
    (s.send a b m).pick = s.pick ∧ (s.send a b m).due = s.due ∧ (s.send a b m).fresh = s.fresh ∧
    (s.send a b m).nextId = s.nextId := by
  and_intros <;> rfl

/-- An event to the host changes what has been sent to it alone. -/
@[simp] theorem State.hostEvent_rest (s : State) (k p : Nat) (w : List Word) :
    (s.hostEvent k p w).g = s.g ∧ (s.hostEvent k p w).t = s.t ∧ (s.hostEvent k p w).u = s.u ∧
    (s.hostEvent k p w).trace = s.trace ∧ (s.hostEvent k p w).port = s.port ∧ (s.hostEvent k p w).vp = s.vp ∧
    (s.hostEvent k p w).ev = s.ev ∧ (s.hostEvent k p w).groups = s.groups ∧ (s.hostEvent k p w).teams = s.teams ∧
    (s.hostEvent k p w).mats = s.mats ∧ (s.hostEvent k p w).dies = s.dies ∧ (s.hostEvent k p w).ctxs = s.ctxs ∧
    (s.hostEvent k p w).parts = s.parts ∧ (s.hostEvent k p w).partSize = s.partSize ∧ (s.hostEvent k p w).partsSet = s.partsSet ∧
    (s.hostEvent k p w).tasks = s.tasks ∧ (s.hostEvent k p w).graphs = s.graphs ∧ (s.hostEvent k p w).areas = s.areas ∧
    (s.hostEvent k p w).ops = s.ops ∧ (s.hostEvent k p w).pend = s.pend ∧ (s.hostEvent k p w).pivots = s.pivots ∧
    (s.hostEvent k p w).pwaits = s.pwaits ∧ (s.hostEvent k p w).tlb = s.tlb ∧ (s.hostEvent k p w).wcache = s.wcache ∧
    (s.hostEvent k p w).amos = s.amos ∧ (s.hostEvent k p w).hbm = s.hbm ∧ (s.hostEvent k p w).wstore = s.wstore ∧
    (s.hostEvent k p w).poison = s.poison ∧ (s.hostEvent k p w).wpoison = s.wpoison ∧ (s.hostEvent k p w).lkeys = s.lkeys ∧
    (s.hostEvent k p w).ekeys = s.ekeys ∧ (s.hostEvent k p w).veils = s.veils ∧ (s.hostEvent k p w).keys = s.keys ∧
    (s.hostEvent k p w).msgs = s.msgs ∧ (s.hostEvent k p w).held = s.held ∧ (s.hostEvent k p w).nodeId = s.nodeId ∧
    (s.hostEvent k p w).nodeSet = s.nodeSet ∧ (s.hostEvent k p w).hosts = s.hosts ∧ (s.hostEvent k p w).enrolled = s.enrolled ∧
    (s.hostEvent k p w).fwOk = s.fwOk ∧ (s.hostEvent k p w).agenda = s.agenda ∧ (s.hostEvent k p w).turns = s.turns ∧
    (s.hostEvent k p w).pick = s.pick ∧ (s.hostEvent k p w).due = s.due ∧ (s.hostEvent k p w).fresh = s.fresh ∧
    (s.hostEvent k p w).nextId = s.nextId := by
  and_intros <;> rfl

/-- Reading a `c` register after a write: `c0` reads zero, the written register its new value, the others what they held. -/
@[simp] theorem State.c_setC (s : State) (d r : CReg) (x : Word) :
    (s.setC d x).c r = if r = 0 then 0 else if r = d then x else s.c r := by
  unfold State.c State.setC
  by_cases hr : r = 0
  · simp [hr]
  · by_cases hd : d = 0
    · have : r ≠ d := fun h => hr (h.trans hd)
      simp only [if_neg hr, if_pos hd, if_neg this]
    · simp only [hr, hd, if_false, Bank.get_set, BitVec.toNat_inj]

@[simp] theorem State.c_zero (s : State) : s.c 0 = 0 := rfl
@[simp] theorem State.setC_zero (s : State) (x : Word) : s.setC 0 x = s := rfl
@[simp] theorem State.c_raise (s : State) (f : Sticky) (r : CReg) : (s.raise f).c r = s.c r := rfl
@[simp] theorem State.c_jump (s : State) (a : Word) (r : CReg) : (s.jump a).c r = s.c r := rfl
@[simp] theorem State.jump_pc (s : State) (a : Word) : (s.jump a).g.pc = a := rfl
@[simp] theorem State.raise_sticky (s : State) (f : Sticky) : (s.raise f).g.sticky = s.g.sticky.or f := rfl
@[simp] theorem State.setVo_vo (s : State) (l : List Nat) : (s.setVo l).g.vo = setBits 2048 s.g.vo l := rfl
@[simp] theorem State.setLate_zero (s : State) (d : CReg) (x : Word) (b : Bool) : s.setLate d x 0 b = s.setC d x := rfl

/-- Reading a vector register after a write, by physical numbers. -/
@[simp] theorem State.vphys_setVphys (s : State) (n m x : Nat) :
    (s.setVphys n x).vphys m = if m = n then x % 2 ^ s.g.grant % 2 ^ 16384 else s.vphys m := by
  unfold State.vphys State.setVphys
  by_cases h : m = n <;> simp only [h, Bank.get_set, if_true, if_false, BitVec.toNat_ofNat]

/-- What a meaning that completes answers. -/
@[simp] theorem State.finish_ok (s t : State) : s.finish (.ok t) = .next t := rfl
@[simp] theorem State.finish_trap (s : State) (t : Trap) : s.finish (.error (.trap t)) = .next (s.raiseTrap t) := rfl
@[simp] theorem State.finish_hold (s : State) (w : Wait) : s.finish (.error (.hold w)) = .next (s.holdUnit w) := rfl

/-- A meaning never stops the machine: it completes, takes a trap or waits. -/
theorem State.finish_next (s : State) (m : M State) : ∃ t, s.finish m = .next t := by
  cases m with
  | ok t => exact ⟨t, rfl⟩
  | error e => cases e <;> exact ⟨_, rfl⟩

@[simp] theorem need_true (p : Prop) [Decidable p] (c : Byte) (i : Word) (h : p) : need p c i = .ok ⟨⟩ := by simp [need, h]
@[simp] theorem need_false (p : Prop) [Decidable p] (c : Byte) (i : Word) (h : ¬p) : need p c i = trapM c i := by simp [need, h]

end Sys2Proof.Machine
end

