-- ==== Sys2Proof/Tests/Slice0.lean ====
section
/-! SUPPORT. Tests: the well-formedness check, words of the spec's worked examples, single steps on small states, and for
every statement that has premises a state and operands that meet them. -/

namespace Sys2Proof.Tests

open Sys2Proof.Machine

set_option Elab.async false

/-- A supervisor group that runs: its context maps 256 MiB of global memory, and a word stands at its program counter. -/
def base : State := State.reset.stage 0x06000000
/-- Values of `c` registers, and operands of the unit. -/
def withC (s : State) (l : List (Nat × Word)) : State := { s with g := { s.g with c := l.foldl (fun c x => Bank.set 0 c x.1 x.2) s.g.c } }
def withOps (s : State) (a b : Word) : State := { s with u := { s.u with opA := a, opB := b } }
def withG (s : State) (f : Group → Group) : State := { s with g := f s.g }
def withT (s : State) (f : Team → Team) : State := { s with t := f s.t }
def withU (s : State) (f : Machine.Unit → Machine.Unit) : State := { s with u := f s.u }
def isNext (o : Host.Outcome State Fault Refusal) : Bool := match o with | .next _ => true | _ => false

theorem ok_of {ε α : Type} {x : Except ε α} (h : x.toOption.isSome = true) : ∃ a, x = .ok a := by
  cases x with
  | ok a => exact ⟨a, rfl⟩
  | error e => exact absurd h (by simp [Except.toOption])
theorem ok2_of {ε α β : Type} {x : Except ε (α × β)} (h : x.toOption.isSome = true) : ∃ a b, x = .ok (a, b) := by
  obtain ⟨⟨a, b⟩, h⟩ := ok_of h
  exact ⟨a, b, h⟩
theorem fst_of {ε α β : Type} {x : Except ε (α × β)} {a : α} (h : x.toOption.map Prod.fst = some a) : ∃ b, x = .ok (a, b) := by
  cases x with
  | ok p =>
    obtain ⟨y, b⟩ := p
    simp only [Except.toOption, Option.map_some, Option.some.injEq] at h
    exact ⟨b, by rw [← h]⟩
  | error e => exact absurd h (by simp [Except.toOption])
theorem next_of {o : Host.Outcome State Fault Refusal} (h : isNext o = true) : ∃ t, o = .next t := by
  cases o with
  | next t => exact ⟨t, rfl⟩
  | fault f => exact absurd h (by simp [isNext])
  | refused r => exact absurd h (by simp [isNext])
theorem some_of {α : Type} {x : Option α} (h : x.isSome = true) : ∃ a, x = some a := Option.isSome_iff_exists.mp h

/-! States that meet the premises of the statements. -/

theorem met_LoadsAndStores :
    let s := withC base [(1, 0x200000), (2, 0x10000000000000), (3, 0x200002)]
    (∃ p t, s.place s.agent .load (s.c 1 + Claim.off s 0x7F Sz.w.bytes) 4 4 = .ok (p, t)) ∧
    (∃ p t, s.place s.agent .store (s.c 1 + Claim.off s 1 Sz.d.bytes) 8 8 = .ok (p, t)) ∧
    2 ^ 52 ≤ (s.c 2 + Claim.off s 0 4).toNat ∧ (s.c 3 + Claim.off s 0 4).toNat < 2 ^ 52 ∧ (s.c 3 + Claim.off s 0 4).toNat % 4 ≠ 0 :=
  ⟨ok2_of (by decide +kernel), ok2_of (by decide +kernel), by decide +kernel, by decide +kernel, by decide +kernel⟩

theorem met_MemoryFrames :
    base.hbm.wf = true ∧ base.wstore.wf = true ∧ base.t.scratch.wf = true ∧ base.t.id ≠ 0 ∧ ([1#8] : List Byte) ≠ [] ∧
    ∃ p t, base.place base.agent .load 0x200000 8 8 = .ok (p, t) :=
  ⟨by decide +kernel, by decide +kernel, by decide +kernel, by decide +kernel, by decide, ok2_of (by decide +kernel)⟩

theorem met_FloatingPoint :
    Ty.f32.isInt = false ∧ Ty.i64.isInt = true ∧ (Ty.i32 ≠ .f64 ∧ (2 : BitVec 6) = Ty.i32.code.setWidth 6) ∧ 8 ≤ (8 : BitVec 6).toNat ∧
    (∃ f, Ty.bf16.fmt? = some f) ∧ Ty.i8.fmt? = none :=
  ⟨rfl, rfl, by decide, by decide, some_of rfl, rfl⟩

theorem met_VectorLength :
    let s := withC base [(1, 256), (2, 257)]
    s.g.grant ≤ 16384 ∧ (256 : BitVec 13).toNat = 256 ∧ s.vlPending = false ∧ (s.c 1).toNat ≤ s.g.grant / 8 ∧ s.g.grant / 8 < (s.c 2).toNat ∧
    ({ s with ev := { reg := 1 } } : State).ev.reg = 1 ∧ ¬ ((64 : BitVec 13).toNat = 8 ∨ (64 : BitVec 13).toNat = 16 ∨ (64 : BitVec 13).toNat = 32 ∨ (64 : BitVec 13).toNat = 256) := by
  decide +kernel

theorem met_SpecialRegisters :
    let s := withC (withG { base with ctxs := (2, { valid := true }) :: base.ctxs, ev := { reg := 1, n := 0x413 } } fun g => { g with sctx := 2 }) [(1, 0x10000), (2, 0x20)]
    (withT base fun t => { t with priv := false }).t.priv = false ∧ 0x400 ≤ (0x400 : BitVec 12).toNat ∧ base.g.viq = [] ∧
    (withG base fun g => { g with viq := [{}] }).g.viq ≠ [] ∧ s.t.priv = true ∧ Claim.poolFree s { valid := true } ∧ s.ev.reg = 1 ∧ s.ev.n = 0x413 ∧
    (s.c 1).toNat % 65536 = 0 ∧ (s.c 1).toNat % 64 = 0 ∧ (s.c 2).toNat % 65536 ≠ 0 ∧ (s.c 2).toNat % 64 ≠ 0 := by
  refine ⟨by decide, by decide, by decide +kernel, by decide +kernel, by decide +kernel, ⟨by decide +kernel, by decide +kernel, by decide +kernel⟩, ?_⟩
  decide +kernel

/-- A pipelined loop of one unit at its last one, with `n` iterations left. -/
def looping (n : Nat) : State :=
  withU (withG base fun g => { g with loop := true, kfirst := 0x100000, klast := 0x100000, splc := BitVec.ofNat 32 n, nst := 2 }) fun u => { u with ipc := 0x100000 }

theorem met_PipelinedLoops :
    let s := withC base [(1, 0xFFFFFFFE), (2, 0xFFFFFFFF)]
    s.g.loop = false ∧ (s.c 1).toNat ≤ 2 ^ 32 - ((1 : BitVec 2).toNat + 1) ∧ 2 ^ 32 - ((1 : BitVec 2).toNat + 1) < (s.c 2).toNat ∧
    (∀ n ∈ [1, 2], (looping n).g.loop = true ∧ (looping n).u.ipc = (looping n).g.klast ∧ (looping n).u.ipc + BitVec.ofInt 64 (4 * (0 : BitVec 13).toInt) = (looping n).g.kfirst) ∧
    (looping 1).g.splc.toNat ≤ 1 ∧ 1 < (looping 2).g.splc.toNat ∧ 32 < (looping 2).g.budget ∧ (looping 2).g.budget ≤ 64 ∧
    (withG (looping 2) fun g => { g with budget := 32 }).g.budget ≤ 32 ∧ ¬ (s.g.loop = true) := by
  decide +kernel

theorem met_SoftwareTraps :
    let s := withU { base with ctxs := [(1, { stubs := [(0x2000, 2)] })] } fun u => { u with ipc := 0x201F }
    (∃ x ∈ (s.ctx s.t.ctx).stubs, x.1.toNat ≤ s.u.ipc.toNat ∧ s.u.ipc.toNat < x.1.toNat + 16 * x.2) ∧ s.g.viq = [] ∧
    ¬ (∃ x ∈ (base.ctx base.t.ctx).stubs, x.1.toNat ≤ base.u.ipc.toNat ∧ base.u.ipc.toNat < x.1.toNat + 16 * x.2) ∧
    (withG base fun g => { g with viq := [{}] }).g.viq ≠ [] := by
  decide +kernel

theorem met_TrapEntry :
    base.vp = none ∧ base.g.late = [] ∧ base.port = false ∧ ({ base with port := true } : State).port = true ∧ base.t.priv = true ∧
    ((withT base fun t => { t with priv := false }).ctx 1).shent = 0 := by
  decide +kernel

theorem met_VfStarts :
    let s := withU base fun u => { u with vl := 64, ipc := 0x2000, opA := 0x3002 }
    s.vp = none ∧ s.u.vl.toNat ≤ s.g.grant / 32 ∧ (s.u.ipc + BitVec.ofInt 64 (4 * (12 : BitVec 19).toInt)).toNat % 4 = 0 ∧ s.u.opA.toNat % 4 ≠ 0 ∧ s.active ≠ [] ∧
    (withU s fun u => { u with vl := 0 }).active = [] := by
  decide +kernel

/-- VP 0 of two executes a word of its AIB; VP 1 has stopped. -/
def aib : State :=
  { (withG base fun g => { g with vps := [{ st := .ready, pc := 0x2000 }, { st := .stopped }], viq := [{ word := 0x40000001 }] }) with vp := some 0, port := true }

theorem met_RejoinMasks : aib.vp = some 0 ∧ aib.g.vps[0]? = some { st := .ready, pc := 0x2000 } := by decide +kernel

theorem met_PrefixesAndFetches :
    let s := withU (withG base fun g => { g with pfx := [(0x100000, 0xFC400001)] }) fun u => { u with word := 0xFC000009 }
    let q := withU s fun u => { u with word := 0xFC400001 }
    s.vp = none ∧ (s.g.pfx.all fun p => decide (p.2.extractLsb' 22 3 ≠ s.u.word.extractLsb' 22 3)) = true ∧ (∃ p ∈ q.g.pfx, p.2.extractLsb' 22 3 = q.u.word.extractLsb' 22 3) ∧
    aib.vp = some 0 ∧ aib.g.vps[0]? = some { st := .ready, pc := 0x2000 } ∧ (63 : VName).toNat < aib.g.budget := by
  decide +kernel

theorem met_ChordsAndQueues :
    let full : State := withG aib fun g => { g with links := [[1, 2, 3, 4]] }
    let stuck (st : VpSt) : State := withG { base with ev := { g := 1, e := 1 } } fun g => { g with
      vps := [{ st := .stopped }, { st := st }, { st := .stopped }], links := [[], [1, 2, 3, 4], []], viq := [{ word := 0x40000001 }] }
    (aib.sinkQ 0).length < 4 ∧ 4 ≤ (full.sinkQ 0).length ∧ aib.sourceQ 0 = [] ∧ (withG aib fun g => { g with inlet := [7] }).sourceQ 0 = [7] ∧
    (∀ x ∈ aib.g.streams, x.reg ≠ aib.reg 6) ∧
    ((stuck .stallRecv).focus 1).g.resident = true ∧ ((stuck .stallRecv).focus 1).underflows 1 = true ∧ ((stuck .stallSend).focus 1).overflows 1 = true ∧
    base.g.inlet.length < 4 ∧ 4 ≤ (withG base fun g => { g with inlet := [1, 2, 3, 4] }).g.inlet.length ∧ base.g.outlet = [] ∧
    (withG base fun g => { g with outlet := [5] }).g.outlet = [5] ∧ base.g.viq = [] ∧ aib.g.viq ≠ [] := by
  decide +kernel

/-- The answer is one of which `p` holds. -/
def such {ε α : Type} (x : Except ε α) (p : α → Bool) : Bool := match x with | .ok a => p a | .error _ => false

theorem met_VectorPortSteps :
    let vadd := State.reset.stage 0x601041A0
    let stop := { (State.reset.stage 0x48000000) with ev := { g := 1, pc := 0x100000 } }
    let p := Claim.atUnit (vadd.focus 1)
    such (p.fetchWord p.g.pc) (fun x => decide (x.1 = 0x601041A0) && decide (x.2.illegalAt 0x601041A0 (.ok (.vadd 2 2 (.v 3) .i32 false)) = none) &&
      !({ x.2 with u := x.2.capture 0x601041A0 (.vadd 2 2 (.v 3) .i32 false) } : State).awaitsViq (.vadd 2 2 (.v 3) .i32 false) && decide (x.2.g.viq.length < 64)) = true ∧
    such ((Claim.atVp (stop.focus 1) 0 { st := .ready, pc := 0x100000 }).fetchWord 0x100000) (fun x => decide (x.1 = 0x48000000)) = true ∧ decodeWord 0x48000000 = .ok .stop ∧
    (∃ t, vadd.controlIssue = .enqueued t) ∧ (vadd.focus 1).g.controlReady = true ∧
    ((withG aib fun g => { g with vps := [{ st := .stopped }, {}] }).focus 1).g.vps ≠ [] ∧
    (∀ v ∈ (withG aib fun g => { g with vps := [{ st := .stopped }, {}] }).g.vps, v.st = .out ∨ v.st = .stopped) ∧
    (stop.focus 1).g.portReady = true ∧ (stop.focus 1).g.vps[0]? = some { st := .ready, pc := 0x100000 } ∧
    (∃ t, (stop.focus 1).issueVp aibExec 0 = .next t ∧ ∀ v ∈ t.g.vps, ¬ (v.st = .ready ∧ v.pc = 0x100000)) ∧
    ∀ v ∈ (stop.focus 1).g.vps.tail, ¬ (v.st = .ready ∧ v.pc = 0x100001) := by
  refine ⟨by decide +kernel, by decide +kernel, rfl, ?_, by decide +kernel, by decide +kernel, by decide +kernel, by decide +kernel, by decide +kernel, ?_, by decide +kernel⟩
  · exact ⟨_, rfl⟩
  · exact ⟨_, rfl, by decide +kernel⟩

theorem met_DivisionsAndLateResults :
    let s := withG { base with ev := { g := 1, reg := 3 } } fun g => { g with late := [⟨3, 9, 1, true, 0⟩, ⟨4, 8, 5, false, 1⟩], seq := 2 }
    (s.focus 1).g.resident = true ∧ (s.focus 1).g.late.find? (fun x => decide (x.d = 3) && decide (x.div = true)) = some ⟨3, 9, 1, true, 0⟩ ∧
    (s.focus 1).g.late.find? (fun x => decide (x.d = 4) && decide (x.div = false)) = some ⟨4, 8, 5, false, 1⟩ ∧
    (∀ l ∈ s.g.late, l.d ≠ 0) ∧ s.g.late.Pairwise (fun a b => a.seq < b.seq) ∧ (∃ l ∈ s.g.late, l.upto < s.g.seq) ∧ ∃ l ∈ s.g.late, s.g.seq ≤ l.upto := by
  decide +kernel

/-- An entry of the VIQ at `vl` = 8 with operands, on a group whose registers 1 to 3 hold the bytes 1 to 6 repeated. -/
def vec : State := { (withU (withG base fun g => { g with v := [0, 0x060504030201, 0x060504030201, 0x060504030201] }) fun u => { u with vl := 8, opB := 3 }) with port := true }

/-- No register of a group without bindings and poison is bound or poisoned. -/
theorem none_bound {s : State} (h : s.g.streams = [] ∧ s.g.rpoison = []) (r : Nat) : (∀ x ∈ s.g.streams, x.reg ≠ r) ∧ ∀ x ∈ s.g.rpoison, x.1 ≠ r := by
  simp [h]

theorem ready_vec (w : Nat) (rs : List Nat) (_ : w ∣ 2048) (hw : 8 ≤ 2048 / w) (hr : ∀ r ∈ rs, r < 64) : Claim.ready vec w rs :=
  ⟨hr, fun _ => hw, fun _ _ => none_bound (by decide +kernel) _⟩

theorem met_VectorDelivery :
    let l : List (Nat × Res) := [(0, { bits := 1 }), (63, { bits := 2, vo := true })]
    vec.g.grant ≤ 16384 ∧ 32 ∣ vec.g.grant ∧ (l.map fun r => r.1).Nodup ∧ (∀ r ∈ l, r.1 < vec.g.grant / 32) ∧ vec.vp = none ∧
    aib.vp = some 0 ∧ aib.g.shades = [] ∧ 0 < aib.g.grant / 32 := by
  decide +kernel

theorem met_SaturationAndAbsence :
    2 ≤ 8 ∧ Ty.i32 ≠ .i64 ∧ Ty.i32.isAbsent 0 = false ∧ Ty.i32.isAbsent 0x80000000 = true ∧ Ty.i32.isInt = true ∧ BinOp.and.raw = true := by
  decide

theorem met_VectorComparisons :
    Claim.bRegs vec (.v 3) [3] ∧ Claim.bRegs vec (.c 3) [] ∧ (∀ e ∈ vec.dataActives, e < 2048) ∧ Ty.i32.isInt = true ∧ Claim.ready vec 32 [1, 3] ∧
    Claim.ready vec 32 [1] ∧ 7 ∈ vec.dataActives ∧ 8 ∉ vec.dataActives :=
  ⟨rfl, ⟨rfl, by decide +kernel⟩, by decide +kernel, rfl, ready_vec 32 _ (by decide) (by decide) (by decide), ready_vec 32 _ (by decide) (by decide) (by decide),
    by decide +kernel, by decide +kernel⟩

theorem met_VectorMoves :
    let q := withU vec fun u => { u with opB := 8 }
    Claim.ready vec 32 [1, 2] ∧ Claim.ready vec 256 [2, 3] ∧ vec.u.stageOk = true ∧ vec.vp = none ∧ vec.u.opB.toNat < vec.u.vl.toNat ∧ q.u.vl.toNat ≤ q.u.opB.toNat ∧
    Claim.bRegs aib (.v 3) [3] ∧ Claim.ready aib 32 [1, 2, 3] :=
  ⟨ready_vec 32 _ (by decide) (by decide) (by decide), ready_vec 256 _ (by decide) (by decide) (by decide), by decide +kernel, by decide +kernel, by decide +kernel,
    by decide +kernel, rfl, by decide, fun _ => by decide +kernel,
    fun _ _ => none_bound (by decide +kernel) _⟩

theorem met_MaskMoves :
    vec.vp = none ∧ vec.g.grant ≤ 16384 ∧ vec.u.stageOk = true ∧ (63 : VName).toNat < vec.g.budget ∧ vec.g.streams = [] := by
  decide +kernel

theorem met_VectorConversions :
    (Ty.bf16 ≠ .f32 ∧ Ty.f32 ≠ .i64 ∧ Ty.bf16 ≠ .f64) ∧ vec.vp = none ∧ 0 < vec.g.grant ∧ vec.u.vl.toNat ≤ vec.g.grant / Min.min 32 16 ∧
    Claim.run vec 1 32 8 ∧ Claim.run vec 3 16 8 ∧ Claim.apart 1 (Claim.runLen vec 32 8) 3 (Claim.runLen vec 16 8) ∧
    (∃ f, quantTy .f32 = .ok f) ∧ (∃ ff, FacetFmt.ofCode 10 = some ff ∧ Claim.run vec 20 32 (8 * ff.count) ∧ Claim.apart 20 (Claim.runLen vec 32 (8 * ff.count)) 3 1) ∧
    vec.u.vl.toNat ≤ vec.g.grant / 256 ∧ Claim.run vec 3 1 1 ∧ 8 ≤ (8 : BitVec 6).toNat ∧ Ty.i8.isInt = true := by
  have run : ∀ r w n, (r < 64 ∧ r + (n * w + 2047) / 2048 ≤ 64 ∧ ¬ (r ≤ 31 ∧ 32 < r + (n * w + 2047) / 2048)) → Claim.run vec r w n := by
    intro r w n h
    have hg : vec.g.grant = 2048 := by decide +kernel
    have hb : vec.g.budget = 64 := by decide +kernel
    refine ⟨by rw [hb]; exact h.1, by rw [hb, hg]; exact h.2.1, by rw [hg]; exact h.2.2, fun _ _ => none_bound (by decide +kernel) _⟩
  refine ⟨by decide, by decide +kernel, by decide +kernel, by decide +kernel, run _ _ _ (by decide), run _ _ _ (by decide), by unfold Claim.apart; decide +kernel, ok_of rfl,
    ⟨_, rfl, run _ _ _ (by decide), by unfold Claim.apart; decide +kernel⟩, by decide +kernel, run _ _ _ (by decide), by decide, rfl⟩

theorem met_SpecialFunctions : (Ty.f32 = .f16 ∨ Ty.f32 = .bf16 ∨ Ty.f32 = .f32) ∧ Claim.ready vec 32 [1, 2] ∧ (Ty.i8 ≠ .f16 ∧ Ty.i8 ≠ .bf16 ∧ Ty.i8 ≠ .f32) :=
  ⟨by decide, ready_vec 32 _ (by decide) (by decide) (by decide), by decide⟩

theorem met_WholeRegisterShifts : vec.vp = none ∧ (1 : VName) ≠ 2 ∧ Claim.ready vec 16 [1, 2] ∧ opOf 0x7A000000 = 0x3D ∧ (0x7A000000 : Word32).getLsbD 2 = false :=
  ⟨by decide +kernel, by decide, ready_vec 16 _ (by decide) (by decide) (by decide), by decide, by decide⟩

theorem met_Reductions : vec.vp = none ∧ Claim.ready vec 8 [1] := ⟨by decide +kernel, ready_vec 8 _ (by decide) (by decide) (by decide)⟩

theorem met_PermutesAndSlides :
    vec.vp = none ∧ (1 : VName) ≠ 2 ∧ Claim.ready vec 256 [1, 2] ∧ 3 + (8 * 32 + 2047) / 2048 ≤ vec.g.budget ∧ Claim.apart 3 (Claim.runLen vec 32 8) 2 1 ∧
    (Ty.i64 = .i64 ∨ true = true ∧ Ty.i64 ≠ .f64 ∨ (1 : VName) = 2) :=
  ⟨by decide +kernel, by decide, ready_vec 256 _ (by decide) (by decide) (by decide), by decide +kernel, by unfold Claim.apart; decide +kernel, by decide⟩

/-- Keys 0 to 2 and one out of range. -/
def keyed : State := withG vec fun g => { g with v := [0, 0x000000020000000100000000 , 0, 0, 0xFFFFFFFF00000001] }

theorem met_Regroup :
    vec.vp = none ∧ (1 : VName) ≠ 8 ∧ (1 : VName).toNat ≠ (8 : VName).toNat + 1 ∧ Claim.ready vec 32 [8, 9, 1] ∧
    (∀ e ∈ keyed.active, Ty.i32.isAbsent (keyed.el 1 32 e) = false → 0 ≤ sextNat 32 (keyed.el 1 32 e) ∧ sextNat 32 (keyed.el 1 32 e) < 64) ∧
    keyed.active.find? (fun e => !Ty.i32.isAbsent (keyed.el 4 32 e) && (decide (sextNat 32 (keyed.el 4 32 e) < 0) || decide (64 ≤ sextNat 32 (keyed.el 4 32 e)))) = some 1 ∧
    (Ty.i8 ≠ .i16 ∧ Ty.i8 ≠ .i32) :=
  ⟨by decide +kernel, by decide, by decide, ready_vec 32 _ (by decide) (by decide) (by decide), by decide +kernel, by decide +kernel, by decide⟩

theorem reads_of (n : Nat) : ∀ (l : List (Nat × Word)) (s : State) (ag : Agent),
    (l.foldl (fun (o : Option (State × Agent)) x => o.bind fun q => (q.1.placeVia q.2 .load x.2 n n).toOption.map fun y => y.2) (some (s, ag))).isSome = true →
    ∃ xs u h, Claim.reads n ag s l xs u h
  | [], s, ag, _ => ⟨[], s, ag, rfl, rfl, rfl⟩
  | (e, a) :: l, s, ag, h => by
    simp only [List.foldl_cons, Option.bind_some] at h
    cases hp : s.placeVia ag .load a n n with
    | error f =>
      rw [hp] at h
      exfalso
      have : ∀ l : List (Nat × Word), (l.foldl (fun (o : Option (State × Agent)) x => o.bind fun q => (q.1.placeVia q.2 .load x.2 n n).toOption.map fun y => y.2) none) = none := by
        intro l
        induction l with
        | nil => rfl
        | cons x l ih => simpa using ih
      rw [show (Except.error f : Except Fail (Place × State × Agent)).toOption = none from rfl, Option.map_none, this l] at h
      exact absurd h (by simp)
    | ok y =>
      obtain ⟨p, q, ag'⟩ := y
      rw [hp] at h
      obtain ⟨xs, u, h', hr⟩ := reads_of n l q ag' h
      exact ⟨_, u, h', p, q, ag', xs, hp, rfl, hr⟩

theorem places_of (k : AccKind) (n : Nat) : ∀ (l : List (Nat × Word)) (s : State) (ag : Agent),
    (l.foldl (fun (o : Option (State × Agent)) x => o.bind fun q => (q.1.placeVia q.2 k x.2 n n).toOption.map fun y => y.2) (some (s, ag))).isSome = true →
    ∃ ps u h, Claim.places k n ag s l ps u h
  | [], s, ag, _ => ⟨[], s, ag, rfl, rfl, rfl⟩
  | (e, a) :: l, s, ag, h => by
    simp only [List.foldl_cons, Option.bind_some] at h
    cases hp : s.placeVia ag k a n n with
    | error f =>
      rw [hp] at h
      exfalso
      have : ∀ l : List (Nat × Word), (l.foldl (fun (o : Option (State × Agent)) x => o.bind fun q => (q.1.placeVia q.2 k x.2 n n).toOption.map fun y => y.2) none) = none := by
        intro l
        induction l with
        | nil => rfl
        | cons x l ih => simpa using ih
      rw [show (Except.error f : Except Fail (Place × State × Agent)).toOption = none from rfl, Option.map_none, this l] at h
      exact absurd h (by simp)
    | ok y =>
      obtain ⟨p, q, ag'⟩ := y
      rw [hp] at h
      obtain ⟨xs, u, h', hr⟩ := places_of k n l q ag' h
      exact ⟨_, u, h', p, q, ag', xs, hp, rfl, hr⟩

/-- A trap of an access. -/
theorem trap_of {α : Type} {x : Except Fail α} {c : Byte} {i : Word} (h : (match x with | .error (.trap a b _) => decide (a = c) && decide (b = i) | _ => false) = true) :
    ∃ y, x = .error (.trap c i y) := by
  cases x with
  | ok a => exact absurd h (by simp)
  | error f =>
    cases f with
    | trap a b y => simp only [Bool.and_eq_true, decide_eq_true_eq] at h; exact ⟨y, by rw [h.1, h.2]⟩
    | _ => exact absurd h (by simp)

/-- `vec` with its first operand at a mapped address, with one whose second element is the first byte after the page, and at that byte. -/
def vmem : State := withU vec fun u => { u with opA := 0x200000 }
def vedge : State := withU vec fun u => { u with opA := 0x0FFFFFFC }
def vfar : State := withU vec fun u => { u with opA := 0x10000000 }
/-- VP 0 of `aib`, whose register pair 4 holds an address. -/
def amem : State := withG aib fun g => { g with v := [0, 0, 0, 0, 0x200000], vm := BitVec.allOnes 2048 }

theorem met_VectorLoadsAndStores :
    (∃ xs u h, Claim.reads 4 vmem.agent vmem (vmem.active.map fun e => (e, vmem.u.opA + Claim.off vmem 0 4 + BitVec.ofNat 64 e * 4)) xs u h) ∧
    (∃ ps u h, Claim.places .store 4 vmem.agent vmem (vmem.active.map fun e => (e, vmem.u.opA + Claim.off vmem 0 4 + BitVec.ofNat 64 e * 4)) ps u h) ∧
    (∃ xs u h, Claim.reads 4 vedge.agent vedge [(0, 0x0FFFFFFC)] xs u h ∧ ∃ y, u.place h .load 0x10000000 4 4 = .error (.trap 0x08 0 y)) ∧
    (vedge.active.map fun e => (e, vedge.u.opA + Claim.off vedge 0 4 + BitVec.ofNat 64 e * 4)).take 2 = [(0, 0x0FFFFFFC), (1, 0x10000000)] ∧ (0x08 : Byte) ≠ 0x1A ∧
    (∃ ps u h, Claim.places .store 4 vedge.agent vedge [(0, 0x0FFFFFFC)] ps u h ∧ ∃ y, u.place h .store 0x10000000 4 4 = .error (.trap 0x08 0 y)) ∧
    (∃ y, vedge.place vedge.agent .load 0x10000000 4 4 = .error (.trap 0x08 0 y)) ∧
    vmem.u.vl.toNat ≤ vmem.g.grant / (8 * 4) ∧ Claim.ready vec 32 [2] ∧ vec.poison = [] ∧
    amem.vp = some 0 ∧ Claim.pairOk amem 4 ∧ amem.g.vm.getLsbD 0 = true ∧ (withG amem fun g => { g with vm := 0 }).g.vm.getLsbD 0 = false ∧
    ∃ xs u h, Claim.reads 4 amem.agent amem [(0, Claim.pair amem 4 0 + Claim.off amem 0 4)] xs u h := by
  refine ⟨reads_of _ _ _ _ (by decide +kernel), places_of _ _ _ _ _ (by decide +kernel), ⟨_, _, _, ⟨_, _, _, _, rfl, rfl, rfl, rfl, rfl⟩, trap_of (by decide +kernel)⟩,
    by decide +kernel, by decide, ⟨_, _, _, ⟨_, _, _, _, rfl, rfl, rfl, rfl, rfl⟩, trap_of (by decide +kernel)⟩, trap_of (by decide +kernel), by decide +kernel,
    ready_vec 32 _ (by decide) (by decide) (by decide), by decide +kernel, by decide +kernel, by unfold Claim.pairOk; decide +kernel, by decide +kernel, by decide +kernel,
    reads_of _ _ _ _ (by decide +kernel)⟩

theorem met_WindowedGather :
    let s := withU vmem fun u => { u with opB := 0, opX := 4 }
    let low := withG s fun g => { g with v := [0, 0, 0, 0, 0, 0, 0, 0, 0, 0] }
    s.vp = none ∧ ¬ ((28 : VName).toNat ≤ 31 ∧ 32 ≤ (28 : VName).toNat + 3) ∧ (28 : VName).toNat + 3 < s.g.budget ∧ s.active ≠ [] ∧
    Claim.ready vec 32 [28, 29, 30, 31] ∧
    (∃ xs u h, Claim.reads 4 s.agent s ((List.range 32).map fun i => (i, s.u.opA + BitVec.ofNat 64 (i * 4))) xs u h) ∧
    (9 : VName).toNat ∉ [(1 : VName).toNat, 2, 3, 4] ∧ Claim.ready vec 32 [9, 1, 2, 3, 4] ∧
    (∀ e ∈ low.active, 0 ≤ sextNat 32 (low.el 9 32 e) ∧ sextNat 32 (low.el 9 32 e) < low.u.opX.toNat) ∧
    (s.active.find? (fun e => !decide (s.el 1 32 e = 2 ^ 31) && (decide (sextNat 32 (s.el 1 32 e) < 0) || decide ((s.u.opX.toNat : Int) ≤ sextNat 32 (s.el 1 32 e))))) = some 0 := by
  refine ⟨by decide +kernel, by decide, by decide +kernel, by decide +kernel, ready_vec 32 _ (by decide) (by decide) (by decide), reads_of _ _ _ _ (by decide +kernel), by decide,
    ready_vec 32 _ (by decide) (by decide) (by decide), by decide +kernel, by decide +kernel⟩

theorem met_Scatters :
    vmem.vp = none ∧ vmem.poison = [] ∧ Claim.ready vec 32 [1] ∧ Claim.run vmem 10 32 8 ∧
    Claim.apart 10 (Claim.runLen vmem 32 8) 1 1 ∧
    (∃ ps u h, Claim.places .store 4 vmem.bankAgent vmem ((vmem.active.filter fun e => decide (vmem.runEl 10 32 e ≠ 2 ^ 31)).map fun e =>
      (e, vmem.u.opA + BitVec.ofInt 64 (sextNat 32 (vmem.runEl 10 32 e) * 4))) ps u h) ∧ vfar.vp = none ∧ vfar.poison = [] ∧
    (vfar.active.filter fun e => decide (vfar.runEl 10 32 e ≠ 2 ^ 31)).head? = some 0 ∧ vfar.u.opA + BitVec.ofInt 64 (sextNat 32 (vfar.runEl 10 32 0) * 4) = 0x10000000 ∧
    Claim.places .store 4 vfar.bankAgent vfar [] [] vfar vfar.bankAgent ∧ ∃ y, vfar.place vfar.bankAgent .store 0x10000000 4 4 = .error (.trap 0x08 0 y) :=
  ⟨by decide +kernel, by decide +kernel, ready_vec 32 _ (by decide) (by decide) (by decide), by unfold Claim.run; decide +kernel, by unfold Claim.apart; decide +kernel,
    places_of _ _ _ _ _ (by decide +kernel), by decide +kernel, by decide +kernel, by decide +kernel, by decide +kernel, ⟨rfl, rfl, rfl⟩, trap_of (by decide +kernel)⟩

theorem met_Atomics :
    let s := withC base [(1, 0x200000), (2, 0x10000000)]
    AmoFn.cas.admits false .i64 = true ∧ AmoFn.add.admits false .i8 = false ∧ (30 : CReg) ≠ 31 ∧ (∃ p u, s.place s.agent .atomic (s.c 1) 8 8 = .ok (p, u)) ∧
    AmoFn.cas.admits true .i32 = true ∧ Claim.ready vec 32 [30] ∧ Claim.ready vec 32 [31] ∧
    (∃ ps u h, Claim.places .atomic 4 vmem.bankAgent vmem (vmem.active.map fun e => (e, vmem.u.opA + BitVec.ofInt 64 (sextNat 32 (vmem.runEl 10 32 e) * 4))) ps u h) ∧
    Claim.pairOk amem 4 ∧ amem.g.vm.getLsbD 0 = true ∧ (∃ p u, amem.place amem.agent .atomic (Claim.pair amem 4 0) 4 4 = .ok (p, u)) ∧
    (∃ y, s.place s.agent .atomic (s.c 2) 8 8 = .error (.trap 0x08 0 y)) ∧
    (vfar.active.filter fun e => decide (vfar.runEl 10 32 e ≠ 2 ^ 31)).head? = some 0 ∧ Claim.places .atomic 4 vfar.bankAgent vfar [] [] vfar vfar.bankAgent ∧
    (∃ y, vfar.place vfar.bankAgent .atomic 0x10000000 4 4 = .error (.trap 0x08 0 y)) ∧
    let far := withG amem fun g => { g with v := [0, 0, 0, 0, 0x10000000] }
    far.vp = some 0 ∧ far.g.vm.getLsbD 0 = true ∧ ∃ y, far.place far.agent .atomic (Claim.pair far 4 0) 4 4 = .error (.trap 0x08 0 y) :=
  ⟨rfl, rfl, by decide, ok2_of (by decide +kernel), rfl, ready_vec 32 _ (by decide) (by decide) (by decide), ready_vec 32 _ (by decide) (by decide) (by decide),
    places_of _ _ _ _ _ (by decide +kernel), by unfold Claim.pairOk; decide +kernel, by decide +kernel, ok2_of (by decide +kernel), trap_of (by decide +kernel), by decide +kernel,
    ⟨rfl, rfl, rfl⟩, trap_of (by decide +kernel), by decide +kernel, by decide +kernel, trap_of (by decide +kernel)⟩

/-- A pivot stands at 0x300000, and `c1` names it, `c2` a region of `c3` bytes. -/
def piv : State := { (withC base [(1, 0x300000), (2, 0x200000), (3, 64), (4, 0x300004)]) with pivots := [0x300000] }

theorem met_PivotsAndBindings :
    let held := withG piv fun g => { g with holds := [(0x300000, true)] }
    let full := withG piv fun g => { g with holds := (List.range 8).map fun i => (i, true) }
    let wait : State := { piv with pwaits := [⟨0x300000, 1, false⟩], ev := { pa := 0x300000 } }
    let bound : State := piv.setCtx 1 { piv.ctx 1 with binds := [⟨0x200000, 64, 0x300000, 0x300000⟩] }
    (∃ u, piv.place piv.agent .load (piv.c 1) 8 8 = .ok (.hbm 0x300000, u)) ∧ 0x300000 ∈ piv.pivots ∧ piv.g.id ≠ 0 ∧ (∀ h ∈ piv.g.holds, h.1 ≠ 0x300000) ∧ piv.g.holds.length < 8 ∧
    Claim.pivotFree piv 0x300000 false ∧ (∀ w ∈ piv.pwaits, w.pa ≠ 0x300000) ∧ (∃ w ∈ wait.pwaits, w.pa = 0x300000) ∧ (∃ h ∈ held.g.holds, h.1 = 0x300000) ∧
    8 ≤ full.g.holds.length ∧ held.g.holds.find? (fun h => decide (h.1 = 0x300000)) = some (0x300000, true) ∧ held.ops = [] ∧
    wait.pwaits.find? (fun w => decide (w.pa = wait.ev.pa)) = some ⟨0x300000, 1, false⟩ ∧
    (∃ x, (piv.leafFor piv.agent .store (piv.c 1).toNat) = .ok x) ∧ State.bindBad (piv.ctx 1) (piv.c 2) (piv.c 3) (piv.c 1) 0 = false ∧
    State.bindBad (piv.ctx 1) (piv.c 2) (piv.c 0) (piv.c 1) 0 = true ∧ (piv.c 4).toNat % 8 ≠ 0 ∧
    (bound.ctx 1).binds.find? (fun x => decide (x.base = bound.c 2)) = some ⟨0x200000, 64, 0x300000, 0x300000⟩ ∧ (∀ y ∈ bound.g :: bound.groups, y.holds = []) ∧
    (piv.ctx 1).binds = [] :=
  ⟨fst_of (by decide +kernel), by decide +kernel, by decide +kernel, by decide +kernel, by decide +kernel, by unfold Claim.pivotFree; decide +kernel, by decide +kernel, by decide +kernel,
    by decide +kernel, by decide +kernel, by decide +kernel, by decide +kernel, by decide +kernel, ok_of (by decide +kernel), by decide +kernel, by decide +kernel, by decide +kernel,
    by decide +kernel, by decide +kernel, by decide +kernel⟩

/-- A copy of the group at work, and a fill of one of its team's channels. -/
def copying : State := { base with ops := [{ id := 9, g := 1, tm := 1, kind := .copy {} {} }] }
def filling : State := { base with ops := [{ id := 9, g := 1, tm := 1, kind := .fill {} {} }] }

theorem met_FencesBarriersAndWaits :
    let one := withT (withC base [(1, 1)]) fun t => { t with ngroups := 2 }
    let arrived := withT one fun t => { t with bars := [{ n := 2, arrived := [7] }] }
    let w := withC (withG base fun g => { g with vl := 1 }) [(8, 0x200000), (9, 5)]
    let sleeping := withG { w with ev := { g := 1 } } fun g => { g with cwait := some (.vwait (some 0) 8 2 3) }
    (∃ o ∈ copying.ops, o.g = copying.g.id) ∧ (∀ y z, (OpKind.copy {} {}) ≠ .fill y z ∧ (OpKind.copy {} {}) ≠ .drain y z) ∧ filling.ops.length = 1 ∧
    (15 : BitVec 6).toNat < one.t.nbar ∧ one.t.nbar ≤ (16 : BitVec 6).toNat ∧ (one.c 1).toNat ≤ one.t.ngroups ∧ ([] : List Nat).length + 1 = (one.c 1).toNat ∧
    arrived.g.id ∉ (Bank.get ({} : Barrier) arrived.t.bars 0).arrived ∧ (Bank.get ({} : Barrier) arrived.t.bars 0).arrived.length + 1 = arrived.t.ngroups ∧
    ((Bank.get ({} : Barrier) arrived.t.bars 0).arrived ≠ [] ∧ (Bank.get ({} : Barrier) arrived.t.bars 0).n ≠ (arrived.c 1).toNat) ∧
    (8 : CReg) ≠ 31 ∧ w.u.vl.toNat ≤ w.g.grant / 32 ∧ w.g.shades = [] ∧ (∀ e ∈ [0], w.el 2 32 e ≠ 2 ^ 31) ∧
    (∃ xs u h, Claim.reads 4 w.bankAgent w [(0, w.c 8 + BitVec.ofInt 64 (sextNat 32 (w.el 2 32 0)))] xs u h) ∧
    (sleeping.focus 1).g.cwait = some (.vwait (some 0) 8 2 3) ∧ 0 ≤ ((sleeping.focus 1).dieAt (sleeping.focus 1).t.die).clk.toNat ∧
    (∃ x, (sleeping.focus 1).waitUnit.watch ((sleeping.focus 1).c 8) 2 3 (sleeping.focus 1).waitUnit.watched = .ok x) := by
  refine ⟨by decide +kernel, fun y z => ⟨by simp, by simp⟩, by decide +kernel, by decide +kernel, by decide +kernel, by decide +kernel, by decide +kernel, by decide +kernel, by decide +kernel,
    by decide +kernel, by decide, by decide +kernel, by decide +kernel, by decide +kernel, reads_of _ _ _ _ (by decide +kernel), by decide +kernel, by decide +kernel, ok_of (by decide +kernel)⟩


/-- Doublewords in memory, at an address of the identity map. -/
def words (s : State) (a : Nat) (l : List Nat) : State := { s with hbm := s.hbm.store a (l.flatMap fun x => natLe 8 x) }

/-- A stream of 64 words of 32 bits at 0x310000, its descriptor at 0x200000, for a chunk of 16. -/
def stream : State := withU (withOps (words base 0x200000 [0x310000, 0x2000000000000000, 64, 0, 4, 0, 0, 0]) 0x200000 0) fun u => { u with vl := 16 }
/-- The binding that `vstream` makes there, and one whose second facet has landed. -/
def bindTo (landed : Word) : Stream := { reg := 5, desc := 0x200000, p := 0, c := 16, landed := landed, fmt := 2, base := 0x310000, cnts := [64], strides := [4] }
def streaming (landed : Word) : State := { (withG stream fun g => { g with streams := [bindTo landed] }) with ev := { g := 1, e := 5, i := 0 } }

theorem met_Streams :
    stream.vp = none ∧ (5 : VName).toNat < stream.g.budget ∧
    such (stream.readStream stream.u.opA) (fun x => decide (stream.u.vl ≠ 0) && decide (stream.u.vl.toNat ≤ stream.g.grant / fmtWidth x.1.fmt)) = true ∧
    stream.g.streams.length < 8 ∧ stream.bound (stream.reg 5) = none ∧ (streaming 3).bound (stream.reg 5) = some (bindTo 3) ∧
    ((List.range 2).all fun f => (bindTo 3).landed.getLsbD f) = true ∧ 2 * 256 = (bindTo 3).c * fmtWidth (bindTo 3).fmt ∧
    (0 * 256 < (bindTo 2).c * fmtWidth (bindTo 2).fmt ∧ (bindTo 2).landed.getLsbD 0 = false ∧ (bindTo 2).failed.getLsbD 0 = false) ∧
    ((streaming 2).focus 1).g.alive = true ∧ ((streaming 2).focus 1).bound 5 = some (bindTo 2) ∧
    (let q := (streaming 2).focus 1
     (q.fillFacet q.agent (bindTo 2) ((bindTo 2).elems 0)).2.1.isNone = true) := by
  refine ⟨by decide +kernel, ?_⟩
  and_intros <;> decide +kernel

/-- Two layouts of four 32-bit words, and a command for eight, at 0x300000, 0x300100 and 0x300200. -/
def tlr (b : Nat) (rmt : Nat) : List Nat := [b, 0x2200000000000000 + rmt * 2 ^ 51, 0x400000004, 0x100000001, 0x100000001, 0x100000001, 0x100000001, 4, 0, 0, 0, 0, 0, 0, 0]
def recs : State := withOps (words (words (words base 0x300000 (tlr 0x310000 0)) 0x300100 (tlr 0x320000 0))
  0x300200 [0x310000, 0x330000, 0x320000, 0x820000000, 16, 0x340000]) 0x300000 0x300100

theorem met_EngineStartsAndTags :
    let gath := withOps recs 0x300200 0
    let vg := { (withU (withG (withOps base 0x310000 0) fun g => { g with v := [0, 0x0000000100000000] }) fun u => { u with vl := 8, opX := 0x320000 }) with port := true }
    let off := withT base fun t => { t with tags := 0 }
    let on := withT base fun t => { t with tags := 6 }
    let bad := withT on fun t => { t with tagSt := [0, 0, 2] }
    let ws := words (words (words recs 0x20008 [0x30001]) 0x30000 [0x3D7]) 0x300100 (tlr 0x10000000 0)
    let user := ws.setCtx 1 { ws.ctx 1 with priv := false }
    (63 : BitVec 6).toNat < recs.t.ntags ∧
    such (recs.readTlr recs.u.opA) (fun x => such (x.2.2.readTlr recs.u.opB) fun y => decide (y.2.2.badTlrs x.1 y.1 x.2.1 y.2.1 = none) && !y.2.2.tagBusy 63 &&
      decide (y.2.2.wsBreak (y.2.2.newOp 63 (.copy x.1 y.1)) = none)) = true ∧
    such (user.readTlr user.u.opA) (fun x => such (x.2.2.readTlr user.u.opB) fun y => decide (y.2.2.badTlrs x.1 y.1 x.2.1 y.2.1 = none) && !y.2.2.tagBusy 63 &&
      decide (y.2.2.wsBreak (y.2.2.newOp 63 (.copy x.1 y.1)) = some 0x10000000)) = true ∧
    such (gath.readWords gath.agent .load gath.u.opA 6) (fun x => !(GathCmd.ofWords gath.u.opA x.1).bad (field (x.1.getD 3 0).toNat 0 26) && !x.2.tagBusy 63 &&
      [OpKind.gather (GathCmd.ofWords gath.u.opA x.1), .scatter (GathCmd.ofWords gath.u.opA x.1)].all fun k => decide (x.2.wsBreak (x.2.newOp 63 k) = none)) = true ∧
    off.tagBusy 5 = false ∧ ({ off with ops := [{ id := 9, g := 1, tm := 1, tag := 5, kind := .copy {} {} }] } : State).tagBusy 5 = true ∧
    (withT base fun t => { t with ntags := 2 }).t.ntags ≤ (2 : BitVec 6).toNat ∧
    (vg.vp = none ∧ (1 : CReg) ≠ 31 ∧ vg.u.vl.toNat ≤ vg.g.grant / Ty.i32.bits ∧ vg.tagBusy 63 = false ∧ vg.vgathSlot = some 0x400500) ∧ Claim.run vg 1 32 8 ∧ (∀ o : EngOp, o.ctx = vg.t.ctx → vg.wsBreak o = none) ∧
    (on.t.tags &&& 2 = 2 ∧ on.t.tags &&& 9 = 0 ∧ on.t.tags &&& 10 ≠ 10 ∧ on.t.tags.getLsbD 1 = true) ∧
    (Bank.get (0 : BitVec 4) on.t.tagSt 1 = 0 ∧ Bank.get (0 : BitVec 4) bad.t.tagSt 2 ≠ 0 ∧ Bank.get (0 : BitVec 4) bad.t.tagSt 1 = 0) := by
  refine ⟨by decide +kernel, by decide +kernel, by decide +kernel, by decide +kernel, by decide +kernel, by decide +kernel, by decide +kernel, by decide +kernel,
    ⟨by decide +kernel, by decide +kernel, by decide +kernel, fun _ _ => none_bound (by decide +kernel) _⟩,
    fun o h => if_pos (by rw [h]; decide +kernel), by decide +kernel, by decide +kernel⟩

/-- A copy of four words in flight; `r` makes its destination lie at a node, `q` its source. -/
def inFlight (r q : Bool) (line : Nat) : State :=
  let src := Tlr.ofWords 0x300000 ((tlr 0x310000 (if q then 1 else 0)).map (BitVec.ofNat 64))
  let dst := Tlr.ofWords 0x300100 ((tlr 0x320000 (if r then 1 else 0)).map (BitVec.ofNat 64))
  { words base 0x350000 [2 ^ 63] with
    ops := [{ id := 9, g := 1, tm := 1, ctx := 1, tag := 3, rank := 9, lines := [line], kind := .copy src dst }], ev := { op := 9, i := 0, line := line }, nodeSet := true,
    parts := [(0, { State.prt base 0 with qpt := 0x350000 })] }
def opIn (s : State) : EngOp := s.ops.getD 0 { kind := .copy {} {} }

theorem met_EngineOperationsEnd :
    let a := inFlight false false 0x6400
    let put := inFlight true false 0
    let get := inFlight false true 0
    let o : EngOp := { opIn a with kind := .copy (Tlr.ofWords 0x300000 ((tlr 0x10000000 0).map (BitVec.ofNat 64))) (Tlr.ofWords 0x300100 ((tlr 0x320000 0).map (BitVec.ofNat 64))) }
    a.op? a.ev.op = some (opIn a) ∧ (opIn a).stop = none ∧ (opIn a).ended = none ∧
    (match a.performRest (opIn a) (opIn a).todo with | .fin _ _ 0 _ => true | _ => false) = true ∧
    put.peerOk (put.ctx 1).part 0 = true ∧ get.peerOk (get.ctx 1).part 0 = true ∧ 0x6400 ∈ (opIn a).lines ∧
    (a.unitsFor (opIn a) 0x6400 ≠ [] ∧ (opIn a).supplied = true ∧ (a.performAll (opIn a) (a.unitsFor (opIn a) 0x6400)).isSome = true) ∧
    (a.groupD (opIn a).g).run ≠ .reclaimed ∧
    (match a.opWrite (opIn a) 0x300178 0 with | .wait _ => false | _ => true) = true ∧
    (match ({ a with ops := { opIn a with id := 3, rank := 3, lines := [0x300178 / 128] } :: a.ops } : State).opWrite (opIn a) 0x300178 0 with | .wait _ => true | _ => false) = true ∧
    a.ev.op ≠ 0 ∧ 0 ∉ (opIn a).done ∧ 0 < (opIn a).units ∧ (match a.opUnit o 0 with | .fail (.trap 0x08 _ _) _ _ => true | _ => false) = true ∧
    (a.team? 1 ≠ none ∧ (opIn a).tag < 64) := by
  refine ⟨by decide +kernel, ?_⟩
  and_intros <;> decide +kernel

/-- A ring of four 32-byte slots at 0x360000, index 5 next on both sides, whose slot 1 has the status byte `b`; `p` and `q` are its parties. -/
def ring (p q b : Nat) : State := withOps (words base 0x360000 [0x370000, 0x2000200000000000 + p * 2 ^ 36 + q * 2 ^ 32, 0x360040, 5 * 2 ^ 32 + 5, 0, 0, 0, 0, b * 256]) 0x360000 5
def ringHdr (p q : Nat) : RingHdr := { addr := 0x360000, slotbase := 0x370000, log2n := 2, slotsz := 32, prod := p, cons := q, statbase := 0x360040 }
/-- The ring reads as its header says, and its status byte satisfies `p`; RES, CLM and the status byte can be written. -/
def ringReads (s : State) (h : RingHdr) (b : Nat) : Bool :=
  such (s.readRing s.agent .load s.u.opA) fun x => decide (x.1 = h) && decide (x.2.1 = 5) && decide (x.2.2.1 = 5) &&
    such (x.2.2.2.readStat s.agent .load h 5) fun y => decide (y.1 = b) && such (y.2.ringWrite s.agent (h.addr + 24) (natLe 8 0)) fun w =>
      such (w.ringWrite s.agent (h.statAt 5) (natLe 1 0)) fun _ => true
/-- A port whose group waits in rres or rclaim for the slot of index 5. -/
def asleep (claim : Bool) (b : Nat) : State :=
  let entry : Machine.Unit := { base.u with word := if claim then 0xC860A002 else 0xC848A000, opA := 0x360000, tk := some 5 }
  { (withG (ring 0 0 b) fun g => { g with pwait := some (.ring 5 claim 0x360000), viq := [entry] }) with ev := { g := 1 } }
/-- It takes the slot when it wakes. -/
def wakes (claim : Bool) (d : CReg) (b : Nat) : Bool :=
  let q := (asleep claim b).focus 1
  match q.g.viq with
  | un :: rest => such (({ q with u := un, port := true, vp := none, g := { q.g with viq := rest, pwait := none } } : State).ringTake claim d) fun x => x.1
  | [] => false

theorem met_Rings :
    let left (claim : Bool) (b : Nat) : State := { ring 0 0 b with pend := [⟨5, ringHdr 0 0, 1, 1, claim⟩], ev := { n := 0 } }
    ringReads (ring 0 0 0) (ringHdr 0 0) 0 = true ∧ ringReads (ring 0 0 0xC0) (ringHdr 0 0) 0xC0 = true ∧ ringReads (ring 0 0 0xA0) (ringHdr 0 0) 0xA0 = true ∧
    ringReads (ring 0 0 0xE0) (ringHdr 0 0) 0xE0 = true ∧ ringReads (ring 1 1 0) (ringHdr 1 1) 0 = true ∧ base.u.tk = none ∧
    ((0 : Nat) = base.g.role.toNat ∧ (1 : Nat) ≠ base.g.role.toNat) ∧ Claim.ringReady (ringHdr 0 0) false 5 0 ∧ Claim.ringReady (ringHdr 0 0) true 5 0xC0 ∧
    ¬ Claim.ringReady (ringHdr 0 0) false 5 0xA0 ∧ ¬ Claim.ringReady (ringHdr 0 0) true 5 0 ∧
    (0xA0 / 32 % 4 = 1 ∧ 0xA0 / 128 % 2 = 5 / 2 ^ (ringHdr 0 0).log2n % 2) ∧ (0xE0 / 32 % 4 = 3 ∧ 0xE0 / 128 % 2 = 5 / 2 ^ (ringHdr 0 0).log2n % 2) ∧ 0 / 32 % 4 ≠ 1 ∧
    ((asleep true 0xC0).focus 1).g.pwait = some (.ring 5 true 0x360000) ∧ ((asleep false 0).focus 1).g.portReady = true ∧
    wakes true 12 0xC0 = true ∧ wakes false 9 0 = true ∧ decodeWord 0xC860A002 = .ok (.rclaim 12 5) ∧ decodeWord 0xC848A000 = .ok (.rres 9 5) ∧
    (left true 0xC0).pend[(left true 0xC0).ev.n]? = some ⟨5, ringHdr 0 0, 1, 1, true⟩ ∧
    such ((left true 0xC0).readStat ((left true 0xC0).pendAgent ⟨5, ringHdr 0 0, 1, 1, true⟩) .load (ringHdr 0 0) 5)
      (fun x => decide (x.1 = 0xC0) && such (x.2.writeStat ((left true 0xC0).pendAgent ⟨5, ringHdr 0 0, 1, 1, true⟩) (ringHdr 0 0) 5 0) fun _ => true) = true := by
  refine ⟨by decide +kernel, by decide +kernel, by decide +kernel, by decide +kernel, by decide +kernel, by decide +kernel, by decide +kernel, by unfold Claim.ringReady; decide +kernel,
    by unfold Claim.ringReady; decide +kernel, by unfold Claim.ringReady; decide +kernel, by unfold Claim.ringReady; decide +kernel, by decide +kernel, by decide +kernel, by decide,
    by decide +kernel, by decide +kernel, by decide +kernel, by decide +kernel, by decide +kernel, by decide +kernel, by decide +kernel, by decide +kernel⟩

/-- The ring filled, or drained, by channel 0, and a layout of 16 words beside it; a transfer of it in flight. -/
def chans (p q b : Nat) : State := withOps (words (ring p q b) 0x300000 [0x310000, 0x2200000000000000, 0x1000000010, 0x100000001, 0x100000001, 0x100000001, 0x100000001, 4, 0, 0, 0, 0, 0, 0, 0]) 0x300000 0x360000
def chanTlr : Tlr := Tlr.ofWords 0x300000 ([0x310000, 0x2200000000000000, 0x1000000010, 0x100000001, 0x100000001, 0x100000001, 0x100000001, 4, 0, 0, 0, 0, 0, 0, 0].map (BitVec.ofNat 64))
def chanOp (p q : Nat) (drain : Bool) : EngOp :=
  { id := 9, g := 1, tm := 1, ctx := 1, tag := 0, kind := if drain then .drain chanTlr (ringHdr p q) else .fill chanTlr (ringHdr p q) }
def moving_ (p q b : Nat) (drain : Bool) : State := { (withT (chans p q b) fun t => { t with chans := [{ queue := [⟨0, 9⟩], next := 1 }] }) with
  ops := [chanOp p q drain], nextId := 10, ev := { tm := 1, k := 0, st := 5 } }

theorem met_Channels :
    let full := withT base fun t => { t with chans := [{ queue := (List.range 8).map fun i => ⟨BitVec.ofNat 32 i, i⟩ }] }
    let at_ (i : Nat) := withT (withOps base (w64 i) 0) fun t => { t with chans := [{ done := 5, next := 5, sts := [(3, 2)] }] }
    (7 : BitVec 3).toNat < base.t.nchan ∧
    such ((chans 8 0 0).readRing base.agent .load 0x360000) (fun x => decide (x.1 = ringHdr 8 0)) = true ∧
    such ((chans 0 8 0).readRing base.agent .load 0x360000) (fun x => decide (x.1 = ringHdr 0 8)) = true ∧
    (([true, false].all fun fill => let s := if fill then chans 8 0 0 else chans 0 8 0
      such (s.readRing s.agent .load s.u.opB) fun y => such (y.2.2.2.readTlr s.u.opA) fun x =>
        !x.1.badChannel x.2.1 fill (!fill && !s.t.priv && (x.2.2.inSpace s.t.ctx 1 x.1.places).isSome) &&
        decide (x.2.2.wsBreak (x.2.2.newOp 0 (if fill then .fill x.1 y.1 else .drain x.1 y.1)) = none)) = true) ∧
    (Bank.get ({} : Channel) base.t.chans 0).queue.length < 8 ∧ 8 ≤ (Bank.get ({} : Channel) full.t.chans 0).queue.length ∧
    (1 ≤ ((Bank.get ({} : Channel) (at_ 4).t.chans 0).done - (at_ 4).u.opA.setWidth 32).toNat ∧ ¬ 1 ≤ ((Bank.get ({} : Channel) (at_ 5).t.chans 0).done - (at_ 5).u.opA.setWidth 32).toNat) ∧
    (Bank.get ({} : Channel) (at_ 3).t.chans 0).sts.find? (fun x => decide (x.1 = (at_ 3).u.opA.setWidth 32)) = some (3, 2) ∧
    (moving_ 8 0 0 false).runningOp 1 0 = some (chanOp 8 0 false) ∧ (moving_ 0 8 0xC0 true).runningOp 1 0 = some (chanOp 0 8 true) ∧
    (match (moving_ 8 0 0 false).nextSlot (chanOp 8 0 false) with | .done _ p => decide (p.mixed = []) | _ => false) = true ∧
    (match (moving_ 0 8 0xC0 true).nextSlot (chanOp 0 8 true) with | .done _ p => decide (p.mixed = []) | _ => false) = true ∧
    (match (moving_ 8 0 0xC0 false).nextSlot (chanOp 8 0 false) with | .waits _ _ => true | _ => false) = true ∧
    (match (moving_ 8 0 1 false).nextSlot (chanOp 8 0 false) with | .err _ _ st => decide (st = 5) | _ => false) = true := by
  refine ⟨by decide +kernel, ?_⟩
  and_intros <;> decide +kernel

/-- Scratch mapped from 0x10000000, and a team whose matrix unit is enabled, with 64 rows of which the group's window holds 4 to 40. -/
def scr : State := words (words base 0x20008 [0x30001]) 0x30000 [0x5D7]
def mat : State := withG (withT scr fun t => { t with men := true, accrows := 64 }) fun g => { g with awb := 4, awl := 40 }
/-- An operation of one cell at row 4. -/
def cellOp : Mop := { g := 1, tm := 1, afmt := 5, wfmt := 5, m := 1, k := 1, n := 1, row := 4, ovw := false, zskip := false, reuse := false, areg := false, asrc := 0x10000000, astride := 32 }
/-- A matrix descriptor at 0x300000: rows, depth, columns, row, and the flags of its third word. -/
def mopAt (m k n row flags : Nat) : State :=
  withOps (words mat 0x300000 [0x10000000, 32, 5 * 2 ^ 60 + 5 * 2 ^ 56 + m * 2 ^ 46 + k * 2 ^ 36 + n * 2 ^ 28 + row * 2 ^ 19 + flags, 0, 0, 0, 0, 0]) 0x300000 0

theorem met_MatrixControl :
    let off := withT mat fun t => { t with men := false }
    let many : State := { base with teams := [{ id := 9, accrows := 1000 }] }
    let busy := mat.setMu { mat.mu with queue := [cellOp] }
    base.g.num = 0 ∧ (base.t.men = false ∧ mat.t.men = true ∧ base.t.accrows = 0 ∧ 0 < off.t.accrows) ∧ (512 ≤ base.freeRows base.t.coreId ∧ ¬ 512 ≤ many.freeRows many.t.coreId) ∧
    mat.mu.queue = [] ∧ mat.mu.ldw = none ∧ mat.t.gids[0]? = some mat.g.id ∧ 0 < mat.t.ngroups ∧ (mat.g.id ≠ 0 ∧ mat.g.resident = true) ∧
    (63 < 64 ∧ 64 ≤ mat.t.accrows) ∧ (mat.allGroups.filter fun x => decide (x.team = mat.t.id)).map Group.id = [mat.g.id] ∧
    (4 + 36 ≤ mat.g.awl.toNat ∧ mat.rowsBusy 4 36 = false ∧ mat.g.awl.toNat < 4 + 37) ∧ mat.mu.busyFor mat.g.id = false ∧ busy.mu.busyFor busy.g.id = true ∧
    (withG mat fun g => { g with num := 1 }).g.num ≠ 0 := by
  refine ⟨by decide +kernel, ?_⟩
  and_intros <;> decide +kernel

theorem met_MatrixCommands :
    let ld := withOps mat 0x10000000 (5 + 16 * 2 ^ 4 + 128 * 2 ^ 14 + 32 * 2 ^ 22)
    let loading : LdwCmd := { g := mat.g.id, tm := mat.t.id, addr := 0x10000000, stride := 32, fmt := 5, k := 1, ncol := 1 }
    let one := cellOp
    let queued (x : Mop) : State := mat.setMat 0 { mat.mat 0 with queue := [x] }
    let held (s : State) : State := s.setMu { s.mu with sst := .held s.g.id, shadow := { fmt := 5, k := 1, ncol := 1 }, stationary := { fmt := 5, k := 1, ncol := 1 }, owner := some s.g.id }
    Claim.ldwFields ld.u.opB = (5, 16, 128, 32) ∧ (ld.u.opB.toNat < 2 ^ 42 ∧ 16 ≤ matDepth 5) ∧
    such (ld.needScratch ((List.range 128).map fun j => (ld.u.opA + BitVec.ofNat 64 (j * 32), rowBytes 5 16)))
      (fun u => decide (u.mu.sst = .free) && decide (u.mu.ldw = none)) = true ∧
    ((mat.setMat 0 { mat.mat 0 with ldw := some loading }).mat 0).ldw = some loading ∧
    such ((mopAt 0 1 1 0 0).readWords mat.agent .load 0x300000 8) (fun x => decide (x.1 = [0x10000000, 32, 0x5500001010000000, 0, 0, 0, 0, 0])) = true ∧
    such ((mopAt 32 1 1 4 0).readWords mat.agent .load 0x300000 8) (fun x => decide (x.1.getD 2 0 = 0x5508001010200000#64) && decide (x.1.drop 3 = [0, 0, 0, 0, 0])) = true ∧
    ((0x5500001010000000 : Nat) / 2 ^ 46 % 2 ^ 10 = 0 ∧ (0x5500001010000000 : Nat) / 2 ^ 15 % 2 = 0 ∧ 0x10000000 % 32 = 0) ∧
    ((0x5508001010200000 : Nat) / 2 ^ 46 % 2 ^ 10 = 32 ∧ matPair 5 5 = true ∧ 4 + 4 + 32 ≤ mat.g.awl.toNat) ∧
    ((held (mopAt 32 1 1 4 0)).planeBad false 5 1 = false ∧ (mat.setMu { mat.mu with stationary := { fmt := 5, k := 1, ncol := 1 }, owner := some mat.g.id }).planeBad true 5 1 = false) ∧
    such ((held (mopAt 32 1 1 4 0)).needScratch ((List.range 32).map fun i => (0x10000000 + BitVec.ofNat 64 (i * 32), rowBytes 5 1))) (fun _ => true) = true ∧
    (mat.mu.queue.filter fun x => !x.started).length < 4 ∧
    ((queued one).mat 0).queue = [one] ∧ (one.started = false ∧ one.reuse = false ∧ ({ one with reuse := true } : Mop).reuse = true ∧ (mat.mat 0).ldw = none) ∧
    ((queued { one with started := true }).mat 0).queue = [{ one with started := true }] ∧ ((queued one).team? one.tm).isSome = true := by
  refine ⟨by decide +kernel, ?_⟩
  and_intros <;> decide +kernel

/-- The slice of row 4 + 35, columns 120 to 127, on eight elements with data in registers 2 and 3. -/
def slice : State := withU (withOps (withG mat fun g => { g with v := [0, 0, 0x3F800000, 5] }) (35 + 120 * 2 ^ 16) 0) fun u => { u with vl := 8 }

theorem met_DrainsAndRowWrites :
    let low := withOps slice (36 + 120 * 2 ^ 16) 0
    let right := withOps slice (35 + 121 * 2 ^ 16) 0
    slice.vp = none ∧ Claim.slice slice true 39 120 ∧ Claim.slice slice false 39 120 ∧ Claim.ready slice 32 [2] ∧ Claim.ready slice 32 [3] ∧ (2 : VName).toNat ≠ 31 ∧ 7 ∈ slice.active ∧ 8 ∉ slice.active ∧
    (low.t.men = true ∧ low.u.opA.toNat = 36 + 120 * 2 ^ 16 ∧ low.g.awl.toNat ≤ low.g.awb.toNat + 36) ∧
    (right.u.opA.toNat = 35 + 121 * 2 ^ 16 ∧ 128 < 121 + right.u.vl.toNat) := by
  have ready : ∀ r : Nat, r < 64 → Claim.ready slice 32 [r] := fun r h =>
    ⟨by simpa [show slice.g.budget = 64 by decide +kernel] using h, fun _ => by decide +kernel, fun _ _ => none_bound (by decide +kernel) _⟩
  have at_ : ∀ rd, Claim.slice slice rd 39 120 := fun rd =>
    ⟨⟨by decide +kernel, by decide +kernel, ⟨35, by decide, by decide +kernel, by decide +kernel⟩, by decide, by decide +kernel, by decide +kernel⟩, by cases rd <;> decide +kernel⟩
  exact ⟨by decide +kernel, at_ true, at_ false,
    ready 2 (by decide), ready 3 (by decide), by decide, by decide +kernel, by decide +kernel, by decide +kernel, by decide +kernel⟩

/-- The group's team runs a task of weight 100 of the graph of root 7. -/
def tasky : State := { (withT base fun t => { t with kind := .task 0x4000000000, root := 7 }) with
  tasks := [{ handle := 0x4000000000, weight := 100, st := .running, team := some 1, cons := 1, root := 7 }], graphs := [{ root := 7, die := 0, ctx := 1, pool := 2 ^ 33 }] }
/-- It holds a reference to a record in state `st` with two consumers. -/
def refs (st : RecSt) : State := { (withOps (withT tasky fun t => { t with owned := [0x4000080000] }) 0x4000080000 63) with
  tasks := tasky.tasks ++ [{ handle := 0x4000080000, st := st, cons := 2 }] }
/-- A node table with node 0, and a launch descriptor at 0x390000. -/
def nodes : State := (words (words (tasky.setCtx 1 { tasky.ctx 1 with snode := 0x380000 }) 0x380000 [0x100000, 2 ^ 48 + 2 ^ 38 + 2 ^ 32 + 3 * 2 ^ 22])
  0x390000 [0x100000, 0, 0x100000001, 0x100000001, 0x100000001, 0x100000001, 0xE4 * 2 ^ 56 + 2 ^ 32, 2 ^ 56])

theorem met_TaskCreation :
    let spawn := withOps tasky 0x100000 0
    let full : State := { tasky with tasks := tasky.tasks.map fun r => { r with weight := 1 }, graphs := [] }
    let many := withT tasky fun t => { t with owned := List.replicate 16 0x4000080000 }
    let launch := withOps nodes 0x390000 0
    let emit := withOps nodes 0 0x100000
    such tasky.split (fun x => decide (x.1 = 50)) = true ∧ (match full.split with | .error _ => true | _ => false) = true ∧
    (spawn.u.opB.toNat < 2 ^ 24 ∧ spawn.u.opB.toNat / 256 % 256 = 0 ∧ spawn.u.opA.toNat % 4 = 0) ∧ many.setOwned (many.t.owned ++ [1]) = none ∧
    ({ spawn with fresh := spawn.fresh + 1 } : State).setOwned (spawn.t.owned ++ [spawn.newHandle spawn.t.die]) ≠ none ∧ spawn.storeFull spawn.t.die = false ∧
    (128 < 0x810000 / 2 ^ 16 % 256) ∧ launch.u.opA.toNat % 128 = 0 ∧
    such (launch.readWords launch.agent .load launch.u.opA 16) (fun x => (loopNest x.1).isSome && ((x.2.setOwned [1]).isSome)) = true ∧
    such (launch.readWords launch.agent .load (launch.u.opA + 0x80) 16) (fun x => (loopNest x.1).isNone) = true ∧ launch.spaceOf launch.t.ctx launch.u.opA = some 0 ∧
    (emit.u.opA.toNat < 1024 ∧ emit.nodeOk emit.t.ctx 0 = true ∧ emit.nodeOk emit.t.ctx 1 = false ∧ emit.u.opB.toNat % 4 = 0) ∧
    such (emit.readRec emit.u.opB (emit.nodeDecl emit.t.ctx 0).rsize) (fun x => decide ((emit.dieAt emit.t.die).binBytes + (x.1.length + 31) / 32 * 32 ≤ 2 ^ 22) && such x.2.split fun _ => true) = true := by
  refine ⟨by decide +kernel, by decide +kernel, by decide +kernel, by decide +kernel, by decide +kernel, by decide +kernel, by decide, by decide +kernel, by decide +kernel,
    by decide +kernel, by decide +kernel, by decide +kernel, by decide +kernel⟩

theorem met_ReferencesYieldsAndLfree :
    let s := refs .finished
    let h : Word := 0x4000080000
    let many := withT (refs .running) fun t => { t with owned := List.replicate 16 0x4000080000 }
    let want : State := ((refs .ready).setCtx 1 { (refs .ready).ctx 1 with spooln := 2 }).setDie 0 { (refs .ready).dieAt 0 with budget := 1, cands := [{ kind := .task h }] }
    let shed := withOps base 0xFFFFFFFFFFFFFFFF 0
    (tasky.owns h = false ∧ s.owns h = true ∧ s.u.opA = h ∧ s.u.opB.toNat < 64) ∧
    (s.task? h).map TaskRec.st = some .finished ∧ ((refs .running).task? h).map TaskRec.st = some .running ∧ ((refs .ready).task? h).map TaskRec.st = some .ready ∧
    (s.task? h).map (fun r => decide (r.orphan = false) && !s.refWaits r && decide (2 ≤ r.cons)) = some true ∧
    (s.setOwned (s.t.owned ++ [h])).isSome = true ∧ (s.setOwned (s.t.owned.erase h)).isSome = true ∧ many.setOwned (many.t.owned ++ [h]) = none ∧ base.t.stopping = false ∧
    (shed.u.opA.toNat < 2 ^ shed.g.budget ∧ shed.g.streams = [] ∧ 63 < shed.g.budget ∧ shed.g.req = false) ∧ stream.g.budget = 64 ∧ (streaming 3).g.streams ≠ [] ∧
    (base.dieAt base.t.die).cands.any base.waitsFor = false ∧ (want.dieAt want.t.die).cands.any want.waitsFor = true ∧
    (((refs .transit).task? h).map (fun r => (refs .transit).refWaits r) = some true ∧ (refs .ready).fenceWaits = false ∧ want.fenceWaits = false ∧ copying.fenceWaits = true ∧
      (withG shed fun g => { g with req := true }).g.req = true ∧ shed.fenceWaits = false) := by
  refine ⟨by decide +kernel, ?_⟩
  and_intros <;> decide +kernel

/-- The state that a step leaves. -/
def after (o : Host.Outcome State Fault Refusal) : State := match o with | .next t => t | _ => base
/-- The group of `base` saved. -/
def saved : State := after (exec .preEmption { (withG base fun g => { g with req := true }) with ev := { g := 1 } })
def areaMem : Memory := (0x10000, 1) :: (0x10002, 2) :: (0x20000, 0xDF) :: (0x20001, 1) :: (0x20006, 0x10) ::
  (0x400005, 1) :: (0x400006, 17) :: (0x400007, 1) :: (0x400019, 8) :: (0x40001A, 16) :: (0x40001B, 1) :: (0x400022, 16) :: (0x40002A, 16) :: (0x400038, 1) :: (0x400250, 1) ::
  ((List.range 32).map fun i => (0x400F00 + i, 255)) ++ (List.range 32).map fun i => (0x409300 + i / 2 * 264 + i % 2 * 5, 8)
/-- A group saved at 0x400000, with sixteen registers, and another at work that names the area. -/
def savedGroup : Group := { id := 1, team := 1, pc := 0x100000, budget := 16, area := 0x400000, areaCtx := 1, run := .saved 1, nfac := List.replicate 16 8 }
def above : State := { (withC (withG base fun g => { g with id := 5, team := 5, area := 0x900000, areaCtx := 1, sctx := 1 }) [(1, 0x400000), (2, 4)]) with
  t := { base.t with id := 5, gids := [5] }, groups := [savedGroup], teams := [base.t], ev := { g := 5 }, hbm := areaMem,
  ctxs := [(1, { root := 1, wkey := 1, priv := true, valid := true, spool := 0x400000, spooln := 1 })] }

theorem above_walk {a : Nat} (h : a < 2 ^ 28) : above.walk 1 a = some (stageLeaf, 1, 0x20000) := by
  have h0 : vaIndex 0 a = 0 := by unfold vaIndex field; omega
  have h1 : vaIndex 1 a = 0 := by unfold vaIndex field; omega
  have root : above.paIn (above.ctx 1).part ((above.ctx 1).root.toNat * 65536) = true := by decide +kernel
  unfold State.walk State.walkPath
  rw [if_pos (by rw [root]; simp; omega)]
  simp only [State.walkFrom, h0, h1]
  rfl
theorem above_leaf {a : Nat} (h : a < 2 ^ 28) : above.devLeaf 1 false a = some (stageLeaf, 1, 0x20000) := by
  unfold State.devLeaf
  rw [above_walk h]
  rfl
theorem le_num_lt : ∀ l : List Byte, leNat l < 256 ^ l.length
  | [] => by decide
  | b :: l => by
    have := le_num_lt l
    have hb := b.isLt
    simp only [leNat, List.length_cons, Nat.pow_succ]
    omega
/-- A word of the area, without the walk. -/
def areaNum (off : Nat) : Nat := if off < 0x20000 then leNat (areaMem.bytes (0x400000 + off) 8) else above.areaWord 1 0x400000 off
theorem area_word : above.areaWord 1 0x400000 = areaNum := by
  funext off
  unfold areaNum
  split
  case isFalse => rfl
  case isTrue h =>
    have ha : (0x400000 + w64 off : Word).toNat = 0x400000 + off := by unfold w64; simp; omega
    have hb : above.devRead 1 (0x400000 + w64 off) 8 = areaMem.bytes (0x400000 + off) 8 := by
      unfold State.devRead Memory.bytes
      refine List.map_congr_left fun i hi => ?_
      have := List.mem_range.mp hi
      rw [ha, above_leaf (by omega)]
      have hp : ptePfn stageLeaf * 65536 + pageOff 1 (0x400000 + off + i) = 0x400000 + off + i := by
        have h1 : ptePfn stageLeaf = 0 := by decide
        have h2 : pageOff 1 (0x400000 + off + i) = (0x400000 + off + i) % 2 ^ 28 := rfl
        omega
      simp only [hp]
      rfl
    unfold State.areaWord State.devWord
    rw [hb]
    have : leNat (areaMem.bytes (0x400000 + off) 8) < 2 ^ 64 := by
      have := le_num_lt (areaMem.bytes (0x400000 + off) 8)
      rw [show (areaMem.bytes (0x400000 + off) 8).length = 8 by simp [Memory.bytes]] at this
      omega
    rw [BitVec.toNat_ofNat, Nat.mod_eq_of_lt this]
def facetsOf (w : Nat → Nat) : Nat → Nat → List (Nat × Nat)
  | 0, _ => []
  | n + 1, off => (off, field (w off) 0 7) :: facetsOf w n (off + 8 + 32 * field (w off) 0 7)
theorem facets_of (s : State) (c : Nat) (a : Word) : ∀ n off, s.facetCounts c a n off = facetsOf (s.areaWord c a) n off
  | 0, _ => rfl
  | n + 1, off => by simp only [State.facetCounts, facetsOf, facets_of s c a n]
theorem above_breaks : above.areaBreaks savedGroup 1 = false := by
  unfold State.areaBreaks
  simp only [facets_of, show savedGroup.areaCtx = 1 from rfl, show savedGroup.area = 0x400000 from rfl, area_word]
  decide +kernel

theorem met_GroupsEndAndReturn :
    let at_ (s : State) : State := { s with ev := { g := 1, flag := true } }
    let port := at_ (withG base fun g => { g with viq := [{ word := 0x06000000 }] })
    let spawn : State := ((base.setCtx 1 { base.ctx 1 with sroot := 7, shent := 0x100000 }).setDie 0 { base.dieAt 0 with spawns := [(1, [3])] })
    let spawning : State := { spawn with graphs := [{ root := 7, die := 0, ctx := 1, pool := 2 ^ 33 }], ev := { die := 0 } }
    let resuming : State := { (withG saved fun g => { g with run := .resuming 1 }) with ev := { g := 1 } }
    let ret := withG (at_ tasky) fun g => { g with run := .returned 9 }
    let two : State := { (withT ret fun t => { t with gids := [1, 2] }) with groups := [{ id := 2, team := 1 }] }
    let stop := at_ (withT base fun t => { t with stopping := true })
    let reclaimed (s : State) : State := withG (at_ s) fun g => { g with run := .reclaimed }
    let asked := at_ (withG base fun g => { g with req := true })
    let lost (gids : List Nat) : State := { (withT tasky fun t => { t with gids := gids }) with tasks := tasky.tasks.map fun r => { r with st := .reclaiming }, ev := { h := 0x4000000000 } }
    ((base.focus 1).g.controlReady = true ∧ (base.focus 1).g.viq = [] ∧ (base.focus 1).g.pfx = [] ∧ (port.focus 1).g.portReady = true ∧ (port.focus 1).g.vps = []) ∧
    ((spawning.dieAt 0).spawns = [(1, [3])] ∧ (spawning.spawnHandler 0 1 [3]).isSome = true ∧ spawn.spawnHandler 0 1 [3] = none) ∧
    ((saved.g.run = .saved 1 ∧ (saved.focus 1).g.resident = false) ∧ resuming.g.run = .resuming 1 ∧ (resuming.teamD resuming.g.team).die = resuming.ev.die ∧ resuming.fenceWaitsOf 1 = false ∧
      copying.fenceWaitsOf 1 = true ∧ (asked.focus 1).g.req = true ∧ (asked.focus 1).g.controlReady = true ∧ (asked.focus 1).fenceWaits = false) ∧
    ((ret.focus 1).g.run = .returned 9 ∧ (ret.focus 1).ownOps = [] ∧ (ret.focus 1).mu.busyFor 1 = false ∧ (copying.focus 1).ownOps ≠ []) ∧
    ((two.focus 1).t.gids = [1, 2] ∧ ((two.focus 1).groupD 2).alive = true) ∧
    ((ret.focus 1).t.gids = [1] ∧ (ret.focus 1).t.halted = none ∧ (ret.focus 1).t.owned = [] ∧ ((ret.focus 1).task? 0x4000000000).map (fun r => (r.st, r.cons)) = some (.running, 1)) ∧
    ((stop.focus 1).reclaimable = true ∧ (base.focus 1).reclaimable = false ∧ ((reclaimed copying).focus 1).g.run = .reclaimed ∧ ((reclaimed copying).focus 1).settled = false) ∧
    (((lost []).task? 0x4000000000).map TaskRec.st = some .reclaiming ∧ ((lost [1]).groupD 1).alive = true ∧ ((lost []).teamD 1).gids = []) := by
  refine ⟨by decide +kernel, ?_⟩
  and_intros <;> decide +kernel

theorem above_at : above.areaAt (above.c 1) = .group savedGroup 1 := by
  rfl

theorem met_SupervisorOverGroups :
    let placed := withC above [(1, 0)]
    let ok : State := { (withC base [(1, 0x100000), (2, 1)]) with tlb := [{ die := 0, ctx := 1, page := 0x10, leaf := 0x1DF, level := 1 }] }
    let bad := withC base [(2, 2)]
    let test := withC base [(1, 0x301), (2, 0x201)]
    let waits : State := { (withG (words base 0x100000 [0xF8516000]) fun g => { g with cwait := some .stest }) with ev := { g := 1, n := 2 } }
    above.allGroups.find? (fun g => g.alive && decide (g.area = above.c 1) && decide (g.areaCtx = 1)) = some savedGroup ∧ above.areaAt (above.c 1) = .group savedGroup 1 ∧
    above.areaBreaks savedGroup 1 = false ∧ above.areaWord 1 0x400000 0x20 % 4 = 0 ∧ (above.teamD savedGroup.team).die < above.dies.length ∧
    ((above.c 2).toNat < 8 ∧ 4 ≤ (above.c 2).toNat) ∧ (match placed.areaAt (placed.c 1) with | .none => true | _ => false) = true ∧
    ((ok.c 2).toNat < 4096 ∧ (ok.ctx 1).valid = true ∧ (ok.ctx 1).part = (ok.ctx ok.t.ctx).part) ∧ (bad.ctx 2).valid = false ∧ ok.fenceWaits = false ∧ copying.fenceWaits = true ∧
    (ok.tlb ≠ [] ∧ 0 ∈ ok.partDies 0) ∧ (0x301 % 16 = 1 ∧ 0x301 / 2 ^ 8 % 8 ∈ test.partDies (test.ctx test.t.ctx).part) ∧ (test.c 0).toNat % 16 = 0 ∧
    ((waits.focus 1).g.cwait = some .stest ∧ (waits.focus 1).testOf = some (10, 0) ∧ (waits.focus 1).g.testSel.toNat % 16 = 0 ∧
      (withG waits fun g => { g with testSel := 0x106 }).g.testSel.toNat % 16 = 6) ∧ (0x301 % 16 = 1 ∧ 0x302 % 16 ≠ 1) := by
  refine ⟨?_, above_at, above_breaks, by rw [area_word]; decide +kernel, ?_, ?_, ?_, ?_, ?_, ?_, ?_, ?_, ?_, ?_, ?_⟩ <;> decide +kernel

/-- A change of a die. -/
def withDie (s : State) (d : Nat) (f : Die → Die) : State := s.setDie d (f (s.dieAt d))
/-- The handle of slot 0 of die 0, and a record of it. -/
def h0 : Word := 0x4000000000
def record (st : RecSt) (cons : Nat) : State := { base with tasks := [{ handle := h0, st := st, cons := cons }], ev := { h := h0 } }
def nest : LoopNest := { entry := 0, argp := 0, ext := [2, 1, 1, 1], step := [1, 1, 1, 1], ord := [0, 1, 2, 3], chunk := 1, pg := 1, cg := 0, pb := 16, cb := 16, gmin := 2048, gmax := 2048, pri := 0, ecls := 0, tags := 0, chn := 0, bar := 0, scr := 0, acc := 0, compat := false }
def grid (shares : List Nat) : State := { (record .running 1) with tasks := [{ handle := h0, st := .running, cons := 1, grid := some nest, shares := shares }] }

theorem met_WeightBinsAndGrids :
    let waits (pool : Nat) : State := { (withG tasky fun g => { g with pwait := some .refill }) with
      tasks := tasky.tasks.map fun r => { r with weight := 1 }, graphs := [{ root := 7, die := 0, ctx := 1, pool := pool }], ev := { g := 1 } }
    let back : State := { tasky with msgs := [⟨1, 0, .weight 7 5⟩], ev := { h := 7, n := 5 } }
    let bin (t : Nat) : State := withDie { base with ev := { die := 0, ctx := 1, node := 3 } } 0 fun d => { d with bins := [{ ctx := 1, node := 3, recs := [([], 1, 7)], deadline := t }] }
    let arrives : State := { grid [0] with msgs := [⟨0, 0, .grid h0⟩] }
    let share (todo : List Nat) : State := withDie (grid [0]) 0 fun d => { d with walks := [{ grid := h0, todo := todo }] }
    ((base.focus 0).g.pwait ≠ some .refill ∧ ((waits 0).focus 1).g.pwait = some .refill ∧ ((waits 0).focus 1).issuerWeight < 2 ∧
      (((waits 0).focus 1).graph? 7).map Graph.pool = some 0 ∧ (((waits (2 ^ 33)).focus 1).graph? ((waits 0).focus 1).t.root).map Graph.pool = some (2 ^ 33) ∧
      (((waits 0).focus 1).task? h0).isSome = true) ∧
    (back.msgs.find? (fun m => decide (m.body = .weight back.ev.h back.ev.n)) = some ⟨1, 0, .weight 7 5⟩ ∧ (back.graph? back.ev.h).map Graph.pool = some (2 ^ 33)) ∧
    ((base.binOf 0 0 0).recs = [] ∧ ((bin 0).binOf 0 1 3).recs ≠ [] ∧ ((bin 0).dieAt 0).past 0 = true ∧ ((bin 5).dieAt 0).past 5 = false) ∧
    (arrives.msgs.find? (fun m => decide (m.dst = 0) && decide (m.body = .grid arrives.ev.h)) = some ⟨0, 0, .grid h0⟩ ∧ (arrives.task? h0).map TaskRec.grid = some (some nest) ∧
      (arrives.dieAt 0).walks = [] ∧ 0 < arrives.dies.length) ∧
    (((share [1]).dieAt 0).walks.find? (fun w => decide (w.grid = h0)) = some { grid := h0, todo := [1] } ∧ ((share []).dieAt 0).walks.find? (fun w => decide (w.grid = h0)) = some { grid := h0, todo := [] } ∧
      ((share []).dieAt 0).shadows = [] ∧ ((share []).task? h0).map (fun r => (r.st, r.cons, r.shares.erase 0)) = some (.running, 1, [])) := by
  refine ⟨by decide +kernel, ?_⟩
  and_intros <;> decide +kernel

theorem met_DiesAndErrors :
    let cut : State := { base.setDie 0 { base.dieAt 0 with steal := .acking 1 (.record 7) 0 } with ev := { die := 0, n := 1 } }
    let log : State := { base with parts := [(0, { State.prt base 0 with logBase := some 0x360000 })], ev := { k := 1, i := 0, flag := true } }
    (base.ev.die < base.dies.length ∧ (base.dieAt base.ev.die).temp = none) ∧ (base.ev.k = 0 ∧ 1 ≤ log.ev.k ∧ log.ev.k ≤ 6 ∧ log.ev.i ≤ 2) ∧
    ((log.prt (log.partOfDie 0)).logBase = some 0x360000 ∧ log.supCtx 0 = some 1 ∧ (log.group? 1).isSome = true) ∧ (base.prt 0).logBase = none ∧
    ((base.dieAt 0).shadows = [] ∧ (base.dieAt 0).steal = .idle ∧ (cut.dieAt 0).steal = .acking 1 (.record 7) 0 ∧ cut.ev.die ≠ cut.ev.n ∧ cut.ev.die < cut.dies.length ∧ cut.msgs = []) := by
  refine ⟨by decide +kernel, by decide +kernel, by decide +kernel, by decide +kernel⟩

theorem met_StealsAndLocators :
    let order := base.askOrder 0
    let asks (s : State) (k : Nat) : State := { withDie s 0 (fun d => { d with steal := .asking k }) with ev := { die := 1, n := 0, h := h0 } }
    let victim : State := withDie (asks { record .ready 1 with tasks := [{ handle := h0, die := 1 }] } (order.idxOf 1)) 1 fun d => { d with cands := [{ kind := .task h0 }] }
    let offered (b : MsgBody) : State := { asks base 0 with msgs := [⟨1, 0, b⟩], ev := { die := 0, n := 1, h := h0 } }
    let shade (dl : Nat) (stg : Byte) : State := { withDie base 1 (fun d => { d with shadows := [⟨.record h0, 0, dl⟩] }) with msgs := [⟨0, 1, .ack stg (.record h0)⟩], ev := { die := 1, n := 0 } }
    let acks (b : MsgBody) : State := { withDie (record .transit 1) 0 (fun d => { d with steal := .acking 1 (.record h0) 0 }) with msgs := [⟨1, 0, b⟩], ev := { die := 0, n := 1, h := h0 } }
    let timer (dl : Nat) : State := { withDie (record .transit 1) 1 (fun d => { d with shadows := [⟨.record h0, 0, dl⟩] }) with ev := { die := 1, n := 0 } }
    let forward (st : RecSt) (cons : Nat) (b : MsgBody) : State := { record st cons with msgs := [⟨1, 0, b⟩] }
    (order[0]?.isSome = true ∧ base.dry 0 = true ∧ order[order.idxOf 1]? = some 1 ∧ ((asks base 0).dieAt 0).steal = .asking 0 ∧ base.offerOf 1 0 = none ∧ (victim.setDie 0 { victim.dieAt 0 with cands := [{ kind := .task h0 }] }).dry 0 = false) ∧
    ((victim.dieAt 0).steal = .asking (order.idxOf 1) ∧ victim.msgs = [] ∧ (victim.setSteal 0 (.asking (order.idxOf 1))).offerOf 1 0 = some (.record h0)) ∧
    ((offered (.offer (.record h0) 3)).msgs.find? (fun m => decide (m.src = 1) && decide (m.dst = 0) && m.body.isAnswer) = some ⟨1, 0, .offer (.record h0) 3⟩ ∧
      (offered .none).msgs.find? (fun m => decide (m.src = 1) && decide (m.dst = 0) && m.body.isAnswer) = some ⟨1, 0, .none⟩ ∧ 0 < base.dies.length) ∧
    (((shade 5 0).dieAt 1).shadows.find? (fun y => decide (y.thief = 0) && decide (y.item = .record h0)) = some ⟨.record h0, 0, 5⟩ ∧ ((shade 5 0).dieAt 1).past 5 = false ∧ ((shade 0 0).dieAt 1).past 0 = true ∧
      ((shade 5 0).dieAt 1).stg = 0 ∧ (base.dieAt 1).shadows = [] ∧
      (shade 5 9).msgs.find? (fun m => decide (m.src = 0) && decide (m.dst = 1) && (match m.body with | .ack _ _ => true | _ => false)) = some ⟨0, 1, .ack 9 (.record h0)⟩) ∧
    (((acks .accepted).dieAt 0).steal = .acking 1 (.record h0) 0 ∧ (acks .accepted).msgs.find? (fun m => decide (m.src = 1) && decide (m.dst = 0) && decide (m.body = .accepted)) = some ⟨1, 0, .accepted⟩ ∧
      (acks .stale).msgs.find? (fun m => decide (m.src = 1) && decide (m.dst = 0) && decide (m.body = .stale)) = some ⟨1, 0, .stale⟩ ∧ ((acks .stale).task? h0).map TaskRec.st = some .transit) ∧
    (((timer 0).dieAt 1).shadows.find? (fun y => decide (y.thief = 0) && ((timer 0).dieAt 1).past y.deadline) = some ⟨.record h0, 0, 0⟩ ∧
      ((timer 5).dieAt 1).shadows.find? (fun y => decide (y.thief = 0) && ((timer 5).dieAt 1).past y.deadline) = none) ∧
    ((forward .ready 1 (.loc h0 1)).msgs.find? (fun m => decide (m.dst = 0) && (match m.body with | .loc h _ => decide (h = h0) | _ => false)) = some ⟨1, 0, .loc h0 1⟩ ∧
      (forward .ready 1 (.confirm h0)).msgs.find? (fun m => decide (m.dst = 0) && decide (m.body = .confirm h0)) = some ⟨1, 0, .confirm h0⟩) ∧
    (((forward .ready 2 (.refAct h0 1)).task? h0).map (fun r => (r.st, r.cons, r.die, r.orphan)) = some (.ready, 2, 0, false) ∧ ((forward .transit 2 (.refAct h0 (-1))).task? h0).map TaskRec.st = some .transit ∧
      (forward .ready 2 (.refAct h0 (-1))).msgs.find? (fun m => match m.body with | .refAct h _ => decide (h = h0) | .rpt h _ _ => decide (h = h0) | _ => false) = some ⟨1, 0, .refAct h0 (-1)⟩ ∧
      (forward .running 2 (.rpt h0 1 2)).msgs.find? (fun m => match m.body with | .refAct h _ => decide (h = h0) | .rpt h _ _ => decide (h = h0) | _ => false) = some ⟨1, 0, .rpt h0 1 2⟩) := by
  refine ⟨by decide +kernel, ?_⟩
  and_intros <;> decide +kernel

/-- A host access table at 0x3A0000 whose entry 0 opens addresses 0x200000 to 0x20FFFF of context 1 to key 9. -/
def rdma : State := { (words base 0x3A0000 [7 * 2 ^ 61 + 2 ^ 32 + 9, 0x200000, 0x10000, 0]) with
  parts := [(0, { State.prt base 0 with shat := 0x3A0000, shatn := 1 })], ev := { rkey := 9, va := 0x200000, len := 8, data := [1, 2, 3], words := [5], fmt := 2 } }

theorem met_RemoteAccesses :
    let owned : State := { rdma with ops := [{ id := 9, g := 1, tm := 1, kind := .copy {} {}, lines := [0x4000] }] }
    let shut : State := { rdma with ev := { rdma.ev with rkey := 8 } }
    let gone : State := { (words rdma 0x3A0008 [0x10000000]) with ev := { rdma.ev with va := 0x10000000 } }
    rdma.window 0 9 0x200000 8 false = some 1 ∧ rdma.window 0 9 0x200000 3 true = some 1 ∧
    (shut.window 0 8 0x200000 8 false = none ∧ shut.window 0 8 0x200000 3 true = none ∧ gone.window 0 9 0x10000000 8 false = some 1) ∧
    such (rdma.place (rdma.rdmaAgent 0 1) .load 0x200000 8 1) (fun x => decide (x.1 = .hbm 0x200000)) = true ∧
    such (rdma.place (rdma.rdmaAgent 0 1) .store 0x200000 3 1) (fun x => decide (x.1 = .hbm 0x200000)) = true ∧
    such (rdma.place (rdma.rdmaAgent 0 1) .atomic 0x200000 8 8) (fun x => decide (x.1 = .hbm 0x200000)) = true ∧
    (match gone.place (gone.rdmaAgent 0 1) .load 0x10000000 8 1 with | .error (.trap _ _ _) => true | _ => false) = true ∧
    (match owned.place (owned.rdmaAgent 0 1) .load 0x200000 8 1 with | .error (.recall _) => true | _ => false) = true := by
  refine ⟨by decide +kernel, ?_⟩
  and_intros <;> decide +kernel

/-- A command with its words, from host 4, which the device hears. -/
def command (s : State) (ws : List Word) : State := { s with fwOk := true, enrolled := true, hosts := [4], partsSet := true, ev := { hdr := { src := 4, tag := 9 }, words := ws } }
theorem heard_base (ws : List Word) (h : ws.length ≤ 1024) : Claim.heard (command base ws) :=
  ⟨rfl, rfl, List.mem_singleton.mpr rfl, rfl, rfl, (by show ws.length + (0 + 7) / 8 ≤ 1024; omega), (fun _ h => nomatch h), (by decide : (0 : Nat) < 16), (by decide +kernel : 0 < base.nparts)⟩
/-- The device with no work on it. -/
def quiet : State := { State.reset with fwOk := true }

theorem met_HostCommands :
    let fresh : State := { quiet with ev := { hdr := { src := 4 } } }
    let key (w : Word) := command base [w, 0]
    let ctx := command base [2, 0x50000, 0x100001, 0, 0, 0, 0, 0, 0]
    ((Instr.ident, 1) ∈ Claim.commands ∧ ({ fresh with fwOk := false } : State).fwOk = false ∧ fresh.enrolled = false ∧ (command base []).ev.hdr.src ∈ (command base []).hosts ∧
      4 ∉ ({ command base [] with hosts := [5] } : State).hosts) ∧
    (∀ ws : List Word, ws.length ≤ 1024 → Claim.heard (command base ws)) ∧
    ((command base [8]).arg 0 = (command base [8]).partSize ∧ (command base [4]).arg 0 ≠ (command base [4]).partSize ∧ (command base [4]).idle = false ∧ (command quiet [4]).idle = true ∧
      (command quiet [4]).ev.hdr.part < (command quiet [4]).nparts) ∧
    ((command base [0, 60 * 2 ^ 24 + 5]).dieHere 0 = true ∧ 0 < base.dies.length ∧ (command base [0, 60 * 2 ^ 24 + 5]).arg 1 / 2 ^ 24 % 256 = 60 ∧ (command base [0, 110 * 2 ^ 24]).arg 1 / 2 ^ 24 % 256 = 110) ∧
    ((command base [0x360000, 64]).arg 1 = 64 ∧ 2 ^ (Nat.log2 64) = 64 ∧ (command base [0xFFFFE, 0x360000]).arg 0 < 0xFFFFF) ∧
    ((key 4095).arg 0 < 4096 ∧ (key 4095).arg 1 = (key 4095).ev.hdr.part ∧ assocGet .empty (key 4095).keys 4095 = .empty ∧ assocGet .empty (key 1).keys 1 = .loaded 0 0 0) ∧
    (∀ m, Config.accepts m = true ∨ Config.accepts m = false) ∧
    (ctx.ev.words.length = 9 ∧ ctx.arg 0 < 4096 ∧ ctx.arg 1 % 2 ^ 16 = 0 ∧ ctx.arg 2 < 2 ^ 32 ∧ ctx.arg 2 / 2 ^ 17 % 8 = 0 ∧ ctx.arg 2 / 2 % 2 ^ 11 = 0 ∧ (ctx.ctx 2).valid = false ∧
      ctx.arg 2 / 2 ^ 12 % 16 = 0 ∧ ctx.arg 2 / 2 ^ 16 % 2 = 0 ∧ ctx.arg 1 / 2 ^ 48 = 0) ∧ (∀ g ∈ ctx.allGroups, (ctx.teamD g.team).ctx ≠ 2) ∧
    (fresh.partsSet = false ∧ (command base []).partsSet = true ∧ fresh.ev.hdr.part < fresh.nparts) := by
  refine ⟨by decide +kernel, heard_base, by decide +kernel, by decide +kernel, by decide +kernel, by decide +kernel, fun m => by cases Config.accepts m <;> simp, by decide +kernel,
    by decide +kernel, by decide +kernel⟩

theorem not_refused {s : State} {c : Nat} {again : Bool} (h : (!again && (decide (16 ≤ (s.ctx c).modules) || decide (1024 < (s.ctx c).nodesUsed + 0))) = false) :
    s.refuses c (some { signature := some true }) again = false := by
  unfold State.refuses
  simp only [List.flatten_nil, List.map_nil, List.any_nil, List.length_nil, h]
  simp

theorem met_HostWork :
    let start := command base [1, 0, 0x100000, 3 * 2 ^ 26, 1, 2, 3, 4, 5, 6, 7, 8]
    let grid := command nodes [1, 0, 0x390000]
    let bad := command nodes [1, 0, 0x390080]
    let release (x : TaskRec) : State := { command base [h0] with tasks := [x], graphs := [{ root := h0, die := 0, ctx := 1, pool := 2 ^ 62 }] }
    let store := command base [1, 0, 0x200000, 0, 4]
    let user : State := command (withT base fun t => { t with priv := false }) [1, 0, 0x200000, 0, 4]
    let load := command base [1, 0, 0x500000, 0, 0]
    let busy : State := command (base.setCtx 1 { base.ctx 1 with loading := some (false, 0x500000) }) [1, 0, 0x500000, 0, 0]
    let ends (l : Option Module) : State := { (busy.setCtx 1 { busy.ctx 1 with container := l }) with ev := { ctx := 1 } }
    let again : State := busy.setCtx 1 { busy.ctx 1 with loading := some (true, 0x500000), container := some { signature := some true } }
    let heap : Heap := { base := 0x500000, bytes := 64, count := 1 }
    let heaped (retry : Bool) : Context := { again.ctx 1 with loading := some (retry, 0x500000), heaps := [heap] }
    let xclass : Module := { lifetime := 1, code := [[0xE020A328]] }
    (∀ ws : List Word, ws.length ≤ 1024 → Claim.heard (command base ws)) ∧
    (start.arg 0 = 1 ∧ start.ctxHere 1 = true ∧ start.dieHere 0 = true ∧ start.arg 3 < 2 ^ 28 ∧ start.arg 3 / 256 % 256 = 0 ∧ start.storeFull 0 = false) ∧
    (Claim.heard grid ∧ Claim.heard bad) ∧
    such (grid.readWords { ctx := 1, priv := (grid.ctx 1).priv, die := 0, tm := 0 } .load 0x390000 16) (fun x => (loopNest x.1).isSome && decide (x.2.spaceOf 1 0x390000 = some 0) && !x.2.storeFull 0) = true ∧
    such (bad.readWords { ctx := 1, priv := (bad.ctx 1).priv, die := 0, tm := 0 } .load 0x390080 16) (fun x => (loopNest x.1).isNone) = true ∧
    ((command base [h0]).graph? h0 = none ∧ ((release { handle := h0, cons := 2 }).graph? h0).map Graph.host = some true ∧ (release { handle := h0, cons := 2 }).current h0 = true ∧
      ((release { handle := h0, cons := 2 }).task? h0).map (fun r => (r.st, r.cons, r.orphan, (release r).refWaits r)) = some (.ready, 2, false, false) ∧
      (release { handle := 5 }).current h0 = false ∧ (release { handle := h0 }).dieHere 0 = true) ∧
    (store.arg 3 + store.arg 4 ≤ 2 ^ 28 ∧ store.kernelRuns (fun k => decide (k = 1)) = false ∧ user.kernelRuns (fun k => decide (k = 1)) = true) ∧
    (∀ k, 65536 * k < 4 + 0x200000 % 65536 → (store.devLeaf 1 false (BitVec.ofNat 64 (0x200000 + 65536 * k)).toNat).isSome = true) ∧ store.devLeaf 1 false 0x10000000 = none ∧
    (load.arg 4 ≤ 1 ∧ (load.ctx 1).loading = none ∧ (busy.ctx 1).loading = some (false, 0x500000)) ∧
    (((ends none).ctx 1).container = none ∧ ((ends none).ctx 1).loading.isSome = true) ∧
    ((again.ctx 1).loading = some (true, 0x500000) ∧ (again.ctx 1).container = some { signature := some true } ∧ (again.ctx 1).heaps = []) ∧ again.refuses 1 (some { signature := some true }) true = false ∧
    ((heaped false).heaps.find? (fun h => decide (h.base = 0x500000)) = some heap ∧ (heaped true).loading = some (true, 0x500000) ∧ (Module.code {}).length ≠ heap.count ∧
      ({ code := [[0]] } : Module).code.length = heap.count ∧ 16 * ({ code := [[0]] } : Module).code.length ≤ 16 ∧ load.arg 3 < 16 * ({ code := [[0]] } : Module).code.length) ∧
    (load.refuses 1 none = true ∧ (∀ b, ((ends (some { signature := some b })).ctx 1).container = some { signature := some b }) ∧ load.refuses 1 (some { signature := some true }) = false ∧
      0xE020A328 ∈ xclass.code.flatten ∧ opOf 0xE020A328 = 0x70 ∧ xclass.lifetime < 2) := by
  refine ⟨heard_base, by decide +kernel, ⟨⟨rfl, rfl, by decide, rfl, rfl, by decide, (fun _ h => nomatch h), by decide, by decide +kernel⟩, ⟨rfl, rfl, by decide, rfl, rfl, by decide, (fun _ h => nomatch h), by decide, by decide +kernel⟩⟩,
    by decide +kernel, by decide +kernel, by decide +kernel, by decide +kernel, fun k h => ?_, by decide +kernel, by decide +kernel, by decide +kernel, by decide +kernel,
    not_refused (by decide +kernel), by decide +kernel, ⟨rfl, fun _ => rfl, not_refused (by decide +kernel), by decide, by decide, by decide⟩⟩
  obtain rfl : k = 0 := by omega
  decide +kernel

theorem such_ok {ε α : Type} {x : Except ε α} {p : α → Bool} (h : such x p = true) : ∃ a, x = .ok a ∧ p a = true := by
  cases x with
  | ok a => exact ⟨a, rfl, h⟩
  | error e => exact absurd h (by simp [such])
theorem cap_of {o : Option Nat} (h : o.all (fun r => decide (r ≤ 31)) = true) : ∀ r, o = some r → r ≤ 31 := by
  intro r e
  subst e
  simpa using h
/-- The word `w` stands at the program counter of the only group, and the agenda's next choice is its control thread, or its port before it. -/
def control (w : Word32) (c : Choice) : State := { State.stage State.reset w with agenda := [c] }
def rest (w : Word32) : State := { State.stage State.reset w with agenda := [] }
/-- The entry that the unit becomes has its turn at its port, and executes there. -/
def entered (w : Word32) (i : Instr) (f : State) : State := { f with
  u := f.capture w i
  g := { f.g with
    pc := f.g.pc + 4
    ran := f.g.pc + 4
    pfx := []
    seq := (f.capture w i).seq + 1
    lfree := false
    viq := [f.capture w i] } }
def fetchOk (w : Word32) (i : Instr) (x : Word32 × State) : Bool :=
  decide (x.1 = w) && decide (x.2.g = { ((rest w).focus 1).g with cwait := none, fbuf := x.2.g.fbuf }) && x.2.budgetOk i && x.2.t.priv && decide (x.2.g.viq = []) && decide (x.2.g.vps = []) &&
    (entered w i x.2).turn (entered w i x.2).g (entered w i x.2).g.portKind &&
    !({ x.2 with u := x.2.capture w i } : State).awaitsViq i
theorem takes_of {w : Word32} {i : Instr} (hd : decodeWord w = .ok i) (ha : (capA i).all (fun r => decide (r ≤ 31)) = true) (hx : (capX i).all (fun r => decide (r ≤ 31)) = true)
    (h0 : ((rest w).focus 1).g.controlReady = true ∧ ((rest w).focus 1).turn ((rest w).focus 1).g 0 = true ∧ ((rest w).focus 1).reclaimable = false ∧ ((rest w).focus 1).g.late = [] ∧ ((rest w).focus 1).g.lateUnits = [] ∧ ((rest w).focus 1).g.pfx = [] ∧ ((rest w).focus 1).g.loop = false)
    (hp : ((rest w).focus 1).g.pc = 0x100000)
    (hf : such (({ ((rest w).focus 1).served 0 with port := false, vp := none, g := { ((rest w).focus 1).g with cwait := none } } : State).fetchWord 0x100000) (fetchOk w i) = true) :
    ∃ f, Claim.takes ((rest w).focus 1) w i f ∧ f.g.viq = [] ∧ f.g.vps = [] ∧ (entered w i f).turn (entered w i f).g (entered w i f).g.portKind = true := by
  obtain ⟨⟨w', f⟩, hw, hq⟩ := such_ok hf
  simp only [fetchOk, Bool.and_eq_true, decide_eq_true_eq, Bool.not_eq_true'] at hq
  obtain ⟨⟨⟨⟨⟨⟨⟨h1, h4⟩, h5⟩, h6⟩, h7⟩, h8⟩, ht⟩, h9⟩ := hq
  subst h1
  exact ⟨f, ⟨h0.1, h0.2.1, h0.2.2.1, h0.2.2.2.1, h0.2.2.2.2.1, h0.2.2.2.2.2.1, h0.2.2.2.2.2.2, by rw [hp]; exact hw, hd, h4, h5, cap_of ha, cap_of hx, fun _ _ => h6, h9⟩, h7, h8, ht⟩

theorem met_StepRunsTheDecodedInstruction :
    ((control 0x06281FFD (.control 1)).choice = (.control 1, rest 0x06281FFD) ∧ ∃ f, Claim.takes ((rest 0x06281FFD).focus 1) 0x06281FFD (.addi 5 0 0x1FFD) f ∧ clsOf (.addi 5 0 0x1FFD) = .ctl) ∧
    ((control 0x601022EC (.unit 1)).choice = (.unit 1, rest 0x601022EC) ∧ ((rest 0x601022EC).focus 1).g.viq = [] ∧
      ∃ f, Claim.takes ((rest 0x601022EC).focus 1) 0x601022EC (.vadd 2 1 (.c 5) .f32 true) f ∧ clsOf (.vadd 2 1 (.c 5) .f32 true) = .vec ∧ f.g.viq = [] ∧ f.g.vps = [] ∧
        (let e := entered 0x601022EC (.vadd 2 1 (.c 5) .f32 true) f
         e.turn e.g e.g.portKind = true)) ∧
    (base.vp = none ∧ base.g.shades = [] ∧ laOf (.vadd 2 1 (.c 5) .f32 true) = 0 ∧ base.u.dead = false) ∧
    (base.g.fbuf = [] ∧ such (base.place base.agent .fetch 0x100000 4 4) (fun x => decide (x.1 = .hbm 0x100000)) = true) ∧
    ((control 0x06000000 (.event .temperatureSample {})).choice = (.event .temperatureSample {}, rest 0x06000000) ∧ agendaEvent .temperatureSample = true) ∧ aibLegal (.vdiv 3 4 5 .f32 true 2) = true := by
  refine ⟨⟨by decide +kernel, ?_⟩, ⟨by decide +kernel, by decide +kernel, ?_⟩, by decide +kernel, ⟨by decide +kernel, by decide +kernel⟩, ⟨by decide +kernel, rfl⟩, by decide +kernel⟩
  · obtain ⟨f, h, -, -, -⟩ := takes_of (w := 0x06281FFD) (i := .addi 5 0 0x1FFD) rfl rfl rfl (by decide +kernel) (by decide +kernel) (by decide +kernel)
    exact ⟨f, h, rfl⟩
  · obtain ⟨f, h, h7, h8, ht⟩ := takes_of (w := 0x601022EC) (i := .vadd 2 1 (.c 5) .f32 true) rfl rfl rfl (by decide +kernel) (by decide +kernel) (by decide +kernel)
    exact ⟨f, h, rfl, h7, h8, ht⟩

theorem met_PrivilegedAndIllegalWords :
    let user (w : Word32) : State := let s := control w (.control 1); { s with t := { s.t with priv := false } }
    let r (w : Word32) : State := (user w).choice.2.focus 1
    let fetched (w : Word32) : Bool := such (({ (r w).served 0 with port := false, vp := none, g := { (r w).g with cwait := none } } : State).fetchWord 0x100000)
      fun x => decide (x.1 = w) && decide (x.2.g = { (r w).g with cwait := none, fbuf := x.2.g.fbuf }) && decide (x.2.t = (r w).t)
    ((user 0).choice.1 = .control 1 ∧ (r 0).g.controlReady = true ∧ (r 0).turn (r 0).g 0 = true ∧ (r 0).reclaimable = false ∧ (r 0).g.late = [] ∧ (r 0).g.pfx = [] ∧ (r 0).g.loop = false) ∧
    fetched 0 = true ∧ fetched 0xF4516600 = true ∧ ((match decodeWord 0 with | .error _ => true | .ok _ => false) = true) ∧
    (decodeWord 0xF4516600 = .ok (.eret 10 11 12) ∧ opOf 0xF4516600 = 0x7A ∧ (r 0xF4516600).t.priv = false) := by
  refine ⟨by decide +kernel, ?_⟩
  and_intros <;> decide +kernel

theorem met_MemoriesStayCanonical : Safety.memories (control 0x06281FFD (.unit 1)) ∧ isNext (step (control 0x06281FFD (.unit 1))) = true :=
  ⟨⟨by decide +kernel, by decide +kernel, by decide +kernel, by unfold control State.stage State.allTeams; decide +kernel⟩, by decide +kernel⟩

theorem met_EncodingRoundTrip : (Instr.add 10 11 12).wf = true ∧ (Instr.vdiv 3 4 5 .f32 true 2).wf = true := by decide
theorem met_OneReadingPerWord : decodeWord 0x02516600 = .ok (.add 10 11 12) ∧ opOf 0 = 0 ∧ opOf 0x54000000 = 0x2A ∧ opOf 0xEE000000 = 0x77 := ⟨rfl, rfl, rfl, rfl⟩
theorem met_IntegerRegisterInstructions : (0x0200000F : Word32).extractLsb' 0 4 = 15#4 ∧ (0x02000010 : Word32).extractLsb' 4 3 ≠ 0#3 := by decide
theorem met_ElementArithmetic :
    Claim.bRegs vec (.v 3) [3] ∧ Claim.bRegs vec (.c 3) [] ∧ Claim.ready vec 32 [1, 2, 3] ∧ Claim.ready vec 16 [1, 2] ∧ vec.vp = none ∧ aib.vp = some 0 ∧ Claim.ready aib 32 [1, 2] ∧
    (Ty.i32 ≠ .i64 ∧ Ty.i32 ≠ .f64 ∧ Ty.i32.isInt = true ∧ Ty.f32.isInt = false) ∧ 7 ∈ vec.active :=
  ⟨rfl, ⟨rfl, by decide +kernel⟩, ready_vec 32 _ (by decide) (by decide) (by decide), ready_vec 16 _ (by decide) (by decide) (by decide), by decide +kernel, by decide +kernel,
    ⟨by decide, fun _ => by decide +kernel, fun _ _ => none_bound (by decide +kernel) _⟩, by decide, by decide +kernel⟩

/-! Words of the spec's worked examples, each written out from the encoding that its rule gives. -/

theorem word_integer :
    decodeWord 0x02516600 = .ok (.add 10 11 12) ∧
    decodeWord 0x06281FFD = .ok (.addi 5 0 0x1FFD) ∧
    decodeWord 0x06281000 = .ok (.addi 5 0 0x1000) ∧
    decodeWord 0x0628BABC = .ok (.addi 5 5 0x1ABC) ∧
    decodeWord 0x14280092 = .ok (.lui 5 0x92) ∧
    decodeWord 0x0E28C003 = .ok (.slli 5 6 3) ∧
    decodeWord 0x0E28D003 = .ok (.srai 5 6 3) :=
  ⟨rfl, rfl, rfl, rfl, rfl, rfl, rfl⟩
theorem word_memory :
    decodeWord 0x1850B041 = .ok (.ld 10 5 .w 4 1) ∧
    decodeWord 0x1C4BD810 = .ok (.st 9 30 .d 1 0) :=
  ⟨rfl, rfl⟩
theorem word_branch :
    decodeWord 0x20085FFD = .ok (.beq 1 2 0x1FFD) ∧
    decodeWord 0x2CF80028 = .ok (.jal 31 0x28) ∧
    decodeWord 0x2E03E000 = .ok (.jalr 0 31 0) :=
  ⟨rfl, rfl, rfl⟩
theorem word_float :
    decodeWord 0x30516168 = .ok (.fcvt 10 11 2 .f32) ∧
    decodeWord 0x32516662 = .ok (.fdiv 10 11 12 .f32 2) :=
  ⟨rfl, rfl⟩
theorem word_vector_control :
    decodeWord 0x38408020 = .ok (.setvl 8 4 32) ∧
    decodeWord 0x3A400000 = .ok (.crd 8 0) ∧
    decodeWord 0x3C012003 = .ok (.cwr 9 3) :=
  ⟨rfl, rfl, rfl⟩
theorem word_loops_and_chords :
    decodeWord 0x4000000C = .ok (.vf 12) ∧
    decodeWord 0x4C012000 = .ok (.qput 9) ∧
    decodeWord 0x4C500001 = .ok (.qget 10) ∧
    decodeWord 0x4E004000 = .ok (.vsend 2) ∧
    decodeWord 0x50300000 = .ok (.vrecv 6) ∧
    decodeWord 0x52180020 = .ok (.vid 3 0 .i32) ∧
    decodeWord 0x4A000000 = .ok (.jenrol 0) ∧
    decodeWord 0x4A000001 = .ok (.jpark 0) ∧
    decodeWord 0x4A000002 = .ok (.jstrike 0) ∧
    decodeWord 0x46080003 = .ok (.fetchNz 1 3) ∧
    decodeWord 0x46081FFE = .ok (.fetchNz 1 0x1FFE) ∧
    decodeWord 0x48000000 = .ok (.stop) :=
  ⟨rfl, rfl, rfl, rfl, rfl, rfl, rfl, rfl, rfl, rfl, rfl, rfl⟩
theorem word_vector_arithmetic :
    decodeWord 0x601022EC = .ok (.vadd 2 1 (.c 5) .f32 true) ∧
    decodeWord 0x601041A0 = .ok (.vadd 2 2 (.v 3) .i32 false) ∧
    decodeWord 0x6020A35F = .ok (.vmac 4 5 (.c 6) .bf16 true) :=
  ⟨rfl, rfl, rfl⟩
theorem word_vector_moves :
    decodeWord 0x68002262 = .ok (.vcmpLt 1 (.v 4) .f32) ∧
    decodeWord 0x6A3904E3 = .ok (.vsel 7 8 (.v 9) .f32) ∧
    decodeWord 0x6E480501 = .ok (.vmsave 9 (.j 2)) :=
  ⟨rfl, rfl, rfl⟩
theorem word_vector_conversions :
    decodeWord 0x705162E0 = .ok (.vcvt 10 11 5 .f32 0) ∧
    decodeWord 0x72A30560 = .ok (.vquant 20 24 10 .f32 0) ∧
    decodeWord 0x761882EA = .ok (.vdiv 3 4 5 .f32 true 2) ∧
    decodeWord 0x7830E1E0 = .ok (.vrsqrt 6 7 .f32 0) :=
  ⟨rfl, rfl, rfl, rfl⟩
theorem word_reductions_and_permutes :
    decodeWord 0x7C504260 = .ok (.vredSumc 10 2 .f32 0) ∧
    decodeWord 0x7E282020 = .ok (.vcompress 5 1 .i32 false) ∧
    decodeWord 0x802064A4 = .ok (.vslideup 4 3 9 .i32 false) ∧
    decodeWord 0x80402022 = .ok (.vregroup 8 1 .i32) ∧
    decodeWord 0x82008085 = .ok (.spl 4 1 5) ∧
    decodeWord 0x84001FFB = .ok (.splb 0x1FFB) :=
  ⟨rfl, rfl, rfl, rfl, rfl, rfl⟩
theorem word_vector_memory :
    decodeWord 0xA100B000 = .ok (.vld 32 5 .w 0 0) ∧
    decodeWord 0xA410F000 = .ok (.vst 2 7 .w 0 0) ∧
    decodeWord 0xA618E830 = .ok (.vsts 3 7 .h 3 0) ∧
    decodeWord 0xA8412060 = .ok (.vldw 8 9 .f32 0) ∧
    decodeWord 0xAA210360 = .ok (.vpermw 4 8 6 .f32 0) ∧
    decodeWord 0xAC30A620 = .ok (.vscatO 6 5 12 .i32 0) :=
  ⟨rfl, rfl, rfl, rfl, rfl, rfl⟩
theorem word_synchronisation :
    decodeWord 0xB250A5BB = .ok (.amoCas 10 5 11 .i64) ∧
    decodeWord 0xB400A000 = .ok (.acq 5) ∧
    decodeWord 0xB400A002 = .ok (.rel 5) ∧
    decodeWord 0xB40000B5 = .ok (.fenceRel .dev) ∧
    decodeWord 0xB4000115 = .ok (.fenceFull .team) ∧
    decodeWord 0xB4100007 = .ok (.bar 2 0) ∧
    decodeWord 0xB44041A9 = .ok (.vwait 8 2 3) :=
  ⟨rfl, rfl, rfl, rfl, rfl, rfl, rfl⟩
theorem word_engines :
    decodeWord 0xC140C000 = .ok (.vstream 40 6) ∧
    decodeWord 0xC2094580 = .ok (.copy 1 10 11 0) ∧
    decodeWord 0xC4018001 = .ok (.tagwaitAll 0 12) ∧
    decodeWord 0xC64945B0 = .ok (.chgo 9 10 11 3) ∧
    decodeWord 0xC6018031 = .ok (.chwait 12 3) ∧
    decodeWord 0xC848A000 = .ok (.rres 9 5) ∧
    decodeWord 0xC860A002 = .ok (.rclaim 12 5) ∧
    decodeWord 0xCA20C000 = .ok (.egath 4 6 0) :=
  ⟨rfl, rfl, rfl, rfl, rfl, rfl, rfl, rfl⟩
theorem word_matrix :
    decodeWord 0xD000A000 = .ok (.men 5) ∧
    decodeWord 0xD0000001 = .ok (.mdis) ∧
    decodeWord 0xD000A302 = .ok (.mwin 5 6) ∧
    decodeWord 0xD000E003 = .ok (.mzero 7) ∧
    decodeWord 0xD2014580 = .ok (.ldw 10 11 0) ∧
    decodeWord 0xD4018000 = .ok (.mop 12 0) ∧
    decodeWord 0xD62120E0 = .ok (.mrdNorm 4 9 0) :=
  ⟨rfl, rfl, rfl, rfl, rfl, rfl, rfl⟩
theorem word_tasks :
    decodeWord 0xD8192360 = .ok (.mwrPair 9 6 0) ∧
    decodeWord 0xDA494580 = .ok (.spawn 9 10 11) ∧
    decodeWord 0xDA012002 = .ok (.fdrop 9) ∧
    decodeWord 0xDA512003 = .ok (.fget 10 9) ∧
    decodeWord 0xDA014005 = .ok (.fret 10) ∧
    decodeWord 0xDA012586 = .ok (.rpt 9 11) ∧
    decodeWord 0xDA018687 = .ok (.emit 12 13) ∧
    decodeWord 0xDA494008 = .ok (.launch 9 10) ∧
    decodeWord 0xDA000009 = .ok (.yield) ∧
    decodeWord 0xDA01800A = .ok (.lfree 12) :=
  ⟨rfl, rfl, rfl, rfl, rfl, rfl, rfl, rfl, rfl, rfl⟩
theorem word_dots :
    decodeWord 0xE020A328 = .ok (.vdot4X 4 5 (.v 6) true) :=
  rfl
theorem word_system :
    decodeWord 0xF000002A = .ok (.trap 42) ∧
    decodeWord 0xF2000000 = .ok (.brk) ∧
    decodeWord 0xF4516600 = .ok (.eret 10 11 12) ∧
    decodeWord 0xF6014580 = .ok (.tlbinvVa 10 11) ∧
    decodeWord 0xF8516000 = .ok (.stest 10 11) :=
  ⟨rfl, rfl, rfl, rfl, rfl⟩
theorem word_prefixes :
    decodeWord 0xFC000009 = .ok (.pfxImm 9) ∧
    decodeWord 0xFC400001 = .ok (.pfxScope .none .team) :=
  ⟨rfl, rfl⟩

/-! Ill-formed terms, one for each check of `Instr.wf`. -/

theorem test_wf_event : Instr.vfComplete.wf = false := by decide
theorem test_wf_unsigned_doubleword : (Instr.ldu 1 2 .d 0 0).wf = false := by decide

/-! Single steps; each expected value is worked out by hand from the rule named. -/

/-- The control thread's register after an instruction. -/
def reg (i : Instr) (s : State) (r : CReg) : Word := (after (exec i s)).c r
def two (x y : Word) : State := withC base [(1, x), (2, y)]
-- 08 R213
theorem test_add_wraps : reg (.add 1 1 2) (two 0xFFFFFFFFFFFFFFFF 2) 1 = 1 := by decide +kernel
theorem test_mulh_signed : reg (.mulh 3 1 2) (two 0xFFFFFFFFFFFFFFFF 5) 3 = 0xFFFFFFFFFFFFFFFF := by decide +kernel
theorem test_mulhu_unsigned : reg (.mulhu 3 1 2) (two 0xFFFFFFFFFFFFFFFF 0xFFFFFFFFFFFFFFFF) 3 = 0xFFFFFFFFFFFFFFFE := by decide +kernel
theorem test_sra_low_six_bits : reg (.sra 3 1 2) (two 0x8000000000000000 65) 3 = 0xC000000000000000 := by decide +kernel
-- 08 R214
theorem test_div_by_zero : reg (.div 3 1 2 0) (two 7 0) 3 = 0xFFFFFFFFFFFFFFFF := by decide +kernel
theorem test_rem_takes_dividend_sign : reg (.rem 3 1 2 0) (two 0xFFFFFFFFFFFFFFF9 2) 3 = 0xFFFFFFFFFFFFFFFF := by decide +kernel
-- 02 R55
theorem test_c0_takes_no_write : reg (.add 0 1 2) (two 3 4) 0 = 0 := by decide +kernel
-- 08 R215, R217
theorem test_slti_sign_extends : reg (.slti 3 1 0x1FFF) (two 0xFFFFFFFFFFFFFFFE 0) 3 = 1 := by decide +kernel
theorem test_lui_sign_extends : reg (.lui 3 0x40000) base 3 = 0xFFFFFFFF80000000 := by decide +kernel
-- 08 R220: the branch at 0x100000 goes back one word
theorem test_blt_backwards : (after (exec (.blt 1 2 0x1FFF) (withU (two 0xFFFFFFFFFFFFFFFF 0) fun u => { u with ipc := 0x100000 }))).g.pc = 0xFFFFC := by decide +kernel
-- 08 R218: little-endian, with the sign of the byte
theorem test_st_ld : reg (.ld 3 1 .b 1 0) (after (exec (.st 2 1 .h 0 0) (two 0x200000 0x80FF))) 3 = 0xFFFFFFFFFFFFFF80 := by decide +kernel
theorem test_ldu_zero_extends : reg (.ldu 3 1 .b 1 0) (after (exec (.st 2 1 .h 0 0) (two 0x200000 0x80FF))) 3 = 0x80 := by decide +kernel
-- 10 R270: the alignment check
theorem test_ld_misaligned : (after (exec (.ld 3 1 .w 0 0) (two 0x200002 0))).g.lastTrap.map Prod.fst = some 0x06 := by decide +kernel
-- 08 R222: 1.0 + 1.0, and a third of it rounded
theorem test_fadd : reg (.fadd 3 1 2 .f32) (two 0x3F800000 0x3F800000) 3 = 0x40000000 := by decide +kernel
theorem test_fdiv_rounds : reg (.fdiv 3 1 2 .f32 0) (two 0x3F800000 0x40400000) 3 = 0x3EAAAAAB := by decide +kernel
-- 15 R362: the trap's code
theorem test_trap_saves : (after (exec (.trap 42) base)).g.run = .saved 2 := by decide +kernel

/-- Element `e` of register `r` after a vector instruction on `vec`, whose elements of 32 bits are 0x04030201, 0x0605 and zeros. -/
def element (i : Instr) (s : State) (r w e : Nat) : Nat := (after (exec i s)).el r w e
-- 09 R245, 03 R83: saturation, with the range flag
theorem test_vadd_saturates : element (.vadd 4 1 (.v 2) .i8 false) (withG vec fun g => { g with v := [0, 0x7F, 0x02] }) 4 8 0 = 0x7F ∧
    (after (exec (.vadd 4 1 (.v 2) .i8 false) (withG vec fun g => { g with v := [0, 0x7F, 0x02] }))).g.vo.getLsbD 0 = true := by decide +kernel
theorem test_vadd_leaves_tail : element (.vadd 4 1 (.v 2) .i32 false) (withU vec fun u => { u with vl := 1 }) 4 32 1 = 0 := by decide +kernel
-- 09 R245: the absent value of i8 is 0x80
theorem test_vadd_absent : element (.vadd 4 1 (.v 2) .i8 false) (withG vec fun g => { g with v := [0, 0x80, 0x02] }) 4 8 0 = 0x80 := by decide +kernel
-- 09 R251: the mask bit of an element for which the comparison holds
theorem test_vcmp_writes_vm : (after (exec (.vcmpLt 1 (.v 2) .i8) (withG vec fun g => { g with v := [0, 0xFF, 0x00] }))).g.vm.getLsbD 0 = true ∧
    (after (exec (.vcmpLt 1 (.v 2) .i8) (withG vec fun g => { g with v := [0, 0xFF, 0x00] }))).g.vm.getLsbD 1 = false := by decide +kernel
-- 10 R271: a vector store and load of words
theorem test_vst_stores : (after (exec (.vst 1 1 .w 0 0) vmem)).hbm.num 0x200000 4 = 0x04030201 ∧ (after (exec (.vst 1 1 .w 0 0) vmem)).hbm.num 0x200004 4 = 0x0605 := by decide +kernel
-- 05 R151, R152: reserving index 5 of a ring of four slots marks slot 1
theorem test_rres_marks_slot : (after (exec (.rres 9 5) (ring 0 0 0))).hbm.num 0x360041 1 = 0xA0 ∧ reg (.rres 9 5) (ring 0 0 0) 9 = 5 := by decide +kernel
-- 11 R304, R305: `men` of the leader grants rows
theorem test_men_grants_rows : (after (exec (.men 1) (withOps base 16 0))).t.men = true ∧ (after (exec (.men 1) (withOps base 16 0))).t.accrows = 16 := by decide +kernel
-- A step runs the word at the program counter (01 R22): `addi` gives c5 = -3
theorem test_step_addi : (match step ((State.reset).withFetchWord 32 0x06281FFD) with | .next t => decide (t.c 5 = BitVec.ofInt 64 (-3)) | _ => false) = true := by decide +kernel

/-! Further states that meet premises: one for each clause whose premises the states above leave unmet. -/

theorem met_SpecialRegisters_reads :
    let s (n : Nat) : State := { (withC base [(1, 0x10000)]) with ev := { reg := 1, n := n } }
    let waits := withG base fun g => { g with viq := [{ word := 0xA0000000 }] }
    base.vlPending = false ∧ (isLoadWord 0xA0000000 = true ∧ waits.vlPending = true) ∧ (7 < base.t.nchan ∧ (withT base fun t => { t with nchan := 2 }).t.nchan ≤ 2) ∧
    ((s 0x412).ev.n = 0x412 ∧ (s 0x414).ev.n = 0x414 ∧ (s 0x415).ev.n = 0x415 ∧ (s 0x412).ev.reg = 1) ∧ ((s 0x412).c 1).toNat % 65536 = 0 ∧ ((s 0x414).c 1).toNat % 64 = 0 := by
  refine ⟨by decide +kernel, ?_⟩
  and_intros <;> decide +kernel

/-- A user group of context 2, whose context names a handler and the root of its graph; context 1 of the partition is a supervisor's. -/
def trapped (pool : Nat) : State := { (withG (withT base fun t => { t with ctx := 2, priv := false }) fun g => { g with area := 0x400000, areaCtx := 1 }) with
  ctxs := (2, { root := 1, wkey := 1, valid := true, shent := 0x100000, sroot := 7 }) :: base.ctxs, graphs := [{ root := 7, die := 0, ctx := 2, pool := pool }] }

theorem met_TrapEntry_handler :
    (trapped 0).vp = none ∧ (trapped 0).g.late = [] ∧ (trapped 0).t.priv = false ∧ (((trapped 0).ctx (trapped 0).t.ctx).shent ≠ 0 ∧ ((trapped 0).ctx (trapped 0).t.ctx).sroot ≠ 0) ∧
    ((trapped 0).storeFull 0 = false ∧ (trapped 0).supCtx ((trapped 0).ctx (trapped 0).t.ctx).part = some 1) ∧
    (((trapped (2 ^ 32)).graph? 7).any fun q => decide (2 ^ 32 ≤ q.pool)) = true ∧ (((trapped 0).graph? 7).any fun q => decide (2 ^ 32 ≤ q.pool)) = false ∧
    (trapped 0).t.die < (trapped 0).dies.length ∧ (trapped 0).hbm.wf = true ∧ (trapped 0).g.area.toNat % 65536 = 0 ∧
    (trapped 0).devPa 1 0x400000 = some 0x400000 ∧ (∀ i ∈ [1, 2], (trapped 0).devPa 1 (0x400000 + BitVec.ofNat 64 (65536 * i)) ≠ some 0x400000) := by
  refine ⟨by decide +kernel, ?_⟩
  and_intros <;> decide +kernel

theorem met_Reductions_float : (Ty.bf16 = .f16 ∨ Ty.bf16 = .bf16 ∨ Ty.bf16 = .f32) ∧ Claim.ready vec Ty.bf16.bits [1] ∧ Claim.ready vec Ty.f32.bits [63] :=
  ⟨by decide, ready_vec 16 _ (by decide) (by decide) (by decide), ready_vec 32 _ (by decide) (by decide) (by decide)⟩

theorem met_VectorDelivery_poison :
    (∀ w ∈ [8, 16, 32, 64, 256], 0 < w ∧ w ∣ vec.g.grant ∧ 0 < vec.g.grant / w) ∧ (aib.vp = some 0 ∧ 16 ≤ 32 ∧ 16 ∣ aib.g.grant ∧ 0 < aib.g.grant / 16) ∧
    (withG vec fun g => { g with rpoison := [(1, 0, 0x360000), (1, 63, 0x360000), (2, 0, 0x360000)] }).g.rpoison ≠ [] := by
  refine ⟨by decide +kernel, ?_⟩
  and_intros <;> decide +kernel

theorem met_MaskMoves_words : (∀ x ∈ vec.g.streams, x.reg ≠ vec.reg 63) ∧ (∀ x ∈ vec.g.rpoison, x.1 ≠ vec.reg 63) ∧ MaskSel.vo ≠ .vm ∧ MaskSel.j 1 ≠ .j 2 := by
  decide +kernel

theorem met_MemoryFrames_leaf :
    (base.agentWalk base.agent 0x200000).1.map (fun x => (x.1, x.2.1, x.2.2.1)) = some (stageLeaf, 1, 0x20000) ∧
    base.legible (base.ctx base.agent.ctx).wkey 0x20000 = true ∧ stageLeaf = base.hbm.num 0x20000 8 :=
  ⟨by decide +kernel, by decide +kernel, by decide +kernel⟩

theorem met_PivotsAndBindings_unbind :
    let bound : State := piv.setCtx 1 { piv.ctx 1 with binds := [⟨0x200000, 64, 0x300000, 0x300000⟩] }
    let mine := withG bound fun g => { g with holds := [(0x300000, true)] }
    let other : State := { bound with groups := [{ id := 2, holds := [(0x300000, true)] }] }
    let bare : State := { piv with pivots := [] }
    ((mine.ctx mine.t.ctx).binds.find? (fun x => decide (x.base = mine.c 2)) = some ⟨0x200000, 64, 0x300000, 0x300000⟩ ∧ ∃ h ∈ mine.g.holds, h.1 = 0x300000) ∧
    ((other.ctx other.t.ctx).binds.find? (fun x => decide (x.base = other.c 2)) = some ⟨0x200000, 64, 0x300000, 0x300000⟩ ∧ (∀ h ∈ other.g.holds, h.1 ≠ 0x300000) ∧
      ∃ y ∈ other.groups, ∃ h ∈ y.holds, h.1 = 0x300000) ∧
    (0x300000 ∉ bare.pivots ∧ (bare.lineUnder (0x300000 / 128) (pteKey stageLeaf)).isSome = true ∧ such (bare.leafFor bare.agent .store (bare.c 1).toNat) (fun x => decide (ptePfn x.1 * 65536 + pageOff x.2.1 0x300000 = 0x300000)) = true) := by
  refine ⟨by decide +kernel, by decide +kernel, by decide +kernel⟩

theorem met_EngineStartsAndTags_commands :
    let gath := withOps recs 0x300200 0
    let off := { (withT gath fun t => { t with tags := 0 }) with ops := [{ id := 9, g := 1, tm := 1, tag := 5, kind := .copy {} {} }] }
    let ws := words (words (words gath 0x20008 [0x30001]) 0x30000 [0x3D7]) 0x300200 [0x10000000, 0x330000, 0x10000000, 0x820000000, 16, 0x340000]
    let user := ws.setCtx 1 { ws.ctx 1 with priv := false }
    such (off.readWords off.agent .load off.u.opA 6) (fun x => !(GathCmd.ofWords off.u.opA x.1).bad (field (x.1.getD 3 0).toNat 0 26) && x.2.tagBusy 5) = true ∧
    such (recs.readTlr recs.u.opA) (fun x => such (x.2.2.readTlr recs.u.opB) fun y => ({ y.2.2 with t := off.t, ops := off.ops } : State).tagBusy 5) = true ∧
    such (user.readWords user.agent .load user.u.opA 6) (fun x => !(GathCmd.ofWords user.u.opA x.1).bad (field (x.1.getD 3 0).toNat 0 26) && !x.2.tagBusy 63 &&
      [OpKind.gather (GathCmd.ofWords user.u.opA x.1), .scatter (GathCmd.ofWords user.u.opA x.1)].all fun k => (x.2.wsBreak (x.2.newOp 63 k)).isSome) = true ∧
    (recs.u.opA.toNat % 128 = 0 ∧ gath.u.opA.toNat % 64 = 0 ∧ (0x300204 : Nat) % 64 ≠ 0 ∧ (0x300204 : Nat) % 128 ≠ 0) := by
  refine ⟨by decide +kernel, by decide +kernel, by decide +kernel, by decide +kernel⟩

theorem full_of (s : State) (n : Nat) (h : 65536 ≤ n) : ({ s with tasks := List.replicate n { handle := h0 } } : State).storeFull 0 = true := by
  refine decide_eq_true ?_
  show 65536 ≤ ((List.replicate n _).filter _).length + _
  rw [List.filter_replicate_of_pos (by rfl), List.length_replicate]
  omega
theorem stuffed_of (n : Nat) : ({ bins := [{ ctx := 1, node := 0, recs := [(List.replicate n 0, 1, 7)] }] } : Die).binBytes = (n + 31) / 32 * 32 := by
  simp [Die.binBytes]

theorem met_TaskCreation_waits :
    let spawn (owned : List Word) : State := withU (withOps (withT tasky fun t => { t with owned := owned }) 0x100000 0x100) fun u => { u with ops := [h0] }
    let full (n : Nat) : State := { tasky with tasks := List.replicate n { handle := h0 } }
    let poor (s : State) : State := { s with tasks := s.tasks.map fun r => { r with weight := 1 }, graphs := [] }
    let launch := withOps nodes 0x390000 0
    let away := withOps (words (words nodes 0x20008 [0x30001]) 0x30000 [0x5D7]) 0x10000000 0
    let many := withT launch fun t => { t with owned := List.replicate 16 h0 }
    let emit := poor (withOps nodes 0 0x100000)
    let stuffed (n : Nat) : State := (withOps nodes 0 0x100000).setDie 0 { bins := [{ ctx := 1, node := 0, recs := [(List.replicate n 0, 1, 7)] }] }
    (takeRefs [h0, 5] [5] = .ok [h0] ∧ takeRefs [h0] [h0, h0] = .error h0) ∧
    ((spawn []).u.opB.toNat < 2 ^ 24 ∧ (spawn []).u.opB.toNat / 128 % 2 = 0 ∧ ((List.range 8).filter fun k => (spawn []).u.opB.toNat / 2 ^ (8 + k) % 2 = 1) = [0] ∧
      (spawn []).current h0 = true ∧ takeRefs (spawn []).t.owned [h0] = .error h0 ∧ takeRefs (spawn [h0]).t.owned [h0] = .ok [] ∧
      ((withU (spawn []) fun u => { u with ops := [5] }).current 5 = false)) ∧
    ((∀ n, 65536 ≤ n → (full n).storeFull 0 = true) ∧ (∃ e, (poor (spawn [h0])).split = .error e)) ∧
    ((∃ x, (away.readWords away.agent .load away.u.opA 16) = .ok x) ∧ away.spaceOf away.t.ctx away.u.opA = some 2 ∧
      such (launch.readWords launch.agent .load launch.u.opA 16) (fun x => (loopNest x.1).isSome && ((x.2.setOwned (many.t.owned ++ [1])).isNone)) = true ∧
      (∃ e, (poor launch).split = .error e)) ∧
    (such (emit.readRec emit.u.opB (emit.nodeDecl emit.t.ctx 0).rsize) (fun x => decide ((emit.dieAt emit.t.die).binBytes + (x.1.length + 31) / 32 * 32 ≤ 2 ^ 22) && !such x.2.split fun _ => true) = true ∧
      (∀ n, ((stuffed n).dieAt 0).binBytes = (n + 31) / 32 * 32) ∧ such ((stuffed 5).readRec (stuffed 5).u.opB ((stuffed 5).nodeDecl (stuffed 5).t.ctx 0).rsize) (fun x => decide (0 < x.1.length)) = true) := by
  have bad : ∀ {s : State}, (match s.split with | .error _ => true | .ok _ => false) = true → ∃ e, s.split = .error e := by
    intro s h
    cases e : s.split with
    | error x => exact ⟨x, rfl⟩
    | ok x => rw [e] at h; cases h
  refine ⟨by decide +kernel, by decide +kernel, ⟨full_of tasky, bad (by decide +kernel)⟩, ⟨ok_of (by decide +kernel), by decide +kernel, by decide +kernel, bad (by decide +kernel)⟩,
    ⟨by decide +kernel, stuffed_of, by decide +kernel⟩⟩

theorem met_ReferencesYieldsAndLfree_waits :
    let s := refs .transit
    let k : Word := 0x4000080000
    let far := withOps (refs .ready) k 64
    (s.owns k = true ∧ (s.task? k).map (fun r => (s.refWaits r, decide (r.st = .transit))) = some (true, true) ∧ (s.setOwned (s.t.owned ++ [k])).isSome = true ∧
      (s.setOwned (s.t.owned.erase k)).isSome = true ∧ s.u.opB.toNat < 64) ∧ (64 ≤ far.u.opB.toNat ∧ far.owns k = true) ∧
    ({ copying with tasks := (refs .ready).tasks } : State).fenceWaits = true ∧ (withG { (withOps copying 1 0) with t := copying.t } fun g => { g with req := true }).fenceWaits = true := by
  refine ⟨by decide +kernel, by decide +kernel, by decide +kernel, by decide +kernel⟩

theorem met_GroupsEndAndReturn_settled :
    let ret (s : State) : State := withG { s with ev := { g := 1 } } fun g => { g with run := .returned 9 }
    let stopped := withG (ret (streaming 2)) fun g => { g with streams := [{ bindTo 2 with stop := some (0, 0x310000) }] }
    let done := withG base fun g => { g with run := .reclaimed, slots := [], taken := [] }
    let at_ : State := { done with ev := { g := 1 } }
    (((ret copying).focus 1).g.run = .returned 9 ∧ (∃ o ∈ ((ret copying).focus 1).ownOps, ((ret copying).focus 1).inert o = false)) ∧
    ((stopped.focus 1).g.run = .returned 9 ∧ ∃ y ∈ (stopped.focus 1).g.streams, y.stop ≠ none) ∧
    ((at_.focus 1).g.run = .reclaimed ∧ (at_.focus 1).settled = true ∧ (at_.focus 1).g.slots = [] ∧ (at_.focus 1).g.taken = [] ∧ (at_.focus 1).ownOps = []) := by
  refine ⟨by decide +kernel, by decide +kernel, by decide +kernel⟩

theorem met_SupervisorOverGroups_travels :
    let shown := withDie above 1 fun d => { d with shadows := [⟨.group 1 none, 0, 5⟩] }
    above.travels 1 = false ∧ shown.travels 1 = true := by decide +kernel

theorem met_RemoteAccesses_held :
    let e : EvArgs := rdma.ev
    let s : State := { rdma with held := [(Instr.hostRdmaRead, e, 1)] }
    s.held[0]? = some (Instr.hostRdmaRead, e, 1) ∧ (1 ≤ e.len ∧ e.va.toNat % 8 + e.len ≤ 8) ∧
    such (({ s with held := s.held.eraseIdx 0, ev := e } : State).place (s.rdmaAgent e.part 1) .load e.va e.len 1) (fun x => decide (x.1 = .hbm 0x200000)) = true := by
  refine ⟨rfl, by decide +kernel, by decide +kernel⟩

theorem met_HostCommands_parts :
    let p : State := { (command quiet [4]) with keys := [(3, .loaded 0 5 6)], lkeys := [(0x4000, 3)], veils := [] }
    let long := command base (List.replicate 1025 0)
    (p.idle = true ∧ p.veils = [] ∧ p.lkeys.find? (fun x => decide (x.1 = 0x4000)) = some (0x4000, 3) ∧ p.keyPair 3 = some (5, 6)) ∧ 1024 < long.ev.words.length ∧
    ({ p with ev := { p.ev with hdr := { p.ev.hdr with len := some 7 } } } : State).ev.hdr.len = some 7 ∧
    ({ p with ev := { p.ev with hdr := { p.ev.hdr with other := some 12 } } } : State).ev.hdr.other = some 12 := by
  refine ⟨by decide +kernel, ?_, rfl, rfl⟩
  show 1024 < (List.replicate 1025 (0 : Word)).length
  rw [List.length_replicate]
  decide

theorem met_HostWork_outside :
    let away := command (words (words nodes 0x20008 [0x30001]) 0x30000 [0x3D7]) [1, 0, 0x10000000]
    such (away.readWords { ctx := 1, priv := (away.ctx 1).priv, die := 0, tm := 0 } .load 0x10000000 16) (fun x => decide (x.2.spaceOf 1 0x10000000 ≠ some 0)) = true ∧
    (command base [1, 0, 0x200000, 0, 4]).kernelRuns (fun k => decide (k = 1)) = false := by
  refine ⟨by decide +kernel, by decide +kernel⟩

theorem met_MatrixCommands_flags : (mat.group? cellOp.g).isSome = true ∧ (1 ≤ cellOp.n ∧ cellOp.n ≤ 128) ∧ (1 : BitVec 1).toNat = 1 := by
  refine ⟨by decide +kernel, by decide +kernel, by decide⟩

theorem met_DrainsAndRowWrites_pair : (30 : VName).toNat ≠ 31 ∧ Claim.ready slice 32 [30] ∧ Claim.ready slice 32 [31] := by
  have ready : ∀ r : Nat, r < 64 → Claim.ready slice 32 [r] := fun r h =>
    ⟨by simpa [show slice.g.budget = 64 by decide +kernel] using h, fun _ => by decide +kernel, fun _ _ => none_bound (by decide +kernel) _⟩
  exact ⟨by decide, ready 30 (by decide), ready 31 (by decide)⟩

theorem met_PivotsAndBindings_lines :
    let bare : State := { piv with pivots := [] }
    let owned : State := { bare with ops := [{ id := 9, g := 1, tm := 1, kind := .copy {} {}, lines := [0x6000] }] }
    let sick : State := { bare with poison := [(0x6000, 0x360000)] }
    let apart : State := { bare with lkeys := [(0x6000, 5)], fresh := bare.fresh }
    let line := fun (s : State) => such (s.leafFor s.agent .store (s.c 1).toNat) fun x => decide (ptePfn x.1 * 65536 + pageOff x.2.1 (s.c 1).toNat = 0x300000) &&
      ((x.2.2.setCtx 1 { s.ctx 1 with binds := (s.ctx 1).binds ++ [⟨s.c 2, s.c 3, s.c 1, 0x300000⟩] }).lineUnder (0x300000 / 128) (pteKey x.1)).any fun q =>
        decide (q.ops = s.ops) && decide (q.poison = s.poison)
    (piv.c 1).toNat < 2 ^ 52 ∧ 0x300000 / 128 = 0x6000 ∧ (line bare = true ∧ bare.ops = [] ∧ bare.poison = []) ∧
    (line sick = true ∧ sick.poison.find? (fun x => decide (x.1 = 0x6000)) = some (0x6000, 0x360000)) ∧
    (line owned = true ∧ (∀ o ∈ owned.ops, o.id ≠ 0) ∧ ∃ o ∈ owned.ops, 0x6000 ∈ o.lines) ∧ apart.lkeys.find? (fun x => decide (x.1 = 0x6000)) = some (0x6000, 5) ∧ (5 : Nat) ≠ pteKey stageLeaf := by
  refine ⟨by decide +kernel, by decide, by decide +kernel, by decide +kernel, by decide +kernel, by decide +kernel, by decide +kernel⟩

theorem met_FencesBarriersAndWaits_wake :
    let w := withC (withG base fun g => { g with vl := 1 }) [(8, 0x200000), (9, 5)]
    let sleeping (g : Group → Group) : State := withG { w with ev := { g := 1 } } fun x => g { x with cwait := some (.vwait none 8 2 3) }
    let watch := fun (s : State) => such ((s.focus 1).waitUnit.watch ((s.focus 1).c 8) 2 3 (s.focus 1).waitUnit.watched) fun x => x.1.any fun y => !y.2
    watch (sleeping id) = false ∧ watch (sleeping fun g => { g with v := [0, 0, 0, 7] }) = true := by decide +kernel

theorem met_DrainsAndRowWrites_covered :
    let queue (m : Mop) : State := slice.setMu { slice.mu with queue := [{ m with row := 39, upto := 100 }] }
    Claim.covered (queue cellOp) 39 120 ∧ Claim.covered (queue { cellOp with started := true }) 39 120 ∧ (queue cellOp).vp = none ∧ Claim.ready (queue cellOp) 32 [2] ∧
    (31 : VName).toNat = 31 ∧ Claim.ready slice 32 [31] ∧ Claim.ready slice 32 [32] := by
  have at_ : Claim.sliceAt slice 39 120 := ⟨by decide +kernel, by decide +kernel, ⟨35, by decide, by decide +kernel, by decide +kernel⟩, by decide, by decide +kernel, by decide +kernel⟩
  have ready : ∀ r : Nat, r < 64 → Claim.ready slice 32 [r] := fun r h =>
    ⟨by simpa [show slice.g.budget = 64 by decide +kernel] using h, fun _ => by decide +kernel, fun _ _ => none_bound (by decide +kernel) _⟩
  exact ⟨⟨at_, by decide +kernel, by decide +kernel⟩, ⟨at_, by decide +kernel, by decide +kernel⟩, by decide +kernel, ready 2 (by decide), by decide, ready 31 (by decide), ready 32 (by decide)⟩

theorem met_GroupsEndAndReturn_stopping :
    let stop (r : Run) : State := withG (withT { tasky with ev := { g := 1 } } fun t => { t with stopping := true }) fun g => { g with run := r }
    ((stop (.returned 9)).focus 1).g.run = .returned 9 ∧ ((stop (.returned 9)).focus 1).t.stopping = true ∧ ((stop (.returned 9)).focus 1).ownOps = [] ∧
    ((stop (.returned 9)).focus 1).g.streams = [] ∧ ((stop (.returned 9)).focus 1).mu.busyFor 1 = false ∧ tasky.t.stopping = false ∧ (stop .running).t.stopping = true := by decide +kernel

theorem met_SupervisorOverGroups_lines :
    let s := base
    (s.paIn (s.ctx s.t.ctx).part 0x300000 = true ∧ 0x300000 * 2 ^ 16 + 0x101 < 2 ^ 64) ∧ s.paIn (s.ctx s.t.ctx).part (2 ^ 45) = false := by decide +kernel

theorem met_WeightBinsAndGrids_reclaiming :
    let gone (st : RecSt) (orphan : Bool) (walks : List Walk) : State := withDie { base with
      tasks := [{ handle := h0, st := st, cons := 1, orphan := orphan, grid := some nest, shares := [0] }], msgs := [⟨0, 0, .grid h0⟩], ev := { h := h0 } } 0 fun d => { d with walks := walks }
    (((gone .reclaiming false []).msgs.find? fun m => decide (m.dst = 0) && decide (m.body = .grid h0)) = some ⟨0, 0, .grid h0⟩ ∧ ((gone .reclaiming false []).task? h0).map TaskRec.st = some .reclaiming) ∧
    (((gone .reclaiming false []).dieAt 0).walks.any (fun w => decide (w.grid = h0)) = false ∧ ((gone .reclaiming false [{ grid := h0, todo := [] }]).dieAt 0).walks.any (fun w => decide (w.grid = h0)) = true) ∧
    ((gone .running true [{ grid := h0, todo := [] }]).task? h0).map (fun r => (r.orphan, r.grid.isSome, r.shares.erase 0)) = some (true, true, []) ∧
    ((gone .running true [{ grid := h0, todo := [] }]).dieAt 0).walks.find? (fun w => decide (w.grid = h0)) = some { grid := h0, todo := [] } ∧
    (gone .running true [{ grid := h0, todo := [] }]).onTheWay 0 h0 = false := by
  refine ⟨by decide +kernel, by decide +kernel, by decide +kernel, by decide +kernel, by decide +kernel⟩

theorem met_StealsAndLocators_forward :
    let s : State := { record .ready 1 with tasks := [{ handle := h0, die := 1 }], msgs := [⟨1, 0, .refAct h0 1⟩] }
    (s.task? h0).map (fun r => (r.die, r.loc)) = some (1, 0) ∧ s.ev.die = 0 ∧ s.msgs.find? (fun m => match m.body with | .refAct h _ => decide (h = h0) | .rpt h _ _ => decide (h = h0) | _ => false) = some ⟨1, 0, .refAct h0 1⟩ := by
  decide +kernel

theorem met_HostWork_loads :
    let load (x : Option Module) : State := { command base [1, 0, 0x500000, 16, 0] with ev := { (command base [1, 0, 0x500000, 16, 0]).ev with load := x } }
    let one : Module := { signature := some true, code := [[0]] }
    (load (some one)).arg 4 = 0 ∧ (load (some one)).arg 3 = 16 ∧ (load (some one)).refuses 1 (some one) = false ∧ 16 * one.code.length ≤ 16 ∧ (load none).refuses 1 none = true ∧
    ((load none).ctx 1).loading = none ∧ (command base [4096, 0, 0, 0, 0]).arg 0 = 4096 ∧ ((command base [5, 0, 0, 0, 0]).ctx 5).valid = false ∧ ((command base [5, 0, 0, 0, 0]).ev.words.length = 5) := by
  refine ⟨by decide +kernel, by decide +kernel, not_refused (by decide +kernel), by decide, by decide +kernel, by decide +kernel, by decide +kernel, by decide +kernel, by decide +kernel⟩

/-! Further clauses: the elements that engines move, cells, streams, and lines that engines own. -/

/-- An engine operation that owns a line. -/
def owning (s : State) (line : Nat) : State := { s with ops := { id := 9, g := 1, tm := 1, kind := .copy {} {}, lines := [line] } :: s.ops }

theorem met_VectorPortSteps_all :
    let stop : State := { (State.reset.stage 0x48000000) with ev := { g := 1, pc := 0x100000 } }
    ([0] : List Nat).Pairwise (fun a b => a < b) ∧ (stop.focus 1).g.portReady = true ∧
    (∀ e, e ∈ [0] ↔ ∃ v, (stop.focus 1).g.vps[e]? = some v ∧ v.st = .ready ∧ v.line = none ∧ v.pc = stop.ev.pc) ∧ ∃ t, Claim.issueAll [0] (stop.focus 1) t := by
  have hv : (State.focus { (State.reset.stage 0x48000000) with ev := { g := 1, pc := 0x100000 } } 1).g.vps = { st := .ready, pc := 0x100000 } :: List.replicate 63 {} := by decide +kernel
  refine ⟨List.pairwise_singleton _ _, by decide +kernel, fun e => ?_, ?_⟩
  · rw [hv]
    rcases e with _ | e
    · exact ⟨fun _ => ⟨_, rfl, rfl, rfl, rfl⟩, fun _ => List.mem_singleton.mpr rfl⟩
    · refine ⟨fun h => absurd (List.mem_singleton.mp h) (Nat.succ_ne_zero e), ?_⟩
      rintro ⟨v, h, hr, -, -⟩
      rw [List.getElem?_cons_succ, List.getElem?_replicate] at h
      split at h
      · cases h; cases hr
      · cases h
  · obtain ⟨u, hu⟩ := next_of (o := (State.focus { (State.reset.stage 0x48000000) with ev := { g := 1, pc := 0x100000 } } 1).issueVp aibExec 0) (by decide +kernel)
    by_cases h : u.g.resident = true
    · exact ⟨_, u, hu, (if_pos h).mpr rfl⟩
    · exact ⟨_, u, hu, (if_neg h).mpr rfl⟩

theorem met_SaturationAndAbsence_integers :
    (200 < 2 ^ Ty.i8.bits ∧ 0 < 2 ^ Ty.i8.bits ∧ 127 < 2 ^ Ty.i8.bits ∧ 200 ≠ 2 ^ (Ty.i8.bits - 1)) ∧ sextNat 8 0 = 0 ∧ sextNat 8 200 ≠ 0 := by decide

theorem met_VectorConversions_refused :
    (7 : BitVec 6).toNat < 8 ∧ 10 < (11 : BitVec 6).toNat ∧ aib.vp ≠ none ∧ Ty.i64.isInt = true := by decide +kernel

/-- One K block of two bf16 elements, the second of the column absent: the products are 1 · 1. -/
theorem met_MatrixCommands_cells :
    let x : Mop := { cellOp with k := 2 }
    let tm := (words mat 0x10000000 []).t
    let p : Plane := { fmt := 5, k := 2, ncol := 1, cols := [[0x80, 0x3F, 0xC1, 0xFF]] }
    let y : Mop := { x with areg := true, adata := [0x80, 0x3F, 0x80, 0x3F] }
    let act := fun (k : Nat) => rowElem y.afmt.toNat (y.rowData tm 0) k
    let wt := fun (k : Nat) => (p.cols[0]?).bind fun col => rowElem p.fmt.toNat col k
    (y.ovw = false ∧ y.zskip = false ∧ 1 ≤ y.k ∧ y.k ≤ 8) ∧
    (∀ k < 2, act k = none ∨ wt k = none ∨ (Claim.product (act k) (wt k)).isSome = true) ∧
    ((List.range 2).filterMap fun k => Claim.product (act k) (wt k)) = [(false, 2 ^ 14, -14)] ∧
    (∀ k < 2, (fun (_ : Nat) => (none : Option FV)) k = none) ∧ ({ x with ovw := true } : Mop).ovw = true := by
  refine ⟨by decide +kernel, by decide +kernel, by decide +kernel, fun _ _ => rfl, rfl⟩

theorem met_EngineStartsAndTags_record :
    let held : State := { base with lkeys := [(0x800A, 1)] }
    base.devLeaf base.g.areaCtx true 0x400500 = some (stageLeaf, 1, 0x20000) ∧ base.hbm.wf = true ∧ base.g.area.toNat % 65536 = 0 ∧
    ptePfn stageLeaf * 65536 + pageOff 1 0x400500 = 0x400500 ∧
    (∀ l, 128 * l < 0x400500 + 64 → 0x400500 < 128 * l + 128 → (l, pteKey stageLeaf) ∈ held.lkeys ∧ ∀ x ∈ held.lkeys, x.1 = l → x.2 = pteKey stageLeaf) := by
  refine ⟨by decide +kernel, by decide +kernel, by decide +kernel, by decide +kernel, ?_⟩
  intro l h1 h2
  obtain rfl : l = 0x800A := by omega
  exact ⟨List.mem_singleton.mpr (by decide +kernel), fun x hx _ => by rw [List.mem_singleton.mp hx]; decide +kernel⟩

theorem met_Streams_operand :
    let s (l : Word) (c : Nat) : State := withG (withU stream fun u => { u with vl := 8 }) fun g => { g with streams := [{ bindTo l with c := c }] }
    Claim.bRegs (s 1 16) (.v 3) [3] ∧ (s 1 16).vp = none ∧ Claim.ready (s 1 16) Ty.i32.bits [2, 3] ∧ (5 : VName).toNat < (s 1 16).g.budget ∧
    (s 1 16).bound ((s 1 16).reg 5) = some (bindTo 1) ∧ (s 1 16).g.rpoison = [] ∧ fmtWidth (bindTo 1).fmt = Ty.i32.bits ∧ fmtWidth (bindTo 1).fmt ≠ Ty.i8.bits ∧
    (s 1 16).u.vl.toNat ≤ 16 ∧ 4 < (s 1 4).u.vl.toNat ∧ (∀ f, f < 2048 / 256 ∧ f * 256 < 8 * 32 → (1 : Word).getLsbD f = true) ∧ (0 : Word).getLsbD 0 = false := by
  refine ⟨rfl, by decide +kernel, ⟨by decide +kernel, fun _ => by decide +kernel, ?_⟩, by decide +kernel, by decide +kernel, by decide +kernel, by decide +kernel, by decide +kernel,
    by decide +kernel, by decide +kernel, ?_, by decide⟩
  · intro r hr
    have hs : r = 2 ∨ r = 3 := by simpa using hr
    rcases hs with rfl | rfl <;> exact ⟨by decide +kernel, by decide +kernel⟩
  · rintro f ⟨-, h⟩
    obtain rfl : f = 0 := by omega
    decide

theorem such_place {s : State} {a : Agent} {k : AccKind} {va : Word} {n : Nat} (h : such (s.place a k va n n) (fun _ => true) = true) :
    ∃ p u, s.place a k va n n = .ok (p, u) := by
  cases e : s.place a k va n n with
  | ok x => exact ⟨x.1, x.2, rfl⟩
  | error x => rw [e] at h; cases h

theorem met_EngineOperationsEnd_units :
    let a := inFlight false false 0
    let x := Tlr.ofWords 0x300000 ((tlr 0x310000 0).map (BitVec.ofNat 64))
    let c : GathCmd := { table := 0x310000, index := 0x330000, data := 0x320000, n := 8, fmt := 2, lim := 16 }
    (x.packed = false ∧ x.rmt = false ∧ x.op = 0 ∧ Claim.fiveD x) ∧ (Claim.inBox x 3 ∧ Claim.elAt x 3 = 0x31000C) ∧ ¬ Claim.inBox { x with org := [1, 0, 0, 0, 0] } 3 ∧
    (∃ b u, Claim.engGot a (opIn a) (Claim.elAt x 3) 4 b u) ∧ (∃ u, Claim.engPut a (opIn a) 0x32000C [1, 2, 3, 4] u) ∧
    (∃ b u, Claim.engGot a { opIn a with kind := .gather c } (c.index + 4) 4 b u) ∧ sextNat 32 5 < c.lim.toNat ∧ sextNat 32 0xFFFFFFFF < 0 ∧
    ({ c with isVgath := true, idxs := [2 ^ 31] } : GathCmd).idxs.getD 0 0 = 2 ^ 31 ∧ (2 : BitVec 4).toNat < 7 := by
  have got : ∀ va : Word, such ((inFlight false false 0).place ((inFlight false false 0).opAgent (opIn (inFlight false false 0))) .engSrc va 4 4) (fun _ => true) = true →
      ∃ b u, Claim.engGot (inFlight false false 0) (opIn (inFlight false false 0)) va 4 b u := fun va h =>
    let ⟨p, u, e⟩ := such_place h
    ⟨_, u, p, e, rfl⟩
  refine ⟨⟨by decide +kernel, by decide +kernel, by decide +kernel, by unfold Claim.fiveD; decide +kernel⟩, ⟨by unfold Claim.inBox; decide +kernel, by decide +kernel⟩,
    by unfold Claim.inBox; decide +kernel, got _ (by decide +kernel), ?_, got _ (by decide +kernel), by decide, by decide, rfl, by decide⟩
  obtain ⟨p, u, e⟩ := such_place (s := inFlight false false 0) (a := (inFlight false false 0).opAgent (opIn (inFlight false false 0))) (k := .engDst) (va := 0x32000C) (n := 4) (by decide +kernel)
  exact ⟨_, p, u, e, rfl⟩

theorem met_GroupsEndAndReturn_lines :
    (owning base 0x8000).devHeld 1 0x400000 0x30000 = some 0x8000 ∧ base.devHeld 1 0x400000 0x30000 = none ∧
    (owning above 0x8000).areaHeld (above.c 1) = some 0x8000 ∧ above.areaHeld (above.c 1) = none ∧
    (let s : State := withG { tasky with ev := { g := 1 }, tasks := tasky.tasks.map fun r => { r with st := .lost } } fun g => { g with run := .returned 9 }
     (s.focus 1).g.run = .returned 9 ∧ (s.focus 1).t.gids = [(s.focus 1).g.id] ∧ (s.focus 1).t.kind = .task 0x4000000000 ∧ ((s.focus 1).task? 0x4000000000).map TaskRec.st = some .lost) := by
  decide +kernel

theorem met_WeightBinsAndGrids_lines :
    let emit := owning (withOps nodes 0 0x100000) 0x7000
    emit.nodeHeld emit.t.ctx 0 = some 0x7000 ∧ nodes.nodeHeld nodes.t.ctx 0 = none := by decide +kernel

theorem met_RemoteAccesses_table : (owning rdma 0x7400).tableHeld 0 = true ∧ rdma.tableHeld 0 = false := by decide +kernel

theorem met_HostCommands_absent :
    let s : State := { (command base []) with ev := { hdr := { src := 4, part := 15 } } }
    s.nparts ≤ s.ev.hdr.part ∧ s.ev.hdr.part < 16 ∧ s.ev.hdr.rsvd = 0 ∧ s.ev.hdr.len = none := by decide +kernel

theorem met_HostWork_refusals :
    let start (c e w : Word) := command base [c, 0, e, w, 1, 2, 3, 4, 5, 6, 7, 8]
    let other : State := (start 2 0 0).setCtx 2 { valid := true, part := 1 }
    (start 1 2 0).ev.words.length = 12 ∧ ((start 1 2 0).ev.words.getD 2 0).toNat % 4 ≠ 0 ∧ (start 1 0 0x100).arg 3 / 256 % 256 ≠ 0 ∧ 128 < (start 1 0 0x810000).arg 3 / 2 ^ 16 % 256 ∧
    (start 4096 0 0).arg 0 = 4096 ∧ ((start 5 0 0).ctx 5).valid = false ∧ ((other.ctx 2).valid = true ∧ (other.ctx 2).part ≠ other.ev.hdr.part) ∧
    (owning (command base [1, 0, 0x200000, 0, 4]) 0x4000).devHeld 1 0x200000 4 = some 0x4000 := by decide +kernel

theorem met_EngineOperationsEnd_peers :
    let put := inFlight true false 0
    put.peerHeld (put.ctx 1).part 0 = false ∧ (owning put 0x6A00).peerHeld (put.ctx 1).part 0 = true := by decide +kernel

theorem met_PivotsAndBindings_grant :
    let wait : State := { piv with pwaits := [⟨0x300000, 1, false⟩], ev := { pa := 0x300000 } }
    let busy : State := words wait 0x300000 [2 ^ 63]
    Claim.pivotFree wait 0x300000 false ∧ ¬ Claim.pivotFree busy 0x300000 false ∧ (1 : Nat) ≠ 0 ∧ (({ wait with pwaits := [] } : State).focus 1).g.id = 1 ∧
    (∀ w ∈ piv.pwaits, w.pa ≠ piv.ev.pa) := by
  refine ⟨by unfold Claim.pivotFree; decide +kernel, by unfold Claim.pivotFree; decide +kernel, by decide, by decide +kernel, by decide +kernel⟩

theorem met_FencesBarriersAndWaits_watched :
    let s := withG { (withC (withG base fun g => { g with vl := 1 }) [(8, 0x200000), (9, 5)]) with ev := { g := 1 } } fun g => { g with cwait := some (.vwait (some 0) 8 2 3) }
    let p := (s.focus 1).waitUnit
    (((List.range (s.focus 1).g.vl.toNat).filter fun e => (s.focus 1).g.vm.getLsbD e) = [0]) ∧ p.el 2 32 0 ≠ 2 ^ 31 ∧ p.shadesHere = [] ∧ (s.focus 1).g.rpoison = [] ∧
    ∃ xs u h, Claim.reads 4 p.bankAgent p [(0, (s.focus 1).c 8 + BitVec.ofInt 64 (sextNat 32 (p.el 2 32 0)))] xs u h := by
  refine ⟨by decide +kernel, by decide +kernel, by decide +kernel, by decide +kernel, reads_of _ _ _ _ (by decide +kernel)⟩

theorem met_DiesAndErrors_kept :
    let s : State := { base with tasks := [{ handle := h0, die := 1, st := .running }], msgs := [⟨0, 1, .loc h0 1⟩, ⟨0, 1, .refAct h0 1⟩, ⟨2, 1, .refAct h0 1⟩] }
    hHome h0 = 0 ∧ (∃ m ∈ s.msgs, m.src = 0 ∧ m.dst ≠ 0 ∧ m.body = .loc h0 1) ∧ (∃ m ∈ s.msgs, m.dst = 1 ∧ hHome h0 ≠ 1 ∧ m.body = .refAct h0 1) ∧
    (∃ r ∈ s.tasks, r.handle = h0 ∧ r.st ≠ .lost ∧ r.remnant = false) := by decide +kernel

theorem of_such {ε α : Type} {x : Except ε α} {p : α → Bool} (h : such x p = true) : ∃ a, x = .ok a ∧ p a = true := by
  cases x with
  | ok a => exact ⟨a, rfl, h⟩
  | error e => cases h
theorem readPlace_length (s : State) (t : Nat) (p : Place) (n : Nat) : (s.readPlace t p n).length = n := by
  cases p <;> simp [State.readPlace, Memory.bytes]

/-- A fill of one facet from 0x310000 into the slots of a ring. -/
def facetTlr : Tlr := Tlr.ofWords 0x300000 ([0x310000, 0x8200000000000000, 0x100000001, 0x100000001, 0x100000001, 0x100000001, 0x100000001, 32, 0, 0, 0, 0, 0, 0, 0].map (BitVec.ofNat 64))
def facetOp : EngOp := { chanOp 8 0 false with kind := .fill facetTlr (ringHdr 8 0) }

theorem met_Channels_slot :
    let s := moving_ 8 0 0 false
    facetOp.chan = some (facetTlr, ringHdr 8 0, false) ∧ facetTlr.rmt = false ∧ facetTlr.op = 0 ∧ Claim.fiveD facetTlr ∧ 0 < facetOp.id ∧
    ∃ x v u w p b y z, s.slotTurn facetOp (ringHdr 8 0) false = .ok (ringHdr 8 0, x, some v, u) ∧ (ringHdr 8 0).slotsz / (fmtWidth facetTlr.fmt / 8) = 1 ∧
      Claim.slotMoves facetTlr (ringHdr 8 0) false x [0] u { facetOp with taken := some (BitVec.ofNat 32 x), inSlot := true } w p ∧
      (w.landAll p).readStat (s.opAgent facetOp) .engSrc (ringHdr 8 0) x = .ok (b, y) ∧ b / 32 % 4 = 1 ∧ b / 128 % 2 = x / 2 ^ (ringHdr 8 0).log2n % 2 ∧
      y.ringWrite (s.opAgent facetOp) ((ringHdr 8 0).statAt x) (natLe 1 (b / 128 % 2 * 128 + 2 * 32 + 0)) = .ok z := by
  refine ⟨rfl, by decide +kernel, by decide +kernel, by unfold Claim.fiveD; decide +kernel, by decide +kernel, ?_⟩
  obtain ⟨⟨r, x, v, u⟩, hu, h⟩ := of_such (x := (moving_ 8 0 0 false).slotTurn facetOp (ringHdr 8 0) false)
    (p := fun q => decide (q.1 = ringHdr 8 0) && decide (q.2.1 = 5) && decide (q.2.2.1 = some 0) &&
      let o : EngOp := { facetOp with taken := some 5, inSlot := true }
      let a := (moving_ 8 0 0 false).opAgent facetOp
      such (q.2.2.2.place (q.2.2.2.opAgent o) .engSrc 0x310000 32 32) fun f => such (f.2.place (f.2.opAgent o) .engDst 0x370020 32 32) fun d =>
        such (((d.2.writePlaceBy 9 1 d.1 (Claim.written 8 (f.2.readPlace 1 f.1 32))).landAll { o with done := [0] }).readStat a .engSrc (ringHdr 8 0) 5) fun b =>
          decide (b.1 / 32 % 4 = 1) && decide (b.1 / 128 % 2 = 1) && such (b.2.ringWrite a ((ringHdr 8 0).statAt 5) (natLe 1 (b.1 / 128 % 2 * 128 + 2 * 32 + 0))) fun _ => true)
    (by decide +kernel)
  simp only [Bool.and_eq_true, decide_eq_true_eq] at h
  obtain ⟨⟨⟨h1, h2⟩, h3⟩, h⟩ := h
  subst h1; subst h2; subst h3
  obtain ⟨⟨pf, f⟩, hf, h⟩ := of_such h
  obtain ⟨⟨pd, d⟩, hd, h⟩ := of_such h
  obtain ⟨⟨b, y⟩, hb, h⟩ := of_such h
  simp only [Bool.and_eq_true, decide_eq_true_eq] at h
  obtain ⟨z, hz, -⟩ := of_such h.2
  have hl : ∀ tm, (Claim.written facetTlr.fmt (f.readPlace tm pf 32)).length = 32 := by
    intro tm
    rw [show facetTlr.fmt = 8 by decide +kernel, Claim.written, if_pos (.inl rfl), List.length_set, readPlace_length]
  refine ⟨5, 0, u, _, _, b, y, z, hu, by decide +kernel, .inr ⟨by decide +kernel, _, ⟨_, f, ⟨pd, d, ?_, rfl⟩, .inl ⟨by unfold Claim.inBox; decide +kernel, pf, ?_, rfl⟩⟩, rfl, rfl⟩, hb, h.1.1, h.1.2, hz⟩
  · rw [show fmtWidth facetTlr.fmt / 8 = 32 by decide +kernel, hl]; exact hd
  · exact hf

end Sys2Proof.Tests
end

section
/-! PROOFS. Facts that several obligations need: what a translated access leaves alone (17 R401 to R404), what a fetch leaves
alone (04 R134), and how the control thread takes a legal unit (01 R21 to R26, 07 R200). -/

namespace Sys2Proof.Machine

/-- The walks and lines of an access lead from `s` to `q`: `q` differs in the caches, in global memory and in the counter of
free values alone. -/
def State.WalksTo (s q : State) : Prop := q = s.walkedAs q

theorem State.WalksTo.refl (s : State) : s.WalksTo s := rfl

theorem State.WalksTo.trans {s p q : State} (h : s.WalksTo p) (k : p.WalksTo q) : s.WalksTo q := by
  unfold State.WalksTo at h k ⊢
  rw [k, h]
  rfl

theorem State.WalksTo.g {s q : State} (h : s.WalksTo q) : q.g = s.g := by rw [h]; rfl

theorem State.free_walksTo (s : State) : s.WalksTo s.free.2 := rfl

theorem State.SameBut.walksTo {s q : State} {l : Nat} (h : s.SameBut q l) : s.WalksTo q := by
  rw [State.WalksTo, h.frame]
  rfl

theorem State.ite_hbm_walksTo (s : State) (c : Prop) [Decidable c] (m : Memory) : s.WalksTo (if c then s else { s with hbm := m }) := by
  split <;> rfl

theorem State.useLeaf_walksTo (s : State) (a : Agent) (k : AccKind) (va leaf level at_ : Nat) (path : List Nat) :
    s.WalksTo (s.useLeaf a k va leaf level at_ path) := by
  let leaf' := (leaf ||| 0x40) ||| (if k.writes then 0x80 else 0)
  exact (s.ite_hbm_walksTo (leaf' = leaf) (s.hbm.store at_ (natLe 8 leaf'))).trans rfl

theorem State.agentWalk_walksTo (s : State) (a : Agent) (va : Nat) : s.WalksTo (s.agentWalk a va).2 := by
  unfold State.agentWalk
  dsimp only
  split
  · exact .refl s
  · exact s.free_walksTo

/-- The choice between the leaf of the walk and a stale one that the caches hold (17 R404, R408). -/
theorem State.leafChoice_walksTo {p q : State} {a : Agent} {k : AccKind} {leaf level : Nat} {fresh : Except Fail (Nat × Nat × State)}
    {other : List TlbEntry} (hfresh : fresh = .ok (leaf, level, q) → p.WalksTo q)
    (h : (if other = [] then fresh
      else match other[p.free.1 % (other.length + 1)]? with
        | none => fresh
        | some e =>
          if k.writes && !pteBit e.leaf.toNat 7 then fresh
          else if p.permits a k e.leaf.toNat then .ok (e.leaf.toNat, e.level, p.free.2) else .error (.trap causeAccess 0 p.tlb)) =
      .ok (leaf, level, q)) : p.WalksTo q := by
  split at h
  · exact hfresh h
  · split at h
    · exact hfresh h
    · split at h
      · exact hfresh h
      · split at h
        · cases h; exact p.free_walksTo
        · cases h

theorem State.leafFor_walksTo {s q : State} {a : Agent} {k : AccKind} {va leaf level : Nat}
    (h : s.leafFor a k va = .ok (leaf, level, q)) : s.WalksTo q := by
  unfold State.leafFor at h
  split at h
  · split at h
    · cases h; exact .refl s
    · cases h
  · split at h
    · cases h
    · have hw := s.agentWalk_walksTo a va
      revert h
      generalize s.agentWalk a va = x at hw ⊢
      obtain ⟨w, p⟩ := x
      intro h
      refine State.WalksTo.trans hw (State.leafChoice_walksTo (fun hr => ?_) h)
      split at hr
      · cases hr
      · split at hr
        · cases hr
        · split at hr
          · cases hr; exact p.useLeaf_walksTo ..
          · cases hr

theorem State.cleanAt_ok {s q : State} {l : List (Nat × Word)} {unit o size : Nat} {k : AccKind} {p p' : Place}
    (h : s.cleanAt l unit o size k p = .ok (p', q)) : q = s := by
  unfold State.cleanAt at h
  dsimp only at h
  split at h <;> cases h
  rfl

theorem State.placeLine_walksTo {s q : State} {a : Agent} {k : AccKind} {pa size key : Nat} {p : Place}
    (h : s.placeLine a k pa size key = .ok (p, q)) : s.WalksTo q := by
  unfold State.placeLine at h
  dsimp only at h
  split at h
  · cases h
  · next r hr =>
    have hs := (State.lineUnder_same hr).walksTo
    split at h
    · cases h
    · split at h
      · split at h <;> cases h
        exact hs
      · cases h; exact hs

theorem State.placeLeaf_walksTo {s q : State} {a : Agent} {k : AccKind} {va size leaf level : Nat} {p : Place}
    (h : s.placeLeaf a k va size leaf level = .ok (p, q)) : s.WalksTo q := by
  unfold State.placeLeaf at h
  split at h <;> dsimp only at h
  · split at h
    · cases h
    · exact State.placeLine_walksTo h
  · rw [State.cleanAt_ok h]; exact .refl s
  · split at h
    · cases h
    · rw [State.cleanAt_ok h]; exact .refl s

/-- An access that is placed leaves everything but the caches, the lines and A and D of the leaves as it stood. -/
theorem State.place_walksTo {s q : State} {a : Agent} {k : AccKind} {va : Word} {size align : Nat} {late : Bool} {p : Place}
    (h : s.place a k va size align late = .ok (p, q)) : s.WalksTo q := by
  unfold State.place State.placeVia at h
  split at h
  · cases h
  · split at h
    · cases h
    · split at h
      · cases h
      · next hl =>
        split at h
        · cases h
        · split at h
          · cases h
          · next hp =>
            cases h
            exact (State.leafFor_walksTo hl).trans (State.placeLeaf_walksTo hp)

/-- A fetch changes what a walk changes, and of the group its fetch buffer alone (04 R134). -/
theorem State.fetchWord_eq {s f : State} {va : Word} {w : Word32} (h : s.fetchWord va = .ok (w, f)) :
    f = { s.walkedAs f with g := { s.g with fbuf := f.g.fbuf } } := by
  have block : s.readBlock va = .ok (w, f) → f = { s.walkedAs f with g := { s.g with fbuf := f.g.fbuf } } := by
    intro h
    unfold State.readBlock at h
    split at h
    · cases h
    · next p q hp =>
      split at h
      · cases h
        have hq : q = s.walkedAs q := State.place_walksTo hp
        dsimp only
        generalize (blockOf va, _) :: List.filter _ q.g.fbuf = buf
        rw [hq]
        rfl
      · cases h
  unfold State.fetchWord at h
  split at h
  · exact block h
  · dsimp only at h
    split at h
    · cases h; rfl
    · exact block h

/-- Where no lookahead is in force, a unit executes as `run` has it (07 R192). -/
theorem State.looked_plain (run : Instr → State → Out) (i : Instr) {s : State} (h : s.shadesHere = []) :
    State.looked run [] i s = run i s := by
  have hw : (s.withShades []).shadesHere = s.shadesHere := by
    unfold State.withShades
    split
    · next hv => simp only [State.shadesHere, hv, List.nil_append]
    · next hv => simp only [State.shadesHere, hv, List.nil_append]
  unfold State.looked
  dsimp only
  rw [hw, if_pos h]

/-- A group with no late result has nothing to deliver before its next unit. -/
theorem atUnit_of_late_nil {s : State} (h : s.g.late = []) :
    Claim.atUnit s = { s with port := false, vp := none, g := { s.g with cwait := none } } := by
  have hs : s.deliverLate = s := by
    rw [State.deliverLate, h]
    rfl
  rw [Claim.atUnit, hs]

/-- The control thread has taken the unit `u` that stood at `pc`. -/
def State.pastUnit (s : State) (pc : Word) (u : Unit) : State :=
  { s with g := { s.g with pc := pc + 4, ran := pc + 4, pfx := [], seq := u.seq + 1 } }

section
variable {q f : State} {w : Word32} {i : Instr}
  (hf : (Claim.atUnit q).fetchWord (Claim.atUnit q).g.pc = .ok (w, f)) (hd : decodeWord w = .ok i)
  (hill : f.illegalAt w (.ok i) = none) (hpriv : privOp (opOf w) = true → f.t.priv = true) (hp : clsOf i ≠ .pfx)
  (haw : ({ f with u := f.capture w i } : State).awaitsViq i = false)
include hf hd hill hpriv hp haw

/-- What becomes of a unit that is legal where it stands, is no `pfx` word and awaits no entry of the VIQ (01 R21 to R26). -/
theorem State.controlIssue_legal :
    q.controlIssue =
      let u := f.capture w i
      let p : State := { f with u := u }
      if clsOf i = .vec || clsOf i = .mem then
        if opOf w = 0x21 && u.opA.toNat % 4 ≠ 0 then .done (p.finish (.error (.trap { cause := causeMis, addr := u.opA })))
        else if 64 ≤ f.g.viq.length then .done (p.finish (holdM .viqFull))
        else .enqueued ((p.enqueue u i).pastUnit (Claim.atUnit q).g.pc u)
      else if clsOf i = .drain && f.g.viq ≠ [] then .done (p.finish (holdM .viq))
      else .run i (p.pastUnit (Claim.atUnit q).g.pc u) := by
  have hpr : (privOp (opOf w) && !({ f with u := f.capture w i } : State).isSup) = false := by
    cases h : privOp (opOf w)
    · rfl
    · simp [State.isSup, hpriv h]
  unfold Claim.atUnit at hf
  unfold State.controlIssue
  dsimp only at hf ⊢
  rw [hf]
  dsimp only
  rw [hd, hill]
  dsimp only
  rw [if_neg (Bool.eq_false_iff.mp hpr), if_neg hp, if_neg (Bool.eq_false_iff.mp haw)]
  rfl

/-- A legal unit of class V or M that waits for nothing is enqueued (01 R22). -/
theorem State.controlIssue_enqueues (hc : clsOf i = .vec ∨ clsOf i = .mem)
    (ha : opOf w = 0x21 → (f.capture w i).opA.toNat % 4 = 0) (hl : f.g.viq.length < 64) :
    q.controlIssue = .enqueued ((({ f with u := f.capture w i } : State).enqueue (f.capture w i) i).pastUnit
      (Claim.atUnit q).g.pc (f.capture w i)) := by
  rw [State.controlIssue_legal hf hd hill hpriv hp haw]
  dsimp only
  rw [if_pos (by simpa using hc), if_neg (by simpa using ha), if_neg (Nat.not_le.mpr hl)]

/-- A legal unit of class C, or of class D with an empty VIQ, that waits for nothing is executed (01 R21, R26). -/
theorem State.controlIssue_runs (hc : clsOf i = .ctl ∨ clsOf i = .drain ∧ f.g.viq = []) :
    q.controlIssue = .run i (({ f with u := f.capture w i } : State).pastUnit (Claim.atUnit q).g.pc (f.capture w i)) := by
  rw [State.controlIssue_legal hf hd hill hpriv hp haw]
  dsimp only
  have hv : ¬ (decide (clsOf i = .vec) || decide (clsOf i = .mem)) = true := by
    rcases hc with h | ⟨h, -⟩ <;> rw [h] <;> decide
  rw [if_neg hv, if_neg]
  rcases hc with h | ⟨-, h⟩ <;> simp [h]

end

end Sys2Proof.Machine
end

section
/-! PROOFS. How a `vf` starts (01 R28, R36, R37, 08 R228). -/

namespace Sys2Proof.Machine

/-- A branch target lies the stated number of words from the instruction word (07 R188). -/
theorem State.target_eq (s : State) {n : Nat} (off : BitVec n) :
    s.target off = s.u.ipc + BitVec.ofInt 64 (4 * off.toInt) := by
  have h : off.signExtend 64 * 4 = BitVec.ofInt 64 (4 * off.toInt) := by
    rw [BitVec.signExtend, mul_comm, BitVec.ofInt_mul]
    rfl
  rw [State.target, h]

@[simp] theorem State.needVl_ok (s : State) (w : Nat) (h : s.u.vl.toNat ≤ s.g.grant / w) : s.needVl w = .ok ⟨⟩ :=
  need_true _ _ _ h

/-- What a `vf` that starts leaves: a `vf` in which no VP takes part is done (01 R28, R36, R37). -/
def State.vfStarted (s : State) (pc : Word) : State :=
  let g := { s.g with j := (List.range 8).map fun k => Bank.get 0 s.g.j k &&& jBits s.active, links := [] }
  if s.active = [] then { s with g := g }
  else { s with g := { g with vps := startVps (s.vlmax 32) s.active pc, viq := s.u :: s.g.viq } }

theorem State.startVf_aligned (s : State) (pc : Word) (hv : s.vp = none) (hl : s.u.vl.toNat ≤ s.g.grant / 32)
    (ha : pc.toNat % 4 = 0) : s.startVf pc = .ok (s.vfStarted pc) := by
  unfold State.startVf State.vfStarted
  rw [need_true (s.vp.isNone = true) _ _ (by rw [hv]; rfl), State.needVl_ok s 32 hl, if_neg (not_not.mpr ha)]
  by_cases hp : s.active = []
  · simp only [if_pos hp]; rfl
  · simp only [if_neg hp]; rfl

theorem State.startVf_misaligned (s : State) (pc : Word) (hv : s.vp = none) (hl : s.u.vl.toNat ≤ s.g.grant / 32)
    (ha : pc.toNat % 4 ≠ 0) : s.startVf pc = .error (.trap { cause := causeMisaligned, addr := pc }) := by
  unfold State.startVf
  rw [need_true (s.vp.isNone = true) _ _ (by rw [hv]; rfl), State.needVl_ok s 32 hl, if_pos ha]
  rfl

theorem Bank.get_range_map {α : Type} (d : α) (f : Nat → α) {n k : Nat} (h : k < n) : Bank.get d ((List.range n).map f) k = f k := by
  simp [Bank.get, h]

/-- An element that the effective mask allows is active: all of them stand below `vl`. -/
theorem State.mem_active (s : State) (e : Nat) : e ∈ s.active ↔ s.eff e = true := by
  simp only [State.active, State.activeBelow, List.mem_filter, List.mem_range, and_iff_right_iff_imp]
  intro h
  simp only [State.eff, Bool.and_eq_true, decide_eq_true_eq] at h
  exact h.2

theorem startVps_getD (n : Nat) (part : List Nat) (pc : Word) {e : Nat} (h : e < n) :
    (startVps n part pc).getD e {} = if part.contains e then { st := .ready, pc := pc } else {} := by
  simp [startVps, h]

end Sys2Proof.Machine

namespace Sys2Proof.Proofs
open Sys2Proof.Machine

/-- Settles O12: `State.startVf` answers `State.vfStarted` at an aligned target and misaligned-access at any other. -/
theorem vfStarts : Obligations.VfStarts := by
  unfold Obligations.VfStarts
  intro s off a hv hl pc _
  refine ⟨fun ha => ⟨s.vfStarted pc, ⟨?_, ?_⟩, ?_, ?_, ?_, ?_⟩, ?_⟩
  · rintro rfl
    rw [← State.target_eq] at ha ⊢
    exact congrArg s.finish (s.startVf_aligned _ hv hl ha)
  · rintro rfl
    exact congrArg s.finish (s.startVf_aligned _ hv hl ha)
  · unfold State.vfStarted; split <;> rfl
  · intro k hk
    have hj : (s.vfStarted pc).g.j = (List.range 8).map fun k => Bank.get 0 s.g.j k &&& jBits s.active := by
      unfold State.vfStarted; split <;> rfl
    rw [hj, Bank.get_range_map _ _ hk]
  · intro h
    simp [State.vfStarted, h]
  · intro h
    have hg : (s.vfStarted pc).g.viq = s.u :: s.g.viq ∧ (s.vfStarted pc).g.vps = startVps (s.g.grant / 32) s.active pc := by
      simp only [State.vfStarted, if_neg h, State.vlmax, and_self]
    obtain ⟨hviq, hvps⟩ := hg
    refine ⟨hviq, by rw [hvps, startVps, List.length_map, List.length_range], fun e he => ?_⟩
    rw [hvps, startVps_getD _ _ _ he]
    simp only [List.contains_iff_mem, State.mem_active]
  · rintro ha rfl
    exact congrArg s.finish (s.startVf_misaligned _ hv hl ha)

end Sys2Proof.Proofs
end

section
/-! PROOFS. The rejoin masks (01 R35). -/

namespace Sys2Proof.Machine

/-- A VP is parked on mask `k` in the model's sense and in that of the statement alike. -/
theorem Vp.parkedOn_eq (v : Vp) {k : Nat} (hk : k < 8) : v.parkedOn k = decide (v.st = .parked (BitVec.ofNat 3 k)) := by
  cases h : v.st with
  | parked j =>
    have hj : j.toNat = k ↔ j = BitVec.ofNat 3 k := by
      rw [← BitVec.toNat_inj, BitVec.toNat_ofNat, Nat.mod_eq_of_lt (by omega)]
    simp [Vp.parkedOn, h, hj]
  | _ => simp [Vp.parkedOn, h]

/-- The release of a mask is the release of R35, as the statement writes it. -/
theorem State.release_eq_claim (s : State) (strike : Bool) {k : Nat} (hk : k < 8) : s.release strike k = Claim.release s strike k := by
  unfold State.release Claim.release
  simp only [Vp.parkedOn_eq _ hk]
  refine if_congr ?_ rfl rfl
  by_cases hm : Bank.get 0 s.g.j k = 0
  · rw [if_pos (show s.jmask k = 0 from hm), Bool.and_eq_true, decide_eq_true_iff]
    simp only [hm, ne_eq, not_true_eq_false, false_and, false_or, true_and]
    refine and_congr_right fun _ => ⟨fun h => ?_, ?_⟩
    · obtain ⟨e, he⟩ := List.exists_mem_of_ne_nil _ h
      obtain ⟨hlt, hp⟩ := List.mem_filter.mp he
      rw [List.getD_eq_getElem _ _ (List.mem_range.mp hlt)] at hp
      exact ⟨_, List.getElem_mem _, hp⟩
    · rintro ⟨v, hv, hp⟩
      obtain ⟨e, he, rfl⟩ := List.mem_iff_getElem.mp hv
      refine List.ne_nil_of_mem (List.mem_filter.mpr ⟨List.mem_range.mpr he, ?_⟩)
      rw [List.getD_eq_getElem _ _ he]
      exact hp
  · rw [if_neg (show ¬ s.jmask k = 0 from hm)]
    simp only [hm, ne_eq, not_false_eq_true, true_and, false_and, or_false, List.all_eq_true, List.mem_filter, List.mem_range,
      List.contains_iff_mem, State.jmask]
    exact ⟨fun h e he hb => (h e ⟨he, hb⟩).2, fun h e he => ⟨he.1, h e he.1 he.2⟩⟩

/-- A change of the executing VP is a change of the VP found there. -/
theorem State.updVp_eq (s : State) {e : Nat} {v : Vp} (f : Vp → Vp) (h : s.g.vps[e]? = some v) :
    s.updVp e f = { s with g := { s.g with vps := s.g.vps.set e (f v) } } := by
  rw [State.updVp, List.getD_eq_getElem?_getD, h, Option.getD_some]

@[simp] theorem State.inAib_some (s : State) {e : Nat} (k : Nat → M State) (h : s.vp = some e) : s.inAib k = k e := by
  rw [State.inAib, h]

/-- What a mask that is released leaves: it is zero, and every VP parked on it goes on (01 R35). -/
def State.released (s : State) (k : Nat) : State :=
  { s with g := { s.g with
      j := Bank.set 0 s.g.j k 0
      vps := s.g.vps.map fun v => if v.parkedOn k then { v with st := .ready } else v } }

theorem State.release_cases (s : State) (zero : Bool) (k : Nat) : s.release zero k = s ∨ s.release zero k = s.released k := by
  unfold State.release
  exact (Classical.em _).elim (fun h => .inr (if_pos h)) fun h => .inl (if_neg h)

/-- The release of a mask changes the masks and the VPs alone. -/
theorem State.release_frame (s : State) (zero : Bool) (k : Nat) :
    s.release zero k = { s with g := { s.g with j := (s.release zero k).g.j, vps := (s.release zero k).g.vps } } := by
  rcases s.release_cases zero k with h | h <;> rw [h]
  rfl

/-- The release of a mask leaves a stopped VP as it is. -/
theorem State.release_stopped {s : State} {e : Nat} {v : Vp} (zero : Bool) (k : Nat) (hv : s.g.vps[e]? = some v) (hs : v.st = .stopped) :
    (s.release zero k).g.vps[e]? = some v := by
  rcases s.release_cases zero k with h | h <;> rw [h]
  · exact hv
  · have hp : v.parkedOn k = false := by rw [Vp.parkedOn, hs]
    show (s.g.vps.map _)[e]? = some v
    rw [List.getElem?_map, hv, Option.map_some, hp]
    rfl

/-- The releases that follow a `stop`, from a state `x` that differs from `s` in the masks and the VPs alone. -/
theorem State.releases_stopped (l : List Nat) {s x : State} {e : Nat} {v : Vp}
    (hx : x = { s with g := { s.g with j := x.g.j, vps := x.g.vps } }) (hv : x.g.vps[e]? = some v) (hs : v.st = .stopped) :
    let t := l.foldl (fun q k => q.release true k) x
    t = { s with g := { s.g with j := t.g.j, vps := t.g.vps } } ∧ t.g.vps[e]? = some v := by
  induction l generalizing x with
  | nil => exact ⟨hx, hv⟩
  | cons k l ih =>
    refine ih (x := x.release true k) ?_ (State.release_stopped true k hv hs)
    have hf := State.release_frame x true k
    generalize x.release true k = y at hf ⊢
    rw [hf, hx]

end Sys2Proof.Machine

namespace Sys2Proof.Proofs
open Sys2Proof.Machine

/-- Settles O13: each word is one change of the VP or of the mask, followed by `State.release`, which is the release of R35. -/
theorem rejoinMasks : Obligations.RejoinMasks := by
  unfold Obligations.RejoinMasks
  intro s e v k hvp hv
  have hk : k.toNat < 8 := k.isLt
  refine ⟨?_, ?_, ?_, ?_⟩
  · change execJenrol k s = _
    rw [execJenrol, State.inAib_some s _ hvp, State.finish_ok, State.release_eq_claim _ _ hk]
    rfl
  · change execJpark k s = _
    rw [execJpark, State.inAib_some s _ hvp]
    by_cases hb : (Bank.get 0 s.g.j k.toNat).getLsbD e = true
    · rw [if_pos hb, if_pos (show (s.jmask k.toNat).getLsbD e = true from hb), State.finish_ok, State.release_eq_claim _ _ hk,
        State.updVp_eq s _ hv]
    · rw [if_neg hb, if_neg (show ¬ (s.jmask k.toNat).getLsbD e = true from hb), State.finish_ok]
  · change execJstrike k s = _
    rw [execJstrike, State.inAib_some s _ hvp, State.finish_ok, State.release_eq_claim _ _ hk]
    rfl
  · change execStop s = _
    rw [execStop, State.inAib_some s _ hvp, State.finish_ok, State.updVp_eq s _ hv]
    exact congrArg _ (List.foldl_ext _ _ _ fun q n hn => State.release_eq_claim q true (List.mem_range.mp hn))

end Sys2Proof.Proofs
end

section
/-! PROOFS. A step takes the word at the program counter and runs what it decodes to (01 R21, R22, R25, 07 R186, R200). -/

namespace Sys2Proof.Machine

/-- A step carries out the choice and ends as the statements say. -/
theorem step_of_choice {s q : State} {c : Choice} (h : s.choice = (c, q)) : step s = Claim.after q (q.move c) := by
  unfold step Claim.after
  rw [h]
  dsimp only
  cases q.move c <;> rfl

/-- The state in which the unit `i` of word `w`, fetched in `f`, is taken: captured, with the program counter past it. -/
def State.taken (f : State) (w : Word32) (i : Instr) : State :=
  ({ f with u := f.capture w i } : State).pastUnit f.g.pc (f.capture w i)

section
variable {s f : State} {w : Word32} {i : Instr} (h : Claim.takes s w i f)
include h

/-- A group that is about to take a word passes every check of 07 R200 for it. -/
theorem illegalAt_of_takes (hc : clsOf i ≠ .pfx ∧ clsOf i ≠ .aib ∧ clsOf i ≠ .event) : f.illegalAt w (.ok i) = none := by
  obtain ⟨-, -, -, -, -, hpfx, hloop, -, -, hg, hb, ha, hx, -, -⟩ := h
  obtain ⟨hp, hai, hev⟩ := hc
  have hfp : f.g.pfx = [] := by rw [hg]; exact hpfx
  have hfl : f.g.loop = false := by rw [hg]; exact hloop
  have hA : ∀ r, capA i = some r → decide (31 < r) = false := fun r h => by simpa using ha r h
  have hX : ∀ r, capX i = some r → decide (31 < r) = false := fun r h => by simpa using hx r h
  unfold State.illegalAt
  simp only [hfp, hfl, hp, hai, hev, hb, badPrefix, List.find?_nil, Option.map_none]
  cases hcA : capA i <;> cases hcX : capX i <;> simp [hA, hX, hcA, hcX]

/-- Its control thread, served, fetches the word. -/
theorem fetch_of_takes : (Claim.atUnit (s.served 0)).fetchWord (Claim.atUnit (s.served 0)).g.pc = .ok (w, f) := by
  obtain ⟨-, -, -, hlate, -, -, -, hf, -⟩ := h
  rw [atUnit_of_late_nil (s := s.served 0) hlate]
  exact hf

theorem pc_of_takes : (Claim.atUnit (s.served 0)).g.pc = f.g.pc := by
  obtain ⟨-, -, -, hlate, -, -, -, -, -, hg, -⟩ := h
  rw [atUnit_of_late_nil (s := s.served 0) hlate, hg]
  rfl

theorem priv_of_takes : privOp (opOf w) = true → f.t.priv = true := by
  obtain ⟨-, -, -, -, -, -, -, -, -, -, -, -, -, hpriv, -⟩ := h
  intro hp
  rw [privOp, Bool.and_eq_true, decide_eq_true_eq, decide_eq_true_eq] at hp
  exact hpriv hp.1 hp.2

/-- A unit of class C, or of class D with an empty VIQ, is executed in the turn of its control thread. -/
theorem issue_runs_of_takes (hc : clsOf i = .ctl ∨ clsOf i = .drain ∧ f.g.viq = []) :
    (s.served 0).controlIssue = .run i (f.taken w i) := by
  have hcls : clsOf i ≠ .pfx ∧ clsOf i ≠ .aib ∧ clsOf i ≠ .event := by rcases hc with h | ⟨h, -⟩ <;> rw [h] <;> decide
  have hill := illegalAt_of_takes h hcls
  have hpc := pc_of_takes h
  have hf := fetch_of_takes h
  have hpriv := priv_of_takes h
  obtain ⟨-, -, -, -, -, -, -, -, hd, -, -, -, -, -, haw⟩ := h
  rw [State.controlIssue_runs hf hd hill hpriv hcls.1 haw hc, hpc]
  rfl

/-- A unit of class V or M is enqueued in the turn of its control thread. -/
theorem issue_enqueues_of_takes (hc : clsOf i = .vec ∨ clsOf i = .mem)
    (ha : opOf w = 0x21 → (f.capture w i).opA.toNat % 4 = 0) (hl : f.g.viq = []) :
    (s.served 0).controlIssue = .enqueued ((({ f with u := f.capture w i } : State).enqueue (f.capture w i) i).pastUnit
      f.g.pc (f.capture w i)) := by
  have hcls : clsOf i ≠ .pfx ∧ clsOf i ≠ .aib ∧ clsOf i ≠ .event := by rcases hc with h | h <;> rw [h] <;> decide
  have hill := illegalAt_of_takes h hcls
  have hpc := pc_of_takes h
  have hf := fetch_of_takes h
  have hpriv := priv_of_takes h
  obtain ⟨-, -, -, -, -, -, -, -, hd, -, -, -, -, -, haw⟩ := h
  rw [State.controlIssue_enqueues hf hd hill hpriv hcls.1 haw hc ha (by rw [hl]; decide), hpc]

end

/-- The control thread that executes `i` at `p` in its turn: what the step does with the outcome (01 R20, 06 R174). -/
theorem State.controlMove_runs {r p : State} {i : Instr} (hrec : r.reclaimable = false) (hi : (r.served 0).controlIssue = .run i p) :
    r.controlMove false = match exec i p with
      | .next t => .next (Claim.waited r (if r.backward t then t.reclaim else p.afterUnit t i))
      | o => o := by
  unfold State.controlMove State.controlRun
  rw [hrec, if_neg Bool.false_ne_true, hi]
  dsimp only
  cases exec i p with
  | next t =>
    dsimp only [thenDo]
    rw [show (r.served 0).backward t = r.backward t from rfl]
    generalize (if r.backward t = true then t.reclaim else p.afterUnit t i) = t'
    unfold Claim.waited
    simp only [Bool.and_eq_true, decide_eq_true_eq, Bool.false_and, Bool.false_eq_true, if_false]
    split <;> rfl
  | fault e => rfl
  | refused e => rfl

/-- The oldest entry of a VIQ executes, where no `vf` runs (01 R25). -/
theorem State.portIssue_entry {s : State} {u : Unit} {rest : List Unit} {i : Instr} (hq : s.g.viq = u :: rest) (hv : s.g.vps = [])
    (hdone : u.done = false) (hen : u.enabled = true) (hd : decodeWord u.word = .ok i) :
    s.portIssue = .run i { s with u := u, port := true, vp := none, g := { s.g with pwait := none, viq := rest } } := by
  unfold State.portIssue
  simp only [hq, Group.vfRuns, hv, hdone, hen, hd]
  rfl

/-- An entry alone in its VIQ has its turn at the port: it executes, and where it goes on waiting it has not been served (01 R20, R25). -/
theorem State.portMove_entry {e p : State} {u : Unit} {i : Instr} (hq : e.g.viq = [u]) (hv : e.g.vps = []) (hl : e.g.lateUnits = [])
    (hdone : u.done = false) (hen : u.enabled = true) (hd : decodeWord u.word = .ok i) (hc : clsOf i ≠ .event)
    (hp : p = { e.served e.portOf with u := u, port := true, vp := none, g := { e.g with pwait := none, viq := [] } }) :
    e.portMove = match State.entry exec i p with
      | .next t => .next (if t.g.id = e.g.id ∧ t.g.pwait.isSome = true then { t with turns := e.turns } else t)
      | o => o := by
  have hi : (e.served e.portOf).portIssue = .run i p := by
    rw [hp]
    exact State.portIssue_entry (s := e.served e.portOf) hq hv hdone hen hd
  have hpass : ∀ t, e.passed t = none := by
    intro t
    rw [State.passed, if_pos (.inl (by rw [hq]; exact Nat.le_refl 1))]
  have hcom : ∀ t, e.committed t = t := by
    intro t
    rw [State.committed, hq]
    rfl
  unfold State.portMove State.portRun
  dsimp only
  rw [hi]
  dsimp only [State.entryRun, State.portExec]
  rw [if_neg hc]
  cases State.entry exec i p with
  | next t =>
    dsimp only [thenDo]
    rw [if_pos (show p.g.lateUnits = [] by rw [hp]; exact hl), hpass, hcom]
    simp only [State.stays, Bool.and_eq_true, decide_eq_true_eq]
  | fault x => rfl
  | refused x => rfl

/-- A turn that no event ends executes the unit of class V or M that it enqueues in an empty VIQ. -/
theorem State.controlMove_enqueues {r e : State} (hrec : r.reclaimable = false) (hi : (r.served 0).controlIssue = .enqueued e)
    (hw : e.g.cwait = none) (hr : r.g.viq = []) (he : e.g.viq ≠ []) (ht : e.turn e.g e.portOf = true) :
    r.controlMove true = e.portMove := by
  unfold State.controlMove State.controlRun
  rw [hrec, if_neg Bool.false_ne_true, hi]
  dsimp only
  rw [hw, hr, ht, if_neg (by simp), if_pos (by simp [he])]

theorem State.enqueue_eq (s : State) (u : Unit) {i : Instr} (hf : ∀ a, i ≠ .fret a) (hl : ∀ a, i ≠ .lfree a) :
    s.enqueue u i = { s with g := { s.g with viq := s.g.viq ++ [u], lfree := false } } := by
  unfold State.enqueue
  split
  · exact absurd rfl (hf _)
  · exact absurd rfl (hl _)
  · rfl

/-- An entry with no lookahead, before which none is in force, executes as it stands (07 R192). -/
theorem State.entry_plain (i : Instr) {s : State} (hv : s.vp = none) (hs : s.g.shades = []) (hl : laOf i = 0) (hd : s.u.dead = false) :
    State.entry exec i s = match exec i s with
      | .next t => .next { t with port := false }
      | o => o := by
  have hh : s.shadesHere = [] := by simp [State.shadesHere, hv, hs]
  unfold State.entry
  simp only [hl, hs, hd, if_true, decide_true, Bool.and_self, List.filter_nil, Bool.false_eq_true, if_false, State.looked_plain exec i hh]
  rfl

/-- The word at an aligned address in a block is the four bytes there (07 R186). -/
theorem blockWord_bytes (m : Memory) (va : Word) {pa : Nat} (h : pa % 32 = va.toNat % 32) (ha : va.toNat % 4 = 0) :
    blockWord (m.bytes (pa / 32 * 32) 32) va = BitVec.ofNat 32 (m.num pa 4) := by
  have hb : ((m.bytes (pa / 32 * 32) 32).drop (va.toNat % 32)).take 4 = m.bytes pa 4 := by
    apply List.ext_getElem
    · simp only [List.length_take, List.length_drop, Memory.bytes_length]
      omega
    · intro n h1 h2
      simp only [List.getElem_take, List.getElem_drop, Memory.bytes, List.getElem_map, List.getElem_range]
      congr 1
      omega
  rw [blockWord, hb, Memory.num]

/-- With no block in the fetch buffer a fetch reads the four bytes at the place of its address (04 R134). -/
theorem State.fetchWord_hbm {s q : State} {va : Word} {pa : Nat} (hb : s.g.fbuf = []) (hp : s.place s.agent .fetch va 4 4 = .ok (.hbm pa, q))
    (h : pa % 32 = va.toNat % 32) (ha : va.toNat % 4 = 0) :
    ∃ t, s.fetchWord va = .ok (BitVec.ofNat 32 (q.hbm.num pa 4), t) ∧ t.hbm = q.hbm := by
  unfold State.fetchWord State.readBlock
  rw [hb, List.find?_nil]
  dsimp only
  rw [hp]
  dsimp only
  rw [blockWord_bytes q.hbm va h ha]
  exact ⟨_, rfl, rfl⟩

/-- What a VP may execute means inside an AIB what it means outside (01 R29). -/
theorem aibExec_eq_exec (i : Instr) (s : State) (h : aibLegal i = true) : aibExec i s = exec i s := by
  cases i
  case fetch | fetchNz | stop | jenrol | jpark | jstrike | vsend | vrecv | vid => rfl
  case vadd | vsub | vmul | vmac | vmin | vmax | vabs | vneg | vand | vor | vxor | vnot | vsll | vsrl | vsra | vdiv => rfl
  case vcmpEq | vcmpNe | vcmpLt | vcmpLe | vcmpuLt | vcmpuLe | vabsent | vsel | vmov | vmovScalar | vbcast | vext => rfl
  case vsetabs | vfill | vfillScalar | vmsave | vmload | vomov | vcvt | vquant | vdequant => rfl
  case vexp2 | vlog2 | vrcp | vrsqrt | vsqrt | vsin | vcos | vtanh | vsigm | vexp | vgelu => rfl
  case vld | vlds | vst | vsts | vamoAdd | vamoAddf | vamoAddc | vamoMin | vamoMax | vamoMinf | vamoMaxf => rfl
  case vamoAnd | vamoOr | vamoXor | vamoSwap | vamoCas | pfxImm | pfxScope => rfl
  all_goals exact absurd h Bool.false_ne_true

end Sys2Proof.Machine

namespace Sys2Proof.Proofs
open Sys2Proof.Machine

/-- The step in which a control thread executes the unit at its program counter. -/
theorem step_control {s q f : State} {g : Nat} {w : Word32} {i : Instr} (hc : s.choice = (.control g, q)) (ht : Claim.takes (q.focus g) w i f)
    (hcls : clsOf i = .ctl ∨ clsOf i = .drain ∧ f.g.viq = []) :
    step s = Claim.after q (match exec i (f.taken w i) with
      | .next t => .next (Claim.waited (q.focus g) (if (q.focus g).backward t then t.reclaim else (f.taken w i).afterUnit t i))
      | o => o) := by
  have hi := issue_runs_of_takes ht hcls
  obtain ⟨hready, hturn, hrec, -⟩ := ht
  rw [step_of_choice hc, State.move, if_pos (by rw [State.controlTurn, hready, hturn]; rfl), State.controlMove_runs hrec hi]

/-- The step in which a unit of class V or M is enqueued in an empty VIQ and executes at once. -/
theorem step_unit {s q f e p : State} {g : Nat} {w : Word32} {i : Instr} (hc : s.choice = (.unit g, q)) (ht : Claim.takes (q.focus g) w i f)
    (hcls : clsOf i = .vec ∨ clsOf i = .mem) (hviq : (q.focus g).g.viq = []) (hfv : f.g.viq = []) (hvps : f.g.vps = [])
    (ha : opOf w = 0x21 → (f.capture w i).opA.toNat % 4 = 0)
    (he : (({ f with u := f.capture w i } : State).enqueue (f.capture w i) i).pastUnit f.g.pc (f.capture w i) = e)
    (hturn : e.turn e.g e.portOf = true)
    (hp : p = { e.served e.portOf with u := f.capture w i, port := true, vp := none, g := { e.g with pwait := none, viq := [] } }) :
    step s = Claim.after q (match State.entry exec i p with
      | .next t => .next (if t.g.id = e.g.id ∧ t.g.pwait.isSome = true then { t with turns := e.turns } else t)
      | o => o) := by
  have hi := issue_enqueues_of_takes ht hcls ha hfv
  obtain ⟨hready, hct, hrec, -, hlu, -, hloop, -, hd, hg, -⟩ := ht
  have heg : e.g.viq = [f.capture w i] ∧ e.g.vps = f.g.vps ∧ e.g.cwait = f.g.cwait ∧ e.g.lateUnits = f.g.lateUnits := by
    rw [← he]
    exact ⟨by show f.g.viq ++ _ = _; rw [hfv]; rfl, rfl, rfl, rfl⟩
  obtain ⟨hev, hevps, hecw, helu⟩ := heg
  have hen : (f.capture w i).enabled = true := by
    have hlp : (f.capture w i).lp = false := by show f.g.loop = false; rw [hg]; exact hloop
    rw [Unit.enabled, Unit.stageOk, hlp]
    rfl
  have hport : (q.focus g).portTurn = false := by
    rw [State.portTurn, Group.portReady, hviq]
    simp
  rw [he] at hi
  rw [step_of_choice hc, State.move, hport, if_neg Bool.false_ne_true, if_pos (by rw [State.controlTurn, hready, hct]; rfl),
    State.controlMove_enqueues hrec hi (by rw [hecw, hg]) hviq (by rw [hev]; exact List.cons_ne_nil _ _) hturn,
    State.portMove_entry hev (by rw [hevps, hvps]) (by rw [helu, hg]; exact hlu) rfl hen hd
      (by rcases hcls with h | h <;> rw [h] <;> decide) hp]

/-- Settles O56: the turn of a control thread executes or enqueues the unit, and the rest are equations of the fetch, of an entry and of
the events. -/
theorem stepRunsTheDecodedInstruction : Obligations.StepRunsTheDecodedInstruction := by
  unfold Obligations.StepRunsTheDecodedInstruction
  refine ⟨fun s q g w i f hc ht hcls => step_control hc ht hcls, ?_, fun s i hv hs hl hd => State.entry_plain i hv hs hl hd,
    fun s q va pa hb hp h ha => State.fetchWord_hbm hb hp h ha, ?_, fun i s h => aibExec_eq_exec i s h⟩
  · intro s q g w i f hc ht hcls hviq hfv hvps ha hfret hlfree e hturn
    exact step_unit hc ht hcls hviq hfv hvps ha (by rw [State.enqueue_eq _ _ hfret hlfree, hfv]; rfl) hturn rfl
  · intro s q i e hc he
    rw [step_of_choice hc, State.move, if_pos he]

end Sys2Proof.Proofs
end

section
/-! PROOFS. The steps of the vector port: an entry joins the VIQ, ready VPs issue, a finished `vf` leaves (01 R22, R25, R29 to R33, R38). -/

namespace Sys2Proof.Machine

/-- A meaning inside an AIB never stops the machine. -/
theorem aibExec_next (i : Instr) (s : State) : ∃ t, aibExec i s = .next t := by
  cases i
  case fetch | fetchNz | stop | jenrol | jpark | jstrike | vsend | vrecv | vid => exact State.finish_next s _
  case vadd | vsub | vmul | vmac | vmin | vmax | vabs | vneg | vand | vor | vxor | vnot => exact State.finish_next s _
  case vsll | vsrl | vsra | vdiv | vcmpEq | vcmpNe | vcmpLt | vcmpLe | vcmpuLt | vcmpuLe | vabsent => exact State.finish_next s _
  case vsel | vmov | vmovScalar | vbcast | vext | vsetabs | vfill | vfillScalar | vmsave | vmload => exact State.finish_next s _
  case vcvt | vquant | vdequant | vexp2 | vlog2 | vrcp | vrsqrt | vsqrt | vsin | vcos | vtanh | vsigm => exact State.finish_next s _
  case vexp | vgelu | vld | vlds | vst | vsts | vamoAdd | vamoAddf | vamoAddc | vamoMin | vamoMax => exact State.finish_next s _
  case vamoMinf | vamoMaxf | vamoAnd | vamoOr | vamoXor | vamoSwap | vamoCas | pfxImm | pfxScope => exact State.finish_next s _
  all_goals exact ⟨_, rfl⟩

theorem State.looked_next {run : Instr → State → Out} (hrun : ∀ i s, ∃ t, run i s = .next t) (ahead : List Shade) (i : Instr) (s : State) :
    ∃ t, State.looked run ahead i s = .next t := by
  unfold State.looked
  dsimp only
  split
  · exact hrun i s
  · split
    · split
      · exact ⟨_, rfl⟩
      · exact hrun i s
    · exact hrun i s

theorem State.takeVp_next {run : Instr → State → Out} (hrun : ∀ i s, ∃ t, run i s = .next t) (s : State) (e : Nat) :
    ∃ t, s.takeVp run e = .next t := by
  unfold State.takeVp
  extract_lets v head near u q
  split
  · exact State.finish_next _ _
  · split
    · exact State.finish_next _ _
    · extract_lets p
      split
      · exact State.finish_next _ _
      · next i _ =>
        generalize (if clsOf i = .pfx then none else badPrefix _ v.pfx) = bad
        split
        · exact State.finish_next _ _
        · generalize (!aibLegal i || _ || _) = c
          split
          · exact State.finish_next _ _
          · exact hrun _ _

theorem State.issueVp_next {run : Instr → State → Out} (hrun : ∀ i s, ∃ t, run i s = .next t) (s : State) (e : Nat) :
    ∃ t, s.issueVp run e = .next t := by
  refine State.takeVp_next (fun i q => ?_) s e
  dsimp only
  obtain ⟨t, ht⟩ := State.looked_next hrun (if laOf i = 0 then [] else State.aheadVp run q e q (3 * laOf i) (laOf i)) i
    (if decide (q.u.vp0.shades = []) && decide (laOf i = 0) then q else q.tracing)
  rw [ht]
  exact ⟨_, rfl⟩

/-- An issue completes, and leaves no VP current. -/
theorem State.issueVps_next {run : Instr → State → Out} (hrun : ∀ i s, ∃ t, run i s = .next t) (es : List Nat) (s : State) :
    ∃ t, s.issueVps run es = .next t ∧ t.vp = none ∧ t.port = false := by
  induction es generalizing s with
  | nil => exact ⟨_, rfl, rfl, rfl⟩
  | cons e es ih =>
    obtain ⟨q, hq⟩ := State.issueVp_next hrun s e
    rw [State.issueVps, hq]
    dsimp only
    split
    · exact ih q
    · exact ⟨_, rfl, rfl, rfl⟩

/-- The model issues for a list of VPs as the statement says. -/
theorem State.issueVps_of_issueAll {l : List Nat} {s t : State} (h : Claim.issueAll l s t) : s.issueVps aibExec l = .next t := by
  induction l generalizing s with
  | nil => rw [Claim.issueAll] at h; rw [h]; rfl
  | cons e l ih =>
    obtain ⟨u, hu, h⟩ := h
    rw [State.issueVps, hu]
    dsimp only
    split at h
    · next hr => rw [if_pos hr]; exact ih h
    · next hr => rw [if_neg hr, h]

theorem Group.mem_readyAt (g : Group) (pc : Word) (e : Nat) :
    e ∈ g.readyAt pc ↔ ∃ v, g.vps[e]? = some v ∧ v.st = .ready ∧ v.line = none ∧ v.pc = pc := by
  unfold Group.readyAt
  simp only [List.mem_filter, List.mem_range, Bool.and_eq_true, decide_eq_true_eq, Option.isNone_iff_eq_none, and_assoc]
  constructor
  · rintro ⟨hlt, h⟩
    rw [List.getD_eq_getElem _ _ hlt] at h
    exact ⟨_, List.getElem?_eq_getElem hlt, h⟩
  · rintro ⟨v, hv, h⟩
    obtain ⟨hlt, rfl⟩ := List.getElem?_eq_some_iff.mp hv
    rw [List.getD_eq_getElem _ _ hlt]
    exact ⟨hlt, h⟩

theorem Group.readyAt_pairwise (g : Group) (pc : Word) : (g.readyAt pc).Pairwise (fun a b => a < b) :=
  List.Pairwise.filter _ List.pairwise_lt_range

/-- The ready VPs at a program counter are the one rising list of them. -/
theorem Group.eq_readyAt {g : Group} {pc : Word} {l : List Nat} (hs : l.Pairwise (fun a b => a < b))
    (hm : ∀ e, e ∈ l ↔ ∃ v, g.vps[e]? = some v ∧ v.st = .ready ∧ v.line = none ∧ v.pc = pc) : l = g.readyAt pc := by
  have hm' : ∀ e, e ∈ l ↔ e ∈ g.readyAt pc := fun e => (hm e).trans (g.mem_readyAt pc e).symm
  have hperm : l.Perm (g.readyAt pc) :=
    (List.perm_ext_iff_of_nodup (hs.imp Nat.ne_of_lt) ((g.readyAt_pairwise pc).imp Nat.ne_of_lt)).mpr hm'
  exact hperm.eq_of_pairwise (fun a b _ _ h k => absurd (Nat.lt_trans h k) (Nat.lt_irrefl a)) hs (g.readyAt_pairwise pc)

theorem execVpIssue_eq {s : State} (hp : (s.focus s.ev.g).g.portReady = true) (hv : (s.focus s.ev.g).g.vps ≠ []) :
    execVpIssue s = (s.focus s.ev.g).issueVps aibExec ((s.focus s.ev.g).g.readyAt s.ev.pc) := by
  unfold execVpIssue Group.vfRuns
  dsimp only
  rw [if_pos (by rw [hp, Bool.true_and, decide_eq_true_eq]; exact hv)]

/-- A VP takes, with no `pfx` word before it, a word that it may execute (01 R29, R30). -/
theorem State.takeVp_runs (run : Instr → State → Out) {s f : State} {e : Nat} {v : Vp} {w : Word32} {i : Instr}
    (hv : s.g.vps[e]? = some v) (hp : v.pfx = []) (hc : v.cnt < 32) (hf : (Claim.atVp s e v).fetchWord v.pc = .ok (w, f))
    (hd : decodeWord w = .ok i) (hl : aibLegal i = true) (hb : f.budgetOk i = true) (ha : capA i = none) (hi : clsOf i ≠ .pfx) :
    s.takeVp run e = run i { f with
      u := { (Claim.atVp s e v).u with word := w }
      g := { f.g with vps := f.g.vps.set e { v with pc := v.pc + 4, cnt := v.cnt + 1 } } } := by
  have hg : s.g.vps.getD e {} = v := by rw [List.getD_eq_getElem?_getD, hv]; rfl
  unfold Claim.atVp at hf
  dsimp only at hf
  unfold State.takeVp
  simp only [hg, hp, List.reverse_nil, prefixWord, List.find?_nil]
  rw [if_neg (by simpa using hc), hf]
  simp only [hd, hi, if_false, badPrefix, List.find?_nil, Option.map_none, hl, ha, Bool.not_true, Bool.false_or, Bool.or_false]
  exact if_neg (show ¬ (!f.budgetOk i) = true by rw [hb]; decide)

/-- A `stop` stops the VP that executes it, and changes beside that VP the masks and the VPs that they release alone (01 R32, R35). -/
theorem execStop_spec {s : State} {e : Nat} {v : Vp} (hvp : s.vp = some e) (hv : s.g.vps[e]? = some v) :
    ∃ t, execStop s = .next t ∧ t = { s with g := { s.g with j := t.g.j, vps := t.g.vps } } ∧
      t.g.vps[e]? = some { v with st := .stopped } := by
  have hlt : e < s.g.vps.length := (List.getElem?_eq_some_iff.mp hv).1
  unfold execStop
  rw [State.inAib_some s _ hvp, State.finish_ok, State.updVp_eq s _ hv]
  refine ⟨_, rfl, State.releases_stopped (List.range 8) rfl ?_ rfl⟩
  show (s.g.vps.set e _)[e]? = _
  rw [List.getElem?_set_self hlt]

/-- A VP's unit without a lookahead counts in its stream, where nothing it overwrites is still to be read (07 R192). -/
theorem State.countVp_plain {x r : State} {e : Nat} {y : Vp} (hv : r.g.vps[e]? = some y) (hc : y.cnt = x.u.vp0.cnt + 1) (hp : y.pfx = [])
    (hs : y.shades = []) :
    x.countVp r e 0 = { r with g := { r.g with vps := r.g.vps.set e { y with seq := x.u.seq + 1 } } } := by
  have hg : r.g.vps.getD e {} = y := by rw [List.getD_eq_getElem?_getD, hv]; rfl
  have hne : r.g.vps ≠ [] := by rintro h; rw [h] at hv; cases hv
  have hsh : x.shadesAfter r x.u.seq 0 y.shades = [] := by rw [hs]; rfl
  unfold State.countVp
  simp only [hg, hne, hc, hp, hsh]
  rw [if_neg (by simp)]
  simp [hs]

/-- The only VP that stands ready at a `stop` stops past it, and the group keeps its registers and its VIQ (01 R32). -/
theorem State.issueVp_stop {s f : State} {e : Nat} {v : Vp} {w : Word32} (hv : s.g.vps[e]? = some v) (hp : v.pfx = [])
    (hsh : v.shades = []) (hc : v.cnt < 32) (hf : (Claim.atVp s e v).fetchWord v.pc = .ok (w, f)) (hd : decodeWord w = .ok .stop) :
    ∃ t, s.issueVp aibExec e = .next t ∧ t.g.v = s.g.v ∧ t.g.viq = s.g.viq ∧
      t.g.vps[e]? = some { v with st := .stopped, pc := v.pc + 4, cnt := v.cnt + 1, seq := v.seq + 1 } := by
  have hfe := State.fetchWord_eq hf
  have hfg : f.g.vps = s.g.vps ∧ f.g.v = s.g.v ∧ f.g.viq = s.g.viq ∧ f.vp = some e := by
    rw [hfe]
    exact ⟨rfl, rfl, rfl, rfl⟩
  obtain ⟨hvps, hvr, hviq, hvp⟩ := hfg
  have hlt : e < s.g.vps.length := (List.getElem?_eq_some_iff.mp hv).1
  unfold State.issueVp
  rw [State.takeVp_runs _ hv hp hc hf hd rfl rfl rfl (by decide)]
  generalize hx : ({ f with
      u := { (Claim.atVp s e v).u with word := w }
      g := { f.g with vps := f.g.vps.set e { v with pc := v.pc + 4, cnt := v.cnt + 1 } } } : State) = x
  have hxf : x.vp = some e ∧ x.u.vp0 = v ∧ x.u.seq = v.seq ∧ x.g.v = s.g.v ∧ x.g.viq = s.g.viq ∧
      x.g.vps[e]? = some { v with pc := v.pc + 4, cnt := v.cnt + 1 } := by
    rw [← hx]
    exact ⟨hvp, rfl, rfl, hvr, hviq, by show (f.g.vps.set e _)[e]? = _; rw [hvps, List.getElem?_set_self hlt]⟩
  obtain ⟨hxvp, hx0, hxseq, hxv, hxviq, hxe⟩ := hxf
  obtain ⟨r, hr, hrf, hre⟩ := execStop_spec hxvp hxe
  have hl : State.looked aibExec [] .stop x = .next r :=
    (State.looked_plain aibExec .stop (by simp [State.shadesHere, hxvp, hx0, hsh])).trans hr
  have hplain : (decide (x.u.vp0.shades = []) && decide (laOf .stop = 0)) = true := by rw [hx0, hsh]; rfl
  have hcount := State.countVp_plain (x := x) hre (by rw [hx0]) hp hsh
  dsimp only
  rw [if_pos hplain, if_pos (show laOf .stop = 0 from rfl), hl]
  refine ⟨_, rfl, ?_⟩
  rw [show laOf .stop = 0 from rfl, hcount]
  have hrlt : e < r.g.vps.length := (List.getElem?_eq_some_iff.mp hre).1
  refine ⟨?_, ?_, ?_⟩
  · show r.g.v = _
    rw [hrf, ← hxv]
  · show r.g.viq = _
    rw [hrf, ← hxviq]
  · show (r.g.vps.set e _)[e]? = _
    rw [List.getElem?_set_self hrlt, hxseq]

theorem execViqEnqueue_eq {s t : State} (hr : (s.focus s.ev.g).g.controlReady = true) (hi : (s.focus s.ev.g).controlIssue = .enqueued t) :
    execViqEnqueue s = .next t := by
  unfold execViqEnqueue
  dsimp only
  rw [if_pos hr, hi]

/-- A `vf` of which every VP has stopped or takes no part leaves the VIQ (01 R33, R38). -/
theorem execVfComplete_eq {s : State} (hv : (s.focus s.ev.g).g.vps ≠ []) (hd : ∀ v ∈ (s.focus s.ev.g).g.vps, v.st = .out ∨ v.st = .stopped) :
    execVfComplete s = .next { s.focus s.ev.g with
      g := { (s.focus s.ev.g).g with viq := (s.focus s.ev.g).g.viq.tail, vps := [], links := [] } } := by
  have hdone : (s.focus s.ev.g).g.vfDone = true := by
    simp only [Group.vfDone, List.all_eq_true, Bool.or_eq_true, decide_eq_true_eq]
    exact hd
  unfold execVfComplete Group.vfRuns
  dsimp only
  rw [hdone, if_pos (by simpa using hv)]

end Sys2Proof.Machine

namespace Sys2Proof.Proofs
open Sys2Proof.Machine

/-- The issue of the only VP that stands at a `stop` (01 R31, R32). -/
theorem vpIssue_stop {q f : State} {e : Nat} {pc : Word} {v : Vp} {w : Word32} (hv : q.g.vps[e]? = some v) (hst : v.st = .ready) (hpc : v.pc = pc)
    (hline : v.line = none) (hp : v.pfx = []) (hsh : v.shades = []) (hc : v.cnt < 32)
    (hother : ∀ e' v', e' ≠ e → q.g.vps[e']? = some v' → v'.pc ≠ pc)
    (hf : (Claim.atVp q e v).fetchWord v.pc = .ok (w, f)) (hd : decodeWord w = .ok .stop) :
    ∃ t, q.issueVps aibExec (q.g.readyAt pc) = .next t ∧ t.vp = none ∧ t.port = false ∧ t.g.v = q.g.v ∧ t.g.viq = q.g.viq ∧
      t.g.vps[e]? = some { v with st := .stopped, pc := v.pc + 4, cnt := v.cnt + 1, seq := v.seq + 1 } := by
  have hl : [e] = q.g.readyAt pc := by
    refine Group.eq_readyAt (List.pairwise_singleton _ e) fun e' => ?_
    rw [List.mem_singleton]
    constructor
    · rintro rfl
      exact ⟨v, hv, hst, hline, hpc⟩
    · rintro ⟨v', hv', -, -, hpc'⟩
      by_contra hne
      exact hother e' v' hne hv' hpc'
  obtain ⟨t, ht, hv', hviq, hvps⟩ := State.issueVp_stop hv hp hsh hc hf hd
  refine ⟨{ t with vp := none, port := false }, ?_, rfl, rfl, hv', hviq, hvps⟩
  rw [← hl, State.issueVps, ht]
  dsimp only
  split <;> rfl

/-- Settles O16: each of the three steps is its lemma about the focused state. -/
theorem vectorPortSteps : Obligations.VectorPortSteps := by
  unfold Obligations.VectorPortSteps
  intro s
  refine ⟨?_, fun t hr hi => execViqEnqueue_eq hr hi, fun hv hd => execVfComplete_eq hv hd, fun hp hv => ?_⟩
  · intro w i f p u hr hf hd hc hill hpriv haw ha hl
    have hpfx : clsOf i ≠ .pfx := by rcases hc with h | h <;> rw [h] <;> decide
    exact ⟨_, execViqEnqueue_eq hr (State.controlIssue_enqueues hf hd hill hpriv hpfx haw hc ha hl), rfl, rfl, rfl, rfl, rfl, rfl, rfl, rfl, rfl⟩
  · have hissue : exec .vpIssue s = (s.focus s.ev.g).issueVps aibExec ((s.focus s.ev.g).g.readyAt s.ev.pc) := execVpIssue_eq hp hv
    rw [hissue]
    refine ⟨State.issueVps_next aibExec_next _ _, fun hnone => ?_, ?_, ?_⟩
    · have hnil : [] = (s.focus s.ev.g).g.readyAt s.ev.pc := by
        refine Group.eq_readyAt List.Pairwise.nil fun e => ⟨fun h => absurd h List.not_mem_nil, ?_⟩
        rintro ⟨v, hv, hst, -, hpc⟩
        exact absurd ⟨hst, hpc⟩ (hnone v (List.mem_of_getElem? hv))
      rw [← hnil]
      rfl
    · intro e v w f hv hst hpc hline hp hsh hc hother hf hd
      exact vpIssue_stop hv hst hpc hline hp hsh hc hother hf hd
    · intro l t hs hm ht
      rw [← Group.eq_readyAt hs hm]
      exact State.issueVps_of_issueAll ht

end Sys2Proof.Proofs
end

section
/-! PROOFS. A pre-emption does not keep the entries that have taken their effect before an older one that waits (15 R367, R377; 01 R27). -/

namespace Sys2Proof.Machine

/-- A group of which REQ asks that it gives way: the head of its VIQ waits for rows of the accumulator, and an entry behind it has
taken its effect already (01 R27). -/
def overtakenViq : State :=
  { State.reset with
    g := {
      id := 1
      team := 1
      req := true
      pwait := some .accRows
      viq := [{ word := encode (.mrdRaw 1 2 0) }, { word := encode (.vadd 3 4 (.v 5) .i32 false), seq := 1, done := true }] }
    t := { id := 1, gids := [1] }
    ev := { g := 1 } }

/-- How many entries the VIQ of the current group holds after a meaning. -/
def viqLengthAfter (o : Out) : Nat :=
  match o with
  | .next t => t.g.viq.length
  | _ => 0

theorem viqLength_preEmption_overtakenViq : viqLengthAfter (exec .preEmption overtakenViq) = 1 := by decide +kernel

end Sys2Proof.Machine

namespace Sys2Proof.Proofs
open Sys2Proof.Machine

/-- Refutes O45, in the clause that a pre-emption leaves the VIQ as it was: in `overtakenViq` two entries wait, and `saveGroup` drops the
one that has taken its effect before the older one, for it must not execute again. -/
theorem not_groupsEndAndReturn : ¬ Obligations.GroupsEndAndReturn := by
  unfold Obligations.GroupsEndAndReturn
  intro h
  obtain ⟨-, -, hpre, -⟩ := h
  obtain ⟨t, ht, -, -, -, hviq, -⟩ := (hpre overtakenViq).1 (by decide +kernel)
  have hone := viqLength_preEmption_overtakenViq
  rw [ht, viqLengthAfter, hviq] at hone
  exact absurd hone (by decide +kernel)

end Sys2Proof.Proofs
end

section
/-! PROOFS. Control registers (02 R61, R62, 08 R227), the status register `vcs` (02 R65), and the privileged registers of a
selected context (15 R360, R361). -/

namespace Sys2Proof.Machine

/-- A write of a `c` register is the one change that the statements call by that name. -/
theorem State.setC_wroteC (s : State) (d : CReg) (x : Word) : Claim.wroteC s (s.setC d x) d x := by
  refine ⟨fun r => s.c_setC d r x, ?_⟩
  have hf : (fun l : Late => decide (d = 0) || decide (l.d ≠ d)) = if d = 0 then fun _ => true else fun l => decide (l.d ≠ d) := by
    by_cases hd : d = 0 <;> simp only [hd, decide_true, decide_false, Bool.true_or, Bool.false_or, if_true, if_false]
  rw [hf]
  unfold State.setC
  by_cases hd : d = 0
  · simp only [if_pos hd, List.filter_true]
  · simp only [if_neg hd]

/-! What `crd` does with the answer of a register whose number has no rule of its own there. -/

theorem execCrd_of_read {s : State} {n : BitVec 12} {x : Word} (d : CReg) (h4 : n.toNat ≠ 4)
    (hv : n.toNat = 0 → s.vlPending = false) (h : s.readCr n.toNat = .ok x) : execCrd d n s = .next (s.setC d x) := by
  have h0 : ¬ (n.toNat = 0 ∧ s.vlPending = true) := fun hc => Bool.noConfusion ((hv hc.1).symm.trans hc.2)
  rw [execCrd, if_neg h4, if_neg h0, h]
  rfl

theorem execCrd_of_trap {s : State} {n : BitVec 12} {t : Trap} (d : CReg) (h4 : n.toNat ≠ 4) (h0 : n.toNat ≠ 0)
    (h : s.readCr n.toNat = .error (.trap t)) : execCrd d n s = .next (s.raiseTrap t) := by
  rw [execCrd, if_neg h4, if_neg fun hc => h0 hc.1, h]
  rfl

/-- The values of the registers that any group may read (02 R61, R62). -/
theorem State.readCr_userReads (s : State) : ∀ x ∈ Claim.userReads, s.readCr x.1.toNat = .ok (x.2 s) := by
  have hvcp : (match s.g.viq with | e :: _ => e.addr | [] => s.u.addr) = ((s.g.viq.map Unit.addr).head?).getD s.u.addr := by
    cases s.g.viq <;> rfl
  have hmigr : s.g.migr = BitVec.ofNat 64 ((if s.g.lfree then 2 else 0) + if s.g.req then 1 else 0) := by
    unfold Group.migr b2n
    cases s.g.lfree <;> rfl
  have hwsref : wsref (s.dieAt s.t.die) = (let p := (s.dieAt s.t.die).phase.toNat
      BitVec.ofNat 64 (p + p / 1024 * 2 ^ 16 + if p % 1024 < 256 then 2 ^ 22 else 0)) := by
    by_cases h : (s.dieAt s.t.die).phase.toNat % 1024 < 256 <;> simp [wsref, w64, b2n, h]
  simp only [Claim.userReads, List.forall_mem_cons, List.not_mem_nil, false_imp_iff, implies_true, and_true, ← hvcp, ← hmigr, ← hwsref,
    ← BitVec.ofNat_toNat]
  and_intros <;> rfl

/-- `chdonek` is there for each channel that the team has (02 R62). -/
theorem State.readCr_chdone (s : State) {k : Nat} (hk : k < 8) :
    s.readCr (0x20 + k) = if k < s.t.nchan then .ok (BitVec.ofNat 64 (Bank.get {} s.t.chans k).done.toNat) else ill := by
  interval_cases k <;> rfl

/-- What the writes of the registers that any group may write leave (02 R61, R62). -/
theorem State.writeCr_userWrites (s : State) (a : CReg) : ∀ x ∈ Claim.userWrites, s.writeCr x.1.toNat a = .ok (x.2 s (s.c a)) := by
  simp only [Claim.userWrites, List.forall_mem_cons, List.not_mem_nil, false_imp_iff, implies_true, and_true]
  and_intros <;> rfl

/-- The registers that are read only take no write (02 R61). -/
theorem State.writeCr_readOnly (s : State) (a : CReg) :
    ∀ n ∈ [0x001#12, 0x005#12, 0x007#12, 0x008#12, 0x011#12, 0x012#12, 0x018#12, 0x019#12, 0x01A#12, 0x01B#12],
      s.writeCr n.toNat a = ill := by
  simp only [List.forall_mem_cons, List.not_mem_nil, false_imp_iff, implies_true, and_true]
  and_intros <;> rfl

/-- At user level no register numbered 0x400 or above is read or written (15 R359). -/
theorem State.priv_cr {s : State} {n : Nat} (hp : s.t.priv = false) (hn : 0x400 ≤ n) (a : CReg) :
    s.readCr n = trapM causePriv ∧ s.writeCr n a = trapM causePriv := by
  have h : 0x400 ≤ n ∧ (!s.isSup) = true := ⟨hn, by rw [State.isSup, hp]; rfl⟩
  exact ⟨if_pos h, if_pos h⟩

/-! The status register (02 R62, R65). -/

theorem b2n_le_one (b : Bool) : b2n b ≤ 1 := by cases b <;> decide

theorem decide_b2n_eq_one (b : Bool) : decide (b2n b = 1) = b := by cases b <;> rfl

theorem b2n_decide_field (x k : Nat) : b2n (decide (field x k 1 = 1)) = x / 2 ^ k % 2 := by
  unfold field
  rcases Nat.mod_two_eq_zero_or_one (x / 2 ^ k) with h | h <;> simp [h, b2n]

theorem Sticky.flags_le_one (f : Sticky) :
    b2n f.nx ≤ 1 ∧ b2n f.uf ≤ 1 ∧ b2n f.of ≤ 1 ∧ b2n f.dz ≤ 1 ∧ b2n f.nv ≤ 1 ∧ b2n f.abs ≤ 1 ∧ b2n f.csat ≤ 1 := by
  and_intros <;> exact b2n_le_one _

/-- `vcs` as a number: RM, the seven sticky bits and VONZ, each in its place, and nothing above. -/
theorem Group.vcs_toNat (g : Group) :
    g.vcs.toNat = g.rm.toNat + g.sticky.bits + b2n (g.vo ≠ 0) * 512 ∧ g.rm.toNat < 4 ∧ g.sticky.bits ≤ 508 ∧ g.sticky.bits % 4 = 0 := by
  have hrm := g.rm.isLt
  have hvo := b2n_le_one (g.vo ≠ 0)
  have hst : g.sticky.bits ≤ 508 ∧ g.sticky.bits % 4 = 0 := by
    have hflags := g.sticky.flags_le_one
    unfold Sticky.bits
    omega
  refine ⟨?_, hrm, hst⟩
  rw [Group.vcs, w64, BitVec.toNat_ofNat, Nat.mod_eq_of_lt]
  omega

/-- Bit `k` of `vcs` is the flag that the number has there. -/
theorem Group.vcs_getLsbD (g : Group) {k : Nat} {b : Bool} (h : g.vcs.toNat / 2 ^ k % 2 = b2n b) : g.vcs.getLsbD k = b := by
  rw [BitVec.getLsbD, Nat.testBit_eq_decide_div_mod_eq, h, decide_b2n_eq_one]

/-- How `vcs` reads (02 R62). -/
theorem Group.vcs_reads (g : Group) :
    g.vcs.getLsbD 9 = decide (g.vo ≠ 0) ∧ g.vcs.extractLsb' 10 54 = 0 ∧ g.vcs.extractLsb' 0 2 = g.rm ∧
    g.vcs.getLsbD 2 = g.sticky.nx ∧ g.vcs.getLsbD 6 = g.sticky.nv ∧ g.vcs.getLsbD 8 = g.sticky.csat := by
  obtain ⟨hn, hrm, hst, h4⟩ := g.vcs_toNat
  have hvo := b2n_le_one (g.vo ≠ 0)
  have hflags := g.sticky.flags_le_one
  refine ⟨g.vcs_getLsbD ?_, ?_, ?_, g.vcs_getLsbD ?_, g.vcs_getLsbD ?_, g.vcs_getLsbD ?_⟩
  · rw [hn]
    omega
  · apply BitVec.eq_of_toNat_eq
    rw [BitVec.extractLsb'_toNat, Nat.shiftRight_eq_div_pow, hn]
    show _ = 0
    omega
  · apply BitVec.eq_of_toNat_eq
    rw [BitVec.extractLsb'_toNat, Nat.shiftRight_eq_div_pow, hn]
    omega
  all_goals
    rw [hn, Sticky.bits]
    omega

/-- The sticky bits that a write of `x` leaves are the bits 2 to 8 of `x` (08 R227). -/
theorem Sticky.bits_ofBits (x : Nat) : (Sticky.ofBits x).bits = x % 512 - x % 4 := by
  simp only [Sticky.bits, Sticky.ofBits, b2n_decide_field]
  omega

/-- What a write of `x` to `vcs` leaves (08 R227). -/
def State.vcsWritten (s : State) (x : Word) : State :=
  { s with g := { s.g with rm := BitVec.ofNat 2 x.toNat, sticky := .ofBits x.toNat } }

theorem State.vcsWritten_reads (s : State) (x : Word) : (s.vcsWritten x).g.vcs.extractLsb' 0 9 = x.extractLsb' 0 9 := by
  obtain ⟨hn, -⟩ := (s.vcsWritten x).g.vcs_toNat
  have hrm : (s.vcsWritten x).g.rm.toNat = x.toNat % 4 := BitVec.toNat_ofNat ..
  have hst : (s.vcsWritten x).g.sticky.bits = x.toNat % 512 - x.toNat % 4 := Sticky.bits_ofBits _
  apply BitVec.eq_of_toNat_eq
  rw [BitVec.extractLsb'_toNat, BitVec.extractLsb'_toNat, Nat.shiftRight_zero, Nat.shiftRight_zero, hn, hrm, hst]
  omega

theorem State.cwrVcs_empty {s : State} (a : CReg) (h : s.g.viq = []) : s.cwrVcs a = .ok (s.vcsWritten (s.c a)) :=
  if_neg (not_not.mpr h)

theorem State.crdVcs_empty {s : State} (d : CReg) (h : s.g.viq = []) : s.crdVcs d = .ok (s.setC d s.g.vcs) :=
  if_neg (not_not.mpr h)

theorem State.vcs_waits {s : State} (r : CReg) (h : s.g.viq ≠ []) : s.cwrVcs r = holdM .viq ∧ s.crdVcs r = holdM .viq :=
  ⟨if_pos h, if_pos h⟩

/-! The privileged registers of the selected context (15 R360, R361). -/

section
variable {s : State} (a : CReg) {c : Context}

/-- A privileged register is written under its own rule by a supervisor group. -/
theorem State.writeCr_sctx (hp : s.t.priv = true) :
    s.writeCr 0x401 a = .ok { s with g := { s.g with sctx := (s.c a).setWidth 12 } } := by
  rw [State.writeCr, if_neg (by simp [State.isSup, hp])]
  rfl

theorem State.writeCr_stask (hp : s.t.priv = true) (hc : s.selCtx = some c) :
    s.writeCr 0x420 a = .ok (s.setCtx s.g.sctx.toNat { c with stask := s.c a }) := by
  rw [State.writeCr, if_neg (by simp [State.isSup, hp]), hc]

theorem State.writeCr_pool (hp : s.t.priv = true) {n : Nat} (hn : n = 0x412 ∨ n = 0x413 ∨ n = 0x414 ∨ n = 0x415) :
    s.writeCr n a = s.cwrPool a n := by
  rcases hn with rfl | rfl | rfl | rfl <;> exact if_neg (by simp [State.isSup, hp])

/-- The alignment that the base in pool register `n` has (15 R361). -/
def poolAlign (n : Nat) : Nat := if n = 0x412 then 65536 else if n = 0x414 then 64 else 1

/-- A context whose pool register `n` holds `x` (15 R361). -/
def Context.withPool (c : Context) (n : Nat) (x : Word) : Context :=
  match n with
  | 0x412 => { c with spool := x }
  | 0x413 => { c with spooln := x.toNat % 2 ^ 16 }
  | 0x414 => { c with srefp := x }
  | _ => { c with srefn := x.toNat % 2 ^ 24 }

theorem State.cwrPool_free {n : Nat} (hf : Claim.poolFree s c) (ha : (s.c a).toNat % poolAlign n = 0) :
    s.cwrPool a n = .ok (s.setCtx s.g.sctx.toNat (c.withPool n (s.c a))) := by
  obtain ⟨hc, hb, hn⟩ := hf
  have hn' : ¬ (c.priv = true ∧ (n = 0x412 ∨ n = 0x413) ∧ s.areas.any (fun q => q.poolCtx = s.g.sctx.toNat) = true) :=
    fun h => hn ⟨h.1, h.2.2⟩
  unfold poolAlign at ha
  rw [State.cwrPool, need_true _ _ _ ha]
  dsimp only [bind, Except.bind]
  rw [hc]
  dsimp only
  rw [need_true _ _ _ hb, need_true _ _ _ hn']
  rfl

theorem State.cwrPool_misaligned {n : Nat} (ha : (s.c a).toNat % poolAlign n ≠ 0) : s.cwrPool a n = ill := by
  unfold poolAlign at ha
  rw [State.cwrPool, need_false _ _ _ ha]
  rfl

end

end Sys2Proof.Machine

namespace Sys2Proof.Proofs
open Sys2Proof.Machine

/-- The registers that a rule of `crd` or `cwr` does not single out: their reads and their writes. -/
theorem userRegisters (s : State) (r : CReg) :
    (∀ x ∈ Claim.userReads, ∃ t, exec (.crd r x.1) s = .next t ∧ Claim.wroteC s t r (x.2 s)) ∧
    (∀ x ∈ Claim.userWrites, exec (.cwr r x.1) s = .next (x.2 s (s.c r))) := by
  constructor
  · intro x hx
    have hn : x.1.toNat ≠ 4 ∧ x.1.toNat ≠ 0 := by
      revert x
      decide
    exact ⟨_, execCrd_of_read r hn.1 (fun h => absurd h hn.2) (s.readCr_userReads x hx), s.setC_wroteC r _⟩
  · intro x hx
    exact congrArg s.finish (s.writeCr_userWrites r x hx)

/-- `crd` of `vl` and of `chdonek` (01 R24, 02 R62). -/
theorem vl_and_chdone_reads (s : State) (d : CReg) :
    (s.vlPending = false → ∃ t, exec (.crd d 0) s = .next t ∧ Claim.wroteC s t d (BitVec.ofNat 64 s.g.vl.toNat)) ∧
    (s.vlPending = true → exec (.crd d 0) s = .next (s.holdUnit .vl)) ∧
    ∀ k < 8,
      (k < s.t.nchan → ∃ t, exec (.crd d (BitVec.ofNat 12 (0x20 + k))) s = .next t ∧
        Claim.wroteC s t d (BitVec.ofNat 64 (Bank.get {} s.t.chans k).done.toNat)) ∧
      (s.t.nchan ≤ k → exec (.crd d (BitVec.ofNat 12 (0x20 + k))) s = .next (s.raiseTrap { cause := 0x01 })) := by
  refine ⟨fun hv => ⟨_, execCrd_of_read d (by decide) (fun _ => hv) rfl, s.setC_wroteC d _⟩, fun hv => ?_, fun k hk => ?_⟩
  · have h0 : (0 : BitVec 12).toNat = 0 ∧ s.vlPending = true := ⟨rfl, hv⟩
    show execCrd d 0 s = _
    rw [execCrd, if_neg (by decide), if_pos h0]
    rfl
  · have hn : (BitVec.ofNat 12 (0x20 + k)).toNat = 0x20 + k := by
      rw [BitVec.toNat_ofNat, Nat.mod_eq_of_lt (by omega)]
    have h4 : (BitVec.ofNat 12 (0x20 + k)).toNat ≠ 4 ∧ (BitVec.ofNat 12 (0x20 + k)).toNat ≠ 0 := by omega
    have hr := s.readCr_chdone hk
    rw [← hn] at hr
    constructor
    · intro hc
      rw [if_pos hc] at hr
      exact ⟨_, execCrd_of_read d h4.1 (fun h => absurd h h4.2) hr, s.setC_wroteC d _⟩
    · intro hc
      rw [if_neg (Nat.not_lt.mpr hc)] at hr
      exact execCrd_of_trap d h4.1 h4.2 hr

/-- The status register is written and read once the VIQ is empty (02 R65, 08 R227). -/
theorem statusRegister (s : State) (r : CReg) (hq : s.g.viq = []) :
    (∃ t, exec (.cwr r 4) s = .next t ∧ t = { s with g := { s.g with rm := t.g.rm, sticky := t.g.sticky } } ∧
      (t.g.vcs.extractLsb' 0 9 = (s.c r).extractLsb' 0 9) ∧ (s.ev.reg = r → exec .cwrVcs s = .next t)) ∧
    (∃ t, exec (.crd r 4) s = .next t ∧ Claim.wroteC s t r s.g.vcs ∧ (s.ev.reg = r → exec .crdVcs s = .next t)) := by
  have hw := congrArg s.finish (s.cwrVcs_empty r hq)
  have hr := congrArg s.finish (s.crdVcs_empty r hq)
  refine ⟨⟨_, hw, rfl, s.vcsWritten_reads _, ?_⟩, _, hr, s.setC_wroteC r _, ?_⟩
  · rintro rfl
    exact hw
  · rintro rfl
    exact hr

/-- With an entry in the VIQ a read and a write of the status register wait (01 R23). -/
theorem statusRegister_waits (s : State) (r : CReg) (hq : s.g.viq ≠ []) :
    exec (.cwr r 4) s = .next (s.holdUnit .viq) ∧ exec (.crd r 4) s = .next (s.holdUnit .viq) :=
  ⟨congrArg s.finish (s.vcs_waits r hq).1, congrArg s.finish (s.vcs_waits r hq).2⟩

section
variable {s : State} {a : CReg} (hp : s.t.priv = true)
include hp

/-- A pool register of a context that is open to it is written by `cwr` and by the step within it (15 R361). -/
theorem poolRegister_written {c : Context} (hf : Claim.poolFree s c) {n : BitVec 12}
    (hn : n.toNat = 0x412 ∨ n.toNat = 0x413 ∨ n.toNat = 0x414 ∨ n.toNat = 0x415) (ha : (s.c a).toNat % poolAlign n.toNat = 0) :
    exec (.cwr a n) s = .next (s.setCtx s.g.sctx.toNat (c.withPool n.toNat (s.c a))) ∧
    (s.ev.reg = a → s.ev.n = n.toNat → exec .cwrSavePool s = .next (s.setCtx s.g.sctx.toNat (c.withPool n.toNat (s.c a)))) := by
  have h := State.cwrPool_free a hf ha
  refine ⟨congrArg s.finish ((State.writeCr_pool a hp hn).trans h), ?_⟩
  rintro rfl he
  have hs : ¬ (!s.isSup) = true := by rw [State.isSup, hp]; decide
  show execCwrSavePool s = _
  rw [execCwrSavePool, if_neg hs, he, h]
  rfl

/-- A base that is not aligned is illegal (15 R361). -/
theorem poolRegister_misaligned {n : BitVec 12}
    (hn : n.toNat = 0x412 ∨ n.toNat = 0x413 ∨ n.toNat = 0x414 ∨ n.toNat = 0x415) (ha : (s.c a).toNat % poolAlign n.toNat ≠ 0) :
    exec (.cwr a n) s = .next (s.raiseTrap { cause := 0x01 }) :=
  congrArg s.finish ((State.writeCr_pool a hp hn).trans (State.cwrPool_misaligned a ha))

end

/-- Settles O8: each clause is one rule of `State.readCr`, `State.writeCr` or the reads of `vcs`. -/
theorem specialRegisters : Obligations.SpecialRegisters := by
  unfold Obligations.SpecialRegisters
  refine ⟨⟨fun x hx s d => (userRegisters s d).1 x hx, fun x hx s a => (userRegisters s a).2 x hx, vl_and_chdone_reads,
    fun s => rfl, fun n hn s a => congrArg s.finish (s.writeCr_readOnly a n hn), fun s r n hp hn => ?_⟩, fun s r hq => ?_,
    fun s a hp => ⟨?_, fun c hc => ?_, fun c hf => ?_, ?_, ?_⟩⟩
  · obtain ⟨hread, hwrite⟩ := State.priv_cr hp hn r
    exact ⟨execCrd_of_trap r (by omega) (by omega) hread, congrArg s.finish hwrite⟩
  · obtain ⟨hw, hr⟩ := statusRegister s r hq
    obtain ⟨hvonz, hzero, hrm, hnx, hnv, hcsat⟩ := s.g.vcs_reads
    exact ⟨hw, hr, hvonz, hzero, hrm, hnx, hnv, hcsat, fun q => statusRegister_waits q r⟩
  · exact congrArg s.finish (State.writeCr_sctx a hp)
  · exact congrArg s.finish (State.writeCr_stask a hp hc)
  · have spool := poolRegister_written (a := a) hp hf (n := 0x412) (by decide)
    have spooln := poolRegister_written (a := a) hp hf (n := 0x413) (by decide) (Nat.mod_one _)
    have srefp := poolRegister_written (a := a) hp hf (n := 0x414) (by decide)
    have srefn := poolRegister_written (a := a) hp hf (n := 0x415) (by decide) (Nat.mod_one _)
    exact ⟨fun h => (spool h).1, fun h => (srefp h).1, spooln.1, srefn.1, fun he =>
      ⟨fun hn h => (spool h).2 he hn, spooln.2 he, fun hn h => (srefp h).2 he hn, srefn.2 he⟩⟩
  · exact poolRegister_misaligned hp (n := 0x412) (by decide)
  · exact poolRegister_misaligned hp (n := 0x414) (by decide)

end Sys2Proof.Proofs
end

section
/-! PROOFS. What the device's own writes leave alone (17 R401, 04 R126; log entry 39), reading the parts of the state back by their
numbers, and what a temperature sample, a refresh edge and a request to power-gate leave (02 R62, R63, 16 R390, R393, R439). -/

namespace Sys2Proof.Machine

/-- A write that the device makes for itself leads from `s` to `q`: `q` differs in what a walk may change, and in what is noted at the
lines that engine operations own. -/
def State.DeviceWrites (s q : State) : Prop := q = { s.walkedAs q with ops := q.ops }

theorem State.WalksTo.deviceWrites {s q : State} (h : s.WalksTo q) : s.DeviceWrites q := by
  rw [State.DeviceWrites, h]
  rfl

theorem State.DeviceWrites.refl (s : State) : s.DeviceWrites s := rfl

theorem State.DeviceWrites.trans {s p q : State} (h : s.DeviceWrites p) (k : p.DeviceWrites q) : s.DeviceWrites q := by
  unfold State.DeviceWrites at h k ⊢
  rw [k, h]
  rfl

theorem State.DeviceWrites.parts {s q : State} (h : s.DeviceWrites q) : q.parts = s.parts := by rw [h]; rfl
theorem State.DeviceWrites.toHost {s q : State} (h : s.DeviceWrites q) : q.toHost = s.toHost := by rw [h]; rfl
theorem State.DeviceWrites.poison {s q : State} (h : s.DeviceWrites q) : q.poison = s.poison := by rw [h]; rfl
theorem State.DeviceWrites.ev {s q : State} (h : s.DeviceWrites q) : q.ev = s.ev := by rw [h]; rfl
theorem State.DeviceWrites.group? {s q : State} (h : s.DeviceWrites q) (g : Nat) : q.group? g = s.group? g := by rw [h]; rfl

/-- A fold of steps that each keep a transitive relation keeps it. -/
theorem foldl_keeps {α σ : Type} {R : σ → σ → Prop} (hr : ∀ s, R s s) (ht : ∀ {a b c}, R a b → R b c → R a c) {f : σ → α → σ}
    (hf : ∀ s x, R s (f s x)) (l : List α) (s : σ) : R s (l.foldl f s) := by
  induction l generalizing s with
  | nil => exact hr s
  | cons x l ih => exact ht (hf s x) (ih (f s x))

theorem State.devUse_walksTo (s : State) (pa n leaf at_ : Nat) : s.WalksTo (s.devUse pa n leaf at_) := by
  refine State.WalksTo.trans (foldl_keeps State.WalksTo.refl State.WalksTo.trans (fun q l => ?_) (linesOf pa n) s) (State.ite_hbm_walksTo _ _ _)
  split
  · exact (q.evict_same l).walksTo.trans (State.fill_same _ l _).walksTo
  · exact (q.fill_same l _).walksTo

theorem State.noteLaid_deviceWrites (s : State) (pa n : Nat) : s.DeviceWrites (s.noteLaid pa n) := by
  unfold State.noteLaid
  dsimp only
  split <;> rfl

theorem State.devPut_deviceWrites (s : State) (c : Nat) (va : Word) (bs : List Byte) : s.DeviceWrites (s.devPut c va bs) := by
  unfold State.devPut
  split
  · exact ((s.devUse_walksTo ..).deviceWrites.trans (State.noteLaid_deviceWrites ..)).trans rfl
  · exact .refl s

theorem State.devWrite_deviceWrites (s : State) (c : Nat) (va : Word) (bs : List Byte) : s.DeviceWrites (s.devWrite c va bs) := by
  unfold State.devWrite
  dsimp only
  split
  · exact s.devPut_deviceWrites ..
  · exact (s.devPut_deviceWrites ..).trans (State.devPut_deviceWrites ..)

/-! Parts of the state by their numbers. -/

theorem State.dieAt_setDie (s : State) (d k : Nat) (x : Die) :
    (s.setDie d x).dieAt k = if k = d ∧ d < s.dies.length then x else s.dieAt k := by
  unfold State.dieAt State.setDie
  by_cases hk : k = d
  · subst hk
    by_cases hd : k < s.dies.length <;> simp [List.getD_eq_getElem?_getD, hd]
  · simp [List.getD_eq_getElem?_getD, List.getElem?_set_ne (Ne.symm hk), hk]

theorem State.dieAt_setDie_same {s : State} {d : Nat} (x : Die) (h : d < s.dies.length) : (s.setDie d x).dieAt d = x := by
  rw [State.dieAt_setDie, if_pos ⟨rfl, h⟩]

theorem State.dieAt_setDie_ne (s : State) {d k : Nat} (x : Die) (h : k ≠ d) : (s.setDie d x).dieAt k = s.dieAt k := by
  rw [State.dieAt_setDie, if_neg fun hc => h hc.1]

theorem State.setDie_setDie (s : State) (d : Nat) (x y : Die) : (s.setDie d x).setDie d y = s.setDie d y := by
  simp only [State.setDie, List.set_set]

/-- A die that the package has not got is not written. -/
theorem State.setDie_absent {s : State} {d : Nat} (x : Die) (h : s.dies.length ≤ d) : s.setDie d x = s := by
  simp only [State.setDie, List.set_eq_of_length_le h]

theorem State.dieAt_absent {s : State} {d : Nat} (h : s.dies.length ≤ d) : s.dieAt d = {} := by
  rw [State.dieAt, List.getD_eq_default _ _ h]

theorem assocGet_assocSet {α : Type} (d : α) (l : List (Nat × α)) (n : Nat) (x : α) : assocGet d (assocSet l n x) n = x := by
  induction l with
  | nil => simp [assocSet, assocGet]
  | cons y l ih =>
    by_cases h : y.1 = n <;> simp [assocSet, assocGet, h, ih]

theorem State.prt_setPrt (s : State) (n : Nat) (p : Partition) : (s.setPrt n p).prt n = p := assocGet_assocSet ..

theorem State.updGroup_frame (s : State) (g : Nat) (f : Group → Group) :
    s.updGroup g f = { s with g := (s.updGroup g f).g, groups := (s.updGroup g f).groups } := by
  unfold State.updGroup State.putGroup
  split
  · split <;> rfl
  · rfl

theorem State.updTeam_frame (s : State) (tm : Nat) (f : Team → Team) :
    s.updTeam tm f = { s with t := (s.updTeam tm f).t, teams := (s.updTeam tm f).teams } := by
  unfold State.updTeam State.putTeam
  split
  · split <;> rfl
  · rfl

/-- A group that has been changed is found by its identifier. -/
theorem State.group?_updGroup {s : State} {g : Nat} {x : Group} (f : Group → Group) (h : s.group? g = some x) (hf : (f x).id = x.id) :
    (s.updGroup g f).group? g = some (f x) := by
  have hx : x.id = g := by simpa using List.find?_some h
  have h0 : g ≠ 0 := by
    have := (List.mem_filter.mp (List.mem_of_find?_eq_some h)).2
    rw [hx] at this
    simpa using this
  have hp : (fun y : Group => decide (decide (y.id ≠ 0) = true ∧ decide (y.id = g) = true)) = fun y => decide (y.id = g) := by
    funext y
    by_cases hy : y.id = g <;> simp [hy, h0]
  unfold State.updGroup
  rw [h]
  unfold State.group? State.allGroups at h ⊢
  rw [List.find?_filter, hp] at h ⊢
  unfold State.putGroup
  dsimp only
  by_cases hg : x.id = s.g.id
  · rw [hf, if_pos hg]
    simp [hf, hx]
  · have hsg : ¬ s.g.id = g := fun hc => hg (hx.trans hc.symm)
    rw [hf, if_neg hg]
    rw [List.find?_cons_of_neg (by simpa using hsg)] at h ⊢
    have hm : (fun y : Group => decide (y.id = g)) ∘ (fun y => if y.id = x.id then f x else y) = fun y => decide (y.id = g) := by
      funext y
      rw [← hx, Function.comp]
      by_cases hy : y.id = x.id
      · rw [if_pos hy, hf, hy]
      · rw [if_neg hy]
    rw [List.find?_map, hm, h]
    simp

/-! Temperature samples and moves to smaller grants (16 R390, R439). -/

/-- `q` has the task records and the due decisions of `s`, and the samples of its dies. -/
def State.KeepsSamples (s q : State) : Prop := q.tasks = s.tasks ∧ q.due = s.due ∧ ∀ k, (q.dieAt k).temp = (s.dieAt k).temp

theorem State.KeepsSamples.refl (s : State) : s.KeepsSamples s := ⟨rfl, rfl, fun _ => rfl⟩

theorem State.KeepsSamples.trans {s p q : State} (h : s.KeepsSamples p) (k : p.KeepsSamples q) : s.KeepsSamples q :=
  ⟨k.1.trans h.1, k.2.1.trans h.2.1, fun d => (k.2.2 d).trans (h.2.2 d)⟩

theorem State.DeviceWrites.keepsSamples {s q : State} (h : s.DeviceWrites q) : s.KeepsSamples q := by
  rw [h]
  exact ⟨rfl, rfl, fun _ => rfl⟩

section
variable {s q : State} (h : s.KeepsSamples q)
include h

theorem State.KeepsSamples.updGroup (g : Nat) (f : Group → Group) : s.KeepsSamples (q.updGroup g f) := by
  rw [q.updGroup_frame g f]
  exact h

theorem State.KeepsSamples.regroup (g : Group) (gs : List Group) : s.KeepsSamples { q with g := g, groups := gs } := h

theorem State.KeepsSamples.setDie {d : Nat} {x : Die} (hx : x.temp = (q.dieAt d).temp) : s.KeepsSamples (q.setDie d x) := by
  refine h.trans ⟨rfl, rfl, fun k => ?_⟩
  rw [State.dieAt_setDie]
  split
  · next hk => rw [hx, hk.1]
  · rfl

end

theorem State.KeepsSamples.ite {s p q : State} {c : Prop} [Decidable c] (h : s.KeepsSamples p) (k : s.KeepsSamples q) :
    s.KeepsSamples (if c then p else q) := by
  split
  · exact h
  · exact k

theorem State.withdraw_keepsSamples (s : State) (g : Group) : s.KeepsSamples (s.withdraw g) := by
  unfold State.withdraw
  split
  · exact (s.devWrite_deviceWrites ..).keepsSamples
  · exact .refl s

theorem State.migrate_keepsSamples (s : State) (d : Nat) : s.KeepsSamples (s.migrate d) := by
  unfold State.migrate
  dsimp only
  refine .ite (.refl s) (.ite ?_ (.ite (.setDie (.refl s) rfl) ?_))
  · refine .trans (.regroup (.setDie (.refl s) ?_) _ _)
      (foldl_keeps State.KeepsSamples.refl State.KeepsSamples.trans State.withdraw_keepsSamples _ _)
    rfl
  · generalize State.costliest _ d = o
    cases o with
    | none => exact .setDie (.refl s) rfl
    | some g =>
      refine .updGroup (.setDie (.setDie (.refl s) ?_) ?_) g.id _
      · rfl
      · rfl

end Sys2Proof.Machine
end

section
/-! PROOFS. Temperature samples (16 R439), refresh edges (02 R63), requests to power-gate and links that fail (16 R393). -/

namespace Sys2Proof.Machine

/-- A call for a decision leaves the dies and the records alone, and the die is due (16 R386). -/
theorem State.call_spec (s : State) (d : Nat) : (s.call d).dies = s.dies ∧ (s.call d).tasks = s.tasks ∧ d ∈ (s.call d).due := by
  unfold State.call
  split
  · next h => exact ⟨rfl, rfl, List.contains_iff_mem.mp h⟩
  · exact ⟨rfl, rfl, List.mem_cons_self⟩

/-- What a sample leaves: the number sampled, clamped, and a call for a decision where it is the first (16 R439). -/
theorem execTemperatureSample_spec {s : State} (hd : s.ev.die < s.dies.length) :
    ∃ t, execTemperatureSample s = .next t ∧ (t.dieAt s.ev.die).temp = some (Min.min 255 s.ev.temp.toNat) ∧
      ((s.dieAt s.ev.die).temp = none → s.ev.die ∈ t.due) ∧ t.tasks = s.tasks := by
  have hclamp : (if s.ev.temp < 0 then 0 else min 255 s.ev.temp.toNat) = min 255 s.ev.temp.toNat := by
    split <;> omega
  unfold execTemperatureSample
  dsimp only
  rw [hclamp]
  let q := s.setDie s.ev.die { s.dieAt s.ev.die with temp := some (min 255 s.ev.temp.toNat) }
  obtain ⟨hdies, htasks, hdue⟩ := q.call_spec s.ev.die
  have hq : (q.dieAt s.ev.die).temp = some (min 255 s.ev.temp.toNat) := by rw [State.dieAt_setDie_same _ hd]
  refine ⟨_, rfl, ?_⟩
  obtain ⟨hkt, hkd, hkx⟩ := State.migrate_keepsSamples
    (if (s.dieAt s.ev.die).temp.isNone || (s.dieAt s.ev.die).tooHot && decide (min 255 s.ev.temp.toNat < (s.dieAt s.ev.die).tlimit)
      then q.call s.ev.die else q) s.ev.die
  refine ⟨(hkx _).trans ?_, fun hn => ?_, hkt.trans ?_⟩
  · split
    · rw [State.dieAt, hdies]
      exact hq
    · exact hq
  · rw [hkd, if_pos (by simp [hn])]
    exact hdue
  · split
    · exact htasks
    · rfl

/-- The next edge of a refresh window is at most 768 cycles away, and starts or ends a window (02 R63). -/
theorem toEdge_spec (p : Nat) :
    1 ≤ toEdge p ∧ toEdge p ≤ 768 ∧ (p + toEdge p) % 1024 = if p % 1024 < 256 then 256 else 0 := by
  unfold toEdge
  dsimp only
  split <;> omega

theorem execWeightStoreRefresh_spec {s : State} (hd : s.ev.die < s.dies.length) :
    ∃ t n, execWeightStoreRefresh s = .next t ∧ 1 ≤ n ∧ n ≤ 768 ∧
      (t.dieAt s.ev.die).clk = (s.dieAt s.ev.die).clk + BitVec.ofNat 64 n ∧
      (t.dieAt s.ev.die).phase.toNat % 1024 = (if (s.dieAt s.ev.die).phase.toNat % 1024 < 256 then 256 else 0) ∧ t.wstore = s.wstore := by
  obtain ⟨h1, h768, hedge⟩ := toEdge_spec (s.dieAt s.ev.die).phase.toNat
  refine ⟨_, _, rfl, h1, h768, ?_, ?_, rfl⟩
  · rw [State.dieAt_setDie_same _ hd]
    rfl
  · rw [State.dieAt_setDie_same _ hd, ← hedge, BitVec.toNat_add, BitVec.toNat_ofNat]
    omega

/-! The gate of a die (16 R393). -/

/-- The thief's part in a steal is not settled: it has acknowledged, and has no receipt. -/
def StealSt.unsettled : StealSt → Bool
  | .acking _ _ _ => true
  | _ => false

theorem StealSt.unsettled_iff (x : StealSt) : x.unsettled = true ↔ ∃ v it n, x = .acking v it n := by
  cases x <;> simp [StealSt.unsettled]

/-- The gate closes exactly where it was asked to and no steal of the die is unsettled. -/
theorem State.tryGate_eq (s : State) (d : Nat) :
    s.tryGate d = if (s.dieAt d).gating = true ∧ (s.dieAt d).shadows = [] ∧ (s.dieAt d).steal.unsettled = false then
      s.setDie d { s.dieAt d with gated := true } else s := by
  unfold State.tryGate
  dsimp only
  refine if_congr ?_ rfl rfl
  cases (s.dieAt d).steal <;> simp [StealSt.unsettled]

/-- A gate that closes changes that die alone, and not its part in a steal. -/
theorem State.tryGate_spec (s : State) (d : Nat) :
    s.tryGate d = { s with dies := (s.tryGate d).dies } ∧ (s.tryGate d).dies.length = s.dies.length ∧
    (∀ k, ((s.tryGate d).dieAt k).steal = (s.dieAt k).steal) ∧ ∀ k, k ≠ d → (s.tryGate d).dieAt k = s.dieAt k := by
  rw [s.tryGate_eq d]
  split
  · refine ⟨rfl, List.length_set, fun k => ?_, fun k hk => s.dieAt_setDie_ne _ hk⟩
    rw [State.dieAt_setDie]
    split
    · next h => rw [h.1]
    · rfl
  · exact ⟨rfl, rfl, fun _ => rfl, fun _ _ => rfl⟩

theorem execPowerGatingRequest_spec (s : State) : let x := s.dieAt s.ev.die
    ((x.shadows = [] ∧ ∀ v it n, x.steal ≠ .acking v it n) →
      execPowerGatingRequest s = .next (s.setDie s.ev.die { x with gating := true, gated := true })) ∧
    ((x.shadows ≠ [] ∨ ∃ v it n, x.steal = .acking v it n) →
      execPowerGatingRequest s = .next (s.setDie s.ev.die { x with gating := true })) := by
  intro x
  have hsettled : x.steal.unsettled = false ↔ ∀ v it n, x.steal ≠ .acking v it n := by
    rw [← Bool.not_eq_true, StealSt.unsettled_iff]
    simp
  unfold execPowerGatingRequest
  rw [State.tryGate_eq]
  by_cases hd : s.ev.die < s.dies.length
  · rw [State.dieAt_setDie_same _ hd, State.setDie_setDie]
    constructor
    · intro h
      rw [if_pos ⟨rfl, h.1, hsettled.mpr h.2⟩]
    · intro h
      rw [if_neg]
      rintro ⟨-, hsh, hst⟩
      rcases h with h | ⟨v, it, n, h⟩
      · exact h hsh
      · exact hsettled.mp hst v it n h
  · simp only [State.setDie_absent _ (Nat.le_of_not_lt hd), ite_self, implies_true, and_self]

/-! Links that fail (16 R393). -/

/-- A steal that the loss of a link ends changes the thief's die alone: it is idle, or as it was. -/
theorem State.unlink_spec (s : State) (t v : Nat) :
    s.unlink t v = { s with dies := (s.unlink t v).dies } ∧ (s.unlink t v).dies.length = s.dies.length ∧
    ∀ k, k ≠ t → (s.unlink t v).dieAt k = s.dieAt k := by
  have idle : s.setSteal t .idle = { s with dies := (s.setSteal t .idle).dies } ∧ (s.setSteal t .idle).dies.length = s.dies.length ∧
      ∀ k, k ≠ t → (s.setSteal t .idle).dieAt k = s.dieAt k := ⟨rfl, List.length_set, fun k hk => s.dieAt_setDie_ne _ hk⟩
  unfold State.unlink
  split
  · split
    · obtain ⟨hf, hl, -, hk⟩ := (s.setSteal t .idle).tryGate_spec t
      exact ⟨by rw [hf]; rfl, hl.trans idle.2.1, fun k h => (hk k h).trans (idle.2.2 k h)⟩
    · exact ⟨rfl, rfl, fun _ _ => rfl⟩
  · split
    · exact idle
    · exact ⟨rfl, rfl, fun _ _ => rfl⟩
  · exact ⟨rfl, rfl, fun _ _ => rfl⟩

/-- A thief that has acknowledged to a die, and has no receipt of it to come, discards its copy. -/
theorem State.unlink_discards {s : State} {t v : Nat} {it : StealItem} {n : Byte} (hs : (s.dieAt t).steal = .acking v it n)
    (hd : t < s.dies.length) (hm : ∀ m ∈ s.msgs, m.src = v → m.dst = t → m.body ≠ .accepted ∧ m.body ≠ .stale) :
    ((s.unlink t v).dieAt t).steal = .idle := by
  have hn : (s.msgs.any fun m => decide (m.src = v) && decide (m.dst = t) && (decide (m.body = .accepted) || decide (m.body = .stale))) = false := by
    simp only [List.any_eq_false, Bool.and_eq_true, Bool.or_eq_true, decide_eq_true_eq]
    rintro m hmem ⟨⟨hsrc, hdst⟩, hb⟩
    obtain ⟨ha, hst⟩ := hm m hmem hsrc hdst
    exact hb.elim ha hst
  unfold State.unlink
  rw [hs]
  dsimp only
  rw [hn, if_pos ⟨rfl, rfl⟩, ((s.setSteal t .idle).tryGate_spec t).2.2.1, State.setSteal, State.dieAt_setDie_same _ hd]

/-- The messages that a failing link between dies `a` and `b` loses (log entry 46). -/
def Msg.lostOn (a b : Nat) (m : Msg) : Prop :=
  (m.src = a ∧ m.dst = b ∨ m.src = b ∧ m.dst = a) ∧ (m.body.isAnswer = true ∨ ∃ k it, m.body = .ack k it)

theorem execLinkFailure_spec (s : State) : ∃ t, execLinkFailure s = .next t ∧ t.tasks = s.tasks ∧ t.groups = s.groups ∧
    (∀ m, m ∈ t.msgs ↔ m ∈ s.msgs ∧ ¬ m.lostOn s.ev.die s.ev.n) ∧
    ∀ it n, (s.dieAt s.ev.die).steal = .acking s.ev.n it n → s.ev.die ≠ s.ev.n → s.ev.die < s.dies.length →
      (∀ m ∈ s.msgs, m.src = s.ev.n → m.dst = s.ev.die → m.body ≠ .accepted ∧ m.body ≠ .stale) → (t.dieAt s.ev.die).steal = .idle := by
  unfold execLinkFailure
  dsimp only
  generalize hl : s.msgs.filter _ = left
  have hmem : ∀ m, m ∈ left ↔ m ∈ s.msgs ∧ ¬ m.lostOn s.ev.die s.ev.n := by
    intro m
    have hack : (match m.body with | .ack _ _ => true | _ => false) = true ↔ ∃ k it, m.body = .ack k it := by
      cases m.body <;> simp
    rw [← hl, List.mem_filter, Msg.lostOn, ← hack, Bool.not_eq_true', ← Bool.not_eq_true]
    simp only [Bool.and_eq_true, Bool.or_eq_true, decide_eq_true_eq] <;> rfl
  clear hl
  let q : State := { s with msgs := left }
  obtain ⟨hf, hlen, hk⟩ := q.unlink_spec s.ev.die s.ev.n
  obtain ⟨hf', -, hk'⟩ := (q.unlink s.ev.die s.ev.n).unlink_spec s.ev.n s.ev.die
  refine ⟨_, rfl, ?_, ?_, ?_, fun it n hst hne hd hm => ?_⟩
  · rw [hf', hf]
  · rw [hf', hf]
  · rw [hf', hf]
    exact hmem
  · rw [hk' _ hne]
    exact State.unlink_discards hst hd fun m h => hm m ((hmem m).mp h).1

end Sys2Proof.Machine
end

section
/-! PROOFS. The reset of a die (16 R393; log entry 43). -/

namespace Sys2Proof.Machine

/-- The reset of die `d` takes the team `tm`: a group of it was given to the die under an acceptance, or it stands there and none of its
groups was given away. -/
def State.takesTeam (s : State) (d tm : Nat) : Bool :=
  let has := fun (l : List StealItem) => (s.teamD tm).gids.any fun g => l.any (StealItem.isGroup g)
  has (s.givenIn d).toList || (decide ((s.teamD tm).die = d) && !has (s.givenBy d))

/-- What the reset of die `d` leaves of a record. -/
def State.recordAfter (s : State) (d : Nat) (r : TaskRec) : Option TaskRec :=
  let kept := fun (r : TaskRec) => (s.givenBy d).any (StealItem.isRecord r.handle)
  if r.remnant ∨ (hHome r.handle = d ∧ r.die = d ∧ kept r = false) then s.remnantOf d r
  else some <| s.bereft d <| if hHome r.handle = d then { r with orphan := true }
  else if (r.die = d ∧ kept r = false) ∨ (s.givenIn d).toList.any (StealItem.isRecord r.handle) = true then { r with st := .lost, team := none } else r

/-- `q` differs from `s` in dies other than `d` alone. -/
def State.OtherDies (d : Nat) (s q : State) : Prop := q = { s with dies := q.dies } ∧ q.dieAt d = s.dieAt d

theorem State.OtherDies.trans {d : Nat} {s p q : State} (h : s.OtherDies d p) (k : p.OtherDies d q) : s.OtherDies d q := by
  obtain ⟨hf, hd⟩ := h
  obtain ⟨kf, kd⟩ := k
  refine ⟨?_, kd.trans hd⟩
  rw [kf, hf]

theorem State.unlink_otherDies (d : Nat) (s : State) (t : Nat) : s.OtherDies d (if t = d then s else s.unlink t d) := by
  split
  · exact ⟨rfl, rfl⟩
  · next h =>
    obtain ⟨hf, -, hk⟩ := s.unlink_spec t d
    exact ⟨hf, hk d (Ne.symm h)⟩

/-- A die that is written anew but for its generations has no candidate, no share of a grid and no sample. -/
theorem State.dieAt_setDie_cleared (s : State) (d : Nat) (gens : List (Nat × Nat)) : let x := (s.setDie d { gens := gens }).dieAt d
    x.cands = [] ∧ x.walks = [] ∧ x.temp = none := by
  intro x
  by_cases hd : d < s.dies.length
  · rw [show x = { gens := gens } from State.dieAt_setDie_same _ hd]
    exact ⟨rfl, rfl, rfl⟩
  · have hx : x = {} := by
      rw [show x = s.dieAt d from congrArg (State.dieAt · d) (State.setDie_absent _ (Nat.le_of_not_lt hd)), State.dieAt_absent (Nat.le_of_not_lt hd)]
    rw [hx]
    exact ⟨rfl, rfl, rfl⟩

/-- What the reset of a die leaves, by the parts of the state that it changes. -/
theorem execDieReset_spec (s : State) : let d := s.ev.die
    ∃ t, execDieReset s = .next t ∧
      t.groups = s.groups.filter (fun g => !s.takesTeam d g.team) ∧ t.teams = s.teams.filter (fun x => !s.takesTeam d x.id) ∧
      t.g = (if s.takesTeam d s.g.team then {} else s.g) ∧ t.t = (if s.takesTeam d s.t.id then {} else s.t) ∧
      t.tasks = s.tasks.filterMap (s.recordAfter d) ∧
      t.msgs = s.msgs.filterMap (Msg.afterReset d (s.tasks.filterMap (s.recordAfter d))) ∧
      ((t.dieAt d).cands = [] ∧ (t.dieAt d).walks = [] ∧ (t.dieAt d).temp = none) ∧
      t.toHost = s.toHost ++ (s.losses d).map fun w => ToHost.event 4 (s.partOfDie d) w := by
  intro d
  have fold : ∀ q : State, q.OtherDies d ((s.partDies (s.partOfDie d)).foldl (fun q t => if t = d then q else q.unlink t d) q) := fun q =>
    foldl_keeps (R := State.OtherDies d) (fun _ => ⟨rfl, rfl⟩) State.OtherDies.trans (State.unlink_otherDies d) _ q
  exact ⟨_, rfl, congrArg State.groups (fold _).1, congrArg State.teams (fold _).1, congrArg State.g (fold _).1,
    congrArg State.t (fold _).1, congrArg State.tasks (fold _).1, congrArg State.msgs (fold _).1,
    (congrArg (fun x : Die => x.cands = [] ∧ x.walks = [] ∧ x.temp = none) (fold _).2).mpr (State.dieAt_setDie_cleared _ d _),
    (congrArg (fun q : State => q.toHost ++ _) (fold _).1).trans rfl⟩

/-! Groups and teams. -/

/-- Of a current thing and a list, those with an identifier that are left once some are taken. -/
theorem mem_left_of_taken {α : Type} {id key : α → Nat} {taken : Nat → Bool} {none c x : α} {l : List α} (h0 : id none = 0)
    (h : x ∈ ((if taken (key c) then none else c) :: l.filter fun y => !taken (key y)).filter fun y => id y ≠ 0) :
    x ∈ ((c :: l).filter fun y => id y ≠ 0) ∧ taken (key x) = false := by
  simp only [List.mem_filter, List.mem_cons, decide_eq_true_eq, Bool.not_eq_true'] at h ⊢
  obtain ⟨rfl | ⟨hx, ht⟩, hid⟩ := h
  · cases ht : taken (key c) with
    | true => rw [ht] at hid; exact absurd h0 hid
    | false =>
      rw [ht] at hid
      exact ⟨⟨.inl rfl, hid⟩, ht⟩
  · exact ⟨⟨.inr hx, hid⟩, ht⟩

/-- A team that the reset of die `d` leaves stands elsewhere or was given away, and no group of it was given to the die. -/
theorem State.takesTeam_false {s : State} {d tm : Nat} (h : s.takesTeam d tm = false) :
    ((s.teamD tm).die ≠ d ∨ ∃ k ∈ (s.teamD tm).gids, (s.givenBy d).any (StealItem.isGroup k) = true) ∧
    ¬ ∃ k ∈ (s.teamD tm).gids, ∃ it, s.givenIn d = some it ∧ it.isGroup k = true := by
  unfold State.takesTeam at h
  simp only [Bool.or_eq_false_iff, Bool.and_eq_false_iff, decide_eq_false_iff_not, Bool.not_eq_false', List.any_eq_true (l := (s.teamD tm).gids)] at h
  obtain ⟨hgiven, haway⟩ := h
  refine ⟨haway, ?_⟩
  rintro ⟨k, hk, it, hit, hg⟩
  rw [List.any_eq_false] at hgiven
  exact hgiven k hk (List.any_eq_true.mpr ⟨it, by simp [hit], hg⟩)

/-! Records. -/

theorem State.remnantOf_spec {s : State} {d : Nat} {r x : TaskRec} (h : s.remnantOf d r = some x) :
    x.handle = r.handle ∧ x.orphan = true ∧ x.grid.isSome = true := by
  unfold State.remnantOf at h
  split at h
  · next hc =>
    cases h
    rw [Bool.and_eq_true] at hc
    exact ⟨rfl, rfl, hc.1⟩
  · cases h

/-- What a record is bereft of: never its place, its handle, its grid and whether its home is gone; and it is lost where its group is. -/
theorem State.bereft_spec (s : State) (d : Nat) (r : TaskRec) :
    ((s.bereft d r).handle = r.handle ∧ (s.bereft d r).die = r.die ∧ (s.bereft d r).grid = r.grid ∧ (s.bereft d r).orphan = r.orphan) ∧
    (s.losesGroupOf d r = true ∨ r.st = .lost → (s.bereft d r).st = .lost) := by
  have loses : let x := if s.losesGroupOf d r then { r with st := .lost, team := none } else r
      (x.handle = r.handle ∧ x.die = r.die ∧ x.grid = r.grid ∧ x.orphan = r.orphan) ∧ (s.losesGroupOf d r = true ∨ r.st = .lost → x.st = .lost) := by
    cases h : s.losesGroupOf d r with
    | true => exact ⟨⟨rfl, rfl, rfl, rfl⟩, fun _ => rfl⟩
    | false => exact ⟨⟨rfl, rfl, rfl, rfl⟩, fun hc => hc.resolve_left Bool.false_ne_true⟩
  unfold State.bereft
  dsimp only at loses ⊢
  generalize (if s.losesGroupOf d r then { r with st := .lost, team := none } else r : TaskRec) = x at loses ⊢
  split
  · split <;> exact loses
  · exact loses

/-- A record at home on the die is an orphan, and is there no more, was given away, or is what is left of a grid. -/
theorem State.recordAfter_home {s : State} {d : Nat} {r x : TaskRec} (h : s.recordAfter d r = some x) (hx : hHome x.handle = d) :
    x.orphan = true ∧ (x.die ≠ d ∨ (s.givenBy d).any (StealItem.isRecord x.handle) = true ∨ x.grid.isSome = true) := by
  unfold State.recordAfter at h
  dsimp only at h
  split at h
  · obtain ⟨-, ho, hg⟩ := State.remnantOf_spec h
    exact ⟨ho, .inr (.inr hg)⟩
  · next hc =>
    by_cases hh : hHome r.handle = d
    · rw [if_pos hh] at h
      cases h
      obtain ⟨⟨hhandle, hdie, hgrid, horphan⟩, -⟩ := s.bereft_spec d { r with orphan := true }
      rw [hhandle, hdie, horphan]
      refine ⟨rfl, ?_⟩
      by_contra hn
      simp only [not_or, not_not, Bool.not_eq_true] at hn
      exact hc (.inr ⟨hh, hn.1, hn.2.1⟩)
    · rw [if_neg hh] at h
      cases h
      refine absurd ?_ hh
      rw [(s.bereft_spec d _).1.1] at hx
      split at hx <;> exact hx

/-- A record at home elsewhere whose group the die had is lost. -/
theorem State.recordAfter_loses {s : State} {d : Nat} {r : TaskRec} (hr : r.remnant = false) (hh : hHome r.handle ≠ d)
    (hl : s.losesGroupOf d r = true) : ∃ x, s.recordAfter d r = some x ∧ x.handle = r.handle ∧ x.st = .lost := by
  unfold State.recordAfter
  dsimp only
  rw [if_neg (by simp [hr, hh]), if_neg hh]
  refine ⟨_, rfl, ?_⟩
  split
  · obtain ⟨⟨hx, -⟩, hst⟩ := s.bereft_spec d { r with st := .lost, team := none }
    exact ⟨hx, hst (.inr rfl)⟩
  · obtain ⟨⟨hx, -⟩, hst⟩ := s.bereft_spec d r
    exact ⟨hx, hst (.inl hl)⟩

/-! Messages. -/

/-- What a die has sent before its reset and arrives all the same (16 R393, R394). -/
def MsgBody.outlives (b : MsgBody) : Prop :=
  b = .accepted ∨ b = .stale ∨ (∃ h k, b = .loc h k) ∨ (∃ h n, b = .refAct h n) ∨ ∃ h p e, b = .rpt h p e

/-- An action on the record `h`. -/
def MsgBody.actsOn (b : MsgBody) (h : Word) : Prop := (∃ n, b = .refAct h n) ∨ ∃ p e, b = .rpt h p e

theorem MsgBody.outlives.cases {b : MsgBody} (hb : b.outlives) :
    (b = .accepted ∨ b = .stale ∨ ∃ h k, b = .loc h k) ∨ ∃ h, b.actsOn h := by
  rcases hb with hb | hb | hb | ⟨h, hb⟩ | ⟨h, hb⟩
  · exact .inl (.inl hb)
  · exact .inl (.inr (.inl hb))
  · exact .inl (.inr (.inr hb))
  · exact .inr ⟨h, .inl hb⟩
  · exact .inr ⟨h, .inr hb⟩

section
variable {d : Nat} {l : List TaskRec} {m x : Msg}

theorem Msg.afterReset_action {h : Word} (hb : m.body.actsOn h) : m.afterReset d l =
    if m.dst ≠ d then some m
    else if hHome h ≠ d ∧ ∃ r ∈ l, r.handle = h ∧ r.st ≠ .lost then some { m with dst := hHome h } else none := by
  have hc : (decide (hHome h ≠ d) && l.any fun r => decide (r.handle = h) && decide (r.st ≠ .lost)) = true ↔
      hHome h ≠ d ∧ ∃ r ∈ l, r.handle = h ∧ r.st ≠ .lost := by simp
  unfold Msg.afterReset
  rcases hb with ⟨n, hb⟩ | ⟨p, e, hb⟩ <;> rw [hb] <;> dsimp only <;> rw [if_congr hc rfl rfl]

theorem Msg.afterReset_told (hb : m.body = .accepted ∨ m.body = .stale ∨ ∃ h k, m.body = .loc h k) :
    m.afterReset d l = if m.dst ≠ d then some m else none := by
  unfold Msg.afterReset
  rcases hb with hb | hb | ⟨h, k, hb⟩ <;> rw [hb]

theorem Msg.afterReset_other (hb : ¬ m.body.outlives) : m.afterReset d l = if m.dst ≠ d ∧ m.src ≠ d then some m else none := by
  unfold Msg.afterReset
  unfold MsgBody.outlives at hb
  cases h : m.body <;> simp_all

/-- A message that is left goes to another die, and the die itself has sent none but those that arrive all the same. -/
theorem Msg.afterReset_spec (h : m.afterReset d l = some x) : x.dst ≠ d ∧ (x.src = d → x.body.outlives) := by
  by_cases hb : m.body.outlives
  · rcases hb.cases with ht | ⟨a, ha⟩
    · rw [Msg.afterReset_told ht] at h
      split at h <;> cases h
      exact ⟨‹_›, fun _ => hb⟩
    · rw [Msg.afterReset_action ha] at h
      split at h
      · cases h; exact ⟨‹_›, fun _ => hb⟩
      · split at h <;> cases h
        next hc => exact ⟨hc.1, fun _ => hb⟩
  · rw [Msg.afterReset_other hb] at h
    split at h <;> cases h
    next hc => exact ⟨hc.1, fun hs => absurd hs hc.2⟩

theorem Msg.afterReset_kept (hd : m.dst ≠ d) (hs : m.src = d → m.body.outlives) : m.afterReset d l = some m := by
  by_cases hb : m.body.outlives
  · rcases hb.cases with ht | ⟨a, ha⟩
    · rw [Msg.afterReset_told ht, if_pos hd]
    · rw [Msg.afterReset_action ha, if_pos hd]
  · rw [Msg.afterReset_other hb, if_pos ⟨hd, fun h => hb (hs h)⟩]

/-- An action that waits on the die for a record elsewhere goes back to the home. -/
theorem Msg.afterReset_home {h : Word} (hd : m.dst = d) (hb : m.body.actsOn h) (hh : hHome h ≠ d)
    (hr : ∃ r ∈ l, r.handle = h ∧ r.st ≠ .lost) : m.afterReset d l = some ⟨m.src, hHome h, m.body⟩ := by
  rw [Msg.afterReset_action hb, if_neg (not_not.mpr hd), if_pos ⟨hh, hr⟩]

end

end Sys2Proof.Machine
end

section
/-! PROOFS. Detected errors (18 R422 to R424; log entry 39). -/

namespace Sys2Proof.Machine

/-- Poisoned data changes the lists of poisoned data, and those of one group or one team, alone (18 R424). -/
theorem State.poisoned_frame (s : State) (a : Word) : let q := s.poisoned a
    q = { s with poison := q.poison, wpoison := q.wpoison, g := q.g, t := q.t, groups := q.groups, teams := q.teams } := by
  intro q
  have h4 := s.updGroup_frame s.ev.g fun x => { x with rpoison := (s.ev.e, s.ev.n, a) :: x.rpoison }
  have h5 := s.updTeam_frame s.ev.tm fun t => { t with spoison := (s.ev.n / 4, a) :: t.spoison }
  unfold q State.poisoned
  split
  · rfl
  · rfl
  · rfl
  · rw [h4]
  · rw [h5]
  · rfl

theorem State.poisoned_line {s : State} (a : Word) (hk : s.ev.k = 1 ∨ s.ev.k = 2) :
    (s.poisoned a).poison = (s.ev.pa / 128, a) :: s.poison := by
  unfold State.poisoned
  rcases hk with hk | hk <;> (rw [hk]; rfl)

theorem State.poisoned_register {s : State} {x : Group} (a : Word) (hk : s.ev.k = 4) (hx : s.group? s.ev.g = some x) :
    (s.poisoned a).group? s.ev.g = some { x with rpoison := (s.ev.e, s.ev.n, a) :: x.rpoison } := by
  unfold State.poisoned
  rw [hk]
  exact State.group?_updGroup _ hx rfl

/-- The state in which an error has been counted in partition `p`, and a line of an L2 that it is in has been evicted. -/
def State.errorCounted (s : State) (p : Nat) : State :=
  (if s.ev.k = 1 then s.evict (s.ev.pa / 128) else s).setPrt p { s.prt p with seq := (s.prt p).seq + 1 }

/-- What counting an error leaves alone, and the count. -/
theorem State.errorCounted_spec (s : State) (p : Nat) : let q := s.errorCounted p
    (q.prt p).seq = (s.prt p).seq + 1 ∧ q.ev = s.ev ∧ q.toHost = s.toHost ∧ q.poison = s.poison ∧ ∀ g, q.group? g = s.group? g := by
  intro q
  have hw : s.DeviceWrites (if s.ev.k = 1 then s.evict (s.ev.pa / 128) else s) := by
    split
    · exact (s.evict_same _).walksTo.deviceWrites
    · exact .refl s
  exact ⟨congrArg Partition.seq (State.prt_setPrt ..), hw.ev, hw.toHost, hw.poison, hw.group?⟩

/-- The state in which the record of an error has been written at `a` and told to the host. -/
def State.errorLogged (s : State) (p c : Nat) (a : Word) : State :=
  ((s.errorCounted p).devWrite c a ((s.errorRec (s.prt p).seq).flatMap fun w => natLe 8 w.toNat)).hostEvent 3 p [a]

theorem State.errorLogged_spec (s : State) (p c : Nat) (a : Word) : let q := s.errorLogged p c a
    (q.prt p).seq = (s.prt p).seq + 1 ∧ q.ev = s.ev ∧ q.toHost = s.toHost ++ [.event 3 p [a]] ∧ q.poison = s.poison ∧
    ∀ g, q.group? g = s.group? g := by
  intro q
  obtain ⟨hseq, hev, hhost, hpoison, hgroup⟩ := s.errorCounted_spec p
  have hw := (s.errorCounted p).devWrite_deviceWrites c a ((s.errorRec (s.prt p).seq).flatMap fun w => natLe 8 w.toNat)
  refine ⟨?_, hw.ev.trans hev, congrArg (· ++ _) (hw.toHost.trans hhost), hw.poison.trans hpoison, fun g => (hw.group? g).trans (hgroup g)⟩
  rw [← hseq]
  exact congrArg (fun l => (assocGet {} l p : Partition).seq) hw.parts

/-- An error as R422 has them is seen by one of six units, and is of one of three kinds. -/
def State.errorValid (s : State) : Prop := 1 ≤ s.ev.k ∧ s.ev.k ≤ 6 ∧ s.ev.i ≤ 2

theorem State.errorValid_iff (s : State) : s.errorValid ↔ ¬ (s.ev.k = 0 || 6 < s.ev.k || 2 < s.ev.i) = true := by
  simp only [State.errorValid, Bool.or_eq_true, decide_eq_true_eq]
  omega

/-- What a detected error does, in the terms above. -/
theorem execErrorDetected_eq (s : State) : execErrorDetected s =
    .next (if s.ev.k = 0 || 6 < s.ev.k || 2 < s.ev.i then s
      else match (s.prt (s.partOfDie s.ev.die)).logBase, s.supCtx (s.partOfDie s.ev.die) with
      | some base, some c =>
        let n := s.prt (s.partOfDie s.ev.die)
        let a := base + BitVec.ofNat 64 (64 * (n.seq.toNat % n.logCount))
        let q := s.errorLogged (s.partOfDie s.ev.die) c a
        if s.ev.flag then q.poisoned a else q
      | _, _ => let q := s.errorCounted (s.partOfDie s.ev.die); if s.ev.flag then q.poisoned 0 else q) := rfl

/-- An error that is none of those of R422 does nothing. -/
theorem execErrorDetected_invalid {s : State} (h : s.ev.k = 0 ∨ 6 < s.ev.k ∨ 2 < s.ev.i) : execErrorDetected s = .next s := by
  rw [execErrorDetected_eq, if_pos]
  simpa [or_assoc] using h

/-- An error where no log is set, or no supervisor context is there to write it for, counts and poisons the data. -/
theorem execErrorDetected_silent {s : State} (hv : s.errorValid)
    (h : (s.prt (s.partOfDie s.ev.die)).logBase = none ∨ s.supCtx (s.partOfDie s.ev.die) = none) :
    execErrorDetected s = .next (let q := s.errorCounted (s.partOfDie s.ev.die); if s.ev.flag then q.poisoned 0 else q) := by
  rw [execErrorDetected_eq, if_neg (s.errorValid_iff.mp hv)]
  rcases h with h | h
  · rw [h]
  · rw [h]
    cases (s.prt (s.partOfDie s.ev.die)).logBase <;> rfl

/-- An error where a log is set counts, is logged and told, and poisons the data. -/
theorem execErrorDetected_logged {s : State} {base : Word} {c : Nat} (hv : s.errorValid)
    (hb : (s.prt (s.partOfDie s.ev.die)).logBase = some base) (hc : s.supCtx (s.partOfDie s.ev.die) = some c) :
    execErrorDetected s = .next (
      let n := s.prt (s.partOfDie s.ev.die)
      let a := base + BitVec.ofNat 64 (64 * (n.seq.toNat % n.logCount))
      let q := s.errorLogged (s.partOfDie s.ev.die) c a
      if s.ev.flag then q.poisoned a else q) := by
  rw [execErrorDetected_eq, if_neg (s.errorValid_iff.mp hv), hb, hc]

/-- What the data of an error does where it is uncorrected (`b`): the line or the register is poisoned, and nothing is told. -/
theorem State.poisonedIf_spec (q : State) (a : Word) (b : Bool) : let t := if b then q.poisoned a else q
    (∀ p, t.prt p = q.prt p) ∧ t.toHost = q.toHost ∧
    (b = true → q.ev.k = 1 ∨ q.ev.k = 2 → t.poison = (q.ev.pa / 128, a) :: q.poison) ∧
    (b = true → q.ev.k = 4 → ∀ x, q.group? q.ev.g = some x → ∃ y, t.group? q.ev.g = some y ∧ (q.ev.e, q.ev.n, a) ∈ y.rpoison) ∧
    (b = false → t.poison = q.poison) := by
  intro t
  cases b with
  | true =>
    have hf : q.poisoned a = _ := q.poisoned_frame a
    exact ⟨fun p => (congrArg (State.prt · p) hf).trans rfl, (congrArg State.toHost hf).trans rfl, fun _ hk => State.poisoned_line a hk,
      fun _ hk x hx => ⟨_, State.poisoned_register a hk hx, List.mem_cons_self⟩, fun h => Bool.noConfusion h⟩
  | false => exact ⟨fun _ => rfl, rfl, fun h => Bool.noConfusion h, fun h => Bool.noConfusion h, fun _ => rfl⟩

theorem execErrorDetected_spec {s : State} (hv : s.errorValid) : let e := s.ev
    let p := s.partOfDie e.die
    let n := s.prt p
    ∃ t, execErrorDetected s = .next t ∧ (t.prt p).seq = n.seq + 1 ∧
      (∀ base c, n.logBase = some base → s.supCtx p = some c →
        let a := base + BitVec.ofNat 64 (64 * (n.seq.toNat % n.logCount))
        t.toHost = s.toHost ++ [.event 3 p [a]] ∧
        (e.flag = true → (e.k = 1 ∨ e.k = 2) → t.poison = (e.pa / 128, a) :: s.poison) ∧
        (e.flag = true → e.k = 4 → ∀ x, s.group? e.g = some x → ∃ y, t.group? e.g = some y ∧ (e.e, e.n, a) ∈ y.rpoison) ∧
        (e.flag = false → t.poison = s.poison)) ∧
      ((n.logBase = none ∨ s.supCtx p = none) → t.toHost = s.toHost) := by
  intro e p n
  by_cases hs : n.logBase = none ∨ s.supCtx p = none
  · obtain ⟨hseq, -, hhost, -⟩ := s.errorCounted_spec p
    obtain ⟨hprt, hto, -⟩ := (s.errorCounted p).poisonedIf_spec 0 e.flag
    refine ⟨_, execErrorDetected_silent hv hs, (congrArg Partition.seq (hprt p)).trans hseq, fun base c hb hc => ?_, fun _ => hto.trans hhost⟩
    rcases hs with h | h
    · rw [hb] at h; cases h
    · rw [hc] at h; cases h
  · rw [not_or, ← ne_eq, ← ne_eq, Option.ne_none_iff_exists', Option.ne_none_iff_exists'] at hs
    obtain ⟨⟨base, hb⟩, c, hc⟩ := hs
    let a := base + BitVec.ofNat 64 (64 * (n.seq.toNat % n.logCount))
    obtain ⟨hseq, hev, hhost, hpoison, hgroup⟩ := s.errorLogged_spec p c a
    obtain ⟨hprt, hto, hline, hreg, hclean⟩ := (s.errorLogged p c a).poisonedIf_spec a e.flag
    rw [hev] at hline hreg
    rw [hpoison] at hline hclean
    rw [hgroup] at hreg
    refine ⟨_, execErrorDetected_logged hv hb hc, (congrArg Partition.seq (hprt p)).trans hseq, fun base' c' hb' hc' => ?_, fun h => ?_⟩
    · cases hb.symm.trans hb'
      cases hc.symm.trans hc'
      exact ⟨hto.trans hhost, hline, hreg, hclean⟩
    · rw [hb, hc] at h
      simp at h

end Sys2Proof.Machine
end

section
/-! PROOFS. Dies and errors (02 R62, R63, 16 R393, R439, 18 R421 to R424, R431): the statement, from what each step says of itself. -/

namespace Sys2Proof.Proofs
open Sys2Proof.Machine

/-- The reset of a die, clause by clause, from what `execDieReset_spec` says of each part of the state. -/
theorem dieReset_leaves (s : State) : let d := s.ev.die
    let away := fun (tm : Nat) => (s.teamD tm).die ≠ d ∨ ∃ k ∈ (s.teamD tm).gids, (s.givenBy d).any (StealItem.isGroup k) = true
    let given := fun (tm : Nat) => ∃ k ∈ (s.teamD tm).gids, ∃ it, s.givenIn d = some it ∧ it.isGroup k = true
    ∃ t, exec .dieReset s = .next t ∧ (∀ x ∈ t.allTeams, x ∈ s.allTeams ∧ away x.id ∧ ¬ given x.id) ∧
      (∀ g ∈ t.allGroups, g ∈ s.allGroups ∧ away g.team ∧ ¬ given g.team) ∧
      (t.dieAt d).cands = [] ∧ (t.dieAt d).walks = [] ∧ (t.dieAt d).temp = none ∧
      (∀ r ∈ t.tasks, hHome r.handle = d → r.orphan = true ∧
        (r.die ≠ d ∨ (s.givenBy d).any (StealItem.isRecord r.handle) = true ∨ r.grid.isSome = true)) ∧
      ((∀ m ∈ t.msgs, m.dst ≠ d ∧ (m.src = d → m.body.outlives)) ∧
        (∀ m ∈ s.msgs, m.dst ≠ d → (m.src = d → m.body.outlives) → m ∈ t.msgs) ∧
        ∀ m ∈ s.msgs, m.dst = d → ∀ h, m.body.actsOn h → hHome h ≠ d →
          (∃ r ∈ t.tasks, r.handle = h ∧ r.st ≠ .lost) → ⟨m.src, hHome h, m.body⟩ ∈ t.msgs) ∧
      (∀ r ∈ s.tasks, r.remnant = false → hHome r.handle ≠ d → s.losesGroupOf d r = true → ∃ x ∈ t.tasks, x.handle = r.handle ∧ x.st = .lost) ∧
      t.toHost = s.toHost ++ (s.losses d).map fun w => ToHost.event 4 (s.partOfDie d) w := by
  intro d away given
  obtain ⟨t, ht, hgroups, hteams, hg, htm, htasks, hmsgs, ⟨hcands, hwalks, htemp⟩, hhost⟩ := execDieReset_spec s
  refine ⟨t, ht, fun x hx => ?_, fun g hx => ?_, hcands, hwalks, htemp, fun x hx hh => ?_,
    ⟨fun m hm => ?_, fun m hm hd hs => ?_, fun m hm hd h hb hh hr => ?_⟩, fun r hr hn hh hl => ?_, hhost⟩
  · rw [State.allTeams, hteams, htm] at hx
    obtain ⟨hmem, hkeep⟩ := mem_left_of_taken (id := Team.id) (key := Team.id) rfl hx
    exact ⟨hmem, State.takesTeam_false hkeep⟩
  · rw [State.allGroups, hgroups, hg] at hx
    obtain ⟨hmem, hkeep⟩ := mem_left_of_taken (id := Group.id) (key := Group.team) rfl hx
    exact ⟨hmem, State.takesTeam_false hkeep⟩
  · rw [htasks, List.mem_filterMap] at hx
    obtain ⟨r, -, hr⟩ := hx
    exact State.recordAfter_home hr hh
  · rw [hmsgs, List.mem_filterMap] at hm
    obtain ⟨m', -, hm'⟩ := hm
    exact Msg.afterReset_spec hm'
  · rw [hmsgs, List.mem_filterMap]
    exact ⟨m, hm, Msg.afterReset_kept hd hs⟩
  · rw [hmsgs, List.mem_filterMap]
    rw [htasks] at hr
    exact ⟨m, hm, Msg.afterReset_home hd hb hh hr⟩
  · obtain ⟨x, hx, hspec⟩ := State.recordAfter_loses hn hh hl
    rw [htasks]
    exact ⟨x, List.mem_filterMap.mpr ⟨r, hr, hx⟩, hspec⟩

/-- Settles O48: each clause is what one step says of itself in the lemmas above. -/
theorem diesAndErrors : Obligations.DiesAndErrors := by
  unfold Obligations.DiesAndErrors
  exact ⟨fun s => execTemperatureSample_spec, fun s => execWeightStoreRefresh_spec, execPowerGatingRequest_spec, execLinkFailure_spec,
    dieReset_leaves, fun s => ⟨execErrorDetected_invalid, fun h1 h6 h2 => execErrorDetected_spec ⟨h1, h6, h2⟩⟩, fun s => rfl⟩

end Sys2Proof.Proofs
end

section
/-! PROOFS. Saturation and absence (03 R68, R69, R71, R83, R94, 09 R245 to R248): the signed reading of a pattern, results
that are an exact integer clamped, and what an absent operand leaves of an operation. -/

namespace Sys2Proof.Machine

/-- The model's signed reading is that of the bit vector with the pattern's low bits (00 R10). -/
theorem sextNat_eq_toInt (w x : Nat) : sextNat w x = (BitVec.ofNat w x).toInt := by
  rcases Nat.eq_zero_or_pos w with rfl | hw
  · simp [sextNat, BitVec.of_length_zero]
  · have h2 := Nat.two_pow_pred_mul_two hw
    simp only [sextNat, if_neg hw.ne', BitVec.toInt_eq_toNat_cond, BitVec.toNat_ofNat]
    refine if_congr ?_ rfl rfl
    omega

theorem patInt_eq_toNat (w : Nat) (x : Int) : patInt w x = (BitVec.ofInt w x).toNat := (BitVec.toNat_ofInt x).symm

theorem patInt_lt (w : Nat) (x : Int) : patInt w x < 2 ^ w := by
  rw [patInt_eq_toNat]
  exact BitVec.isLt _

theorem satMax_nonneg (w : Nat) : 0 ≤ satMax w := Int.sub_nonneg.mpr (one_le_pow₀ one_le_two)

/-- An integer of the present range is read back from its pattern (03 R68). -/
theorem sextNat_patInt {w : Nat} {x : Int} (hw : 0 < w) (hx : |x| ≤ satMax w) : sextNat w (patInt w x) = x := by
  rw [satMax, abs_le] at hx
  rw [sextNat_eq_toInt, patInt_eq_toNat, BitVec.ofNat_toNat, BitVec.setWidth_eq]
  exact BitVec.toInt_ofInt_eq_self hw (by linarith) (by linarith)

/-- A pattern of the width reads outside the present range exactly where it is the absent code (03 R68). -/
theorem abs_sextNat_le_iff {w a : Nat} (hw : 0 < w) (ha : a < 2 ^ w) : |sextNat w a| ≤ satMax w ↔ a ≠ 2 ^ (w - 1) := by
  have h2 := Nat.two_pow_pred_mul_two hw
  have hcast : (2 : Int) ^ (w - 1) = (2 ^ (w - 1) : Nat) := by push_cast; rfl
  simp only [sextNat, if_neg hw.ne', Nat.mod_eq_of_lt ha]
  rw [satMax, abs_le, hcast]
  split <;> omega

/-- The present range of a width, in the model's own name for its end (03 R68). -/
theorem clamped_iff {w : Nat} {r : Res} {n : Int} : Claim.clamped w r n ↔
    sextNat w r.bits = Max.max (-satMax w) (Min.min (satMax w) n) ∧ r.bits < 2 ^ w ∧ r.fl = {} ∧
      (r.vo = true ↔ n < -satMax w ∨ satMax w < n) := Iff.rfl

/-- A result that reads as an integer of the present range is that integer clamped, without vo. -/
theorem clamped_of_present {w bits : Nat} {n : Int} (hb : bits < 2 ^ w) (hs : sextNat w bits = n) (hn : |n| ≤ satMax w) :
    Claim.clamped w ⟨bits, {}, false⟩ n := by
  obtain ⟨hlo, hhi⟩ := abs_le.mp hn
  refine clamped_iff.mpr ⟨?_, hb, rfl, iff_of_false Bool.false_ne_true (not_or.mpr ⟨hlo.not_gt, hhi.not_gt⟩)⟩
  rw [hs, min_eq_right hhi, max_eq_right hlo]

theorem clamped_patInt {w : Nat} {n : Int} (hw : 0 < w) (hn : |n| ≤ satMax w) : Claim.clamped w ⟨patInt w n, {}, false⟩ n :=
  clamped_of_present (patInt_lt w n) (sextNat_patInt hw hn) hn

theorem abs_satMax_le (w : Nat) : |satMax w| ≤ satMax w := (abs_of_nonneg (satMax_nonneg w)).le

/-- Saturation clamps, at every width (03 R69). -/
theorem clamped_satInt {w : Nat} (hw : 0 < w) (x : Int) : Claim.clamped w (satInt w x) x := by
  have h0 := satMax_nonneg w
  by_cases hhi : satMax w < x
  · rw [satInt, if_pos hhi]
    refine clamped_iff.mpr ⟨?_, patInt_lt _ _, rfl, iff_of_true rfl (.inr hhi)⟩
    rw [sextNat_patInt hw (abs_satMax_le w), min_eq_left hhi.le, max_eq_right (by linarith)]
  · by_cases hlo : x < -satMax w
    · rw [satInt, if_neg hhi, if_pos hlo]
      refine clamped_iff.mpr ⟨?_, patInt_lt _ _, rfl, iff_of_true rfl (.inl hlo)⟩
      rw [sextNat_patInt hw (by rw [abs_neg]; exact abs_satMax_le w), min_eq_right (by linarith), max_eq_left hlo.le]
    · rw [satInt, if_neg hhi, if_neg hlo]
      exact clamped_patInt hw (abs_le.mpr ⟨not_lt.mp hlo, not_lt.mp hhi⟩)

/-- A clamped result is present (03 R69: integer arithmetic never produces an absent code). -/
theorem clamped_ne_absent {w : Nat} {r : Res} {n : Int} (hw : 0 < w) (h : Claim.clamped w r n) : r.bits ≠ 2 ^ (w - 1) := by
  obtain ⟨hs, hb, -, -⟩ := clamped_iff.mp h
  have h0 := satMax_nonneg w
  rw [← abs_sextNat_le_iff hw hb, hs, abs_le]
  exact ⟨le_max_left _ _, max_le (by linarith) (min_le_left _ _)⟩

/-- The vector integer types: no float format, and the most negative code absent (03 R68). -/
theorem vectorInt_spec {t : Ty} (h : t = .i8 ∨ t = .i16 ∨ t = .i32) :
    t.fmt? = none ∧ 0 < t.bits ∧ t.absent = some (2 ^ (t.bits - 1)) := by
  rcases h with rfl | rfl | rfl <;> exact ⟨rfl, by decide, rfl⟩

theorem isAbsent_eq_false {t : Ty} {c x : Nat} (h : t.absent = some c) (hx : x ≠ c) : t.isAbsent x = false := by
  simpa only [Ty.isAbsent, h, Option.some_inj, decide_eq_false_iff_not] using hx.symm

/-! The operations on present patterns of an integer type (03 R69, 09 R245, R246, R248). -/

section
variable {t : Ty} (ht : t.fmt? = none) (rm : RMode) (a b : Nat)
include ht

theorem BinOp.eval_min_int :
    BinOp.eval .min t rm a b = ⟨if sextNat t.bits a ≤ sextNat t.bits b then a else b, {}, false⟩ := by
  simp only [BinOp.eval, ht]

theorem BinOp.eval_max_int :
    BinOp.eval .max t rm a b = ⟨if sextNat t.bits b ≤ sextNat t.bits a then a else b, {}, false⟩ := by
  simp only [BinOp.eval, ht, ge_iff_le]

theorem BinOp.eval_div_int (hy : sextNat t.bits b ≠ 0) :
    BinOp.eval .div t rm a b = ⟨patInt t.bits ((sextNat t.bits a).tdiv (sextNat t.bits b)), {}, false⟩ := by
  simp only [BinOp.eval, ht, if_neg hy]

/-- Division by zero gives the end of the range on the side of the dividend's sign, 0 for 0 (09 R248). -/
theorem BinOp.eval_div_zero (hy : sextNat t.bits b = 0) :
    BinOp.eval .div t rm a b = ⟨patInt t.bits (if 0 < sextNat t.bits a then satMax t.bits
      else if sextNat t.bits a < 0 then -satMax t.bits else 0), {}, true⟩ := by
  simp only [BinOp.eval, ht, if_pos hy, gt_iff_lt]

variable {a b} (ha : a < 2 ^ t.bits) (hb : b < 2 ^ t.bits)
  (hx : |sextNat t.bits a| ≤ satMax t.bits) (hy : |sextNat t.bits b| ≤ satMax t.bits)
include ha hb hx hy

theorem clamped_eval_min : Claim.clamped t.bits (BinOp.eval .min t rm a b) (Min.min (sextNat t.bits a) (sextNat t.bits b)) := by
  rw [BinOp.eval_min_int ht, min_def]
  split
  · exact clamped_of_present ha rfl hx
  · exact clamped_of_present hb rfl hy

theorem clamped_eval_max : Claim.clamped t.bits (BinOp.eval .max t rm a b) (Max.max (sextNat t.bits a) (sextNat t.bits b)) := by
  rw [BinOp.eval_max_int ht, max_comm, max_def]
  split
  · exact clamped_of_present ha rfl hx
  · exact clamped_of_present hb rfl hy

end

section
variable {t : Ty} (ht : t.fmt? = none) (hw : 0 < t.bits) (rm : RMode) {a b : Nat}
include ht hw

theorem clamped_eval_add : Claim.clamped t.bits (BinOp.eval .add t rm a b) (sextNat t.bits a + sextNat t.bits b) := by
  simpa only [BinOp.eval, ht] using clamped_satInt hw _

theorem clamped_eval_sub : Claim.clamped t.bits (BinOp.eval .sub t rm a b) (sextNat t.bits a - sextNat t.bits b) := by
  simpa only [BinOp.eval, ht] using clamped_satInt hw _

theorem clamped_eval_mul : Claim.clamped t.bits (BinOp.eval .mul t rm a b) (sextNat t.bits a * sextNat t.bits b) := by
  simpa only [BinOp.eval, ht] using clamped_satInt hw _

theorem clamped_macRun {d : Nat} (p : Bool) (ha : t.isAbsent a = false) (hb : t.isAbsent b = false) (hd : t.isAbsent d = false) :
    Claim.clamped t.bits (macRun t p rm a b d) (sextNat t.bits a * sextNat t.bits b + sextNat t.bits d) := by
  simpa [macRun, ht, ha, hb, hd] using clamped_satInt hw _

theorem clamped_absEval (hx : |sextNat t.bits a| ≤ satMax t.bits) : Claim.clamped t.bits (absEval t a) |sextNat t.bits a| := by
  have h := clamped_patInt hw (n := |sextNat t.bits a|) (by rwa [abs_abs])
  simpa only [absEval, ht, Int.abs_eq_natAbs] using h

theorem clamped_negEval (hx : |sextNat t.bits a| ≤ satMax t.bits) : Claim.clamped t.bits (negEval t a) (-sextNat t.bits a) := by
  simpa only [negEval, ht] using clamped_patInt hw (by rwa [abs_neg])

/-- The quotient rounded toward zero is no larger than the dividend, so it never saturates. -/
theorem clamped_eval_div (hx : |sextNat t.bits a| ≤ satMax t.bits) (hy : sextNat t.bits b ≠ 0) :
    Claim.clamped t.bits (BinOp.eval .div t rm a b) ((sextNat t.bits a).tdiv (sextNat t.bits b)) := by
  rw [BinOp.eval_div_int ht rm a b hy]
  refine clamped_patInt hw (le_trans ?_ hx)
  rw [Int.abs_eq_natAbs, Int.abs_eq_natAbs]
  exact_mod_cast Int.natAbs_tdiv_le_natAbs _ _

theorem sextNat_eval_div_zero (hy : sextNat t.bits b = 0) :
    sextNat t.bits (BinOp.eval .div t rm a b).bits =
      if 0 < sextNat t.bits a then satMax t.bits else if sextNat t.bits a < 0 then -satMax t.bits else 0 := by
  rw [BinOp.eval_div_zero ht rm a b hy]
  refine sextNat_patInt hw ?_
  split_ifs
  · exact abs_satMax_le _
  · rw [abs_neg]; exact abs_satMax_le _
  · rw [abs_zero]; exact satMax_nonneg _

end

/-- The arithmetic right shift, for every amount, is the floor of the quotient, which stays in the present range (09 R247). -/
theorem sextNat_eval_sra {t : Ty} (hw : 0 < t.bits) (rm : RMode) {a b : Nat} (hx : |sextNat t.bits a| ≤ satMax t.bits) :
    sextNat t.bits (BinOp.eval .sra t rm a b).bits = sextNat t.bits a / 2 ^ Min.min b t.bits := by
  have hk : (if b ≥ t.bits then t.bits else b) = Min.min b t.bits := by rw [min_comm, min_def]
  simp only [BinOp.eval, hk]
  push_cast
  exact sextNat_patInt hw ((Int.abs_ediv_le_abs _ _).trans hx)

/-! An absent operand (03 R83). -/

theorem BinOp.run_present (o : BinOp) {t : Ty} (p : Bool) (rm : RMode) {a b : Nat} (ha : t.isAbsent a = false)
    (hb : t.isAbsent b = false) : o.run t p rm a b = o.eval t rm a b := by
  simp [BinOp.run, ha, hb]

/-- In strict mode, or with both operands absent, the result is the absent code with ABS alone. -/
theorem BinOp.run_none (o : BinOp) {t : Ty} {p : Bool} (rm : RMode) {a b : Nat} (h : t.isAbsent a = true ∨ t.isAbsent b = true)
    (hp : p = false ∨ t.isAbsent a = true ∧ t.isAbsent b = true) :
    o.run t p rm a b = ⟨t.absentCode, { abs := true }, false⟩ := by
  have hn : (!t.isAbsent a && !t.isAbsent b) = false := by rcases h with h | h <;> simp [h]
  have hs : (!p || (t.isAbsent a && t.isAbsent b)) = true := by
    rcases hp with rfl | ⟨ha, hb⟩
    · rfl
    · simp [ha, hb]
  simp [BinOp.run, hn, hs, Res.abs]

theorem BinOp.run_right_absent (o : BinOp) {t : Ty} (rm : RMode) {a b : Nat} (ha : t.isAbsent a = false) (hb : t.isAbsent b = true) :
    o.run t true rm a b = ⟨deliver o t a, { abs := true }, false⟩ := by
  simp [BinOp.run, ha, hb, Res.abs]

/-- What pass mode delivers of a present `b` where `a` is absent: a division and a shift have no identity on the left (03 R83). -/
def BinOp.passRight (o : BinOp) (t : Ty) (b : Nat) : Nat :=
  match o with
  | .sub => negPat t b
  | .div | .sll | .srl | .sra => t.absentCode
  | o => deliver o t b

theorem BinOp.run_left_absent (o : BinOp) {t : Ty} (rm : RMode) {a b : Nat} (ha : t.isAbsent a = true) (hb : t.isAbsent b = false) :
    o.run t true rm a b = ⟨o.passRight t b, { abs := true }, false⟩ := by
  cases o <;> simp [BinOp.run, BinOp.passRight, ha, hb, Res.abs]

/-- An absent operand leaves ABS as the only flag, and no vo, in either mode. -/
theorem BinOp.run_absent (o : BinOp) {t : Ty} (p : Bool) (rm : RMode) {a b : Nat} (h : t.isAbsent a = true ∨ t.isAbsent b = true) :
    ∃ x, o.run t p rm a b = ⟨x, { abs := true }, false⟩ := by
  cases p with
  | false => exact ⟨_, o.run_none rm h (.inl rfl)⟩
  | true =>
    cases ha : t.isAbsent a <;> cases hb : t.isAbsent b
    · simp [ha, hb] at h
    · exact ⟨_, o.run_right_absent rm ha hb⟩
    · exact ⟨_, o.run_left_absent rm ha hb⟩
    · exact ⟨_, o.run_none rm h (.inr ⟨ha, hb⟩)⟩

theorem fmt_eq_none_of_isInt : ∀ {t : Ty}, t.isInt = true → t.fmt? = none
  | .i8, _ | .i16, _ | .i32, _ | .i64, _ => rfl

theorem deliver_eq_self {o : BinOp} {t : Ty} (h : t.isInt = true ∨ o.raw = true) (x : Nat) : deliver o t x = x := by
  rcases h with h | h
  · simp [deliver, fmt_eq_none_of_isInt h]
  · simp [deliver, h]

end Sys2Proof.Machine

namespace Sys2Proof.Proofs
open Sys2Proof.Machine

/-- Settles O19: the integer operations are saturations or readings of present patterns, and each mode of an absent operand has
its equation. -/
theorem saturationAndAbsence : Obligations.SaturationAndAbsence := by
  unfold Obligations.SaturationAndAbsence
  refine ⟨⟨fun w x hw => ?_, fun t rm p a b d h => ?_⟩, fun o t p rm a b _ => ?_⟩
  · have hc := clamped_satInt (by omega : 0 < w) x
    have hne := clamped_ne_absent (by omega) hc
    obtain ⟨hs, hb, hfl, hvo⟩ := hc
    exact ⟨hs, hb, hne, hfl, hvo⟩
  · obtain ⟨ht, hw, habs⟩ := vectorInt_spec h
    intro w m x y ev ha hb hd hna hnb hnd
    have hx := (abs_sextNat_le_iff hw ha).mpr hna
    have hy := (abs_sextNat_le_iff hw hb).mpr hnb
    exact ⟨clamped_eval_add ht hw rm, clamped_eval_sub ht hw rm, clamped_eval_mul ht hw rm,
      clamped_macRun ht hw rm p (isAbsent_eq_false habs hna) (isAbsent_eq_false habs hnb) (isAbsent_eq_false habs hnd),
      clamped_eval_min ht rm ha hb hx hy, clamped_eval_max ht rm ha hb hx hy,
      clamped_absEval ht hw hx, clamped_negEval ht hw hx, clamped_eval_div ht hw rm hx,
      fun h0 => ⟨sextNat_eval_div_zero ht hw rm h0, congrArg Res.fl (BinOp.eval_div_zero ht rm a b h0),
        congrArg Res.vo (BinOp.eval_div_zero ht rm a b h0)⟩,
      rfl, rfl, rfl, rfl, rfl, sextNat_eval_sra hw rm hx, patInt_lt _ _, rfl, rfl⟩
  · intro no r
    refine ⟨o.run_present p rm, fun h => ?_, fun ha hb => o.run_none rm (.inl ha) (.inr ⟨ha, hb⟩),
      fun hp h => o.run_none rm h (.inl hp), ?_, ?_, deliver_eq_self⟩
    · obtain ⟨x, hr⟩ := o.run_absent p rm h
      exact ⟨congrArg Res.fl hr, congrArg Res.vo hr⟩
    · rintro rfl ha hb
      exact congrArg Res.bits (o.run_right_absent rm ha hb)
    · rintro rfl ha hb
      have hr : r = _ := o.run_left_absent rm ha hb
      rw [hr]
      refine ⟨?_, fun ho => by rw [ho]; rfl, ?_⟩
      · rintro (rfl | rfl | rfl | rfl) <;> rfl
      · rintro (rfl | rfl | rfl | rfl | rfl | rfl | rfl) <;> rfl

end Sys2Proof.Proofs
end

section
/-! PROOFS. Pivots (04 R119 to R121, 10 R286) and the bindings of the regions that they guard (04 R117, R118, R124, 10 R287). -/

namespace Sys2Proof.Machine

/-- No element of a list has a property: how the model's searches for one answer. -/
theorem find?_decide_eq_none {α : Type} {l : List α} {p : α → Prop} [DecidablePred p] (h : ∀ x ∈ l, ¬ p x) :
    l.find? (fun x => decide (p x)) = none :=
  List.find?_eq_none.mpr fun x hx => by rw [decide_eq_true_iff]; exact h x hx

theorem any_decide_eq_false {α : Type} {l : List α} {p : α → Prop} [DecidablePred p] (h : ∀ x ∈ l, ¬ p x) :
    (l.any fun x => decide (p x)) = false :=
  List.any_eq_false.mpr fun x hx => by rw [decide_eq_true_iff]; exact h x hx

theorem any_decide_eq_true {α : Type} {l : List α} {p : α → Prop} [DecidablePred p] (h : ∃ x ∈ l, p x) :
    (l.any fun x => decide (p x)) = true :=
  List.any_eq_true.mpr (h.imp fun _ hx => ⟨hx.1, decide_eq_true hx.2⟩)

theorem pivX_eq_testBit (w : Nat) : pivX w = w.testBit 63 := by
  rw [pivX, field, Nat.testBit_eq_decide_div_mod_eq, Nat.pow_one]

theorem pivSeq_eq_mod (w : Nat) : pivSeq w = w % 2 ^ 32 := by rw [pivSeq, field, Nat.pow_zero, Nat.div_one]

theorem pivWord_eq_claim (x : Bool) (shr seq : Nat) : natLe 8 (pivWord x shr seq) = Claim.pivotWord x shr seq := by
  cases x <;> simp [pivWord, Claim.pivotWord, b2n]

theorem pivFree_iff (s : State) (pa : Nat) (sh : Bool) : pivFree (s.hbm.num pa 8) sh = true ↔ Claim.pivotFree s pa sh := by
  unfold pivFree Claim.pivotFree
  rw [pivX_eq_testBit, Bool.and_eq_true, Bool.not_eq_true']
  exact and_congr_right fun _ => by cases sh <;> exact decide_eq_true_iff

/-- A change of the current group, which keeps its identifier. -/
theorem State.updGroup_current {s : State} {f : Group → Group} (h : s.g.id ≠ 0) (hf : (f s.g).id = s.g.id) :
    s.updGroup s.g.id f = { s with g := f s.g } := by
  have hg : s.group? s.g.id = some s.g := by simp [State.group?, State.allGroups, h]
  rw [State.updGroup, hg]
  exact if_pos hf

/-- The word of a pivot as a grant leaves it (04 R120). -/
def grantedWord (w : Nat) (sh : Bool) : List Byte :=
  if sh then Claim.pivotWord false (w / 2 ^ 32 % 2 ^ 16 + 1) (w % 2 ^ 32) else Claim.pivotWord true 0 (w % 2 ^ 32)

/-- The word of a pivot as a release leaves it (04 R120). -/
def releasedWord (w : Nat) (excl : Bool) : List Byte :=
  if excl then Claim.pivotWord false (w / 2 ^ 32 % 2 ^ 16) (w % 2 ^ 32 + 1)
  else Claim.pivotWord (w.testBit 63) (w / 2 ^ 32 % 2 ^ 16 - 1) (w % 2 ^ 32)

theorem grantedWord_eq (w : Nat) (sh : Bool) :
    natLe 8 (if sh then pivWord false (pivShr w + 1) (pivSeq w) else pivWord true 0 (pivSeq w)) = grantedWord w sh := by
  rw [apply_ite (natLe 8), pivWord_eq_claim, pivWord_eq_claim, pivSeq_eq_mod]
  rfl

theorem releasedWord_eq (w : Nat) (excl : Bool) :
    natLe 8 (if excl then pivWord false (pivShr w) (pivSeq w + 1) else pivWord (pivX w) (pivShr w - 1) (pivSeq w)) = releasedWord w excl := by
  rw [pivX_eq_testBit, pivSeq_eq_mod, apply_ite (natLe 8), pivWord_eq_claim, pivWord_eq_claim]
  rfl

/-- A grant to the current group writes the word and notes the hold. -/
theorem State.grantPivot_current {s : State} (pa : Nat) (sh : Bool) (h : s.g.id ≠ 0) :
    s.grantPivot pa s.g.id sh =
      { s with hbm := s.hbm.store pa (grantedWord (s.hbm.num pa 8) sh), g := { s.g with holds := s.g.holds ++ [(pa, !sh)] } } := by
  rw [← grantedWord_eq]
  exact State.updGroup_current (s := s.setPivot pa _) h rfl

/-- A release by the current group writes the word and forgets the hold. -/
theorem State.releasePivot_current {s : State} (pa : Nat) (excl : Bool) (h : s.g.id ≠ 0) :
    s.releasePivot pa s.g.id excl =
      { s with
        hbm := s.hbm.store pa (releasedWord (s.hbm.num pa 8) excl)
        g := { s.g with holds := s.g.holds.filter fun h => decide (h.1 ≠ pa) } } := by
  rw [← releasedWord_eq]
  exact State.updGroup_current (s := s.setPivot pa _) h rfl

/-! The pivot that `c[a]` names: what acquisitions and releases of it come to. -/

section
variable {s u : State} {va : Word} {pa : Nat} (hp : s.place s.agent .load va 8 8 = .ok (.hbm pa, u)) (hpiv : pa ∈ s.pivots)
include hp hpiv

theorem State.pivotAt_eq : s.pivotAt va = .ok (pa, u) := by
  unfold State.pivotAt
  rw [hp]
  exact congrArg u.keeping (if_pos (List.contains_iff_mem.mpr hpiv))

theorem State.acquire_eq (sh : Bool) : s.acquire va sh = u.keeping (do
    need ((s.g.holds.any fun h => h.1 = pa) = false ∧ s.g.holds.length < 8) causePivot va
    if !(s.pwaits.any fun w => w.pa = pa) && pivFree (s.hbm.num pa 8) sh then .ok (u.grantPivot pa s.g.id sh)
    else .ok ({ u with pwaits := u.pwaits ++ [PivotWait.mk pa s.g.id sh] }.holdUnit (.acq pa sh))) := by
  rw [State.acquire, State.pivotAt_eq hp hpiv]
  rfl

theorem State.acquire_refused (sh : Bool) (h : (∃ x ∈ s.g.holds, x.1 = pa) ∨ 8 ≤ s.g.holds.length) :
    s.acquire va sh = .error (.trap { cause := causePivot, info := va, tlb := some u.tlb }) := by
  have hn : ¬ ((s.g.holds.any fun h => h.1 = pa) = false ∧ s.g.holds.length < 8) := by
    rintro ⟨hany, hlen⟩
    rcases h with h | hlen'
    · exact ne_false_of_eq_true (any_decide_eq_true h) hany
    · omega
  rw [State.acquire_eq hp hpiv, need_false _ _ _ hn]
  rfl

section
variable (sh : Bool) (hn : ∀ h ∈ s.g.holds, h.1 ≠ pa) (hl : s.g.holds.length < 8)
include hn hl

/-- What the request of a group comes to that does not hold the pivot and holds fewer than eight. -/
theorem State.acquire_admitted : s.acquire va sh =
    .ok (if !(s.pwaits.any fun w => w.pa = pa) && pivFree (s.hbm.num pa 8) sh then u.grantPivot pa s.g.id sh
      else State.holdUnit { u with pwaits := s.pwaits ++ [⟨pa, s.g.id, sh⟩] } (.acq pa sh)) := by
  have hany : (s.g.holds.any fun h => h.1 = pa) = false := any_decide_eq_false hn
  have hu : u.pwaits = s.pwaits := by rw [State.place_walksTo hp]; rfl
  rw [State.acquire_eq hp hpiv, need_true _ _ _ ⟨hany, hl⟩, hu]
  generalize (!(s.pwaits.any fun w => w.pa = pa) && pivFree (s.hbm.num pa 8) sh) = b
  cases b <;> rfl

theorem State.acquire_granted (hw : ∀ w ∈ s.pwaits, w.pa ≠ pa) (hf : Claim.pivotFree s pa sh) :
    s.acquire va sh = .ok (u.grantPivot pa s.g.id sh) := by
  have hany : (s.pwaits.any fun w => w.pa = pa) = false := any_decide_eq_false hw
  rw [State.acquire_admitted hp hpiv sh hn hl, hany, (pivFree_iff s pa sh).mpr hf]
  rfl

theorem State.acquire_waits (h : ¬ Claim.pivotFree s pa sh ∨ ∃ w ∈ s.pwaits, w.pa = pa) :
    s.acquire va sh = .ok (State.holdUnit { u with pwaits := s.pwaits ++ [⟨pa, s.g.id, sh⟩] } (.acq pa sh)) := by
  rw [State.acquire_admitted hp hpiv sh hn hl, if_neg]
  rw [Bool.and_eq_true, pivFree_iff, Bool.not_eq_true', List.any_eq_false]
  rintro ⟨hw, hf⟩
  rcases h with h | ⟨w, hw', hpa⟩
  · exact h hf
  · exact hw w hw' (decide_eq_true hpa)

end

section
variable {a : CReg} (ha : s.c a = va)
include ha

theorem execRel_eq : execRel a s = s.finish (u.keeping (match s.g.holds.find? fun h => h.1 = pa with
    | none => trapM causePivot va
    | some (_, excl) =>
      if excl && (s.ownOps.any fun o => (s.regionsOf pa).any fun b => s.destMeets o b.1 b.2.base b.2.len) then holdM .rel
      else .ok (u.releasePivot pa s.g.id excl))) := by
  rw [execRel, ha, State.pivotAt_eq hp hpiv]
  rfl

theorem execRel_refused (hn : ∀ h ∈ s.g.holds, h.1 ≠ pa) :
    execRel a s = .next (s.raiseTrap { cause := causePivot, info := va, tlb := some u.tlb }) := by
  have hnone : s.g.holds.find? (fun h => decide (h.1 = pa)) = none := find?_decide_eq_none hn
  rw [execRel_eq hp hpiv ha, hnone]
  rfl

/-- A release that no engine operation of the group holds up. -/
theorem execRel_released {excl : Bool} (hh : s.g.holds.find? (fun h => decide (h.1 = pa)) = some (pa, excl))
    (ho : excl = true → ∀ o ∈ s.ops, o.g ≠ s.g.id) : execRel a s = .next (u.releasePivot pa s.g.id excl) := by
  have hfree : (excl && (s.ownOps.any fun o => (s.regionsOf pa).any fun b => s.destMeets o b.1 b.2.base b.2.len)) = false := by
    rcases Bool.eq_false_or_eq_true excl with he | he
    · have hown : s.ownOps = [] := List.filter_eq_nil_iff.mpr fun o h => by simpa using ho he o h
      rw [hown, List.any_nil, Bool.and_false]
    · rw [he, Bool.false_and]
  rw [execRel_eq hp hpiv ha, hh]
  dsimp only
  rw [hfree]
  rfl

end

end

/-! The grant of a pivot to its first waiter (04 R120). -/

theorem State.focus_hbm (s : State) (g : Nat) : (s.focus g).hbm = s.hbm := by
  have ht : ∀ (q : State) (k : Nat), (q.focusTeam k).hbm = q.hbm := by
    intro q k
    unfold State.focusTeam
    split
    · rfl
    · dsimp only
      split <;> rfl
  unfold State.focus
  rw [ht]
  split
  · rfl
  · dsimp only
    split <;> rfl

theorem execPivotGrant_none {s : State} (h : ∀ w ∈ s.pwaits, w.pa ≠ s.ev.pa) : execPivotGrant s = .next s := by
  have hnone : s.pwaits.find? (fun w => decide (w.pa = s.ev.pa)) = none := find?_decide_eq_none h
  rw [execPivotGrant, hnone]

section
variable {s : State} {w : PivotWait} (hw : s.pwaits.find? (fun w => decide (w.pa = s.ev.pa)) = some w)
include hw

theorem execPivotGrant_held (h : ¬ Claim.pivotFree s w.pa w.sh) : execPivotGrant s = .next s := by
  rw [execPivotGrant, hw]
  exact congrArg _ (if_neg fun hf => h ((pivFree_iff ..).mp hf))

theorem execPivotGrant_granted (h : Claim.pivotFree s w.pa w.sh) :
    execPivotGrant s = .next ((({ s with pwaits := s.pwaits.erase w } : State).focus w.g).grantPivot w.pa w.g w.sh).passUnit := by
  rw [execPivotGrant, hw]
  exact congrArg _ (if_pos ((pivFree_iff ..).mpr h))

end

/-! Who owns a line (04 R126), and what an access of a group to it comes to. -/

theorem State.ownedBy_of_unowned {s : State} (op : Nat) {line : Nat} (h : ∀ o ∈ s.ops, line ∉ o.lines) : s.ownedBy op line = false :=
  List.any_eq_false.mpr fun o ho => by simp [h o ho]

theorem State.ownedBy_of_owned {s : State} {line : Nat} (h0 : ∀ o ∈ s.ops, o.id ≠ 0) (h : ∃ o ∈ s.ops, line ∈ o.lines) : s.ownedBy 0 line = true := by
  obtain ⟨o, ho, hl⟩ := h
  have hnone : s.op? 0 = none := find?_decide_eq_none h0
  exact List.any_eq_true.mpr ⟨o, ho, by simp [hnone, h0 o ho, hl]⟩

section
variable {s q : State} {ag : Agent} {k : AccKind} {pa size key : Nat}

theorem State.placeLine_of_unheld (h : s.lineUnder (pa / 128) key = none) : s.placeLine ag k pa size key = .error (.trap causeAccess 0 s.tlb) := by
  rw [State.placeLine, h]

variable (h : s.lineUnder (pa / 128) key = some q)
include h

theorem State.placeLine_of_owned (ho : q.ownedBy ag.op (pa / 128) = true) : s.placeLine ag k pa size key = .error (.recall (pa / 128)) := by
  rw [State.placeLine, h]
  exact if_pos ho

theorem State.placeLine_of_poison (ho : q.ownedBy ag.op (pa / 128) = false) {x : Nat × Word}
    (hx : q.poison.find? (fun x => decide (x.1 = pa / 128)) = some x) (hs : size ≠ 128) :
    s.placeLine ag k pa size key = .error (.trap causeData x.2 q.tlb) := by
  rw [State.placeLine, h]
  dsimp only
  rw [ho, hx]
  exact if_neg fun hk : k = .store ∧ size = 128 => hs hk.2

theorem State.placeLine_of_clean (ho : q.ownedBy ag.op (pa / 128) = false) (hx : ∀ x ∈ q.poison, x.1 ≠ pa / 128) :
    s.placeLine ag k pa size key = .ok (.hbm pa, q) := by
  have hnone : q.poison.find? (fun x => decide (x.1 = pa / 128)) = none := find?_decide_eq_none hx
  rw [State.placeLine, h]
  dsimp only
  rw [ho, hnone]
  rfl

end

/-! `bind` where the pivot's address translates (04 R117 to R119, 10 R287). -/

/-- One of the conditions of 04 R118 on the length, the pivot's alignment and the number of bindings fails. -/
theorem State.bindBad_of {c : Context} {base len pivot : Word} (h : len = 0 ∨ pivot.toNat % 8 ≠ 0 ∨ 1024 ≤ c.binds.length ∨ 2 ^ 40 < len.toNat)
    (space : Nat) : State.bindBad c base len pivot space = true := by
  unfold State.bindBad
  rcases h with h | h | h | h <;> simp only [h, decide_true, Bool.true_or, Bool.or_true, ne_eq, not_false_eq_true]

/-- The context of the group with one more binding. -/
def State.withBinding (s u : State) (d a b : CReg) (pa : Nat) : State :=
  u.setCtx s.t.ctx { s.ctx s.t.ctx with binds := (s.ctx s.t.ctx).binds ++ [⟨s.c a, s.c b, s.c d, pa⟩] }

section
variable {s u : State} {d : CReg} (a b : CReg) {leaf level pa : Nat} (hd : (s.c d).toNat < 2 ^ 52)
  (hl : s.leafFor s.agent .store (s.c d).toNat = .ok (leaf, level, u)) (hpa : ptePfn leaf * 65536 + pageOff level (s.c d).toNat = pa)
include hd hl hpa

theorem execBind_eq : execBind d a b s = s.finish (do
    u.keeping (need (State.bindBad (s.ctx s.t.ctx) (s.c a) (s.c b) (s.c d) (pteSpace leaf) = false) causeBinding (s.c a))
    if (s.withBinding u d a b pa).pivots.contains pa then .ok (s.withBinding u d a b pa) else
    let (_, q) ← liftFail noElem (s.c d) ((s.withBinding u d a b pa).placeLine s.agent .store pa 8 (pteKey leaf))
    .ok { q.setPivot pa 0 with pivots := pa :: q.pivots }) := by
  subst hpa
  unfold execBind
  dsimp only
  rw [if_neg (Nat.not_le.mpr hd), hl]
  rfl

theorem execBind_refused (hbad : State.bindBad (s.ctx s.t.ctx) (s.c a) (s.c b) (s.c d) (pteSpace leaf) = true) :
    execBind d a b s = .next (s.raiseTrap { cause := causeBinding, info := s.c a, tlb := some u.tlb }) := by
  rw [execBind_eq a b hd hl hpa, hbad]
  rfl

variable (hgood : State.bindBad (s.ctx s.t.ctx) (s.c a) (s.c b) (s.c d) (pteSpace leaf) = false)
include hgood

theorem execBind_known (hp : pa ∈ u.pivots) : execBind d a b s = .next (s.withBinding u d a b pa) := by
  have hc : (s.withBinding u d a b pa).pivots.contains pa = true := List.contains_iff_mem.mpr hp
  rw [execBind_eq a b hd hl hpa, need_true _ _ _ hgood, hc]
  rfl

/-! A new pivot: its word is written where its line can be held, is no operation's and holds no poison. -/

variable (hp : pa ∉ u.pivots)
include hp

theorem execBind_new : execBind d a b s =
    s.finish ((liftFail noElem (s.c d) ((s.withBinding u d a b pa).placeLine s.agent .store pa 8 (pteKey leaf))).map
      fun x => { x.2.setPivot pa 0 with pivots := pa :: x.2.pivots }) := by
  have hc : (s.withBinding u d a b pa).pivots.contains pa = false := Bool.eq_false_iff.mpr fun h => hp (List.contains_iff_mem.mp h)
  rw [execBind_eq a b hd hl hpa, need_true _ _ _ hgood, hc]
  generalize liftFail noElem (s.c d) _ = r
  cases r <;> rfl

theorem execBind_unheld (h : (s.withBinding u d a b pa).lineUnder (pa / 128) (pteKey leaf) = none) :
    execBind d a b s = .next (s.raiseTrap { cause := causeAccess, addr := s.c d, tlb := some u.tlb }) := by
  rw [execBind_new a b hd hl hpa hgood hp, State.placeLine_of_unheld h]
  rfl

variable {q : State} (hq : (s.withBinding u d a b pa).lineUnder (pa / 128) (pteKey leaf) = some q)
include hq

theorem execBind_owned (h0 : ∀ o ∈ q.ops, o.id ≠ 0) (ho : ∃ o ∈ q.ops, pa / 128 ∈ o.lines) :
    execBind d a b s = .next (s.holdUnit (.recall (pa / 128))) := by
  rw [execBind_new a b hd hl hpa hgood hp, State.placeLine_of_owned hq (State.ownedBy_of_owned h0 ho)]
  rfl

variable (ho : ∀ o ∈ q.ops, pa / 128 ∉ o.lines)
include ho

theorem execBind_poisoned {x : Nat × Word} (hx : q.poison.find? (fun x => decide (x.1 = pa / 128)) = some x) :
    execBind d a b s = .next (s.raiseTrap { cause := causeData, addr := s.c d, info := x.2, tlb := some q.tlb }) := by
  rw [execBind_new a b hd hl hpa hgood hp, State.placeLine_of_poison hq (State.ownedBy_of_unowned _ ho) hx (by decide)]
  rfl

theorem execBind_placed (hx : ∀ x ∈ q.poison, x.1 ≠ pa / 128) :
    execBind d a b s = .next { q with hbm := q.hbm.store pa (natLe 8 0), pivots := pa :: u.pivots } := by
  have hpiv : q.pivots = u.pivots := by rw [(State.lineUnder_same hq).walksTo]; rfl
  rw [execBind_new a b hd hl hpa hgood hp, State.placeLine_of_clean hq (State.ownedBy_of_unowned _ ho) hx, ← hpiv]
  rfl

end

/-! `unbind` (04 R124, 10 R287). -/

section
variable {s : State} {a : CReg}

theorem execUnbind_none (h : ∀ x ∈ (s.ctx s.t.ctx).binds, x.base ≠ s.c a) :
    execUnbind a s = .next (s.raiseTrap { cause := causeBinding, info := s.c a }) := by
  have hnone : (s.ctx s.t.ctx).binds.find? (fun x => decide (x.base = s.c a)) = none := find?_decide_eq_none h
  unfold execUnbind
  dsimp only
  rw [hnone]
  rfl

variable {x : Binding} (hx : (s.ctx s.t.ctx).binds.find? (fun x => decide (x.base = s.c a)) = some x)
include hx

theorem execUnbind_eq : execUnbind a s = s.finish (do
    need ((s.g.holds.any fun h => h.1 = x.pa) = false) causePivot x.pivot
    if s.groups.any fun y => y.holds.any fun h => h.1 = x.pa then holdM .unbind
    else
      let v := s.setCtx s.t.ctx { s.ctx s.t.ctx with binds := (s.ctx s.t.ctx).binds.filter fun y => y.base ≠ s.c a }
      .ok (if v.regionsOf x.pa = [] then { v with pivots := v.pivots.filter fun p => p ≠ x.pa } else v)) := by
  unfold execUnbind
  dsimp only
  rw [hx]

theorem execUnbind_held (h : ∃ h ∈ s.g.holds, h.1 = x.pa) : execUnbind a s = .next (s.raiseTrap { cause := causePivot, info := x.pivot }) := by
  have hany : ¬ (s.g.holds.any fun h => h.1 = x.pa) = false := ne_false_of_eq_true (any_decide_eq_true h)
  rw [execUnbind_eq hx, need_false _ _ _ hany]
  rfl

variable (hn : ∀ h ∈ s.g.holds, h.1 ≠ x.pa)
include hn

theorem execUnbind_waits (h : ∃ y ∈ s.groups, ∃ h ∈ y.holds, h.1 = x.pa) : execUnbind a s = .next (s.holdUnit .unbind) := by
  have hany : (s.g.holds.any fun h => h.1 = x.pa) = false := any_decide_eq_false hn
  have hother : (s.groups.any fun y => y.holds.any fun h => h.1 = x.pa) = true :=
    List.any_eq_true.mpr (h.imp fun _ hy => ⟨hy.1, any_decide_eq_true hy.2⟩)
  rw [execUnbind_eq hx, need_true _ _ _ hany, hother]
  rfl

theorem execUnbind_done (h : ∀ y ∈ s.groups, ∀ h ∈ y.holds, h.1 ≠ x.pa) :
    let v := s.setCtx s.t.ctx { s.ctx s.t.ctx with binds := (s.ctx s.t.ctx).binds.filter fun y => decide (y.base ≠ s.c a) }
    execUnbind a s = .next (if v.regionsOf x.pa = [] then { v with pivots := v.pivots.filter fun p => decide (p ≠ x.pa) } else v) := by
  have hany : (s.g.holds.any fun h => h.1 = x.pa) = false := any_decide_eq_false hn
  have hother : (s.groups.any fun y => y.holds.any fun h => h.1 = x.pa) = false :=
    List.any_eq_false.mpr fun y hy => Bool.eq_false_iff.mp (any_decide_eq_false (h y hy))
  rw [execUnbind_eq hx, need_true _ _ _ hany, hother]
  rfl

end

end Sys2Proof.Machine

namespace Sys2Proof.Proofs
open Sys2Proof.Machine

section
variable {s u : State} {a : CReg} {pa : Nat} (hp : s.place s.agent .load (s.c a) 8 8 = .ok (.hbm pa, u)) (hpiv : pa ∈ s.pivots)
include hp hpiv

/-- `acq` and `acq.sh` (04 R120, R121, 10 R286). -/
theorem acquisition_outcomes (h0 : s.g.id ≠ 0) (sh : Bool) : let x := if sh then Instr.acqSh a else .acq a
    ((∀ h ∈ s.g.holds, h.1 ≠ pa) → s.g.holds.length < 8 →
      (Claim.pivotFree s pa sh → (∀ w ∈ s.pwaits, w.pa ≠ pa) → exec x s = .next { u with
        hbm := u.hbm.store pa (grantedWord (u.hbm.num pa 8) sh)
        g := { u.g with holds := s.g.holds ++ [(pa, !sh)] } }) ∧
      (¬ Claim.pivotFree s pa sh ∨ (∃ w ∈ s.pwaits, w.pa = pa) →
        exec x s = .next (State.holdUnit { u with pwaits := s.pwaits ++ [⟨pa, s.g.id, sh⟩] } (.acq pa sh)))) ∧
    ((∃ h ∈ s.g.holds, h.1 = pa) ∨ 8 ≤ s.g.holds.length → exec x s = .next (s.raiseTrap { cause := causePivot, info := s.c a, tlb := some u.tlb })) := by
  intro x
  have hexec : exec x s = s.finish (s.acquire (s.c a) sh) := by cases sh <;> rfl
  have hg : u.g = s.g := (State.place_walksTo hp).g
  rw [hexec]
  refine ⟨fun hn hl => ⟨fun hf hw => ?_, fun hw => ?_⟩, fun h => ?_⟩
  · rw [State.acquire_granted hp hpiv sh hn hl hw hf, ← hg, State.grantPivot_current pa sh (hg ▸ h0)]
    rfl
  · rw [State.acquire_waits hp hpiv sh hn hl hw]
    rfl
  · rw [State.acquire_refused hp hpiv sh h]
    rfl

end

/-- Settles O33: a request, a release and a grant each have one equation per outcome, and so have `bind` of a known and of a new
pivot, where the one idea is that the pivot's line decides (`State.placeLine_of_owned` and its neighbours), and `unbind`. -/
theorem pivotsAndBindings : Obligations.PivotsAndBindings := by
  unfold Obligations.PivotsAndBindings
  refine ⟨⟨fun s a pa u hp hpiv h0 => ?_, fun s h => execPivotGrant_none h, fun s w hw => ?_⟩, fun s d a b => ?_⟩
  · intro seq shr
    have hg : u.g = s.g := (State.place_walksTo hp).g
    refine ⟨fun x hx _ => ?_, fun excl hh ho => ?_, execRel_refused hp hpiv rfl⟩
    · rcases List.mem_pair.mp hx with rfl | rfl
      · exact acquisition_outcomes hp hpiv h0 false
      · exact acquisition_outcomes hp hpiv h0 true
    · refine (execRel_released hp hpiv rfl hh ho).trans ?_
      rw [← hg, State.releasePivot_current pa excl (hg ▸ h0)]
      rfl
  · intro q old
    refine ⟨execPivotGrant_held hw, fun hf h0 hq => (execPivotGrant_granted hw hf).trans ?_⟩
    have hm : q.hbm = s.hbm := State.focus_hbm ..
    have hgrant := State.grantPivot_current (s := q) w.pa w.sh (hq ▸ h0)
    rw [hq, hm] at hgrant
    exact congrArg (fun t : State => Host.Outcome.next t.passUnit) hgrant
  · intro c
    refine ⟨fun leaf level u hd hl => ?_, State.bindBad_of, ?_, ?_, execUnbind_none⟩
    · intro pa v
      refine ⟨fun hgood => ⟨execBind_known a b hd hl rfl hgood, fun hp => ?_⟩, execBind_refused a b hd hl rfl⟩
      exact ⟨execBind_unheld a b hd hl rfl hgood hp, fun q hq =>
        ⟨fun ho => ⟨execBind_placed a b hd hl rfl hgood hp hq ho, fun x => execBind_poisoned a b hd hl rfl hgood hp hq ho⟩,
          execBind_owned a b hd hl rfl hgood hp hq⟩⟩
    · intro x hx hn
      exact execUnbind_done hx (hn s.g (List.mem_cons_self ..)) fun y hy => hn y (List.mem_cons_of_mem _ hy)
    · exact fun x hx => ⟨execUnbind_held hx, execUnbind_waits hx⟩

end Sys2Proof.Proofs
end

section
/-! PROOFS. Remote accesses (18 R436) and memories that are not in canonical form (Machine/Mem.lean). -/

namespace Sys2Proof.Machine

/-- A host-access table at 0x3A0000 whose one entry opens addresses 0x200000 to 0x20FFFF of context 1 to the R_Key 9, and an RDMA
WRITE of the byte 0 at 0x200000. The cell of that address stands behind those of the table, so that the memory is out of order. -/
def disorderedWrite : State :=
  let s := State.reset.stage 0x06000000
  { s with
    hbm := (s.hbm.store 0x3A0000 ([7 * 2 ^ 61 + 2 ^ 32 + 9, 0x200000, 0x10000, 0].flatMap (natLe 8))) ++ [(0x200000, 1)]
    parts := [(0, { s.prt 0 with shat := 0x3A0000, shatn := 1 })]
    ev := { rkey := 9, va := 0x200000, data := [0] } }

/-- The byte at an address of global memory after a meaning. -/
def byteAfter (pa : Nat) (o : Out) : Option Byte :=
  match o with
  | .next t => some (t.hbm.read pa)
  | _ => none

/-- The place that an access of an agent reaches, if it passes its checks. -/
def State.placeOf (s : State) (a : Agent) (k : AccKind) (va : Word) (size align : Nat) : Option Place :=
  (s.place a k va size align).toOption.map Prod.fst

theorem State.place_of_placeOf {s : State} {a : Agent} {k : AccKind} {va : Word} {size align : Nat} {p : Place}
    (h : s.placeOf a k va size align = some p) : ∃ q, s.place a k va size align = .ok (p, q) := by
  unfold State.placeOf at h
  cases hr : s.place a k va size align with
  | error e => rw [hr] at h; cases h
  | ok r => rw [hr] at h; cases h; exact ⟨r.2, rfl⟩

theorem placeOf_disorderedWrite :
    disorderedWrite.placeOf (disorderedWrite.rdmaAgent 0 1) .store 0x200000 1 1 = some (.hbm 0x200000) := by decide +kernel

/-- The write of 0 stops at the first cell above the address and leaves the cell behind it as it was. -/
theorem byteAfter_disorderedWrite : byteAfter 0x200000 (exec .hostRdmaWrite disorderedWrite) = some 1 := by decide +kernel

end Sys2Proof.Machine

namespace Sys2Proof.Proofs
open Sys2Proof.Machine

/-- Refutes O50, in the clause that a write within one aligned word writes the bytes of its event: the clause does not ask that global
memory be canonical, and in `disorderedWrite`, where it is not, a write of the byte 0 that passes its checks leaves the byte 1. -/
theorem not_remoteAccesses : ¬ Obligations.RemoteAccesses := by
  unfold Obligations.RemoteAccesses
  intro h
  obtain ⟨-, -, -, -, hwrite, -⟩ := h
  obtain ⟨q, hq⟩ := State.place_of_placeOf placeOf_disorderedWrite
  obtain ⟨t, -, ht, -, -, -, -, hbytes, -⟩ :=
    hwrite disorderedWrite 1 0x200000 q (by decide +kernel) (by decide +kernel) (by decide) (by decide) hq
  have hzero : t.hbm.read 0x200000 = 0 := List.head_eq_of_cons_eq hbytes
  have hone := byteAfter_disorderedWrite
  rw [ht, byteAfter, hzero] at hone
  exact absurd hone (by decide)

end Sys2Proof.Proofs
end

section
/-! PROOFS. Rings (05 R151 to R153, 10 R295) and the indices that belong to the device (06 R175). -/

namespace Sys2Proof.Machine

/-- The model's test of a slot is that of R152, as the statement writes it. -/
theorem RingHdr.ready_iff (r : RingHdr) (claim : Bool) (x b : Nat) : r.ready claim x b = true ↔ Claim.ringReady r claim x b := by
  cases claim
  · exact (Bool.and_eq_true _ _).to_iff.trans (and_congr decide_eq_true_iff decide_eq_true_iff)
  · exact (Bool.and_eq_true _ _).to_iff.trans (and_congr decide_eq_true_iff decide_eq_true_iff)

section
variable {s v w : State} {a : Agent} {claim : Bool} {r : RingHdr} {res clm b : Nat}
  (hb : s.readStat a (ringKind a) r (if claim then clm else res) = .ok (b, v))
  (hw : v.ringWrite a (r.addr + 24) (natLe 8 (if claim then res % 2 ^ 32 * 2 ^ 32 + (clm + 1) % 2 ^ 32
    else (res + 1) % 2 ^ 32 * 2 ^ 32 + clm % 2 ^ 32)) = .ok w)
include hb hw

/-- An agent that has taken no index takes the next one, and its slot where that is ready (05 R152). -/
theorem State.takeSlot_next : s.takeSlot a claim none r res clm =
    if r.ready claim (if claim then clm else res) b then
      (w.writeStat a r (if claim then clm else res) (r.took claim (if claim then clm else res) b)).map fun q =>
        (if claim then clm else res, some (b / 16 % 2), q)
    else .ok (if claim then clm else res, none, w) := by
  unfold State.takeSlot State.advance
  cases claim
  all_goals
    simp only [Bool.false_eq_true, if_true, if_false] at hb hw ⊢
    rw [hb]
    dsimp only [bind, Except.bind]
    rw [hw]
    refine if_congr Iff.rfl ?_ rfl
    generalize w.writeStat a r _ _ = y
    cases y <;> rfl

theorem State.takeSlot_ready {q : State} (hr : Claim.ringReady r claim (if claim then clm else res) b)
    (hq : w.writeStat a r (if claim then clm else res) (r.took claim (if claim then clm else res) b) = .ok q) :
    s.takeSlot a claim none r res clm = .ok (if claim then clm else res, some (b / 16 % 2), q) := by
  rw [State.takeSlot_next hb hw, if_pos ((r.ready_iff ..).mpr hr), hq]
  rfl

theorem State.takeSlot_unready (hr : ¬ Claim.ringReady r claim (if claim then clm else res) b) :
    s.takeSlot a claim none r res clm = .ok (if claim then clm else res, none, w) := by
  rw [State.takeSlot_next hb hw, if_neg (hr ∘ (r.ready_iff ..).mp)]

end

section
variable {s u : State} {r : RingHdr} {res clm : Nat} (hread : s.readRing s.agent .load s.u.opA = .ok (r, res, clm, u)) (claim : Bool) (d : CReg)
include hread

theorem State.ringTake_stranger (hp : (if claim then r.cons else r.prod) ≠ s.g.role.toNat) :
    s.ringTake claim d = .error (.trap { cause := causeRing, info := s.u.opA, tlb := some u.tlb }) := by
  unfold State.ringTake
  dsimp only
  rw [hread]
  show (u.keeping (need _ _ _) >>= _) = _
  rw [need_false _ _ _ hp]
  rfl

theorem State.ringTake_party (hp : (if claim then r.cons else r.prod) = s.g.role.toNat) :
    s.ringTake claim d = (liftRing s.u.opA (u.takeSlot s.agent claim s.u.tk r res clm)).map fun y =>
      match y.2.1 with
      | some v =>
        let q := y.2.2.setC d (w64 (y.1 + (if claim then v * 2 ^ 32 else 0)))
        (true, if claim then q else { q with g := { q.g with slots := q.g.slots ++ [(s.u.opA, BitVec.ofNat 32 y.1)] } })
      | none => (false, { y.2.2 with u := { s.u with tk := some (BitVec.ofNat 32 y.1) } }) := by
  unfold State.ringTake
  dsimp only
  rw [hread]
  show (u.keeping (need _ _ _) >>= _) = _
  rw [need_true _ _ _ hp]
  show (liftRing _ (u.takeSlot s.agent claim s.u.tk r res clm) >>= _) = _
  generalize u.takeSlot s.agent claim s.u.tk r res clm = y
  rcases y with e | ⟨x, v | v, q⟩ <;> rfl

theorem State.ringGive_stranger (hp : (if claim then r.cons else r.prod) ≠ s.g.role.toNat) :
    s.ringGive claim = .error (.trap { cause := causeRing, info := s.u.opA, tlb := some u.tlb }) := by
  unfold State.ringGive
  dsimp only
  rw [hread]
  show (u.keeping (need _ _ _) >>= _) = _
  rw [need_false _ _ _ hp]
  rfl

variable (hp : (if claim then r.cons else r.prod) = s.g.role.toNat) {y : Nat} {v : State}
  (hy : u.readStat s.agent .load r (s.u.opB.toNat % 2 ^ 32) = .ok (y, v))
include hp hy

theorem State.ringGive_party : s.ringGive claim = (do
    v.keeping (need (stOf y = (if claim then 3 else 1) ∧ phOf y = r.phase (s.u.opB.toNat % 2 ^ 32)) causeRing s.u.opA)
    let w ← liftRing s.u.opA (v.writeStat s.agent r (s.u.opB.toNat % 2 ^ 32) (statByte (phOf y) (if claim then 0 else 2) (field y 4 1)))
    .ok (if claim then w else w.dropSlot s.u.opA (s.u.opB.toNat % 2 ^ 32))) := by
  unfold State.ringGive
  dsimp only
  rw [hread]
  show (u.keeping (need _ _ _) >>= _) = _
  rw [need_true _ _ _ hp]
  show (liftRing _ (u.readStat s.agent .load r (s.u.opB.toNat % 2 ^ 32)) >>= _) = _
  rw [hy]
  rfl

theorem State.ringGive_amiss (h : ¬ (stOf y = (if claim then 3 else 1) ∧ phOf y = r.phase (s.u.opB.toNat % 2 ^ 32))) :
    s.ringGive claim = .error (.trap { cause := causeRing, info := s.u.opA, tlb := some v.tlb }) := by
  rw [State.ringGive_party hread claim hp hy, need_false _ _ _ h]
  rfl

theorem State.ringGive_done (h : stOf y = (if claim then 3 else 1) ∧ phOf y = r.phase (s.u.opB.toNat % 2 ^ 32)) {w : State}
    (hw : v.writeStat s.agent r (s.u.opB.toNat % 2 ^ 32) (statByte (phOf y) (if claim then 0 else 2) (field y 4 1)) = .ok w) :
    s.ringGive claim = .ok (if claim then w else w.dropSlot s.u.opA (s.u.opB.toNat % 2 ^ 32)) := by
  rw [State.ringGive_party hread claim hp hy, need_true _ _ _ h, hw]
  rfl

end

theorem exec_ringTake (s : State) (d a : CReg) (claim : Bool) :
    exec (if claim then .rclaim d a else .rres d a) s = s.finishTake claim (s.ringTake claim d) := by
  cases claim <;> rfl

theorem exec_ringGive (s : State) (a b : CReg) (claim : Bool) :
    exec (if claim then .rfree a b else .rcom a b) s = s.finish (s.ringGive claim) := by
  cases claim <;> rfl

/-- An entry that waits for a slot completes once its instruction takes it. -/
theorem State.retryTake_taken {s : State} {claim : Bool} {x : Word32} {h : Word} {un : Machine.Unit} {rest : List Machine.Unit} {d a : CReg} {t : State}
    (hw : (s.focus s.ev.g).g.pwait = some (.ring x claim h)) (hv : (s.focus s.ev.g).g.viq = un :: rest) (hr : (s.focus s.ev.g).g.portReady = true)
    (hd : decodeWord un.word = .ok (if claim then .rclaim d a else .rres d a))
    (ht : ({ s.focus s.ev.g with u := un, port := true, vp := none, g := { (s.focus s.ev.g).g with viq := rest, pwait := none } } : State).ringTake
      claim d = .ok (true, t)) :
    s.retryTake claim = { t with port := false, g := if un.dead then { t.g with c := (s.focus s.ev.g).g.c, late := (s.focus s.ev.g).g.late } else t.g } := by
  unfold State.retryTake
  dsimp only
  rw [hw, hv]
  dsimp only
  rw [hr, if_neg (by simp)]
  cases claim
  · rw [show decodeWord _ = .ok (.rres d a) from hd]
    dsimp only
    rw [ht]
  · rw [show decodeWord _ = .ok (.rclaim d a) from hd]
    dsimp only
    rw [ht]

/-- An index that belongs to the device is used up once its slot allows it (06 R175). -/
theorem State.settleIdx_done {s u w : State} {n : Nat} {p : PendingIdx} {b : Nat} (hp : s.pend[n]? = some p)
    (hb : s.readStat (s.pendAgent p) .load p.ring p.x.toNat = .ok (b, u)) (hr : Claim.ringReady p.ring p.claim p.x.toNat b)
    (hw : u.writeStat (s.pendAgent p) p.ring p.x.toNat
      (if p.claim then statByte (phOf b) 0 (field b 4 1) else statByte (p.ring.phase p.x.toNat) 2 1) = .ok w) :
    s.settleIdx n p.claim = { w with pend := w.pend.eraseIdx n } := by
  unfold State.settleIdx
  rw [hp]
  dsimp only
  rw [if_neg (not_not.mpr rfl), hb]
  dsimp only
  rw [if_pos ((RingHdr.ready_iff ..).mpr hr), hw]

end Sys2Proof.Machine

namespace Sys2Proof.Proofs
open Sys2Proof.Machine

/-- `rres` and `rclaim` by the party, whose entry has taken no index yet. -/
theorem ringTake_outcomes {s u v w : State} {d : CReg} {claim : Bool} {r : RingHdr} {res clm b : Nat}
    (hread : s.readRing s.agent .load s.u.opA = .ok (r, res, clm, u)) (htk : s.u.tk = none)
    (hp : (if claim then r.cons else r.prod) = s.g.role.toNat)
    (hb : u.readStat s.agent .load r (if claim then clm else res) = .ok (b, v))
    (hw : v.ringWrite s.agent (r.addr + 24) (natLe 8 (if claim then res % 2 ^ 32 * 2 ^ 32 + (clm + 1) % 2 ^ 32
      else (res + 1) % 2 ^ 32 * 2 ^ 32 + clm % 2 ^ 32)) = .ok w) :
    let x := if claim then clm else res
    (Claim.ringReady r claim x b → ∀ q, w.writeStat s.agent r x (r.took claim x b) = .ok q →
      s.finishTake claim (s.ringTake claim d) = .next (
        let q := q.setC d (w64 (x + (if claim then b / 16 % 2 * 2 ^ 32 else 0)))
        if claim then q else { q with g := { q.g with slots := q.g.slots ++ [(s.u.opA, BitVec.ofNat 32 x)] } })) ∧
    (¬ Claim.ringReady r claim x b → s.finishTake claim (s.ringTake claim d) =
      .next (({ w with u := { s.u with tk := some (BitVec.ofNat 32 x) } } : State).holdUnit (.ring (BitVec.ofNat 32 x) claim s.u.opA))) := by
  intro x
  rw [State.ringTake_party hread claim d hp, htk]
  refine ⟨fun hr q hq => ?_, fun hr => ?_⟩
  · rw [State.takeSlot_ready hb hw hr hq]
    rfl
  · rw [State.takeSlot_unready hb hw hr]
    rfl

/-- Settles O38: the reading of the header and of the status byte decides which of the equations of `State.ringTake`, `State.ringGive`,
`State.retryTake` and `State.settleIdx` applies. -/
theorem rings : Obligations.Rings := by
  unfold Obligations.Rings
  refine ⟨?_, ?_, ?_, ?_⟩
  · intro s d a claim r res clm u i h x hread htk
    rw [show exec i s = _ from exec_ringTake s d a claim]
    refine ⟨fun hp => ?_, fun hp b v w hb hw => ?_⟩
    · rw [State.ringTake_stranger hread claim d hp]
      rfl
    · obtain ⟨hready, hwait⟩ := ringTake_outcomes (d := d) hread htk hp hb hw
      refine ⟨fun hr q hq => ⟨_, hready hr q ?_, ?_⟩, hwait⟩
      · rw [← hq]; cases claim <;> rfl
      · cases claim
        · exact ⟨nofun, fun _ => ⟨_, State.setC_wroteC .., rfl⟩⟩
        · exact ⟨fun _ => State.setC_wroteC .., nofun⟩
  · intro s a b claim r res clm u i h x hread
    rw [show exec i s = _ from exec_ringGive s a b claim]
    refine ⟨fun hp => ?_, fun hp y v hy => ⟨fun hbad => ?_, fun hst hph w hw => ?_⟩⟩
    · rw [State.ringGive_stranger hread claim hp]
      rfl
    · rw [State.ringGive_amiss hread claim hp hy (not_and_or.mpr hbad)]
      rfl
    · rw [State.ringGive_done hread claim hp hy ⟨hst, hph⟩ hw]
      rfl
  · intro s claim x h un rest q hw hv hr d a t hd ht
    have hrun : exec (if claim then .ringClaim else .ringReserve) s = .next (s.retryTake claim) := by cases claim <;> rfl
    rw [hrun, State.retryTake_taken hw hv hr hd ht]
  · intro s p b u w hp hb hr hw
    have hrun : exec (if p.claim then .pendingDiscard else .pendingVoid) s = .next (s.settleIdx s.ev.n p.claim) := by cases p.claim <;> rfl
    rw [hrun, State.settleIdx_done hp hb hr]
    rw [← hw]; cases p.claim <;> rfl

end Sys2Proof.Proofs
end

section
/-! PROOFS. Registers bound to streams (05 R146 to R149, 10 R291): binding and unbinding, the landing of a facet, and the element-wise
instructions that read a bound register. -/

namespace Sys2Proof.Machine

/-! Binding, unbinding and landing. -/

/-- A descriptor names a stream at its first element, with nothing landed (05 R146). -/
theorem State.readStream_fresh {s u : State} {desc : Word} {x : Stream} (h : s.readStream desc = .ok (x, u)) :
    x.p = 0 ∧ x.landed = 0 ∧ x.failed = 0 := by
  unfold State.readStream at h
  by_cases ha : desc.toNat % 64 = 0
  · rw [need_true _ _ _ ha] at h
    change (match s.readWords s.agent .load desc 8 with | .error f => _ | .ok (ws, s') => _) = _ at h
    split at h
    · cases h
    · dsimp only [bind, Except.bind] at h
      split at h
      · cases h
      · cases h
        exact ⟨rfl, rfl, rfl⟩
  · rw [need_false _ _ _ ha] at h
    cases h

/-- The bindings of the other registers. -/
def State.otherStreams (s : State) (r : Nat) : List Stream := s.g.streams.filter fun y => decide (y.reg ≠ r)

theorem execVstream_binds {s u : State} {d : VName} {x : Stream} (a : CReg) (hv : s.vp = none) (hd : d.toNat < s.g.budget)
    (hx : s.readStream s.u.opA = .ok (x, u)) (hn : s.u.vl ≠ 0) (hl : s.u.vl.toNat ≤ s.g.grant / fmtWidth x.fmt)
    (ho : (s.otherStreams (s.reg d.toNat)).length < 8) :
    execVstream d a s = .next { u with g := { u.g with
      streams := s.otherStreams (s.reg d.toNat) ++ [{ x with reg := s.reg d.toNat, c := s.u.vl.toNat, entry := s.u.addr }] } } := by
  have hn' : s.u.vl.toNat ≠ 0 := fun h => hn (BitVec.eq_of_toNat_eq h)
  unfold execVstream
  rw [need_true _ _ _ (by rw [hv]; rfl), State.needReg, need_true _ _ _ hd]
  dsimp only [bind, Except.bind]
  rw [need_true _ _ _ ⟨ho, hn'⟩, hx]
  dsimp only
  rw [need_true (s.u.vl.toNat ≤ s.vlmax _) _ _ hl]
  rfl

/-- A register that is bound anew has its new binding, and every other the one that it had. -/
theorem Stream.find?_rebound (l : List Stream) (y : Stream) (r : Nat) :
    (l.filter (fun z => decide (z.reg ≠ y.reg)) ++ [y]).find? (fun z => decide (z.reg = r)) =
      if r = y.reg then some y else l.find? fun z => decide (z.reg = r) := by
  rw [List.find?_append, List.find?_filter]
  by_cases h : r = y.reg
  · subst h
    rw [if_pos rfl, List.find?_eq_none.mpr fun z _ => by simp]
    simp
  · have hz : (fun z : Stream => decide (decide (z.reg ≠ y.reg) = true ∧ decide (z.reg = r) = true)) = fun z => decide (z.reg = r) := by
      funext z
      simp only [decide_eq_true_eq]
      exact decide_eq_decide.mpr ⟨And.right, fun hr => ⟨hr ▸ h, hr⟩⟩
    rw [hz, if_neg h, List.find?_singleton, if_neg (by simpa using Ne.symm h), Option.or_none]

theorem Stream.mem_facets (x : Stream) (f : Nat) : f ∈ x.facets ↔ f * 256 < x.c * fmtWidth x.fmt := by
  rw [Stream.facets, List.mem_range]
  omega

theorem Stream.filling_iff (x : Stream) :
    x.filling = true ↔ ∃ f, f * 256 < x.c * fmtWidth x.fmt ∧ x.landed.getLsbD f = false ∧ x.failed.getLsbD f = false := by
  simp only [Stream.filling, List.any_eq_true, Stream.mem_facets, Bool.and_eq_true, Bool.not_eq_true']

section
variable {s : State} {d : VName} (hd : d.toNat < s.g.budget)
include hd

theorem execVunbind_unbound (hb : s.bound (s.reg d.toNat) = none) : execVunbind d s = .next s := by
  unfold execVunbind
  rw [State.needReg, need_true _ _ _ hd]
  dsimp only [bind, Except.bind]
  rw [hb]
  rfl

theorem execVunbind_bound {x : Stream} (hb : s.bound (s.reg d.toNat) = some x) :
    execVunbind d s = .next (if x.filling then s.holdUnit .vunbind
      else { s with g := { s.g with streams := s.otherStreams (s.reg d.toNat) } }) := by
  unfold execVunbind
  rw [State.needReg, need_true _ _ _ hd]
  dsimp only [bind, Except.bind]
  rw [hb]
  dsimp only
  split <;> rfl

end

/-- A facet whose elements are all read lands (05 R147). -/
theorem State.landFacet_landed {q u : State} {r f : Nat} {x : Stream} {l : List (Nat × Nat)} (hx : q.bound r = some x)
    (hf : f * 256 < x.c * fmtWidth x.fmt) (hl : x.landed.getLsbD f = false) (hfail : x.failed.getLsbD f = false) (hs : x.stop = none)
    (hfill : q.fillFacet q.bankAgent x (x.elems f) = (l, none, u)) :
    q.landFacet r f = ((u.cleanReg r (wordsOf (fmtWidth x.fmt) (l.map fun y => y.1))).putPhys r (fmtWidth x.fmt) l false).updStream r
      fun y => { y with landed := y.landed ||| (1#64 <<< f) } := by
  have hfills : x.fills f = true := by
    rw [Stream.fills, List.contains_iff_mem.mpr ((x.mem_facets f).mpr hf), hl, hfail, hs]
    rfl
  unfold State.landFacet
  rw [hx]
  dsimp only
  rw [hfills, hfill]
  rfl

/-! Reading a bound register. -/

theorem allM_ok {l : List (M PUnit)} (h : ∀ m ∈ l, m = .ok ⟨⟩) : allM l = .ok ⟨⟩ := by
  induction l with
  | nil => rfl
  | cons m l ih =>
    rw [h m List.mem_cons_self]
    exact ih fun n hn => h n (List.mem_cons_of_mem _ hn)

/-- Of checks the rest of which pass, the first decides. -/
theorem allM_cons {m : M PUnit} {l : List (M PUnit)} (h : ∀ n ∈ l, n = .ok ⟨⟩) : allM (m :: l) = m := by
  cases m with
  | ok _ => exact (show allM l = .ok ⟨⟩ from allM_ok h)
  | error _ => rfl

theorem State.bound_eq_none {s : State} {p : Nat} (h : ∀ y ∈ s.g.streams, y.reg ≠ p) : s.bound p = none := find?_decide_eq_none h

theorem State.poisonFault_eq_none {s : State} {x : Src} (h : ∀ y ∈ s.g.rpoison, y.1 ≠ s.reg x.reg) : s.poisonFault x = none := by
  have hp : s.poisonIn x = none := by
    unfold State.poisonIn
    refine List.findSome?_eq_none_iff.mpr fun e _ => ?_
    exact Option.map_eq_none_iff.mpr (List.find?_eq_none.mpr fun y hy => by simp [h y hy])
  rw [State.poisonFault, hp]
  rfl

section
variable {s : State} {w a : Nat} {rs : List Nat} {x : Stream} (hv : s.vp = none) (hx : s.bound (s.reg a) = some x)
  (hrs : ∀ r ∈ rs, s.bound (s.reg r) = none)
include hv hx hrs

/-- Of sources of which one is bound, that one decides whether the width and `vl` fit (05 R148). -/
theorem State.needBinds_eq : allM ((srcsOf w (a :: rs)).map s.needBind) = need (w = fmtWidth x.fmt ∧ s.u.vl.toNat ≤ x.c) := by
  have hrest : ∀ m ∈ (srcsOf w rs).map s.needBind, m = .ok ⟨⟩ := by
    intro m hm
    obtain ⟨y, hy, rfl⟩ := List.mem_map.mp hm
    obtain ⟨r, hr, rfl⟩ := List.mem_map.mp hy
    rw [State.needBind, hrs r hr]
  have hb : s.needBind ⟨a, w, 0, none⟩ = need (w = fmtWidth x.fmt ∧ s.u.vl.toNat ≤ x.c) := by
    rw [State.needBind, hx]
    simp only [hv, Option.isNone_none, true_and]
  exact (allM_cons hrest).trans hb

variable (hp : ∀ r ∈ a :: rs, ∀ y ∈ s.g.rpoison, y.1 ≠ s.reg r) (hfit : w = fmtWidth x.fmt ∧ s.u.vl.toNat ≤ x.c)
  (hfail : ∀ f, f < s.g.grant / 256 → f * 256 < s.u.vl.toNat * w → x.failed.getLsbD f = false)
include hp hfit hfail

/-- Sources of which one is bound, none of whose facets below `vl` has failed, are read once those have landed (05 R148). -/
theorem State.needSrcs_bound : s.needSrcs (srcsOf w (a :: rs)) =
    if s.srcWaits ⟨a, w, 0, none⟩ then holdM .streamLand else .ok ⟨⟩ := by
  have hmem : ∀ y ∈ srcsOf w (a :: rs), ∃ r ∈ a :: rs, ⟨r, w, 0, none⟩ = y := fun y hy => List.mem_map.mp hy
  have hfault : (srcsOf w (a :: rs)).filterMap s.facetFault = [] := by
    refine List.filterMap_eq_nil_iff.mpr fun y hy => ?_
    obtain ⟨r, hr, rfl⟩ := hmem y hy
    unfold State.facetFault
    rcases List.mem_cons.mp hr with rfl | hr
    · rw [hx]
      dsimp only
      rw [List.find?_eq_none.mpr fun f hf => ?_]
      · rfl
      · obtain ⟨hlt, hbelow⟩ := List.mem_filter.mp hf
        simp [hfail f (List.mem_range.mp hlt) (of_decide_eq_true hbelow)]
    · rw [hrs r hr]
  have hpoison : (srcsOf w (a :: rs)).filterMap s.poisonFault = [] := by
    refine List.filterMap_eq_nil_iff.mpr fun y hy => ?_
    obtain ⟨r, hr, rfl⟩ := hmem y hy
    exact State.poisonFault_eq_none (hp r hr)
  have hwaits : (srcsOf w (a :: rs)).any s.srcWaits = s.srcWaits ⟨a, w, 0, none⟩ := by
    have hrest : (srcsOf w rs).any s.srcWaits = false := by
      refine List.any_eq_false.mpr fun y hy => ?_
      obtain ⟨r, hr, rfl⟩ := List.mem_map.mp hy
      rw [State.srcWaits, hrs r hr]
      exact Bool.false_ne_true
    show (s.srcWaits _ || (srcsOf w rs).any s.srcWaits) = _
    rw [hrest, Bool.or_false]
  unfold State.needSrcs State.srcHit
  rw [State.needBinds_eq hv hx hrs, need_true _ _ _ hfit, hfault, hpoison, hwaits]
  cases s.srcWaits ⟨a, w, 0, none⟩ <;> rfl

end

/-- A bound source waits where a facet below `vl` has not landed. -/
theorem State.srcWaits_iff {s : State} {a w : Nat} {x : Stream} (hx : s.bound (s.reg a) = some x) :
    s.srcWaits ⟨a, w, 0, none⟩ = true ↔ ∃ f, (f < s.g.grant / 256 ∧ f * 256 < s.u.vl.toNat * w) ∧ x.landed.getLsbD f = false := by
  rw [State.srcWaits, hx]
  simp only [State.srcFacets, List.any_eq_true, List.mem_filter, List.mem_range, decide_eq_true_eq, Bool.not_eq_true']

/-- The checks of registers that stand within the budget, with nothing bound that is written, come to those of the bound sources. -/
theorem State.vlegal_eq {s : State} {w : Nat} {src dst : List Nat} (hreg : ∀ r ∈ src ++ dst, r < s.g.budget)
    (hl : s.u.vl.toNat ≤ s.g.grant / w) (hdst : ∀ r ∈ dst, s.bound (s.reg r) = none) :
    s.vlegal w src dst = allM ((srcsOf w src).map s.needBind) := by
  have hbudget : allM ((src ++ dst).map s.needReg) = .ok ⟨⟩ := by
    refine allM_ok fun m hm => ?_
    obtain ⟨r, hr, rfl⟩ := List.mem_map.mp hm
    exact need_true _ _ _ (hreg r hr)
  have hfree : allM (dst.map s.needUnbound) = .ok ⟨⟩ := by
    refine allM_ok fun m hm => ?_
    obtain ⟨r, hr, rfl⟩ := List.mem_map.mp hm
    exact need_true _ _ _ (by rw [hdst r hr]; rfl)
  unfold State.vlegal
  rw [hbudget, hfree, State.needVl_ok s w hl]
  cases s.vp <;> rfl

theorem State.setEls_frame (s : State) (r w : Nat) (l : List (Nat × Nat)) : let q := s.setEls r w l
    q = { s with g := { s.g with v := q.g.v, rpoison := q.g.rpoison }, trace := q.trace } := by
  unfold State.setEls State.cleanReg State.noteWrite
  dsimp only
  split <;> split <;> rfl

theorem State.setVo_frame (s : State) (l : List Nat) : let q := s.setVo l
    q = { s with g := { s.g with vo := q.g.vo }, trace := q.trace } := by
  unfold State.setVo State.noteMask State.noteWrite
  dsimp only
  split <;> rfl

/-- Delivered results leave everything but the vector register, `vo`, the flags and the poison as it stood (09 R243). -/
theorem State.putRes_frame {s : State} (hv : s.vp = none) (d w : Nat) (l : List (Nat × Res)) : let q := s.putRes d w l
    q = { s with g := { s.g with v := q.g.v, vo := q.g.vo, sticky := q.g.sticky, rpoison := q.g.rpoison }, trace := q.trace } := by
  unfold State.putRes State.setOpEls
  rw [hv]
  dsimp only
  have hels := s.setEls_frame d w (l.map fun r => (r.1, r.2.bits))
  generalize s.setEls d w (l.map fun r => (r.1, r.2.bits)) = q at hels ⊢
  have hvo := q.setVo_frame ((l.filter fun r => r.2.vo).map fun r => r.1)
  generalize q.setVo ((l.filter fun r => r.2.vo).map fun r => r.1) = p at hvo ⊢
  rw [hvo, hels]
  dsimp only [State.raise]
  congr 2

/-- What a committed instruction that reads one bound register leaves of the bindings (05 R148): of that one the next elements. -/
theorem State.consume_one {s q : State} {a : Nat} {rs : List Nat} (hq : q.g.streams = s.g.streams) (hu : q.u = s.u) (hg : q.g.budget = s.g.budget)
    (hrs : ∀ r ∈ rs, ∀ y ∈ s.g.streams, y.reg ≠ s.reg r) :
    q.consume (a :: rs) = { q with g := { q.g with streams := s.g.streams.map fun y => if y.reg ≠ s.reg a then y else
      { y with p := y.p + BitVec.ofNat 64 s.u.vl.toNat, landed := 0, failed := 0, faults := [], stop := none, got := [] } } } := by
  have hreg : q.reg = s.reg := by
    funext r
    rw [State.reg, hu, hg]
    rfl
  have hmap : ∀ y ∈ s.g.streams, ((a :: rs).map s.reg).contains y.reg = decide (y.reg = s.reg a) := by
    intro y hy
    rw [Bool.eq_iff_iff, List.contains_iff_mem, List.map_cons, List.mem_cons, decide_eq_true_iff, or_iff_left]
    rintro hm
    obtain ⟨r, hr, he⟩ := List.mem_map.mp hm
    exact hrs r hr y hy he.symm
  unfold State.consume
  dsimp only
  rw [hq, hu, hreg]
  congr 2
  refine List.map_congr_left fun y hy => ?_
  rw [hmap y hy, ite_not]
  refine if_congr decide_eq_true_iff rfl rfl

/-- The element-wise instructions of two operands that the statements list are all one meaning (09 R245 to R247). -/
theorem exec_vop {o : (VName → VName → BOp → Ty → Bool → Instr) × BinOp × Bool} (h : o ∈ Claim.vops) (d a : VName) (b : BOp) (t : Ty) (p : Bool) (s : State) :
    exec (o.1 d a b t p) s = s.finish (s.vbin o.2.1 (if o.2.2 then Ty.shiftable else Ty.six) d a b t p) := by
  simp only [Claim.vops, List.mem_cons, List.not_mem_nil, or_false] at h
  rcases h with rfl | rfl | rfl | rfl | rfl | rfl | rfl | rfl | rfl | rfl | rfl <;> rfl

theorem Ty.six_of_ne : ∀ {t : Ty}, t ≠ .i64 → t ≠ .f64 → t.six = true
  | .i64, h, _ => absurd rfl h
  | .f64, _, h => absurd rfl h
  | .i8, _, _ | .i16, _, _ | .i32, _, _ | .f16, _, _ | .bf16, _, _ | .f32, _, _ => rfl

theorem Ty.admitted_of_ne {t : Ty} {shift : Bool} (h64 : t ≠ .i64) (hf : t ≠ .f64) (hs : shift = true → t.isInt = true) :
    (if shift then Ty.shiftable else Ty.six) t = true := by
  cases shift with
  | false => exact Ty.six_of_ne h64 hf
  | true => exact (Bool.and_eq_true _ _).mpr ⟨Ty.six_of_ne h64 hf, hs rfl⟩

end Sys2Proof.Machine

namespace Sys2Proof.Proofs
open Sys2Proof.Machine

section
variable {s : State} {d a : VName} {b : BOp} {t : Ty} {rs : List Nat} {x : Stream} (hb : Claim.bRegs s b rs) (hv : s.vp = none)
  (hr : Claim.ready s t.bits (d.toNat :: rs)) (ha : a.toNat < s.g.budget) (hx : s.bound (s.reg a.toNat) = some x)
include hb hv hr ha hx

/-- A two-operand instruction whose `va` is bound: after the checks that do not concern the stream come those that do. -/
theorem vbin_bound (o : BinOp) {adm : Ty → Bool} (hadm : adm t = true) (p : Bool) : s.vbin o adm d a b t p = (do
    need (t.bits = fmtWidth x.fmt ∧ s.u.vl.toNat ≤ x.c)
    s.needSrcs (srcsOf t.bits (a.toNat :: rs))
    .ok ((s.putRes d.toNat t.bits (s.actives.map fun e => (e, o.run t p s.u.rm (s.opEl a.toNat t.bits e) (s.bEl b t.bits e)))).consume
      (a.toNat :: rs))) := by
  obtain ⟨hbudget, hlen, hfree⟩ := hr
  have hunbound : ∀ r ∈ d.toNat :: rs, s.bound (s.reg r) = none := fun r hr => State.bound_eq_none (hfree r hr).1
  have hB : s.needB b = .ok ⟨⟩ ∧ bReg b = rs := by
    cases b with
    | v r => exact ⟨rfl, hb.symm⟩
    | c r => exact ⟨need_true _ _ _ (by rw [hv]; rfl), hb.1.symm⟩
  have hregs : ∀ r ∈ (a.toNat :: rs) ++ [d.toNat], r < s.g.budget := by
    intro r hr
    rcases List.mem_append.mp hr with hr | hr
    · rcases List.mem_cons.mp hr with rfl | hr
      · exact ha
      · exact hbudget r (List.mem_cons_of_mem _ hr)
    · exact hbudget r (by rw [List.mem_singleton.mp hr]; exact List.mem_cons_self)
  have hlegal : s.vlegal t.bits (a.toNat :: rs) [d.toNat] = need (t.bits = fmtWidth x.fmt ∧ s.u.vl.toNat ≤ x.c) := by
    rw [State.vlegal_eq hregs (hlen hv) fun r hr => hunbound r (by rw [List.mem_singleton.mp hr]; exact List.mem_cons_self)]
    exact State.needBinds_eq hv hx fun r hr => hunbound r (List.mem_cons_of_mem _ hr)
  unfold State.vbin State.elementwise State.vcheck
  rw [hB.1, hB.2, need_true _ _ _ hadm, hlegal]
  dsimp only [bind, Except.bind]
  by_cases hfit : t.bits = fmtWidth x.fmt ∧ s.u.vl.toNat ≤ x.c
  · rw [need_true _ _ _ hfit]
  · rw [need_false _ _ _ hfit]
    rfl

variable (hpa : ∀ y ∈ s.g.rpoison, y.1 ≠ s.reg a.toNat) (hfit : t.bits = fmtWidth x.fmt ∧ s.u.vl.toNat ≤ x.c)
  (hfail : ∀ f, f < s.g.grant / 256 → f * 256 < s.u.vl.toNat * t.bits → x.failed.getLsbD f = false)
include hpa hfit hfail

/-- Where the stream fits and no facet below `vl` has failed, the instruction waits for those that have not landed, or takes the
elements. -/
theorem vbin_fits (o : BinOp) {adm : Ty → Bool} (hadm : adm t = true) (p : Bool) : s.vbin o adm d a b t p =
    if s.srcWaits ⟨a.toNat, t.bits, 0, none⟩ then holdM .streamLand else
      .ok ((s.putRes d.toNat t.bits (s.actives.map fun e => (e, o.run t p s.u.rm (s.opEl a.toNat t.bits e) (s.bEl b t.bits e)))).consume
        (a.toNat :: rs)) := by
  have hrs : ∀ r ∈ rs, (∀ y ∈ s.g.streams, y.reg ≠ s.reg r) ∧ ∀ y ∈ s.g.rpoison, y.1 ≠ s.reg r :=
    fun r h => hr.2.2 r (List.mem_cons_of_mem _ h)
  have hpoison : ∀ r ∈ a.toNat :: rs, ∀ y ∈ s.g.rpoison, y.1 ≠ s.reg r := by
    intro r hr
    rcases List.mem_cons.mp hr with rfl | hr
    · exact hpa
    · exact (hrs r hr).2
  rw [vbin_bound hb hv hr ha hx o hadm p, need_true _ _ _ hfit,
    State.needSrcs_bound hv hx (fun r h => State.bound_eq_none (hrs r h).1) hpoison hfit hfail]
  cases s.srcWaits ⟨a.toNat, t.bits, 0, none⟩ <;> rfl

end

/-- Settles O35: each instruction is the equation of its own lemma, and an element-wise instruction comes to `vbin_bound` and `vbin_fits`. -/
theorem streams : Obligations.Streams := by
  unfold Obligations.Streams
  refine ⟨?_, ?_, ?_, ?_⟩
  · intro s d a hv hd x u hx hn hl ho
    refine ⟨_, execVstream_binds a hv hd hx hn hl ho, rfl, ?_, State.readStream_fresh hx, fun r hr => ?_⟩
    · exact (Stream.find?_rebound s.g.streams { x with reg := s.reg d.toNat, c := s.u.vl.toNat, entry := s.u.addr } _).trans (if_pos rfl)
    · exact (Stream.find?_rebound s.g.streams { x with reg := s.reg d.toNat, c := s.u.vl.toNat, entry := s.u.addr } r).trans (if_neg hr)
  · intro s d hd
    refine ⟨execVunbind_unbound hd, fun x hx => ⟨fun h => ?_, fun h => ?_⟩⟩
    · have hf : ¬ x.filling = true := by
        rw [Stream.filling_iff]
        rintro ⟨f, hf, hl, hfail⟩
        simpa [hl, hfail] using h f hf
      exact (execVunbind_bound hd hx).trans (by rw [if_neg hf]; rfl)
    · exact (execVunbind_bound hd hx).trans (by rw [if_pos (x.filling_iff.mpr h)])
  · intro s x q halive hx hf hl hfail hs l u hfill
    show Host.Outcome.next (if q.g.alive then q.landFacet s.ev.e s.ev.i else s) = _
    rw [if_pos halive, State.landFacet_landed hx hf hl hfail hs hfill]
  · intro s d a b t p rs x hb hv h64 hf64 hr ha hx hpa o ho hint below
    have hadm := Ty.admitted_of_ne h64 hf64 hint
    rw [exec_vop ho]
    refine ⟨fun h => ?_, fun hw hc hfail => ?_⟩
    · rw [vbin_bound hb hv hr ha hx _ hadm, need_false _ _ _ (by rintro ⟨hw, hc⟩; rcases h with h | h <;> omega)]
      rfl
    · rw [vbin_fits hb hv hr ha hx hpa ⟨hw.symm, hc⟩ (fun f hg hf => hfail f ⟨hg, hf⟩) _ hadm]
      refine ⟨fun h => ?_, fun h => ?_⟩
      · rw [if_pos ((State.srcWaits_iff hx).mpr h)]
        rfl
      · rw [if_neg fun hwait => ?_, State.finish_ok]
        · have hframe := State.putRes_frame hv d.toNat t.bits
            (s.actives.map fun e => (e, o.2.1.run t p s.u.rm (s.opEl a.toNat t.bits e) (s.bEl b t.bits e)))
          refine congrArg _ (State.consume_one ?_ ?_ ?_ fun r hr' => (hr.2.2 r (List.mem_cons_of_mem _ hr')).1)
          all_goals
            rw [hframe]
        · obtain ⟨f, hf, hl⟩ := (State.srcWaits_iff hx).mp hwait
          rw [h f hf] at hl
          exact Bool.noConfusion hl

end Sys2Proof.Proofs
end

section
/-! PROOFS. Channel transfers that drain into scratch (05 R156; 04 R106, R129). -/

namespace Sys2Proof.Machine

/-- A ring of four slots of 32 bytes, which channel 0 drains; the next slot to claim is full of the byte 7. -/
def drainedRing : RingHdr :=
  { addr := 0x10360000, slotbase := 0x10370000, log2n := 2, slotsz := 32, prod := 0, cons := 8, statbase := 0x10360040 }

/-- Seventeen i16 elements in scratch from offset 2 on: the last element of the first slot and that of the second share the word at
offset 32. -/
def unevenTlr : Tlr :=
  { addr := 0x10300000, base := 2, fmt := 1, rank := 1, ext := [17, 1, 1, 1, 1], box := [17, 1, 1, 1, 1], stride := [2, 0, 0, 0, 0],
    org := [0, 0, 0, 0, 0] }

def unevenDrain : EngOp := { id := 9, g := 1, tm := 1, ctx := 1, tag := 0, kind := .drain unevenTlr drainedRing }

/-- Channel 0 of the staged team runs that transfer; addresses below 0x10000 lead to scratch, and those from 0x10000000
on to global memory. -/
def drainingState : State :=
  let s := State.reset.stage 0x06000000
  let m := ((s.hbm.store 0x20000 (natLe 8 0x30001)).store 0x20008 (natLe 8 stageLeaf)).store 0x30000 (natLe 8 0x5D7)
  let header := [0x10370000, 0x2000200800000000, 0x10360040, 5 * 2 ^ 32 + 5, 0, 0, 0, 0, 0xC0 * 256].flatMap (natLe 8)
  { s with
    hbm := (m.store 0x360000 header).store 0x370020 (List.replicate 32 7)
    t := { s.t with chans := [{ queue := [⟨0, 9⟩], next := 1 }] }
    ops := [unevenDrain]
    nextId := 10
    ev := { tm := 1, k := 0 } }

/-- A slot that a transfer has moved. -/
def SlotRes.moved : SlotRes → Option (State × EngOp)
  | .done q p => some (q, p)
  | _ => none

theorem SlotRes.eq_done_of_moved {r : SlotRes} {x : State × EngOp} (h : r.moved = some x) : r = .done x.1 x.2 := by
  cases r with
  | done q p => cases h; rfl
  | _ => cases h

/-- The byte at an offset of the current team's scratch after a meaning. -/
def scratchAfter (off : Nat) (o : Out) : Option Byte :=
  match o with
  | .next t => some (t.t.scratch.read off)
  | _ => none

theorem runningOp_drainingState : drainingState.runningOp 1 0 = some unevenDrain := by decide +kernel

/-- The slot that the transfer moves ends before the box does, and its last element holds the byte 7. -/
theorem moved_drainingState : ((drainingState.nextSlot unevenDrain).moved.map fun x =>
    (x.2.pos, (x.1.putTransfer x.2).t.scratch.read 32)) = some (16, 7) := by decide +kernel

/-- The word at offset 32 has still to be written in part, and so none of it arrives with the slot (04 R106). -/
theorem scratchAfter_drainingState : scratchAfter 32 (exec .channelDrainSlot drainingState) = some 0 := by decide +kernel

end Sys2Proof.Machine

namespace Sys2Proof.Proofs
open Sys2Proof.Machine

/-- Refutes O39, in the clause that a step of a channel leaves the transfer put back after its slot: that leaves out `State.joinWords`, by
which a drain keeps back a word of scratch that a later slot has still to write in part (04 R106, R129). In `drainingState` the last
element of a slot shares its word with the first of the next, and the step leaves that word as it was. -/
theorem not_channels : ¬ Obligations.Channels := by
  unfold Obligations.Channels
  intro h
  obtain ⟨-, -, hmove, -⟩ := h
  obtain ⟨hdone, -⟩ := hmove drainingState unevenDrain unevenTlr drainedRing true runningOp_drainingState rfl rfl
  obtain ⟨⟨q, p⟩, hmoved, hp⟩ := Option.map_eq_some_iff.mp moved_drainingState
  obtain ⟨hpos, hbyte⟩ := Prod.mk.inj hp
  have hnot : ¬ (unevenTlr.boxSize ≤ p.pos ∧ (q.putTransfer p).abandons p.g = false) := by
    rintro ⟨hle, -⟩
    rw [show p.pos = 16 from hpos] at hle
    exact absurd hle (by decide)
  have hstep := hdone q p (SlotRes.eq_done_of_moved hmoved)
  rw [if_neg hnot] at hstep
  have hafter : scratchAfter 32 (exec .channelDrainSlot drainingState) = some 7 :=
    (congrArg (scratchAfter 32) hstep).trans (congrArg some hbyte)
  rw [scratchAfter_drainingState] at hafter
  exact absurd hafter (by decide)

end Sys2Proof.Proofs
end

section
/-! PROOFS. A copy between layouts of two formats, which no `copy` starts (05 R139 to R141). -/

namespace Sys2Proof.Machine

/-- One i8 element, out of bounds. -/
def byteTlr : Tlr :=
  { fmt := 0, ext := [1, 1, 1, 1, 1], box := [1, 1, 1, 1, 1], stride := [1, 0, 0, 0, 0], org := [-1, 0, 0, 0, 0] }

/-- One e4m3f facet, in bounds, at an odd address. -/
def oddFacetTlr : Tlr :=
  { base := 0x200001, fmt := 8, ext := [1, 1, 1, 1, 1], box := [1, 1, 1, 1, 1], stride := [32, 0, 0, 0, 0], org := [0, 0, 0, 0, 0] }

def unequalCopy : EngOp := { id := 9, g := 1, tm := 1, ctx := 1, tag := 0, kind := .copy byteTlr oddFacetTlr }

/-- The staged team, whose addresses lead to global memory. -/
def copyingState : State := State.reset.stage 0x06000000

/-- An operation has performed a unit. -/
def UnitRes.isOk : UnitRes → Bool
  | .ok _ _ => true
  | _ => false

/-- The one byte of the fill value can be written at the destination. -/
theorem placeOf_copyingState : copyingState.placeOf (copyingState.opAgent unequalCopy) .engDst (Claim.elAt oddFacetTlr 0)
    (Claim.written oddFacetTlr.fmt (fillBytes byteTlr.fmt byteTlr.fill)).length
    (Claim.written oddFacetTlr.fmt (fillBytes byteTlr.fmt byteTlr.fill)).length = some (.hbm 0x200001) := by decide +kernel

/-- As an element of a facet format that byte becomes two, for which the address is misaligned. -/
theorem opUnit_copyingState : (copyingState.opUnit unequalCopy 0).isOk = false := by decide +kernel

end Sys2Proof.Machine

namespace Sys2Proof.Proofs
open Sys2Proof.Machine

/-- Refutes O37, in the clause on one element of a dense local copy: the clause does not ask that both layouts have one format, as a `copy`
checks (05 R140). An element that is written in an e4m3 or e5m2 facet format gets a second byte 0 (03 R76, `facetOut`); where the source
format has one byte, `Claim.written` leaves it at one. In `copyingState` the one byte of `unequalCopy` could be written at its odd
address, and the two bytes cannot. -/
theorem not_engineOperationsEnd : ¬ Obligations.EngineOperationsEnd := by
  unfold Obligations.EngineOperationsEnd
  intro h
  obtain ⟨-, -, hcopy, -⟩ := h
  obtain ⟨q, hplace⟩ := State.place_of_placeOf placeOf_copyingState
  have hout : ¬ Claim.inBox byteTlr 0 := by unfold Claim.inBox; decide +kernel
  have hin : Claim.inBox oddFacetTlr 0 := by unfold Claim.inBox; decide +kernel
  obtain ⟨hwrite, -⟩ := hcopy copyingState unequalCopy byteTlr oddFacetTlr 0 rfl rfl rfl rfl rfl rfl ⟨rfl, rfl, rfl, rfl⟩ ⟨rfl, rfl, rfl, rfl⟩
    _ copyingState (.inr ⟨hout, rfl, rfl⟩)
  have hok := congrArg UnitRes.isOk (hwrite _ hin ⟨_, q, hplace, rfl⟩)
  rw [opUnit_copyingState] at hok
  exact Bool.false_ne_true hok

end Sys2Proof.Proofs
end

section
/-! PROOFS. Owned references (06 R168, R170), the weight that an issuer splits (06 R180), and the records that `spawn`, `launch` and `emit`
make (11 R323, R324, R329, R330). -/

namespace Sys2Proof.Machine

theorem takeRefs_count {o p r : List Word} (h : takeRefs o p = .ok r) (x : Word) : r.count x + p.count x = o.count x := by
  induction p generalizing o with
  | nil => cases h; rfl
  | cons y p ih =>
    rw [takeRefs] at h
    split at h
    · next hy =>
      have hp := List.count_pos_iff.mpr (List.contains_iff_mem.mp hy)
      have hr := ih h
      rw [List.count_erase] at hr
      rw [List.count_cons]
      by_cases hx : y = x
      · subst hx
        simp only [beq_self_eq_true, if_true] at hr ⊢
        omega
      · simpa [hx] using hr
    · cases h

theorem takeRefs_count_lt {o p : List Word} {x : Word} (h : takeRefs o p = .error x) : o.count x < p.count x := by
  induction p generalizing o with
  | nil => cases h
  | cons y p ih =>
    rw [takeRefs] at h
    split at h
    · have hlt := ih h
      rw [List.count_erase] at hlt
      rw [List.count_cons]
      by_cases hx : y = x
      · subst hx
        simp only [beq_self_eq_true, if_true] at hlt ⊢
        omega
      · simpa [hx] using hlt
    · next hy =>
      cases h
      rw [List.count_eq_zero_of_not_mem (by simpa using hy), List.count_cons_self]
      exact Nat.succ_pos _

/-- The references that a control word passes are those whose bits of HMASK are set (11 R323). -/
theorem hmask_getLsbD (cw : Nat) {k : Nat} (hk : k < 8) :
    (BitVec.ofNat 8 (field cw 8 8)).getLsbD k = decide (cw / 2 ^ (8 + k) % 2 = 1) := by
  rw [BitVec.getLsbD_ofNat, field, Nat.testBit_mod_two_pow, Nat.testBit_div_two_pow, Nat.testBit_eq_decide_div_mod_eq, Nat.add_comm k 8]
  simp [hk]

/-! Weight (06 R180). -/

theorem State.split_ok {s q : State} {w : Nat} (h : s.split = .ok (w, q)) :
    ∃ v p, s.refill s.t.root s.issuerWeight = some (v, p) ∧ w = v / 2 ∧ q = p.setIssuerWeight (v - w) := by
  unfold State.split at h
  split at h
  · next v p hr => cases h; exact ⟨v, p, hr, rfl, rfl⟩
  · cases h

theorem State.split_error {s : State} {e : Stop} (h : s.split = .error e) : e = .hold .refill := by
  unfold State.split at h
  split at h <;> cases h
  rfl

theorem State.refill_frame {s q : State} {root : Word} {w v : Nat} (h : s.refill root w = some (v, q)) : q = { s with graphs := q.graphs } := by
  unfold State.refill at h
  split at h
  · cases h; rfl
  · split at h
    · split at h <;> cases h
      rfl
    · cases h

/-- A new weight of the issuer changes its record or its team, and nothing else. -/
theorem State.setIssuerWeight_frame (s : State) (w : Nat) :
    s.setIssuerWeight w = { s with tasks := (s.setIssuerWeight w).tasks, t := { s.t with weight := (s.setIssuerWeight w).t.weight } } := by
  unfold State.setIssuerWeight
  split <;> rfl

theorem State.split_frame {s q : State} {w : Nat} (h : s.split = .ok (w, q)) :
    q = { s with graphs := q.graphs, tasks := q.tasks, t := { s.t with weight := q.t.weight } } := by
  obtain ⟨v, p, hr, -, rfl⟩ := State.split_ok h
  rw [State.setIssuerWeight_frame, State.refill_frame hr]


theorem State.writeOvf_deviceWrites (s : State) (c : Nat) (bs rs : List Word) : s.DeviceWrites (State.writeOvf s c bs rs) := by
  induction bs generalizing s rs with
  | nil => exact .refl s
  | cons b bs ih => exact (s.devWrite_deviceWrites ..).trans (ih _ _)

/-- A new owned list changes the team and the overflow blocks that hold it (06 R168). -/
theorem State.setOwned_some {s q : State} {rs : List Word} (h : s.setOwned rs = some q) :
    ∃ ovf, ({ s with t := { s.t with owned := rs, ovf := ovf } } : State).DeviceWrites q := by
  unfold State.setOwned at h
  dsimp only at h
  split at h
  · cases h
  · split at h <;> cases h
    exact ⟨_, State.writeOvf_deviceWrites ..⟩

theorem State.call_frame (s : State) (d : Nat) : s.call d = { s with due := (s.call d).due } := by
  unfold State.call
  split <;> rfl

/-- A new candidate changes its die and the decisions that are due, and stands last where the package has the die (16 R383). -/
theorem State.addCand_spec (s : State) (d : Nat) (k : CandKind) (pri : Nat) :
    s.addCand d k pri = { s with dies := (s.addCand d k pri).dies, due := (s.addCand d k pri).due } ∧
    ((s.addCand d k pri).dieAt d).cands = (s.dieAt d).cands ++ (if d < s.dies.length then [{ kind := k, pri := pri }] else []) := by
  unfold State.addCand
  dsimp only
  refine ⟨by rw [State.call_frame]; rfl, ?_⟩
  rw [State.dieAt, (State.call_spec ..).1]
  by_cases hd : d < s.dies.length
  · rw [if_pos hd]
    exact congrArg Die.cands (s.dieAt_setDie_same _ hd)
  · rw [if_neg hd, List.append_nil, State.setDie_absent _ (Nat.le_of_not_lt hd)]
    rfl

theorem State.newRecord_spec (s : State) (r : TaskRec) : let q := s.newRecord r
    q = { s with tasks := s.tasks ++ [{ r with loc := r.die }], dies := q.dies, due := q.due } ∧
    (q.dieAt r.die).cands = (s.dieAt r.die).cands ++ (if r.die < s.dies.length then [{ kind := .task r.handle, pri := r.pri }] else []) := by
  obtain ⟨hf, hc⟩ := State.addCand_spec { s with tasks := s.tasks ++ [{ r with loc := r.die }] } r.die (.task r.handle) r.pri
  exact ⟨hf, hc⟩

theorem State.freeSlotFrom_congr {s q : State} (h : q.tasks = s.tasks) (d n k : Nat) : q.freeSlotFrom d n k = s.freeSlotFrom d n k := by
  induction n generalizing k with
  | zero => rfl
  | succ n ih => rw [State.freeSlotFrom, State.freeSlotFrom, h, ih]

/-- The handle that the next record gets hangs on the records and the generations alone (06 R165, R166). -/
theorem State.newHandle_congr {s q : State} (ht : q.tasks = s.tasks) (hd : q.dies = s.dies) (d : Nat) : q.newHandle d = s.newHandle d := by
  unfold State.newHandle State.dieAt
  rw [State.freeSlotFrom_congr ht, ht, hd]

/-! `spawn` (11 R323, R324). -/

/-- What a unit of `spawn` passes: the captured registers whose bit of HMASK is set. -/
def Unit.passed (u : Unit) : List Word :=
  ((List.range 8).filter fun k => u.opB.toNat / 2 ^ (8 + k) % 2 = 1).map fun k => u.ops.getD k 0

theorem Unit.passed_eq (u : Unit) :
    (((List.range 8).filter fun k => (BitVec.ofNat 8 (field u.opB.toNat 8 8)).getLsbD k).map fun k => u.ops.getD k 0) = u.passed := by
  unfold Unit.passed
  rw [List.filter_congr fun k hk => hmask_getLsbD u.opB.toNat (List.mem_range.mp hk)]

/-- A control word of `spawn` without reserved bits, and with at most 128 units of scratch. -/
abbrev Unit.spawnWord (u : Unit) : Prop := u.opB.toNat / 2 ^ 24 = 0 ∧ field u.opB.toNat 7 1 = 0 ∧ field u.opB.toNat 16 8 ≤ 128

/-- The record that `spawn` makes, with its handle and its weight. -/
def State.spawned (s : State) (h : Word) (w : Nat) : TaskRec :=
  { handle := h, die := s.t.die, ctx := s.t.ctx, entry := s.u.opA, args := s.u.ops, weight := w, parent := s.t.handle, root := s.t.root,
    cons := 1, pri := field s.u.opB.toNat 0 3, ecls := field s.u.opB.toNat 3 3, pin := field s.u.opB.toNat 6 1 = 1,
    hmask := BitVec.ofNat 8 (field s.u.opB.toNat 8 8), budget := s.g.budget, gmax := s.g.grant, scr := field s.u.opB.toNat 16 8 }

section
variable {s : State} (d : CReg) (x : Word)

theorem State.spawn_illegal (h : ¬ s.u.spawnWord) : s.spawn d x = .error (.trap { cause := illegal }) := by
  unfold State.spawn
  dsimp only
  rw [need_false _ _ _ h]
  rfl

theorem State.spawn_misaligned (h : s.u.spawnWord) (ha : s.u.opA.toNat % 4 ≠ 0) :
    s.spawn d x = .error (.trap { cause := causeMisaligned, addr := s.u.opA }) := by
  unfold State.spawn
  dsimp only
  rw [need_true _ _ _ h, if_pos ha]
  rfl

section
variable (h : s.u.spawnWord) (ha : s.u.opA.toNat % 4 = 0)
include h ha

theorem State.spawn_stale {k : Word} (hk : s.u.passed.find? (fun k => !s.current k) = some k) :
    s.spawn d x = .error (.trap { cause := causeFuture, info := k }) := by
  have hn : ¬ s.u.passed.all s.current = true := by
    rw [List.all_eq_true]
    intro hall
    have := List.find?_some hk
    rw [hall k (List.mem_of_find?_eq_some hk)] at this
    cases this
  unfold State.spawn
  dsimp only
  rw [need_true _ _ _ h, if_neg (not_not.mpr ha), s.u.passed_eq, need_false _ _ _ hn, hk]
  rfl

variable (hc : ∀ k ∈ s.u.passed, s.current k = true)
include hc

theorem State.spawn_unowned {k : Word} (hk : takeRefs s.t.owned s.u.passed = .error k) :
    s.spawn d x = .error (.trap { cause := causeFuture, info := k }) := by
  unfold State.spawn
  dsimp only
  rw [need_true _ _ _ h, if_neg (not_not.mpr ha), s.u.passed_eq, need_true _ _ _ (List.all_eq_true.mpr hc), hk]
  rfl

/-- With references that are current and owned, the room for one more, in the team and in the store, and the weight decide. -/
theorem State.spawn_owned {owned : List Word} (ho : takeRefs s.t.owned s.u.passed = .ok owned) : let h := s.newHandle s.t.die
    s.spawn d x = (s.setOwned (owned ++ [h])).elim (trapM causeRefLimit x) fun q =>
      if s.storeFull s.t.die then holdM .storeFull
      else q.split >>= fun y => .ok ((y.2.newRecord (s.spawned h y.1)).setC d h) := by
  unfold State.spawn
  dsimp only
  rw [need_true _ _ _ h, if_neg (not_not.mpr ha), s.u.passed_eq, need_true _ _ _ (List.all_eq_true.mpr hc), ho]
  dsimp only [Bind.bind, Except.bind]
  cases s.setOwned (owned ++ [s.newHandle s.t.die]) <;> rfl

end

end

/-! `launch` (11 R330) and `GRID`: the record of a grid. -/

/-- One message to each of listed dies. -/
theorem State.foldl_send (s : State) (d : Nat) (b : MsgBody) (ds : List Nat) :
    ds.foldl (fun s x => s.send d x b) s = { s with msgs := s.msgs ++ ds.map fun x => ⟨d, x, b⟩ } := by
  induction ds generalizing s with
  | nil => simp
  | cons x ds ih =>
    rw [List.foldl_cons, ih]
    simp [State.send]

/-- The record of a new grid. -/
def State.gridRecord (s : State) (d ctx : Nat) (n : LoopNest) (h : Word) (w : Nat) (parent root : Word) : TaskRec :=
  { handle := h, die := d, loc := d, ctx := ctx, entry := n.entry, weight := w, parent := parent, root := root, cons := 1,
    pri := n.pri, ecls := n.ecls, grid := some n, shares := s.partDies (s.partOfDie d) }

theorem State.newGrid_eq (s : State) (d ctx : Nat) (n : LoopNest) (h : Word) (w : Nat) (parent root : Word) :
    s.newGrid d ctx n h w parent root = { s with
      tasks := s.tasks ++ [s.gridRecord d ctx n h w parent root]
      msgs := s.msgs ++ (s.partDies (s.partOfDie d)).map fun x => ⟨d, x, .grid h⟩ } := by
  unfold State.newGrid
  dsimp only
  rw [State.foldl_send]
  rfl

section
variable {s u : State} {ws : List Word} (d : CReg) (x : Word)

theorem State.launch_misaligned (ha : s.u.opA.toNat % 128 ≠ 0) :
    s.launch d x = .error (.trap { cause := causeMisaligned, addr := s.u.opA }) := by
  unfold State.launch
  dsimp only
  rw [if_pos ha]

variable (ha : s.u.opA.toNat % 128 = 0) (hr : s.readWords s.agent .load s.u.opA 16 = .ok (ws, u))
include ha hr

theorem State.launch_outside (hs : s.spaceOf s.t.ctx s.u.opA ≠ some 0) :
    s.launch d x = .error (.trap { cause := causeDescriptor, info := s.u.opA, tlb := some u.tlb }) := by
  unfold State.launch
  dsimp only
  rw [if_neg (not_not.mpr ha), hr]
  dsimp only
  rw [need_false _ _ _ hs]
  rfl

variable (hs : s.spaceOf s.t.ctx s.u.opA = some 0)
include hs

theorem State.launch_malformed (hn : loopNest ws = none) :
    s.launch d x = .error (.trap { cause := causeDescriptor, info := s.u.opA, tlb := some u.tlb }) := by
  unfold State.launch
  dsimp only
  rw [if_neg (not_not.mpr ha), hr]
  dsimp only
  rw [need_true _ _ _ hs, hn]
  rfl

/-- With a record that passes its checks, the room for one more reference, in the team and in the store, and the weight decide. -/
theorem State.launch_read {n : LoopNest} (hn : loopNest ws = some n) : let h := s.newHandle s.t.die
    s.launch d x = u.keeping ((u.setOwned (s.t.owned ++ [h])).elim (trapM causeRefLimit x) fun q =>
      if s.storeFull s.t.die then holdM .storeFull
      else q.split >>= fun y => .ok ((y.2.newGrid s.t.die s.t.ctx n h y.1 s.t.handle s.t.root).setC d h)) := by
  unfold State.launch
  dsimp only
  rw [if_neg (not_not.mpr ha), hr]
  dsimp only
  rw [need_true _ _ _ hs, hn]
  dsimp only [Bind.bind, Except.bind]
  cases u.setOwned (s.t.owned ++ [s.newHandle s.t.die]) <;> rfl

end

/-! `emit` (11 R329). -/

section
variable {s : State} (a b : CReg)

theorem execEmit_held {l : Nat} (hi : s.u.opA.toNat < 1024) (h : s.nodeHeld s.t.ctx s.u.opA.toNat = some l) :
    execEmit a b s = .next (s.holdUnit (.recall l)) := by
  unfold execEmit
  dsimp only
  rw [if_pos hi, h]
  rfl

variable (hl : s.u.opA.toNat < 1024 → s.nodeHeld s.t.ctx s.u.opA.toNat = none)
include hl

/-- Once no line of the declaration is an engine's, the declaration and the address decide. -/
theorem execEmit_unheld : execEmit a b s = s.finish (do
    need (s.u.opA.toNat < 1024 ∧ s.nodeOk s.t.ctx s.u.opA.toNat = true) causeDescriptor s.u.opB
    if s.u.opB.toNat % 4 ≠ 0 then .error (.trap { cause := causeMisaligned, addr := s.u.opB })
    else do
      let y ← s.readRec s.u.opB (s.nodeDecl s.t.ctx s.u.opA.toNat).rsize
      if 2 ^ 22 < (s.dieAt s.t.die).binBytes + (y.1.length + 31) / 32 * 32 then holdM .binFull
      else do
        let z ← y.2.split
        .ok (z.2.intoBin s.t.die s.t.ctx s.u.opA.toNat (y.1, z.1, s.t.root))) := by
  have hn : (if s.u.opA.toNat < 1024 then s.nodeHeld s.t.ctx s.u.opA.toNat else none) = none := by
    split
    · exact hl ‹_›
    · rfl
  unfold execEmit
  dsimp only
  rw [hn]

theorem execEmit_undeclared (h : ¬ (s.u.opA.toNat < 1024 ∧ s.nodeOk s.t.ctx s.u.opA.toNat = true)) :
    execEmit a b s = .next (s.raiseTrap { cause := causeDescriptor, info := s.u.opB }) := by
  rw [execEmit_unheld a b hl, need_false _ _ _ h]
  rfl

variable (hd : s.u.opA.toNat < 1024 ∧ s.nodeOk s.t.ctx s.u.opA.toNat = true)
include hd

theorem execEmit_misaligned (h : s.u.opB.toNat % 4 ≠ 0) :
    execEmit a b s = .next (s.raiseTrap { cause := causeMisaligned, addr := s.u.opB }) := by
  rw [execEmit_unheld a b hl, need_true _ _ _ hd, if_pos h]
  rfl

/-- With a record that is read, the room of the bins and the weight decide. -/
theorem execEmit_read {bs : List Byte} {u : State} (h : s.u.opB.toNat % 4 = 0)
    (hr : s.readRec s.u.opB (s.nodeDecl s.t.ctx s.u.opA.toNat).rsize = .ok (bs, u)) :
    execEmit a b s = s.finish (if 2 ^ 22 < (s.dieAt s.t.die).binBytes + (bs.length + 31) / 32 * 32 then holdM .binFull
      else u.split >>= fun z => .ok (z.2.intoBin s.t.die s.t.ctx s.u.opA.toNat (bs, z.1, s.t.root))) := by
  rw [execEmit_unheld a b hl, need_true _ _ _ hd, if_neg (not_not.mpr h), hr]
  rfl

end

section
variable {f q p : State} {owned : List Word} {w : Nat} (d : CReg)
  (hq : f.setOwned owned = some q) (hsp : q.split = .ok (w, p))
include hq hsp

/-- What the issuer's team owns, and the dies, once a weight has been split off: as the new owned list left them. -/
theorem State.split_setOwned : p.t.owned = owned ∧ p.dies = f.dies := by
  obtain ⟨ovf, hd⟩ := State.setOwned_some hq
  rw [State.split_frame hsp, hd]
  exact ⟨rfl, rfl⟩

end

theorem Unit.spawnWord_iff (u : Unit) : u.spawnWord ↔
    u.opB.toNat < 2 ^ 24 ∧ u.opB.toNat / 128 % 2 = 0 ∧ u.opB.toNat / 2 ^ 16 % 256 ≤ 128 := by
  simp only [Unit.spawnWord, field, Nat.div_eq_zero_iff]
  norm_num

end Sys2Proof.Machine

namespace Sys2Proof.Proofs
open Sys2Proof.Machine

/-- The outcomes of `spawn` with a legal control word. -/
theorem spawn_outcomes (s : State) (d a b : CReg) : let cw := s.u.opB.toNat
    let h := s.newHandle s.t.die
    let passed := ((List.range 8).filter fun k => cw / 2 ^ (8 + k) % 2 = 1).map fun k => s.u.ops.getD k 0
    let x := BitVec.ofNat 64 (Config.freeNat s.fresh)
    let f : State := { s with fresh := s.fresh + 1 }
    (cw < 2 ^ 24 → cw / 128 % 2 = 0 → cw / 2 ^ 16 % 256 ≤ 128 →
      (s.u.opA.toNat % 4 ≠ 0 → exec (.spawn d a b) s = .next (f.raiseTrap { cause := 0x06, addr := s.u.opA })) ∧
      (s.u.opA.toNat % 4 = 0 → ∀ k, passed.find? (fun k => !s.current k) = some k → exec (.spawn d a b) s = .next (f.raiseTrap { cause := 0x11, info := k })) ∧
      (s.u.opA.toNat % 4 = 0 → (∀ k ∈ passed, s.current k = true) → ∀ k, takeRefs s.t.owned passed = .error k →
        exec (.spawn d a b) s = .next (f.raiseTrap { cause := 0x11, info := k })) ∧
      (s.u.opA.toNat % 4 = 0 → (∀ k ∈ passed, s.current k = true) → ∀ owned, takeRefs s.t.owned passed = .ok owned →
        (f.setOwned (owned ++ [h]) = none → exec (.spawn d a b) s = .next (f.raiseTrap { cause := 0x12, info := x })) ∧
        ∀ q, f.setOwned (owned ++ [h]) = some q →
          (s.storeFull s.t.die = true → exec (.spawn d a b) s = .next (f.holdUnit .storeFull)) ∧
          (s.storeFull s.t.die = false → ∀ e, q.split = .error e → exec (.spawn d a b) s = .next (f.holdUnit .refill)) ∧
          (s.storeFull s.t.die = false → ∀ w p, q.split = .ok (w, p) → ∃ m t, exec (.spawn d a b) s = .next t ∧ Claim.wroteC m t d h ∧
            m.t.owned = owned ++ [h] ∧
            m.tasks = p.tasks ++ [{ handle := h, die := s.t.die, loc := s.t.die, ctx := s.t.ctx, entry := s.u.opA, args := s.u.ops, weight := w, parent := s.t.handle, root := s.t.root, cons := 1, pri := cw % 8, ecls := cw / 8 % 8, pin := decide (cw / 64 % 2 = 1), hmask := BitVec.ofNat 8 (cw / 256 % 256), budget := s.g.budget, gmax := s.g.grant, scr := cw / 2 ^ 16 % 256 }] ∧
            (m.dieAt s.t.die).cands = (p.dieAt s.t.die).cands ++ (if s.t.die < s.dies.length then [{ kind := .task h, pri := cw % 8 }] else [])))) := by
  intro cw h passed x f hlt h7 hscr
  have hw : s.u.spawnWord := (Unit.spawnWord_iff s.u).mpr ⟨hlt, h7, hscr⟩
  have hh : f.newHandle f.t.die = h := State.newHandle_congr (s := s) (q := f) rfl rfl s.t.die
  have hx : exec (.spawn d a b) s = f.finish (f.spawn d x) := rfl
  rw [hx]
  refine ⟨fun ha => ?_, fun ha k hk => ?_, fun ha hc k hk => ?_, fun ha hc owned ho => ?_⟩
  · rw [State.spawn_misaligned (s := f) d x hw ha]; rfl
  · rw [State.spawn_stale (s := f) d x hw ha hk]; rfl
  · rw [State.spawn_unowned (s := f) d x hw ha hc hk]; rfl
  · have hs := State.spawn_owned (s := f) d x hw ha hc ho
    dsimp only at hs
    rw [hh, show f.storeFull f.t.die = s.storeFull s.t.die from rfl] at hs
    rw [hs]
    refine ⟨fun hq => ?_, fun q hq => ⟨fun hfull => ?_, fun hroom e he => ?_, fun hroom w p hsp => ?_⟩⟩
    · rw [hq]; rfl
    · rw [hq, Option.elim_some, if_pos hfull]; rfl
    · rw [hq, Option.elim_some, if_neg (Bool.eq_false_iff.mp hroom), he, State.split_error he]; rfl
    · obtain ⟨howned, hdies⟩ := State.split_setOwned hq hsp
      obtain ⟨hm, hcands⟩ := p.newRecord_spec (f.spawned h w)
      rw [hq, Option.elim_some, if_neg (Bool.eq_false_iff.mp hroom), hsp]
      refine ⟨p.newRecord (f.spawned h w), _, rfl, State.setC_wroteC .., ?_, ?_, ?_⟩
      · rw [hm]; exact howned
      · rw [hm]
        simp [State.spawned, field, f, cw]
      · refine hcands.trans ?_
        rw [hdies]
        simp [State.spawned, field, f, cw]


/-- The outcomes of `launch` with an aligned record that is read. -/
theorem launch_outcomes (s : State) (d a : CReg) : let ptr := s.u.opA
    let h := s.newHandle s.t.die
    let f : State := { s with fresh := s.fresh + 1 }
    (ptr.toNat % 128 = 0 → ∀ ws u, f.readWords f.agent .load ptr 16 = .ok (ws, u) →
      (f.spaceOf s.t.ctx ptr ≠ some 0 → exec (.launch d a) s = .next (f.raiseTrap { cause := 0x0B, info := ptr, tlb := some u.tlb })) ∧
      (f.spaceOf s.t.ctx ptr = some 0 → loopNest ws = none → exec (.launch d a) s = .next (f.raiseTrap { cause := 0x0B, info := ptr, tlb := some u.tlb })) ∧
      (f.spaceOf s.t.ctx ptr = some 0 → ∀ n, loopNest ws = some n → u.setOwned (s.t.owned ++ [h]) = none →
        exec (.launch d a) s = .next (f.raiseTrap { cause := 0x12, info := BitVec.ofNat 64 (Config.freeNat s.fresh), tlb := some u.tlb })) ∧
      (f.spaceOf s.t.ctx ptr = some 0 → ∀ n q, loopNest ws = some n → u.setOwned (s.t.owned ++ [h]) = some q →
        (s.storeFull s.t.die = true → exec (.launch d a) s = .next (f.holdUnit .storeFull)) ∧
        (s.storeFull s.t.die = false → ∀ e, q.split = .error e → exec (.launch d a) s = .next (f.holdUnit .refill))) ∧
      (∀ n q w p, f.spaceOf s.t.ctx ptr = some 0 → loopNest ws = some n → u.setOwned (s.t.owned ++ [h]) = some q → s.storeFull s.t.die = false → q.split = .ok (w, p) →
        ∃ m t, exec (.launch d a) s = .next t ∧ Claim.wroteC m t d h ∧
          (∃ r, m.tasks = p.tasks ++ [r] ∧ r.handle = h ∧ r.grid = some n ∧ r.weight = w ∧ r.cons = 1 ∧ r.st = .ready ∧ r.parent = s.t.handle ∧
            r.shares = p.partDies (p.partOfDie s.t.die)) ∧
          m.msgs = p.msgs ++ (p.partDies (p.partOfDie s.t.die)).map fun k => ⟨s.t.die, k, .grid h⟩)) := by
  intro ptr h f ha ws u hr
  let x := BitVec.ofNat 64 (Config.freeNat s.fresh)
  have hx : exec (.launch d a) s = f.finish (f.launch d x) := rfl
  have hread {n : LoopNest} (hs : f.spaceOf s.t.ctx ptr = some 0) (hn : loopNest ws = some n) :
      f.launch d x = u.keeping ((u.setOwned (s.t.owned ++ [h])).elim (trapM causeRefLimit x) fun q =>
        if s.storeFull s.t.die then holdM .storeFull
        else q.split >>= fun y => .ok ((y.2.newGrid s.t.die s.t.ctx n h y.1 s.t.handle s.t.root).setC d h)) := by
    have hl := State.launch_read (s := f) d x ha hr hs hn
    rwa [State.newHandle_congr (s := s) (q := f) rfl rfl] at hl
  rw [hx]
  refine ⟨fun hs => ?_, fun hs hn => ?_, fun hs n hn hq => ?_, fun hs n q hn hq => ⟨fun hfull => ?_, fun hroom e he => ?_⟩,
    fun n q w p hs hn hq hroom hsp => ?_⟩
  · rw [State.launch_outside (s := f) d x ha hr hs]; rfl
  · rw [State.launch_malformed (s := f) d x ha hr hs hn]; rfl
  · rw [hread hs hn, hq]; rfl
  · rw [hread hs hn, hq, Option.elim_some, if_pos hfull]; rfl
  · rw [hread hs hn, hq, Option.elim_some, if_neg (Bool.eq_false_iff.mp hroom), he, State.split_error he]; rfl
  · rw [hread hs hn, hq, Option.elim_some, if_neg (Bool.eq_false_iff.mp hroom), hsp]
    refine ⟨p.newGrid s.t.die s.t.ctx n h w s.t.handle s.t.root, _, rfl, State.setC_wroteC .., ?_⟩
    rw [State.newGrid_eq]
    exact ⟨⟨_, rfl, rfl, rfl, rfl, rfl, rfl, rfl, rfl⟩, rfl⟩

/-- Settles O43: each instruction makes its checks in order, and each outcome is the equation of its own lemma. -/
theorem taskCreation : Obligations.TaskCreation := by
  unfold Obligations.TaskCreation
  refine ⟨fun s w u => State.split_ok, fun o p r => takeRefs_count, fun o p x => takeRefs_count_lt, fun s d a b => ⟨fun hw => ?_, spawn_outcomes s d a b⟩,
    fun s d a => ⟨fun ha => ?_, launch_outcomes s d a⟩, fun s a b => ⟨fun l hi => execEmit_held a b hi, fun hl => ⟨execEmit_undeclared a b hl, ?_⟩⟩⟩
  · have hbad : ¬ s.u.spawnWord := by
      rw [Unit.spawnWord_iff]
      omega
    exact congrArg (State.finish { s with fresh := s.fresh + 1 }) (State.spawn_illegal (s := { s with fresh := s.fresh + 1 }) d _ hbad)
  · exact congrArg (State.finish { s with fresh := s.fresh + 1 }) (State.launch_misaligned (s := { s with fresh := s.fresh + 1 }) d _ ha)
  · intro hi hok
    refine ⟨execEmit_misaligned a b hl ⟨hi, hok⟩, fun ha bs u hr => ?_⟩
    have he : exec (.emit a b) s = _ := execEmit_read a b hl ⟨hi, hok⟩ ha hr
    rw [he]
    refine ⟨fun hfull => ?_, fun hroom e hs => ?_, fun hroom w p hs => ?_⟩
    · rw [if_pos hfull]; rfl
    · rw [if_neg (Nat.not_lt.mpr hroom), hs, State.split_error hs]; rfl
    · rw [if_neg (Nat.not_lt.mpr hroom), hs]; rfl

end Sys2Proof.Proofs
end

section
/-! PROOFS. What saving a group, and moves to smaller grants, leave of the current group (15 R363, R367, 16 R390). -/

namespace Sys2Proof.Machine

theorem State.DeviceWrites.g {s q : State} (h : s.DeviceWrites q) : q.g = s.g := by rw [h]; rfl

theorem State.setKeys_walksTo (s : State) (b n : Nat) (p : BitVec 256 × BitVec 256) : s.WalksTo (s.setKeys b n p) := rfl

theorem State.devClear_walksTo (s : State) (c : Nat) (va : Word) (n : Nat) : s.WalksTo (s.devClear c va n) := by
  induction n generalizing s va with
  | zero => exact .refl s
  | succ n ih =>
    rw [State.devClear]
    split
    · next leaf level at_ _ =>
      dsimp only
      refine State.WalksTo.trans ?_ (ih _ _)
      refine State.WalksTo.trans (s.ite_hbm_walksTo (leaf ||| 0xC0 = leaf) (s.hbm.store at_ (natLe 8 (leaf ||| 0xC0)))) ?_
      generalize (if leaf ||| 0xC0 = leaf then s else _ : State) = q
      split
      · exact (State.setKeys_walksTo ..).trans rfl
      · rfl
    · exact ih _ _

theorem State.writeArea_deviceWrites (s : State) (c : Nat) (area : Word) (img : List (Nat × Word)) : s.DeviceWrites (s.writeArea c area img) := by
  unfold State.writeArea
  dsimp only
  refine State.DeviceWrites.trans ?_ (p := _) rfl
  refine (s.devClear_walksTo c area 3).deviceWrites.trans ?_
  refine foldl_keeps State.DeviceWrites.refl State.DeviceWrites.trans (fun q x => ?_) _ _
  split
  · split
    · exact (State.noteLaid_deviceWrites ..).trans (State.noteLaid_deviceWrites ..)
    · exact State.noteLaid_deviceWrites ..
  · exact .refl q

/-- `y` has the vector registers, the masks and the vector length of `g`. -/
def Group.SameVector (g y : Group) : Prop := y.v = g.v ∧ y.vl = g.vl ∧ y.vm = g.vm ∧ y.vo = g.vo

theorem Group.SameVector.refl (g : Group) : g.SameVector g := ⟨rfl, rfl, rfl, rfl⟩

theorem Group.SameVector.trans {a b c : Group} (h : a.SameVector b) (k : b.SameVector c) : a.SameVector c := by
  obtain ⟨hv, hl, hm, ho⟩ := h
  obtain ⟨kv, kl, km, ko⟩ := k
  exact ⟨kv.trans hv, kl.trans hl, km.trans hm, ko.trans ho⟩

theorem Group.sameVector_late (l : List Late) (g : Group) :
    g.SameVector (l.foldl (fun g l => { g with c := Bank.set 0 g.c l.d.toNat l.val }) g) :=
  foldl_keeps (f := fun (g : Group) (l : Late) => { g with c := Bank.set 0 g.c l.d.toNat l.val }) Group.SameVector.refl Group.SameVector.trans
    (fun _ _ => ⟨rfl, rfl, rfl, rfl⟩) l g

/-- A group that is saved keeps its vector registers as they stand, and is off its sector with the STATE of its area (15 R363, R370). -/
theorem State.saveGroup_spec (s : State) (st : Nat) (trap : List Word) (live : Option (Nat → Bool)) :
    (s.saveGroup st trap live).g.run = .saved st ∧ s.g.SameVector (s.saveGroup st trap live).g := by
  unfold State.saveGroup
  dsimp only
  rw [State.call_frame]
  refine ⟨rfl, ?_⟩
  dsimp only [Group.SameVector]
  rw [(State.writeArea_deviceWrites ..).g]
  refine Group.SameVector.trans ?_ (Group.sameVector_late _ _)
  split <;> exact ⟨rfl, rfl, rfl, rfl⟩

/-- A change of the group of an identifier is one of the current group where that has it, and leaves the current group alone elsewhere. -/
theorem State.updGroup_g (s : State) (id : Nat) {f : Group → Group} (hf : ∀ x, (f x).id = x.id) :
    (s.updGroup id f).g = s.g ∨ (s.updGroup id f).g = f s.g := by
  cases hx : s.group? id with
  | none => exact .inl (by rw [State.updGroup, hx])
  | some x =>
    have hid : x.id = id := by simpa using List.find?_some hx
    have h0 : x.id ≠ 0 := by simpa using (List.mem_filter.mp (List.mem_of_find?_eq_some hx)).2
    by_cases hg : x.id = s.g.id
    · rw [← hid, hg, State.updGroup_current (hg ▸ h0) (hf _)]
      exact .inr rfl
    · rw [State.updGroup, hx]
      dsimp only
      rw [State.putGroup, hf, if_neg hg]
      exact .inl rfl

/-- The current group of `q` is that of `s`, but for whether it is asked for a length-free point. -/
def State.SameGroupButReq (s q : State) : Prop := q.g = { s.g with req := q.g.req }

theorem State.SameGroupButReq.ite {s p q : State} {c : Prop} [Decidable c] (h : s.SameGroupButReq p) (k : s.SameGroupButReq q) :
    s.SameGroupButReq (if c then p else q) := by
  split
  · exact h
  · exact k

theorem State.withdraw_g (s : State) (g : Group) : (s.withdraw g).g = s.g := by
  unfold State.withdraw
  split
  · exact (s.devWrite_deviceWrites ..).g
  · rfl

/-- Moves to smaller grants ask the current group for a length-free point, or withdraw that, and leave it as it is otherwise (16 R390). -/
theorem State.migrate_sameGroupButReq (s : State) (d : Nat) : s.SameGroupButReq (s.migrate d) := by
  have fold (q : State) (l : List Group) : (l.foldl (fun q g => q.withdraw g) q).g = q.g :=
    foldl_keeps (R := fun q p : State => p.g = q.g) (fun _ => rfl) (fun h k => k.trans h) State.withdraw_g l q
  unfold State.migrate
  dsimp only
  refine .ite rfl (.ite ?_ (.ite rfl ?_))
  · rw [State.SameGroupButReq, fold]
    dsimp only
    split <;> rfl
  · generalize State.costliest _ d = o
    cases o with
    | none => rfl
    | some g =>
      rcases State.updGroup_g _ g.id (f := fun g => { g with req := true }) (fun _ => rfl) with h | h <;>
      · rw [State.SameGroupButReq, h]
        rfl

/-- A group that is pre-empted is saved, and keeps its vector registers (15 R367). -/
theorem State.preempt_spec (s : State) (st : Nat) (live : Option (Nat → Bool)) :
    (s.preempt st live).g.run = .saved st ∧ s.g.SameVector (s.preempt st live).g := by
  obtain ⟨hrun, hv⟩ := s.saveGroup_spec st [] live
  unfold State.preempt
  dsimp only
  generalize s.saveGroup st [] live = p at hrun hv ⊢
  rw [State.migrate_sameGroupButReq, State.offerSaved, (State.addCand_spec ..).1]
  split <;> exact ⟨hrun, hv⟩

end Sys2Proof.Machine
end

section
/-! PROOFS. Owned references and results (11 R325 to R328), and what a group keeps when it gives way (11 R331, R332). -/

namespace Sys2Proof.Machine

/-! References (11 R325, R326, R328). -/

theorem State.task?_handle {s : State} {h : Word} {r : TaskRec} (hr : s.task? h = some r) : r.handle = h := by
  simpa using List.find?_some hr

/-- A change of a record that keeps its handle is found under it. -/
theorem State.task?_updTask {s : State} {h : Word} {r : TaskRec} {f : TaskRec → TaskRec} (hr : s.task? h = some r) (hf : ∀ x, (f x).handle = x.handle) :
    (s.updTask h f).task? h = some (f r) := by
  have hp : (fun x : TaskRec => decide (x.handle = h)) ∘ (fun x => if x.handle = h then f x else x) = fun x => decide (x.handle = h) := by
    funext x
    rw [Function.comp]
    split
    · rw [hf]
    · rfl
  unfold State.updTask State.task? at *
  rw [List.find?_map, hp, hr, Option.map_some, if_pos (State.task?_handle hr)]

theorem State.setOwned_records {s q : State} {rs : List Word} (h : s.setOwned rs = some q) : q.tasks = s.tasks ∧ q.msgs = s.msgs := by
  obtain ⟨ovf, hd⟩ := State.setOwned_some h
  rw [hd]
  exact ⟨rfl, rfl⟩

section
variable {s q : State} {h : Word} {r : TaskRec} (hr : s.task? h = some r) (ho : r.orphan = false) (hl : r.st ≠ .lost) (hw : s.refWaits r = false)
include hr ho hl hw

theorem State.addRef_here : s.addRef h = s.updTask h fun x => { x with cons := x.cons + 1 } := by
  rw [State.addRef, hr]
  dsimp only
  rw [if_neg (by simp [ho, hl]), if_neg (Bool.eq_false_iff.mp hw)]

/-- One of several references to a record that stands where its actions come falls at once, and nothing else does. -/
theorem State.dropRefs_one (hc : 2 ≤ r.cons) : s.dropRefs [h] = s.updTask h fun x => { x with cons := r.cons - 1 } := by
  have hone : s.dropOne h = ([], s.updTask h fun x => { x with cons := r.cons - 1 }) := by
    rw [State.dropOne, hr]
    dsimp only
    rw [if_neg (Bool.eq_false_iff.mp hw), State.applyDrop, hr]
    dsimp only
    rw [if_neg (by simp [ho, hl]), if_pos (by omega)]
  rw [State.dropRefs, List.length_singleton, Nat.add_comm 1, Nat.add_assoc, State.dropAll, hone]
  rfl

end

section
variable {s : State} (d a b : CReg)

/-- A handle that the team does not own. -/
theorem reference_unowned (h : s.owns s.u.opA = false) : let trap := Host.Outcome.next (s.raiseTrap { cause := causeFuture, info := s.u.opA })
    execFtest d a s = trap ∧ execFget d a s = trap ∧ execFdup a s = trap ∧ execFdrop a s = trap ∧ execRpt a b s = trap := by
  have hn : s.needOwn s.u.opA = trapM causeFuture s.u.opA := by rw [State.needOwn, need_false _ _ _ (Bool.eq_false_iff.mp h)]
  unfold execFtest execFget execFdup execFdrop execRpt
  dsimp only
  rw [hn, h]
  exact ⟨rfl, rfl, rfl, rfl, rfl⟩

variable (h : s.owns s.u.opA = true)
include h

theorem State.needOwn_owned : s.needOwn s.u.opA = .ok ⟨⟩ := need_true _ _ _ h

theorem execRpt_reserved (hb : 64 ≤ s.u.opB.toNat) : execRpt a b s = .next (s.raiseTrap { cause := illegal }) := by
  unfold execRpt
  dsimp only
  rw [State.needOwn_owned h, need_false _ _ _ (by omega)]
  rfl

theorem execFdup_limit (hq : s.setOwned (s.t.owned ++ [s.u.opA]) = none) :
    execFdup a s = .next (s.raiseTrap { cause := causeRefLimit, info := s.u.opA }) := by
  unfold execFdup
  dsimp only
  rw [State.needOwn_owned h, hq]
  rfl

theorem execFdup_fits {q : State} (hq : s.setOwned (s.t.owned ++ [s.u.opA]) = some q) :
    execFdup a s = if s.moving s.u.opA then .next (s.holdUnit (.record s.u.opA)) else .next (q.addRef s.u.opA) := by
  unfold execFdup
  dsimp only
  rw [State.needOwn_owned h, hq]
  cases s.moving s.u.opA <;> rfl

theorem execFdrop_fits {q : State} (hq : s.setOwned (s.t.owned.erase s.u.opA) = some q) :
    execFdrop a s = if s.moving s.u.opA then .next (s.holdUnit (.record s.u.opA)) else .next (q.dropRefs [s.u.opA]) := by
  unfold execFdrop
  dsimp only
  rw [State.needOwn_owned h, hq]
  cases s.moving s.u.opA <;> rfl

theorem execRpt_legal (hb : s.u.opB.toNat < 64) : execRpt a b s = .next (s.setPri s.u.opA (s.u.opB.toNat % 8) (s.u.opB.toNat / 8 % 8)) := by
  have h0 : field s.u.opB.toNat 0 3 = s.u.opB.toNat % 8 := by simp [field]
  unfold execRpt
  dsimp only
  rw [State.needOwn_owned h, need_true _ _ _ (by omega), h0]
  rfl

variable {r : TaskRec} (hr : s.task? s.u.opA = some r)
include hr

theorem execFtest_owned : execFtest d a s =
    if s.refWaits r then .next (s.holdUnit (.record s.u.opA)) else .next (s.setC d (if r.st = .finished then 1 else 0)) := by
  unfold execFtest State.moving
  dsimp only
  rw [State.needOwn_owned h, hr, Option.any_some]
  cases s.refWaits r <;> rfl

theorem execFget_finished (hst : r.st = .finished) : execFget d a s = .next (s.setC d r.result) := by
  unfold execFget
  dsimp only
  rw [h, hr]
  dsimp only
  rw [hst]
  rfl

theorem execFget_running (hf : r.st ≠ .finished) (hst : r.st ≠ .ready) : execFget d a s = .next (s.holdUnit (.fget s.u.opA)) := by
  unfold execFget
  dsimp only
  simp only [h, hr, Bool.not_true, Bool.false_eq_true, if_false]
  rfl

theorem execFget_ready (hst : r.st = .ready) : execFget d a s =
    if s.fenceWaits then .next (s.holdUnit (.fget s.u.opA)) else .next (s.yieldSlot s.u.opA) := by
  unfold execFget
  dsimp only
  rw [h, hr]
  dsimp only
  rw [hst]
  rfl

end

/-- A group that gives up its sector slot in `fget` is saved as pre-empted, and waits for the task (11 R325). -/
theorem State.yieldSlot_spec (s : State) (h : Word) : (s.yieldSlot h).g.run = .saved 1 ∧ (s.yieldSlot h).g.pwait = some (.fget h) := by
  unfold State.yieldSlot
  dsimp only
  rw [State.migrate_sameGroupButReq]
  exact ⟨(State.saveGroup_spec ..).1, rfl⟩

/-! `rpt` (11 R328). -/

/-- New priorities change of the records the one that is named, and its loop nest with it. -/
theorem State.applyPri_tasks (s : State) (h : Word) (r : TaskRec) (pri ecls : Nat) : (s.applyPri h r pri ecls).tasks =
    (s.updTask h fun r => { r with pri := pri, ecls := ecls, grid := r.grid.map fun n => { n with pri := pri, ecls := ecls } }).tasks := by
  unfold State.applyPri
  dsimp only
  cases r.team with
  | none => rfl
  | some tm => 
    dsimp only
    rw [State.updTeam_frame]

theorem State.setPri_closed {s : State} {h : Word} {r : TaskRec} (hr : s.task? h = some r) (hst : r.open_ = false) (pri ecls : Nat) :
    s.setPri h pri ecls = s := by
  rw [State.setPri, hr]
  dsimp only
  rw [hst]
  rfl

theorem State.setPri_waits {s : State} {h : Word} {r : TaskRec} (hr : s.task? h = some r) (hst : r.open_ = true) (hw : s.refWaits r = true) (pri ecls : Nat) :
    s.setPri h pri ecls = s.send s.t.die (hHome h) (.rpt h pri ecls) := by
  rw [State.setPri, hr]
  dsimp only
  rw [hst, hw]
  rfl

theorem State.setPri_here {s : State} {h : Word} {r : TaskRec} (hr : s.task? h = some r) (hst : r.open_ = true) (hw : s.refWaits r = false) (pri ecls : Nat) :
    (s.setPri h pri ecls).task? h = some { r with pri := pri, ecls := ecls, grid := r.grid.map fun n => { n with pri := pri, ecls := ecls } } := by
  rw [State.setPri, hr]
  dsimp only
  rw [hst, hw]
  simp only [Bool.not_true, Bool.false_eq_true, if_false]
  rw [State.task?, State.applyPri_tasks]
  exact State.task?_updTask hr fun _ => rfl


/-! `lfree` and `yield` (11 R331, R332). -/

theorem State.noteWrite_frame (s : State) (r : Nat) (m : VReg) : s.noteWrite r m = { s with trace := (s.noteWrite r m).trace } := by
  unfold State.noteWrite
  split <;> rfl

theorem State.noteWrite_g (s : State) (r : Nat) (m : VReg) : (s.noteWrite r m).g = s.g := by rw [State.noteWrite_frame]

theorem State.cleanReg_eq (s : State) (p : Nat) (ks : List Nat) : s.cleanReg p ks =
    { s with g := { s.g with rpoison := s.g.rpoison.filter fun x => !(decide (x.1 = p) && ks.contains x.2.1) } } := by
  unfold State.cleanReg
  split
  · next h => rw [h, List.filter_nil, ← h]
  · rfl

/-- What a register keeps at a length-free point: its first facet where it is live. -/
def keptFacet (live : Nat → Bool) (p x : Nat) : Nat := if live p then x % 2 ^ 256 else 0

theorem keptFacet_le (live : Nat → Bool) (p x : Nat) : keptFacet live p x ≤ x := by
  unfold keptFacet
  split
  · exact Nat.mod_le _ _
  · exact Nat.zero_le _

/-- The words of a register that are set to 0 at a length-free point. -/
def clearedWords (live : Nat → Bool) (p : Nat) : List Nat :=
  let k := if live p then 8 else 0
  (List.range (512 - k)).map fun i => k + i

theorem mem_clearedWords {live : Nat → Bool} {p k : Nat} : k ∈ clearedWords live p ↔ k < 512 ∧ (live p = true → 8 ≤ k) := by
  unfold clearedWords
  cases live p with
  | false => simp
  | true =>
    simp only [if_true, List.mem_map, List.mem_range, true_imp_iff]
    constructor
    · rintro ⟨i, hi, rfl⟩
      omega
    · rintro ⟨h, h8⟩
      exact ⟨k - 8, by omega, by omega⟩

/-- One register at a length-free point. -/
def State.keepFacet (live : Nat → Bool) (s : State) (p : Nat) : State :=
  let k := if live p then 8 else 0
  let s := (s.cleanReg p (clearedWords live p)).noteWrite p (BitVec.allOnes 16384 <<< (32 * k))
  { s with g := { s.g with v := Bank.set 0 s.g.v p (if live p then BitVec.ofNat 16384 (s.vphys p % 2 ^ 256) else 0) } }

theorem State.keepFacets_eq (s : State) (live : Nat → Bool) : s.keepFacets live = (List.range s.g.budget).foldl (State.keepFacet live) s := rfl

theorem State.keepFacet_eq (live : Nat → Bool) (s : State) (p : Nat) : s.keepFacet live p = { s with
    trace := (s.keepFacet live p).trace
    g := { s.g with
      v := Bank.set 0 s.g.v p (BitVec.ofNat 16384 (keptFacet live p (s.vphys p)))
      rpoison := s.g.rpoison.filter fun x => !(decide (x.1 = p) && (clearedWords live p).contains x.2.1) } } := by
  unfold State.keepFacet
  dsimp only
  rw [State.noteWrite_frame, State.cleanReg_eq]
  unfold keptFacet
  cases live p <;> rfl

theorem toNat_ofNat_of_le {w n : Nat} {v : BitVec w} (h : n ≤ v.toNat) : (BitVec.ofNat w n).toNat = n := by
  rw [BitVec.toNat_ofNat, Nat.mod_eq_of_lt (h.trans_lt v.isLt)]

theorem State.vphys_keepFacet (live : Nat → Bool) (s : State) (p q : Nat) :
    (s.keepFacet live p).vphys q = if q = p then keptFacet live p (s.vphys p) else s.vphys q := by
  rw [State.keepFacet_eq]
  unfold State.vphys
  dsimp only
  rw [Bank.get_set]
  split
  · exact toNat_ofNat_of_le (keptFacet_le ..)
  · rfl

/-- `q` differs from `s` in the vector registers, in what poisons them and in what the unit is noted to have written alone. -/
def State.SameButRegisters (s q : State) : Prop := q = { s with trace := q.trace, g := { s.g with v := q.g.v, rpoison := q.g.rpoison } }

theorem State.SameButRegisters.trans {a b c : State} (h : a.SameButRegisters b) (k : b.SameButRegisters c) : a.SameButRegisters c := by
  unfold State.SameButRegisters at *
  rw [k, h]

theorem State.keepFacet_sameButRegisters (live : Nat → Bool) (s : State) (p : Nat) : s.SameButRegisters (s.keepFacet live p) := by
  rw [State.SameButRegisters, State.keepFacet_eq]

section
variable (live : Nat → Bool) (l : List Nat) (s : State)

theorem State.foldl_keepFacet_sameButRegisters : s.SameButRegisters (l.foldl (State.keepFacet live) s) :=
  foldl_keeps (R := State.SameButRegisters) (fun _ => rfl) State.SameButRegisters.trans (State.keepFacet_sameButRegisters live) l s

theorem State.vphys_foldl_keepFacet (hl : l.Nodup) (p : Nat) :
    (l.foldl (State.keepFacet live) s).vphys p = if p ∈ l then keptFacet live p (s.vphys p) else s.vphys p := by
  induction l generalizing s with
  | nil => simp
  | cons y l ih =>
    obtain ⟨hy, hl⟩ := List.nodup_cons.mp hl
    rw [List.foldl_cons, ih _ hl, State.vphys_keepFacet]
    by_cases hp : p = y
    · subst hp; simp [hy]
    · simp [hp]

/-- The poisoned words that are left lie outside the registers of the run, or in what these keep. -/
theorem State.rpoison_foldl_keepFacet {x : Nat × Nat × Word} (hx : x ∈ (l.foldl (State.keepFacet live) s).g.rpoison) :
    x ∈ s.g.rpoison ∧ (x.1 ∈ l → x.2.1 ∉ clearedWords live x.1) := by
  induction l generalizing s with
  | nil => exact ⟨hx, fun h => absurd h List.not_mem_nil⟩
  | cons y l ih =>
    obtain ⟨hm, hk⟩ := ih _ hx
    rw [State.keepFacet_eq] at hm
    obtain ⟨hs, hy⟩ := List.mem_filter.mp hm
    refine ⟨hs, fun h => ?_⟩
    rcases List.mem_cons.mp h with h | h
    · subst h
      simpa using hy
    · exact hk h

end

/-- The state in which `lfree` leaves a group that goes on. -/
def State.lengthFree (s : State) (m : Word) : State :=
  let keep := BitVec.ofNat 2048 (2 ^ 256 - 1)
  let q := ((s.keepFacets (s.liveRegs m)).noteWrite shadeVm ((~~~keep).setWidth 16384)).noteWrite shadeVo ((~~~keep).setWidth 16384)
  { q with g := { q.g with vm := q.g.vm ||| ~~~keep, vo := q.g.vo &&& keep, vl := 0, lfree := true, run := .running } }

theorem State.lengthFree_g (s : State) (m : Word) : let q := s.keepFacets (s.liveRegs m)
    let keep := BitVec.ofNat 2048 (2 ^ 256 - 1)
    (s.lengthFree m).g = { s.g with
      v := q.g.v, rpoison := q.g.rpoison, vm := s.g.vm ||| ~~~keep, vo := s.g.vo &&& keep, vl := 0, lfree := true, run := .running } := by
  intro q keep
  have hq : q.g = { s.g with v := q.g.v, rpoison := q.g.rpoison } :=
    congrArg State.g (State.foldl_keepFacet_sameButRegisters (s.liveRegs m) (List.range s.g.budget) s)
  unfold State.lengthFree
  dsimp only
  rw [State.noteWrite_g, State.noteWrite_g, hq]

theorem execLfree_refused {s : State} (a : CReg) (h : 2 ^ s.g.budget ≤ s.u.opA.toNat ∨ s.g.streams ≠ []) :
    execLfree a s = .next (s.raiseTrap { cause := illegal }) := by
  have hn : ¬ (s.u.opA.toNat / 2 ^ s.g.budget = 0 ∧ s.g.streams = []) := by
    rintro ⟨hm, hs⟩
    rcases h with h | h
    · exact absurd (Nat.div_pos h (Nat.two_pow_pos _)) (by omega)
    · exact h hs
  unfold execLfree
  dsimp only
  rw [need_false _ _ _ hn]
  rfl

/-- With a legal mask the group waits for its copies where it is asked to move; then it is saved as length-free, or goes on. -/
theorem execLfree_legal {s : State} (a : CReg) (hm : s.u.opA.toNat < 2 ^ s.g.budget) (hs : s.g.streams = []) : execLfree a s =
    if s.g.req && s.fenceWaits then .next (s.holdUnit .fence)
    else let q := s.lengthFree s.u.opA
      .next (if s.g.req then { q with port := false }.preempt 3 (some (s.liveRegs s.u.opA)) else q) := by
  have hreq : (s.lengthFree s.u.opA).g.req = s.g.req := by rw [State.lengthFree_g]
  unfold execLfree
  dsimp only
  rw [need_true _ _ _ ⟨Nat.div_eq_of_lt hm, hs⟩, ← hreq]
  split <;> rfl


/-- The mask of the elements of a first facet, bit by bit. -/
theorem getLsbD_firstFacet {k : Nat} (hk : k < 2048) : (BitVec.ofNat 2048 (2 ^ 256 - 1)).getLsbD k = decide (k < 256) := by
  rw [BitVec.getLsbD_ofNat, Nat.testBit_two_pow_sub_one, decide_eq_true hk, Bool.true_and]

section
variable (s : State) (m : Word)

/-- The vector registers, the masks and the poison that a length-free point leaves (11 R332). -/
theorem State.lengthFree_spec : let t := s.lengthFree m
    t.g.vl = 0 ∧
    (∀ p, p < s.g.budget → t.vphys p = if s.liveRegs m p then s.vphys p % 2 ^ 256 else 0) ∧
    (∀ k, 256 ≤ k → k < 2048 → t.g.vm.getLsbD k = true ∧ t.g.vo.getLsbD k = false) ∧
    (∀ k, k < 256 → t.g.vm.getLsbD k = s.g.vm.getLsbD k ∧ t.g.vo.getLsbD k = s.g.vo.getLsbD k) ∧
    t.g.run = .running ∧ t.g.lfree = true ∧
    ∀ x ∈ t.g.rpoison, x.1 < s.g.budget → x.2.1 < 512 → s.liveRegs m x.1 = true ∧ x.2.1 < 8 := by
  intro t
  have hg : t.g = _ := s.lengthFree_g m
  refine ⟨by rw [hg], fun p hp => ?_, fun k h256 hk => ?_, fun k hk => ?_, by rw [hg], by rw [hg], fun x hx hp hw => ?_⟩
  · have hv : t.vphys p = (s.keepFacets (s.liveRegs m)).vphys p := by rw [State.vphys, hg, State.vphys]
    rw [hv, State.keepFacets_eq, State.vphys_foldl_keepFacet _ _ _ List.nodup_range, if_pos (List.mem_range.mpr hp), keptFacet]
  · rw [hg]
    simp only [BitVec.getLsbD_or, BitVec.getLsbD_not, BitVec.getLsbD_and, getLsbD_firstFacet hk, decide_eq_true hk, decide_eq_false (Nat.not_lt.mpr h256),
      Bool.not_false, Bool.and_self, Bool.or_true, Bool.and_false, and_self]
  · have h2048 : k < 2048 := by omega
    rw [hg]
    simp only [BitVec.getLsbD_or, BitVec.getLsbD_not, BitVec.getLsbD_and, getLsbD_firstFacet h2048, decide_eq_true hk,
      Bool.not_true, Bool.and_false, Bool.or_false, Bool.and_true, and_self]
  · rw [hg] at hx
    obtain ⟨-, hout⟩ := State.rpoison_foldl_keepFacet _ _ _ hx
    have hn := hout (List.mem_range.mpr hp)
    rw [mem_clearedWords] at hn
    by_cases hl : s.liveRegs m x.1 = true
    · exact ⟨hl, by simpa [hw, hl] using hn⟩
    · exact absurd ⟨hw, fun h => absurd h hl⟩ hn

end

theorem execYield_eq (s : State) : execYield s =
    if (s.dieAt s.t.die).cands.any s.waitsFor then
      if s.fenceWaits then .next (s.holdUnit .fence) else .next (({ s with port := false } : State).preempt 1 none)
    else .next s := by
  unfold execYield
  cases (s.dieAt s.t.die).cands.any s.waitsFor <;> rfl

end Sys2Proof.Machine

namespace Sys2Proof.Proofs
open Sys2Proof.Machine

/-- What the instructions on a reference come to where the team owns it. -/
theorem ownedReference_outcomes (s : State) (d a b : CReg) : let h := s.u.opA
    s.owns h = true → ∀ r, s.task? h = some r →
      (s.refWaits r = true → exec (.ftest d a) s = .next (s.holdUnit (.record h)) ∧
        (∀ q, s.setOwned (s.t.owned ++ [h]) = some q → exec (.fdup a) s = .next (s.holdUnit (.record h))) ∧
        (∀ q, s.setOwned (s.t.owned.erase h) = some q → exec (.fdrop a) s = .next (s.holdUnit (.record h)))) ∧
      (s.refWaits r = false → ∃ t, exec (.ftest d a) s = .next t ∧ Claim.wroteC s t d (if r.st = .finished then 1 else 0)) ∧
      (r.st = .finished → ∃ t, exec (.fget d a) s = .next t ∧ Claim.wroteC s t d r.result) ∧
      (r.st ≠ .finished → r.st ≠ .ready → exec (.fget d a) s = .next (s.holdUnit (.fget h))) ∧
      (r.st = .ready → s.fenceWaits = true → exec (.fget d a) s = .next (s.holdUnit (.fget h))) ∧
      (r.st = .ready → s.fenceWaits = false → ∃ t, exec (.fget d a) s = .next t ∧ t.g.run = .saved 1 ∧ t.g.pwait = some (.fget h)) ∧
      (r.orphan = false → r.st ≠ .lost → s.refWaits r = false → ∀ q, s.setOwned (s.t.owned ++ [h]) = some q →
        ∃ t, exec (.fdup a) s = .next t ∧ t.t = q.t ∧ t.hbm = q.hbm ∧ t.tasks = s.tasks.map fun x => if x.handle = h then { x with cons := x.cons + 1 } else x) ∧
      (s.setOwned (s.t.owned ++ [h]) = none → exec (.fdup a) s = .next (s.raiseTrap { cause := 0x12, info := h })) ∧
      (r.orphan = false → r.st ≠ .lost → s.refWaits r = false → 2 ≤ r.cons → ∀ q, s.setOwned (s.t.owned.erase h) = some q →
        ∃ t, exec (.fdrop a) s = .next t ∧ t.t = q.t ∧ t.hbm = q.hbm ∧ t.tasks = s.tasks.map fun x => if x.handle = h then { x with cons := r.cons - 1 } else x) ∧
      (s.u.opB.toNat < 64 → (r.st = .finished ∨ r.st = .reclaiming ∨ r.st = .lost) → exec (.rpt a b) s = .next s) ∧
      (s.u.opB.toNat < 64 → (r.st = .ready ∨ r.st = .running ∨ r.st = .transit) → s.refWaits r = true →
        exec (.rpt a b) s = .next (s.send s.t.die (hHome h) (.rpt h (s.u.opB.toNat % 8) (s.u.opB.toNat / 8 % 8)))) ∧
      (s.u.opB.toNat < 64 → (r.st = .ready ∨ r.st = .running) → s.refWaits r = false → ∃ t y, exec (.rpt a b) s = .next t ∧ t.task? h = some y ∧
        y = { r with pri := s.u.opB.toNat % 8, ecls := s.u.opB.toNat / 8 % 8, grid := y.grid }) := by
  intro h ho r hr
  have hftest : exec (.ftest d a) s = _ := execFtest_owned d a ho hr
  have hfdup {q : State} (hq : s.setOwned (s.t.owned ++ [h]) = some q) : exec (.fdup a) s = _ := execFdup_fits a ho hq
  have hfdrop {q : State} (hq : s.setOwned (s.t.owned.erase h) = some q) : exec (.fdrop a) s = _ := execFdrop_fits a ho hq
  have hready (hst : r.st = .ready) : exec (.fget d a) s = _ := execFget_ready d a ho hr hst
  have hrpt (hb : s.u.opB.toNat < 64) : exec (.rpt a b) s = _ := execRpt_legal a b ho hb
  have hmoving : s.moving s.u.opA = s.refWaits r := by rw [State.moving, hr, Option.any_some]
  rw [hmoving] at hfdup hfdrop
  have records {rs : List Word} {q : State} (hq : s.setOwned rs = some q) : q.task? h = some r ∧ q.tasks = s.tasks ∧ q.refWaits r = s.refWaits r := by
    obtain ⟨ht, hm⟩ := State.setOwned_records hq
    exact ⟨by rw [State.task?, ht]; exact hr, ht, by rw [State.refWaits, hm]; rfl⟩
  have hopen : (r.st = .ready ∨ r.st = .running ∨ r.st = .transit) → r.open_ = true := by
    rintro (hst | hst | hst) <;> simp [TaskRec.open_, hst]
  refine ⟨fun hw => ⟨?_, fun q hq => ?_, fun q hq => ?_⟩, fun hw => ?_, fun hst => ⟨_, execFget_finished d a ho hr hst, State.setC_wroteC ..⟩,
    execFget_running d a ho hr, fun hst hf => ?_, fun hst hf => ?_, fun hor hl hw q hq => ?_, execFdup_limit a ho, fun hor hl hw hc q hq => ?_,
    fun hb hst => ?_, fun hb hst hw => ?_, fun hb hst hw => ?_⟩
  · rw [hftest, if_pos hw]
  · rw [hfdup hq, if_pos hw]
  · rw [hfdrop hq, if_pos hw]
  · rw [hftest, if_neg (Bool.eq_false_iff.mp hw)]
    exact ⟨_, rfl, State.setC_wroteC ..⟩
  · rw [hready hst, if_pos hf]
  · rw [hready hst, if_neg (Bool.eq_false_iff.mp hf)]
    exact ⟨_, rfl, s.yieldSlot_spec h⟩
  · obtain ⟨hqr, hqt, hqw⟩ := records hq
    rw [hfdup hq, if_neg (Bool.eq_false_iff.mp hw), State.addRef_here hqr hor hl (hqw.trans hw)]
    exact ⟨_, rfl, rfl, rfl, by rw [State.updTask, hqt]⟩
  · obtain ⟨hqr, hqt, hqw⟩ := records hq
    rw [hfdrop hq, if_neg (Bool.eq_false_iff.mp hw), State.dropRefs_one hqr hor hl (hqw.trans hw) hc]
    exact ⟨_, rfl, rfl, rfl, by rw [State.updTask, hqt]⟩
  · have hclosed : r.open_ = false := by rcases hst with hst | hst | hst <;> simp [TaskRec.open_, hst]
    rw [hrpt hb, State.setPri_closed hr hclosed]
  · rw [hrpt hb, State.setPri_waits hr (hopen hst) hw]
  · have hst' : r.st = .ready ∨ r.st = .running ∨ r.st = .transit := by tauto
    exact ⟨_, _, hrpt hb, State.setPri_here hr (hopen hst') hw _ _, rfl⟩

/-- What `lfree` leaves where it is legal and does not wait. -/
theorem lfree_done (s : State) (a : CReg) : let m := s.u.opA
    m.toNat < 2 ^ s.g.budget → s.g.streams = [] → (s.g.req = true → s.fenceWaits = false) → ∃ t, exec (.lfree a) s = .next t ∧ t.g.vl = 0 ∧
      (∀ p, p < s.g.budget → t.vphys p = if s.liveRegs m p then s.vphys p % 2 ^ 256 else 0) ∧
      (∀ k, 256 ≤ k → k < 2048 → t.g.vm.getLsbD k = true ∧ t.g.vo.getLsbD k = false) ∧
      (∀ k, k < 256 → t.g.vm.getLsbD k = s.g.vm.getLsbD k ∧ t.g.vo.getLsbD k = s.g.vo.getLsbD k) ∧
      (s.g.req = false → t.g.run = .running ∧ t.g.lfree = true ∧
        ∀ x ∈ t.g.rpoison, x.1 < s.g.budget → x.2.1 < 512 → s.liveRegs m x.1 = true ∧ x.2.1 < 8) ∧ (s.g.req = true → t.g.run = .saved 3) := by
  intro m hm hs hf
  have he : exec (.lfree a) s = _ := execLfree_legal a hm hs
  have hwait : ¬ (s.g.req && s.fenceWaits) = true := by
    rw [Bool.and_eq_true]
    exact fun ⟨hr, hw⟩ => Bool.false_ne_true ((hf hr).symm.trans hw)
  rw [if_neg hwait] at he
  obtain ⟨hvl, hv, hhigh, hlow, hrun, hlf, hpoison⟩ := s.lengthFree_spec m
  refine ⟨_, he, ?_⟩
  by_cases hr : s.g.req = true
  · rw [if_pos hr]
    obtain ⟨krun, kv, kvl, kvm, kvo⟩ := State.preempt_spec { s.lengthFree m with port := false } 3 (some (s.liveRegs m))
    refine ⟨kvl.trans hvl, fun p hp => ?_, ?_, ?_, fun h => absurd hr (Bool.eq_false_iff.mp h), fun _ => krun⟩
    · rw [← hv p hp, State.vphys, kv, State.vphys]
    · rw [kvm, kvo]
      exact hhigh
    · rw [kvm, kvo]
      exact hlow
  · rw [if_neg hr]
    exact ⟨hvl, hv, hhigh, hlow, fun _ => ⟨hrun, hlf, hpoison⟩, fun h => absurd h hr⟩

/-- Settles O44: what a reference, a result, `lfree` and `yield` come to is said by the equation of each instruction, and a group that
gives way keeps its vector registers, since saving it does not change them. -/
theorem referencesYieldsAndLfree : Obligations.ReferencesYieldsAndLfree := by
  unfold Obligations.ReferencesYieldsAndLfree
  refine ⟨⟨fun s d a b => ?_, fun s a => ⟨fun h => ?_, fun h => ?_⟩⟩, fun s a => ⟨execLfree_refused a, fun hm hs hr hf => ?_, lfree_done s a⟩,
    fun s => ⟨fun h => ?_, fun h hf => ?_, fun h hf => ?_⟩⟩
  · refine ⟨fun h i hi => ?_, fun h => (reference_unowned d a b h).2.2.2.2, fun hb h => execRpt_reserved a b h hb, ownedReference_outcomes s d a b⟩
    obtain ⟨hftest, hfget, hfdup, hfdrop, -⟩ := reference_unowned d a b h
    simp only [List.mem_cons, List.not_mem_nil, or_false] at hi
    rcases hi with rfl | rfl | rfl | rfl
    · exact hftest
    · exact hfget
    · exact hfdup
    · exact hfdrop
  · exact congrArg Host.Outcome.next (if_neg (Bool.eq_false_iff.mp h))
  · exact congrArg Host.Outcome.next (if_pos h)
  · exact (execLfree_legal a hm hs).trans (if_pos (by rw [hr, hf]; rfl))
  · exact (execYield_eq s).trans (if_neg (Bool.eq_false_iff.mp h))
  · exact (execYield_eq s).trans ((if_pos h).trans (if_pos hf))
  · exact ⟨_, (execYield_eq s).trans ((if_pos h).trans (if_neg (Bool.eq_false_iff.mp hf))), (State.preempt_spec ..).1⟩

end Sys2Proof.Proofs
end

section
/-! PROOFS. The completion of a graph whose root record is in transit (06 R179, R181). -/

namespace Sys2Proof.Machine

/-- A graph whose root record is finished and in transit between two dies (16 R391), as the last of its weight comes back. -/
def rootInTransit : State :=
  let root := mkHandle 1 0 0
  { State.reset with
    tasks := [{ handle := root, ctx := 1, root := root, cons := 1, st := .transit }]
    graphs := [{ root := root, die := 0, ctx := 1, pool := 2 ^ 63 - 2 ^ 62 }]
    msgs := [⟨0, 0, .weight root (2 ^ 62)⟩]
    ev := { h := root, n := 2 ^ 62 } }

/-- The messages after a meaning. -/
def msgsAfter (o : Out) : List Msg :=
  match o with
  | .next t => t.msgs
  | _ => []

/-- The completion lets go of the host's hold, and the action goes to the home of the record, where it waits (06 R179). -/
theorem msgsAfter_rootInTransit : msgsAfter (exec .weightReturn rootInTransit) = [⟨0, 0, .refAct (mkHandle 1 0 0) (-1)⟩] := by decide +kernel

end Sys2Proof.Machine

namespace Sys2Proof.Proofs
open Sys2Proof.Machine

/-- Refutes O47, in the clause on the WEIGHT_RETURN that completes a graph: it has no message be left but those that were there, less
the one that came. Where the host still holds the root and its record is in transit, as in `rootInTransit`, the drop of that hold is an
action that sets out for the home of the record (06 R179, R181). -/
theorem not_weightBinsAndGrids : ¬ Obligations.WeightBinsAndGrids := by
  unfold Obligations.WeightBinsAndGrids
  intro h
  obtain ⟨-, hreturn, -⟩ := h
  obtain ⟨t, ht, hmsgs, -⟩ := (hreturn rootInTransit ⟨0, 0, .weight (mkHandle 1 0 0) (2 ^ 62)⟩
    { root := mkHandle 1 0 0, die := 0, ctx := 1, pool := 2 ^ 63 - 2 ^ 62 } (by decide +kernel) (by decide +kernel)).2 (by decide +kernel)
  have hafter := msgsAfter_rootInTransit
  rw [ht, msgsAfter, hmsgs] at hafter
  exact absurd hafter (by decide +kernel)

end Sys2Proof.Proofs
end

section
/-! PROOFS. WSTORE (18 R419) and weight stores that are not in canonical form (Machine/Mem.lean). -/

namespace Sys2Proof.Machine

/-- A WSTORE of one byte, which is 0, from 0x200000 of context 1 to offset 0 of die 0. The cell of that offset stands behind another of the
weight stores, so that they are out of order. -/
def disorderedStore : State :=
  { State.reset.stage 0x06000000 with
    enrolled := true
    hosts := [0]
    wstore := [(1, 1), (0, 1)]
    ev := { words := [1, 0, 0x200000, 0, 1] } }

theorem heard_disorderedStore : Claim.heard disorderedStore :=
  ⟨rfl, rfl, List.mem_singleton.mpr rfl, rfl, rfl, by decide +kernel, nofun, by decide +kernel, by decide +kernel⟩

/-- The one page that the source lies in is mapped. -/
theorem source_disorderedStore (k : Nat) (hk : 65536 * k < disorderedStore.arg 4 + (disorderedStore.ev.words.getD 2 0).toNat % 65536) :
    (disorderedStore.devLeaf (disorderedStore.arg 0) false
      (BitVec.ofNat 64 ((disorderedStore.ev.words.getD 2 0).toNat / 65536 * 65536 + 65536 * k)).toNat).isSome = true := by
  have hone : disorderedStore.arg 4 + (disorderedStore.ev.words.getD 2 0).toNat % 65536 = 1 := by decide +kernel
  obtain rfl : k = 0 := by omega
  decide +kernel

/-- The byte of the weight stores at an address after a meaning. -/
def storeByteAfter (a : Nat) (o : Out) : Option Byte :=
  match o with
  | .next t => some (t.wstore.read a)
  | _ => none

/-- The write of 0 stops at the first cell above the address and leaves the cell behind it as it was. -/
theorem storeByteAfter_disorderedStore : storeByteAfter 0 (exec .wstore disorderedStore) = some 1 := by decide +kernel

end Sys2Proof.Machine

namespace Sys2Proof.Proofs
open Sys2Proof.Machine

/-- Refutes O52, in the clause that WSTORE fills the weight store from its source: the clause does not ask that the weight stores be
canonical (Machine/Mem.lean), and in `disorderedStore`, where they are not, the source byte 0 leaves the byte 1 that stood there. -/
theorem not_hostWork : ¬ Obligations.HostWork := by
  unfold Obligations.HostWork
  intro h
  obtain ⟨-, -, -, -, hwstore, -⟩ := h
  obtain ⟨-, -, hfill⟩ := hwstore disorderedStore heard_disorderedStore rfl (by decide +kernel) (by decide +kernel) (by decide +kernel)
  obtain ⟨q, hq, -, hbytes, -⟩ := (hfill (by decide +kernel) source_disorderedStore).2 (by decide +kernel)
  have hsource : q.wstore.read 0 = 0 := (hbytes 0 (by decide +kernel)).trans (by decide +kernel)
  have hone := storeByteAfter_disorderedStore
  rw [hq] at hone
  exact absurd (hsource.symm.trans (Option.some.inj hone)) (by decide)

end Sys2Proof.Proofs
end

section
/-! PROOFS. The encoder and the decoder are inverse to each other (07 R187 to R191, R198, R199). One direction reads an
encoded word back, constructor by constructor; the other gives every combinator of the decoder a rule that says what its
input must have been. -/

namespace Sys2Proof

/-! Bits of joined fields. -/

section Bits

theorem sel_low_of_bits : ∀ (p s : BitVec 1) (n : BitVec 2), (p ++ s ++ n).extractLsb' 0 2 = n := by decide
theorem bit_two_of_bits : ∀ (p : BitVec 1) (s : Bool) (n : BitVec 2), (p ++ bit s ++ n).getLsbD 2 = s := by decide
theorem bit_three_of_bits : ∀ (p : Bool) (s : BitVec 1) (n : BitVec 2), (bit p ++ s ++ n).getLsbD 3 = p := by decide
theorem bit_two_clear : ∀ (p : BitVec 1) (n : BitVec 2), (p ++ 0#1 ++ n) &&& 4#4 = 0#4 := by decide
theorem bit_two_set : ∀ (p : BitVec 1) (n : BitVec 2), (p ++ 1#1 ++ n) &&& 4#4 = 4#4 := by decide
theorem bit_three_clear : ∀ (s : BitVec 1) (n : BitVec 2), (0#1 ++ s ++ n) &&& 8#4 = 0#4 := by decide
theorem sel_low_clear : ∀ (p s : BitVec 1), (p ++ s ++ 0#2) &&& 3#4 = 0#4 := by decide
theorem bit_three_of_la : ∀ (p : Bool) (la : BitVec 3), (bit p ++ la).getLsbD 3 = p := by decide
theorem la_of_bit_la : ∀ (p : Bool) (la : BitVec 3), (bit p ++ la).extractLsb' 0 3 = la := by decide
theorem high_two_of_join : ∀ (x : BitVec 2) (y : BitVec 4), (x ++ y).extractLsb' 4 2 = x := by decide
theorem low_four_of_join : ∀ (x : BitVec 2) (y : BitVec 4), (x ++ y).extractLsb' 0 4 = y := by decide
theorem low_four_clear : ∀ (x : BitVec 2), (x ++ 0#4) &&& 15#6 = 0#6 := by decide
theorem zeroExtend_two_three : ∀ (x : BitVec 2), x.zeroExtend 3 &&& 4#3 = 0#3 ∧ (x.zeroExtend 3).extractLsb' 0 2 = x := by decide
theorem zeroExtend_two_six : ∀ (x : BitVec 2), x.zeroExtend 6 &&& 60#6 = 0#6 ∧ (x.zeroExtend 6).extractLsb' 0 2 = x := by decide
theorem zeroExtend_five_six : ∀ (x : BitVec 5), x.zeroExtend 6 &&& 32#6 = 0#6 ∧ (x.zeroExtend 6).extractLsb' 0 5 = x := by decide
theorem join6 : ∀ (x : BitVec 6), x.extractLsb' 4 2 ++ x.extractLsb' 0 4 = x := by decide
theorem join7 : ∀ (x : BitVec 7), x.extractLsb' 4 3 ++ x.extractLsb' 0 4 = x := by decide
theorem join7_offset : ∀ (x : BitVec 7), x.extractLsb' 3 4 ++ x.extractLsb' 0 3 = x := by decide

theorem join12 (x : BitVec 12) : x.extractLsb' 7 5 ++ x.extractLsb' 4 3 ++ x.extractLsb' 0 4 = x := by
  apply BitVec.eq_of_getLsbD_eq
  intro i hi
  simp only [BitVec.getLsbD_extractLsb', BitVec.getLsbD_append]
  interval_cases i <;> simp

theorem truncate_zeroExtend_reg (r : CReg) : (r.zeroExtend 6).truncate 5 = r := by simp

/-- The test of `rC`, passed. -/
theorem ite_reg (r : CReg) (k : Decoded) : (if (r.zeroExtend 6).toNat < 32 then k else .error .register) = k :=
  if_pos (by simp; omega)

end Bits

/-- Fields that an instruction is encoded to decode to it (07 R198). The cases are grouped by what the decoder looks at
first in the row of the opcode. -/
theorem decodeFields_encodeFields {i : Instr} (h : i.wf = true) : decodeFields (encodeFields i) = .ok i := by
  cases i
  all_goals dsimp only [encodeFields]
  -- Reserved fields come first.
  case add | sub | mul | mulh | mulhu | and | or | xor | sll | srl | sra | slt | sltu | min | max | fsqrt | qput | qget |
      qclr | vfr | stop | jenrol | jpark | jstrike | vsend | vrecv | vid | vmov | vmovScalar | vsetabs | vfill |
      vfillScalar | vmsave | vmload | vomov | vredPopc | vredFirst | acq | acqSh | rel | bind | unbind | fenceAcq |
      fenceRel | fenceFull | ifence | bar | barArrive | vwait | vldw | vstream | vunbind | copy | tagwaitAny | tagwaitAll |
      tagffr | chwait | rres | rcom | rclaim | rfree | egath | escat | men | mdis | mwin | mzero | mfence | ldw | mop |
      mrdRaw | mrdNorm | mrdCnt | mrdPair | mwrVal | mwrPair | spawn | fdup | fdrop | fget | ftest | fret | rpt | emit |
      launch | yield | lfree | brk | eret | tlbinvVa | tlbinvCtx | tlbinvAll | tlbinvRetry | tlbinvFail | stest | halt |
      vf | fetch | fetchNz | splb | trap =>
    refine (res_true _ _ (by simp only [and_self])).trans ?_
    simp only [rC_zeroExtend, rJ_zeroExtend, rM_field, rS_code, Ty.ofCode_code, join13, join19]
  case vabsent | vregroup =>
    refine (res_true _ _ (by dsimp only; decide)).trans ?_
    simp only [Ty.ofCode_code]
  case crd | cwr | spl =>
    refine (res_true _ _ (by simp only [zeroExtend_five_six, zeroExtend_two_six, and_self])).trans ?_
    simp only [zeroExtend_five_six, zeroExtend_two_six, join12, join7, rC_zeroExtend]
  case vdot4X =>
    refine (res_true _ _ (by simp only [sel_low_clear, and_self])).trans ?_
    simp only [bit_two_of_bits, bit_three_of_bits, rB_field]
  case ldu d a sz off la =>
    have hsz : sz.code ≠ 3#2 := by cases sz <;> simp_all [Instr.wf, Instr.operandsOk, Sz.code]
    refine (res_true _ _ (by simpa only [high_two_of_join] using hsz)).trans ?_
    simp only [high_two_of_join, low_four_of_join, join7_offset, Sz.ofCode_code, rC_zeroExtend]
  -- A `c` register comes first.
  case div | divu | rem | remu | fadd | fsub | fmul | fmin | fmax | fcmpEq | fcmpLt | fcmpLe | fcvt | fdiv | fma |
      amoAdd | amoAddf | amoAddc | amoMin | amoMax | amoMinf | amoMaxf | amoAnd | amoOr | amoXor | amoSwap | amoCas |
      vbcast | vext | vshlw | vshrw | vfsl | vfsr | vredSum | vredMax | vredMin | vredCnt | vredSumc | vpermw | vscatO |
      vscatU | vgath | chgo | addi | andi | ori | xori | slti | sltiu | jalr | setvl | lui | lpc | jal | beq | bne | blt |
      bge | bltu | bgeu | ld | st =>
    refine (ite_reg _ _).trans ?_
    simp only [rC_zeroExtend, truncate_zeroExtend_reg, Ty.ofCode_code, Sz.ofCode_code, high_two_of_join,
      low_four_of_join, join7_offset, join13, join19]
  -- Every field is read as it stands.
  case vcvt | vquant | vdequant | vexp2 | vlog2 | vrcp | vrsqrt | vsqrt | vsin | vcos | vtanh | vsigm | vexp | vgelu |
      vamoAdd | vamoAddf | vamoAddc | vamoMin | vamoMax | vamoMinf | vamoMaxf | vamoAnd | vamoOr | vamoXor | vamoSwap |
      vamoCas | vdiv | vld | vlds | vst | vsts =>
    refine Eq.trans (b := Except.ok _) rfl ?_
    simp only [Ty.ofCode_code, Sz.ofCode_code, bit_three_of_la, la_of_bit_la, high_two_of_join, low_four_of_join,
      join7_offset]
  -- A selector comes first that shares its field with other bits.
  case vadd | vsub | vmul | vmac | vmin | vmax | vand | vor | vxor | vsll | vsrl | vsra | vabs | vneg | vnot |
      vcmpEq | vcmpNe | vcmpLt | vcmpLe | vcmpuLt | vcmpuLe | vsel | vcompress | vexpand | vperm | vslideup | vslidedn =>
    conv => lhs; whnf
    simp only [sel_low_of_bits, bit_two_of_bits, bit_three_of_bits, bit_two_clear, bit_two_set, bit_three_clear,
      BitVec.reduceToNat, and_self, res_true, rB_field, rC_zeroExtend, Ty.ofCode_code]
  case slli | srli | srai =>
    conv => lhs; whnf
    simp only [high_two_of_join, low_four_clear, zeroExtend_two_three, join6, BitVec.reduceToNat, and_self, res_true,
      rC_zeroExtend]
  case pfxImm =>
    conv => lhs; whnf
    simp only [BitVec.reduceExtractLsb', BitVec.reduceAnd, BitVec.reduceToNat, res_true, join19]
  case pfxScope hint scope => cases hint <;> cases scope <;> rfl
  -- What is left are events, which no word stands for.
  all_goals exact absurd h Bool.false_ne_true

/-- The bytes of a word, joined, give the word. -/
theorem wordOfBytes_bytes (w : Word32) :
    wordOfBytes (w.extractLsb' 0 8) (w.extractLsb' 8 8) (w.extractLsb' 16 8) (w.extractLsb' 24 8) = w := by
  apply BitVec.eq_of_getLsbD_eq
  intro i hi
  simp only [wordOfBytes, BitVec.getLsbD_extractLsb', BitVec.getLsbD_append]
  interval_cases i <;> simp

theorem decodeBytes_bytesOfWord (w : Word32) (rest : List Byte) :
    decodeBytes (bytesOfWord w ++ rest) = some (decodeWord w, rest) :=
  congrArg (fun v => some (decodeWord v, rest)) (wordOfBytes_bytes w)

theorem decodeWord_encode {i : Instr} (h : i.wf = true) : decodeWord (encode i) = .ok i := by
  rw [decodeWord, encode, Fields.ofWord_toWord, decodeFields_encodeFields h]

end Sys2Proof

namespace Sys2Proof.Proofs

/-- Settles O54: reading back an encoded word meets the checks of its own row only, and the bytes of a word are its
fields in little-endian order (07 R186). -/
theorem encodingRoundTrip : Obligations.EncodingRoundTrip := fun i h =>
  ⟨decodeWord_encode h, fun rest => by rw [decodeBytes_bytesOfWord, decodeWord_encode h]⟩

end Sys2Proof.Proofs
end

section
/-! PROOFS. What a word that decodes must be (07 R187, R188, R191, R199). `Reads f x` says of a reading `x` of the
fields `f` that it gives no instruction but a well-formed one with these fields; each combinator of the decoder has a
rule, and the rules leave for each row of the opcode map what its checks let pass. -/

namespace Sys2Proof

/-- An instruction that `x` gives is well formed and encoded by the fields `f`. -/
def Reads (f : Fields) (x : Decoded) : Prop := ∀ i, x = .ok i → i.wf = true ∧ encodeFields i = f

section Rules
variable {f : Fields}

theorem reads_ok {i : Instr} : Reads f (.ok i) ↔ i.wf = true ∧ encodeFields i = f := by simp [Reads]

theorem reads_error {e : DecodeError} : Reads f (.error e) := by simp [Reads]

theorem reads_res {p : Prop} [Decidable p] {k : Decoded} : Reads f (res p k) ↔ (p → Reads f k) := by
  by_cases h : p <;> simp [res, h, reads_error]

theorem zeroExtend_truncate_of_lt {n m : Nat} {x : BitVec m} (hx : x.toNat < 2 ^ n) :
    (x.truncate n).zeroExtend m = x := by
  apply BitVec.eq_of_toNat_eq
  simp only [BitVec.toNat_setWidth, Nat.mod_eq_of_lt hx, Nat.mod_eq_of_lt x.isLt]

theorem reads_rC {x : BitVec 6} {k : CReg → Decoded} :
    Reads f (rC x k) ↔ ∀ c : CReg, c.zeroExtend 6 = x → Reads f (k c) := by
  constructor
  · rintro h c rfl
    rwa [rC_zeroExtend] at h
  · intro h
    unfold rC
    split
    · next hx => exact h _ (zeroExtend_truncate_of_lt hx)
    · exact reads_error

theorem reads_rJ {x : BitVec 6} {k : JReg → Decoded} :
    Reads f (rJ x k) ↔ ∀ j : JReg, j.zeroExtend 6 = x → Reads f (k j) := by
  constructor
  · rintro h j rfl
    rwa [rJ_zeroExtend] at h
  · intro h
    unfold rJ
    split
    · next hx => exact h _ (zeroExtend_truncate_of_lt hx)
    · exact reads_error

theorem reads_rB {s : Bool} {x : BitVec 6} {k : BOp → Decoded} :
    Reads f (rB s x k) ↔ ∀ b : BOp, b.isC = s → b.field = x → Reads f (k b) := by
  constructor
  · rintro h b rfl rfl
    rwa [rB_field] at h
  · intro h
    cases s with
    | false => exact h (.v x) rfl rfl
    | true => exact reads_rC.mpr fun c hc => h (.c c) rfl hc

theorem MaskSel.field_j_truncate : ∀ x : BitVec 6, 8 ≤ x.toNat ∧ x.toNat < 16 → (MaskSel.j (x.truncate 3)).field = x := by
  decide

theorem reads_rM {x : BitVec 6} {k : MaskSel → Decoded} :
    Reads f (rM x k) ↔ ∀ m : MaskSel, m.field = x → Reads f (k m) := by
  constructor
  · rintro h m rfl
    rwa [rM_field] at h
  · intro h
    unfold rM
    split
    · next hx => exact h .vm hx.symm
    · split
      · next hx => exact h .vo hx.symm
      · split
        · next hx => exact h (.j _) (MaskSel.field_j_truncate x hx)
        · exact reads_error

theorem reads_rS {x : BitVec 3} {k : Scope → Decoded} :
    Reads f (rS x k) ↔ ∀ m : Scope, m.code = x → Reads f (k m) := by
  constructor
  · rintro h m rfl
    rwa [rS_code] at h
  · intro h
    unfold rS
    split
    case h_6 => exact reads_error
    all_goals next hx => exact h _ (BitVec.eq_of_toNat_eq hx.symm)

theorem reads_rH {x : BitVec 2} {k : Hint → Decoded} :
    Reads f (rH x k) ↔ ∀ m : Hint, m.code = x → Reads f (k m) := by
  constructor
  · rintro h m rfl
    rwa [rH_code] at h
  · intro h
    unfold rH
    split
    case h_4 => exact reads_error
    all_goals next hx => exact h _ (BitVec.eq_of_toNat_eq hx.symm)

end Rules

/-! What the checks of a row say of its fields. -/

section Bits

theorem toNat_eq_iff {w n : Nat} {x : BitVec w} (h : n < 2 ^ w) : x.toNat = n ↔ x = BitVec.ofNat w n := by
  rw [← BitVec.toNat_inj, BitVec.toNat_ofNat, Nat.mod_eq_of_lt h]

theorem imm_t {n : Nat} (x : BitVec n) (t : BitVec 3) (fn : BitVec 4) : (x ++ t ++ fn).extractLsb' 4 3 = t := by
  rw [BitVec.extractLsb'_append_eq_of_le (by decide)]
  exact BitVec.extractLsb'_append_eq_right

theorem imm_high {n : Nat} (x : BitVec n) (t : BitVec 3) (fn : BitVec 4) : (x ++ t ++ fn).extractLsb' 7 n = x := by
  rw [BitVec.extractLsb'_append_eq_of_le (by decide)]
  exact BitVec.extractLsb'_append_eq_left

theorem imm_b (a b : BitVec 6) (t : BitVec 3) (fn : BitVec 4) : (a ++ b ++ t ++ fn).extractLsb' 7 6 = b := by
  rw [BitVec.extractLsb'_append_eq_of_le (by decide), BitVec.extractLsb'_append_eq_of_le (by decide)]
  exact BitVec.extractLsb'_append_eq_right

theorem imm_a (a b : BitVec 6) (t : BitVec 3) (fn : BitVec 4) : (a ++ b ++ t ++ fn).extractLsb' 13 6 = a := by
  rw [BitVec.extractLsb'_append_eq_of_le (by decide), BitVec.extractLsb'_append_eq_of_le (by decide)]
  exact BitVec.extractLsb'_append_eq_left

theorem sel_join_eq_iff : ∀ (x : BitVec 2) (b : BitVec 6), x ++ 0#4 = b ↔ b.extractLsb' 4 2 = x ∧ b &&& 15#6 = 0#6 := by decide
theorem low_two_eq_iff : ∀ t : BitVec 3, (t.extractLsb' 0 2).zeroExtend 3 = t ↔ t &&& 4#3 = 0#3 := by decide
theorem low_one_eq_iff : ∀ t : BitVec 3, (t.extractLsb' 0 1).zeroExtend 3 = t ↔ t &&& 6#3 = 0#3 := by decide
theorem low_five_eq_iff : ∀ b : BitVec 6, (b.extractLsb' 0 5).zeroExtend 6 = b ↔ b &&& 32#6 = 0#6 := by decide
theorem low_two_six_eq_iff : ∀ b : BitVec 6, (b.extractLsb' 0 2).zeroExtend 6 = b ↔ b &&& 60#6 = 0#6 := by decide
theorem prefix_d_eq_iff : ∀ d : BitVec 6, 8#6 = d ↔ d.extractLsb' 3 3 = 1#3 ∧ d &&& 7#6 = 0#6 := by decide
theorem prefix_zero_eq_iff : ∀ d : BitVec 6, 0#6 = d ↔ d.extractLsb' 3 3 = 0#3 ∧ d &&& 7#6 = 0#6 := by decide
theorem join_bit_three : ∀ fn : BitVec 4, bit (fn.getLsbD 3) ++ fn.extractLsb' 0 3 = fn := by decide
theorem join_one_three : ∀ fn : BitVec 4, fn.extractLsb' 3 1 ++ fn.extractLsb' 0 3 = fn := by decide
theorem two_eq_iff : ∀ fn : BitVec 4, 2#4 = fn ↔ fn.extractLsb' 0 2 = 2#2 ∧ fn &&& 12#4 = 0#4 := by decide
theorem bits_eq_iff : ∀ (x y : BitVec 1) (n : BitVec 2) (fn : BitVec 4),
    x ++ y ++ n = fn ↔ x = bit (fn.getLsbD 3) ∧ y = bit (fn.getLsbD 2) ∧ n = fn.extractLsb' 0 2 := by decide
theorem and_eight_iff : ∀ fn : BitVec 4, fn &&& 8#4 = 0#4 ↔ fn.getLsbD 3 = false := by decide
theorem and_four_iff : ∀ fn : BitVec 4, fn &&& 4#4 = 0#4 ↔ fn.getLsbD 2 = false := by decide
theorem and_four_set_iff : ∀ fn : BitVec 4, fn &&& 4#4 = 4#4 ↔ fn.getLsbD 2 = true := by decide
theorem and_three_iff : ∀ fn : BitVec 4, fn &&& 3#4 = 0#4 ↔ fn.extractLsb' 0 2 = 0#2 := by decide
theorem Sz.ofCode_eq_d_iff : ∀ x : BitVec 2, Sz.ofCode x = .d ↔ x = 3#2 := by decide
theorem bit_false : bit false = 0#1 := rfl
theorem bit_true : bit true = 1#1 := rfl

end Bits

/-- The decoder reads an instruction from none but its own fields: row by row, the selectors and checks that the row
passes are the equations between its fields and those of the instruction. -/
theorem reads_decodeFields (f : Fields) : Reads f (decodeFields f) := by
  obtain ⟨op, d, a, b, t, fn⟩ := f
  unfold decodeFields
  dsimp only
  split
  any_goals split
  any_goals split
  any_goals exact reads_error
  all_goals
    simp only [reads_rC, reads_res, reads_ok, reads_rJ, reads_rB, reads_rM, reads_rS, reads_rH, and_imp]
    dsimp only [encodeFields, Instr.wf, Instr.hasWord, Instr.operandsOk]
    intros
    simp_all only [toNat_eq_iff, Nat.reducePow, Nat.reduceLT, Fields.mk.injEq, Bool.and_self, Bool.true_and, and_self,
      decide_eq_true_eq, ne_eq, not_false_eq_true, Ty.code_ofCode, Sz.code_ofCode, Sz.ofCode_eq_d_iff,
      imm_t, imm_high, imm_b, imm_a, join6, join_bit_three, join_one_three, sel_join_eq_iff, low_two_eq_iff,
      low_one_eq_iff, low_five_eq_iff, low_two_six_eq_iff, prefix_d_eq_iff, prefix_zero_eq_iff, two_eq_iff, bits_eq_iff, and_eight_iff,
      and_four_iff, and_four_set_iff, and_three_iff, bit_true, bit_false, BitVec.extractLsb'_append_eq_left,
      BitVec.extractLsb'_append_eq_right]

/-- A word that decodes to an instruction is its encoding. -/
theorem wf_and_encode_of_decodeWord {w : Word32} {i : Instr} (h : decodeWord w = .ok i) :
    i.wf = true ∧ encode i = w := by
  obtain ⟨hwf, hf⟩ := reads_decodeFields _ i h
  exact ⟨hwf, by rw [encode, hf, Fields.toWord_ofWord]⟩

open Machine in
/-- The opcode number of a word is its opcode field. -/
theorem opOf_eq_op (w : Word32) : opOf w = (Fields.ofWord w).op.toNat := by
  have hw : w.toNat / 2 ^ 25 < 2 ^ 7 := by omega
  simp only [opOf, Fields.ofWord, BitVec.extractLsb'_toNat, Nat.shiftRight_eq_div_pow, Nat.mod_eq_of_lt hw]

open Machine in
theorem opOf_encode (i : Instr) : opOf (encode i) = (encodeFields i).op.toNat := by
  rw [opOf_eq_op, encode, Fields.ofWord_toWord]

/-- The opcodes that 07 R198 leaves unassigned, with 0x00 and 0x7F (07 R199). -/
def unassignedOp (n : Nat) : Bool :=
  decide (n ∈ [0x00, 0x0F, 0x1F, 0x6E, 0x6F, 0x67, 0x7F] ∨ 0x2A ≤ n ∧ n ≤ 0x2F ∨ 0x43 ≤ n ∧ n ≤ 0x4F ∨
    0x5C ≤ n ∧ n ≤ 0x5F ∨ 0x71 ≤ n ∧ n ≤ 0x77)

/-- An instruction that has a word is encoded with an assigned opcode. -/
theorem unassignedOp_encodeFields (i : Instr) : (i.hasWord && unassignedOp (encodeFields i).op.toNat) = false := by
  cases i <;> rfl

end Sys2Proof

namespace Sys2Proof.Proofs

/-- Settles O55: `reads_decodeFields` for the first part; no well-formed instruction is encoded with an opcode of the
second. -/
theorem oneReadingPerWord : Obligations.OneReadingPerWord := by
  refine ⟨fun w i h => wf_and_encode_of_decodeWord h, fun w hop i h => ?_⟩
  obtain ⟨hwf, rfl⟩ := wf_and_encode_of_decodeWord h
  rw [opOf_encode] at hop
  have hword : i.hasWord = true := (Bool.and_eq_true_iff.mp hwf).1
  have hun : unassignedOp (encodeFields i).op.toNat = true := decide_eq_true hop
  simpa only [hword, hun, Bool.and_self, Bool.true_eq_false] using unassignedOp_encodeFields i

end Sys2Proof.Proofs
end

section
/-! PROOFS. The two traps that the control thread takes at decode (07 R199, R200, 15 R363). -/

namespace Sys2Proof.Machine

/-- The instructions of the privileged opcodes name no `v` register, capture none and belong to the control thread. -/
theorem of_privOp_encodeFields {i : Instr} (h : privOp (encodeFields i).op.toNat = true) :
    vregsOf i = [] ∧ capA i = none ∧ capX i = none ∧ (clsOf i = .ctl ∨ clsOf i = .drain) := by
  cases i
  case eret | tlbinvVa | tlbinvCtx | tlbinvAll | tlbinvRetry | tlbinvFail | stest | halt =>
    exact ⟨rfl, rfl, rfl, by simp [clsOf]⟩
  all_goals exact absurd h Bool.false_ne_true

/-- With no prefix before it, a word that decodes to nothing or to what exists inside an AIB only is illegal at its own
address. -/
theorem State.illegalAt_of_not_control {f : State} {w : Word32} (hpfx : f.g.pfx = []) {d : Decoded}
    (hd : (∃ e, d = .error e) ∨ ∃ i, d = .ok i ∧ clsOf i = .aib) : f.illegalAt w d = some f.g.pc := by
  obtain ⟨e, rfl⟩ | ⟨i, rfl, hi⟩ := hd
  · simp [State.illegalAt, hpfx, badPrefix]
  · simp [State.illegalAt, hpfx, badPrefix, hi]

/-- A unit of a privileged opcode passes the checks of 07 R200 step 2 where no prefix and no loop stands in the way. -/
theorem State.illegalAt_privileged {f : State} {w : Word32} {i : Instr} (hpfx : f.g.pfx = []) (hloop : f.g.loop = false)
    (h : privOp (encodeFields i).op.toNat = true) : f.illegalAt w (.ok i) = none := by
  obtain ⟨hv, ha, hx, hc⟩ := of_privOp_encodeFields h
  have hcls : clsOf i ≠ .pfx ∧ clsOf i ≠ .aib ∧ clsOf i ≠ .event := by rcases hc with h | h <;> rw [h] <;> decide
  simp [State.illegalAt, hpfx, hloop, badPrefix, hcls, State.budgetOk, hv, ha, hx]

section
variable {q f : State} {w : Word32}
  (hf : (Claim.atUnit q).fetchWord (Claim.atUnit q).g.pc = .ok (w, f))
include hf

/-- What becomes of a unit that is illegal where it stands (07 R199). -/
theorem State.controlIssue_illegal (hpfx : (Claim.atUnit q).g.pfx = []) {a : Word} (hill : f.illegalAt w (decodeWord w) = some a) :
    q.controlIssue = .done (.next (({ f with
      u := { addr := (Claim.atUnit q).g.pc, ipc := (Claim.atUnit q).g.pc, word := w, seq := f.g.seq } } : State).raiseTrap
        { cause := illegal, vcp := some a })) := by
  unfold Claim.atUnit at hf hpfx ⊢
  unfold State.controlIssue
  dsimp only at hf hpfx ⊢
  rw [hf, hpfx]
  dsimp only
  rw [hill]
  rfl

/-- What becomes of a unit of a privileged opcode in a user group (07 R200 step 3). -/
theorem State.controlIssue_privileged {i : Instr} (hd : decodeWord w = .ok i) (hill : f.illegalAt w (.ok i) = none)
    (hop : privOp (opOf w) = true) (hpriv : f.t.priv = false) :
    q.controlIssue = .done (.next (({ f with u := f.capture w i } : State).raiseTrap { cause := 0x02 })) := by
  have hsup : (privOp (opOf w) && !({ f with u := f.capture w i } : State).isSup) = true := by
    rw [hop, State.isSup, hpriv]
    rfl
  unfold Claim.atUnit at hf
  unfold State.controlIssue
  dsimp only at hf ⊢
  rw [hf]
  dsimp only
  rw [hd, hill]
  dsimp only
  rw [if_pos hsup]
  rfl

end

/-- The turn of a control thread whose unit ends at its checks. -/
theorem State.controlMove_done {r t : State} (hrec : r.reclaimable = false) (hi : (r.served 0).controlIssue = .done (.next t)) :
    r.controlMove false = .next (Claim.waited r t) := by
  unfold State.controlMove State.controlRun Claim.waited
  rw [hrec, if_neg Bool.false_ne_true, hi]
  simp only [Bool.and_eq_true, decide_eq_true_eq, Bool.false_and, Bool.false_eq_true, if_false]
  split <;> rfl

/-- The step in which a control thread stops at the checks of its unit. -/
theorem step_control_done {s q t : State} {g : Nat} (hc : s.choice = (.control g, q)) (hready : (q.focus g).g.controlReady = true)
    (hturn : (q.focus g).turn (q.focus g).g 0 = true) (hrec : (q.focus g).reclaimable = false)
    (hi : ((q.focus g).served 0).controlIssue = .done (.next t)) :
    step s = Claim.after q (.next (Claim.waited (q.focus g) t)) := by
  rw [step_of_choice hc, State.move, if_pos (by rw [State.controlTurn, hready, hturn]; rfl), State.controlMove_done hrec hi]

end Sys2Proof.Machine

namespace Sys2Proof.Proofs
open Sys2Proof.Machine

/-- Settles O57: both traps are raised at the checks that `State.controlIssue` makes before it executes or enqueues a unit. -/
theorem privilegedAndIllegalWords : Obligations.PrivilegedAndIllegalWords := by
  unfold Obligations.PrivilegedAndIllegalWords
  intro s q f g w hc r hready hturn hrec hlate hpfx hloop hf hg ht
  have hat : Claim.atUnit (r.served 0) = { r.served 0 with port := false, vp := none, g := { r.g with cwait := none } } :=
    atUnit_of_late_nil (s := r.served 0) hlate
  have hfetch : (Claim.atUnit (r.served 0)).fetchWord (Claim.atUnit (r.served 0)).g.pc = .ok (w, f) := by rw [hat]; exact hf
  have hfpfx : f.g.pfx = [] := by rw [hg]; exact hpfx
  have hfloop : f.g.loop = false := by rw [hg]; exact hloop
  have hpc : f.g.pc = r.g.pc := by rw [hg]
  have hseq : f.g.seq = r.g.seq := by rw [hg]
  constructor
  · intro hd
    have hill := State.illegalAt_of_not_control (w := w) hfpfx hd
    have hi := State.controlIssue_illegal hfetch (by rw [hat]; exact hpfx) hill
    rw [hat, hseq, hpc] at hi
    exact step_control_done hc hready hturn hrec hi
  · intro i hd hlo hhi hpriv
    have hop : privOp (opOf w) = true := by simp [privOp, hlo, hhi]
    have henc : privOp (encodeFields i).op.toNat = true := by
      rwa [← opOf_encode, (wf_and_encode_of_decodeWord hd).2]
    have hill := State.illegalAt_privileged (w := w) hfpfx hfloop henc
    exact step_control_done hc hready hturn hrec (State.controlIssue_privileged hfetch hd hill hop (by rw [ht]; exact hpriv))

end Sys2Proof.Proofs
end

section
/-! PROOFS. Prefix words, and the words that send a VP on to a new AIB (07 R193, R196, 08 R230, R231, 05 R149). -/

namespace Sys2Proof.Machine

/-- Both prefix words are read in the same way. -/
theorem exec_prefix {i : Instr} (h : (∃ hi, i = .pfxImm hi) ∨ ∃ hint scope, i = .pfxScope hint scope) (s : State) :
    exec i s = s.finish s.readPrefix := by
  obtain ⟨hi, rfl⟩ | ⟨hint, scope, rfl⟩ := h <;> rfl

/-- Some word of a list of prefixes is of the kind of `w`: what `State.readPrefix` looks for. -/
theorem any_kind_iff (l : List (Word × Word32)) (w : Word32) :
    (l.any fun p => decide (p.2.extractLsb' 22 3 = w.extractLsb' 22 3)) = true ↔
      ∃ p ∈ l, p.2.extractLsb' 22 3 = w.extractLsb' 22 3 := by
  simp only [List.any_eq_true, decide_eq_true_eq]

section
variable {s : State}

theorem State.readPrefix_control (hv : s.vp = none) :
    s.readPrefix = if ∃ p ∈ s.g.pfx, p.2.extractLsb' 22 3 = s.u.word.extractLsb' 22 3 then
        .error (.trap { cause := illegal, vcp := some s.u.ipc })
      else .ok { s with g := { s.g with pfx := s.g.pfx ++ [(s.u.ipc, s.u.word)] } } := by
  simp only [State.readPrefix, hv, any_kind_iff]

theorem State.readPrefix_vp {e : Nat} {v : Vp} (hvp : s.vp = some e) (hv : s.g.vps[e]? = some v) :
    s.readPrefix = if ∃ p ∈ v.pfx, p.2.extractLsb' 22 3 = s.u.word.extractLsb' 22 3 then ill
      else if v.cnt > 31 then .error (.trap { cause := causeOverrun, addr := s.u.ipc })
      else .ok { s with g := { s.g with vps := s.g.vps.set e { v with pfx := v.pfx ++ [(s.u.ipc, s.u.word)] } } } := by
  have hget : s.g.vps.getD e {} = v := by rw [List.getD_eq_getElem?_getD, hv, Option.getD_some]
  simp only [State.readPrefix, hvp, hget, any_kind_iff]

/-- A source that is neither bound nor poisoned is read as it stands. -/
theorem State.needSrc_free {r w base : Nat} {which : Option (List Nat)} (hb : ∀ y ∈ s.g.streams, y.reg ≠ s.reg r)
    (hp : ∀ y ∈ s.g.rpoison, y.1 ≠ s.reg r) : s.needSrc r w base which = .ok ⟨⟩ := by
  have hbound : s.bound (s.reg r) = none := State.bound_eq_none hb
  have hpoison : s.poisonFault ⟨r, w, base, which⟩ = none := State.poisonFault_eq_none hp
  simp only [State.needSrc, State.needSrcs, State.srcHit, List.map_cons, List.map_nil, State.needBind, hbound, allM,
    List.filterMap_cons, List.filterMap_nil, State.facetFault, hpoison, List.any_cons, List.any_nil, State.srcWaits]
  rfl

/-- Inside an AIB a bound register is no source (05 R149). -/
theorem State.needSrc_bound_vp {r w base e : Nat} {which : Option (List Nat)} (hvp : s.vp = some e)
    (hb : ∃ y ∈ s.g.streams, y.reg = s.reg r) : s.needSrc r w base which = ill := by
  obtain ⟨y, hy⟩ : ∃ y, s.bound (s.reg r) = some y := by
    rw [← Option.isSome_iff_exists, State.bound, List.find?_isSome]
    simpa only [decide_eq_true_eq] using hb
  have hbind : s.needBind ⟨r, w, base, which⟩ = ill := by
    rw [State.needBind, hy]
    exact need_false _ _ _ (by rw [hvp]; simp)
  simp only [State.needSrc, State.needSrcs, State.srcHit, List.map_cons, List.map_nil, hbind]
  rfl

theorem State.fetchTo_eq {e : Nat} {v : Vp} (hv : s.g.vps[e]? = some v) {n : Nat} (off : BitVec n) :
    s.fetchTo e (s.target off) =
      { s with g := { s.g with vps := s.g.vps.set e { v with pc := s.u.ipc + BitVec.ofInt 64 (4 * off.toInt), cnt := 0 } } } := by
  rw [State.fetchTo, State.updVp_eq s _ hv, State.target_eq]

/-- What `fetch.nz` of a register within the budget does once the register has been read. -/
theorem execFetchNz_eq {e : Nat} (hvp : s.vp = some e) {a : VName} (ha : a.toNat < s.g.budget) (off : BitVec 13) :
    execFetchNz a off s = s.finish (do
      s.needSrc a.toNat 32 0 (some [e])
      .ok (if s.el a.toNat 32 e ≠ 0 then s.fetchTo e (s.target off) else s)) := by
  rw [execFetchNz, State.inAib_some s _ hvp, State.needReg, need_true _ _ _ ha]
  rfl

end

end Sys2Proof.Machine

namespace Sys2Proof.Proofs
open Sys2Proof.Machine

/-- Settles O14: `State.readPrefix` for the prefixes; `fetch.nz` reads its register, and then is a `fetch` or nothing. -/
theorem prefixesAndFetches : Obligations.PrefixesAndFetches := by
  unfold Obligations.PrefixesAndFetches
  refine ⟨fun s i hi => ⟨fun hv => ⟨fun hnew => ?_, fun p hp hkind => ?_⟩, fun e v hvp hv hcnt hnew => ?_⟩,
    fun s e v off off' a hvp hv => ⟨?_, fun ha hb => ?_, fun hready => ?_⟩⟩
  · have hnone : ¬ ∃ p ∈ s.g.pfx, p.2.extractLsb' 22 3 = s.u.word.extractLsb' 22 3 := fun ⟨p, hp, hk⟩ => hnew p hp hk
    rw [exec_prefix hi, State.readPrefix_control hv, if_neg hnone, State.finish_ok]
  · rw [exec_prefix hi, State.readPrefix_control hv, if_pos ⟨p, hp, hkind⟩, State.finish_trap]
    rfl
  · have hnone : ¬ ∃ p ∈ v.pfx, p.2.extractLsb' 22 3 = s.u.word.extractLsb' 22 3 := fun ⟨p, hp, hk⟩ => hnew p hp hk
    rw [exec_prefix hi, State.readPrefix_vp hvp hv, if_neg hnone, if_neg (Nat.not_lt.mpr hcnt), State.finish_ok]
  · change execFetch off s = _
    rw [execFetch, State.inAib_some s _ hvp, State.finish_ok, State.fetchTo_eq hv]
  · change execFetchNz a off' s = _
    rw [execFetchNz_eq hvp ha, State.needSrc_bound_vp hvp hb]
    rfl
  · obtain ⟨hreg, -, hfree⟩ := hready
    obtain ⟨hbound, hpoison⟩ := hfree _ (List.mem_singleton_self _)
    change execFetchNz a off' s = _
    rw [execFetchNz_eq hvp (hreg _ (List.mem_singleton_self _)), State.needSrc_free hbound hpoison, ← State.fetchTo_eq hv]
    rfl

end Sys2Proof.Proofs
end

section
/-! PROOFS. Words of the worked examples (07 R198). -/

namespace Sys2Proof.Proofs
open Sys2Proof.Machine

/-- Settles O53: the decoder is evaluated on each of the words. -/
theorem specWordsDecode : Obligations.SpecWordsDecode := by
  unfold Obligations.SpecWordsDecode
  and_intros <;> rfl

end Sys2Proof.Proofs
end

section
/-! PROOFS. The integer instructions of the control thread: each is one write of a `c` register (08 R213, R215 to R217). -/

namespace Sys2Proof.Machine

/-! What the word operations that the meanings use come to on the readings of 08 R213. -/

theorem extractLsb'_high_ofInt (z : Int) : (BitVec.ofInt 128 z).extractLsb' 64 64 = BitVec.ofInt 64 (z / 2 ^ 64) := by
  apply BitVec.eq_of_toNat_eq
  rw [BitVec.extractLsb'_toNat, BitVec.toNat_ofInt, BitVec.toNat_ofInt, Nat.shiftRight_eq_div_pow]
  omega

theorem extractLsb'_high_mul_signed (x y : Word) :
    (x.signExtend 128 * y.signExtend 128).extractLsb' 64 64 = BitVec.ofInt 64 (x.toInt * y.toInt / 2 ^ 64) := by
  rw [← extractLsb'_high_ofInt, BitVec.ofInt_mul]
  rfl

theorem extractLsb'_high_mul_unsigned (x y : Word) :
    (x.zeroExtend 128 * y.zeroExtend 128).extractLsb' 64 64 = BitVec.ofNat 64 (x.toNat * y.toNat / 2 ^ 64) := by
  apply BitVec.eq_of_toNat_eq
  have hlt : x.toNat * y.toNat < 2 ^ 128 := by
    have := Nat.mul_lt_mul'' x.isLt y.isLt
    omega
  simp only [BitVec.extractLsb'_toNat, BitVec.toNat_mul, BitVec.toNat_setWidth, BitVec.toNat_ofNat, Nat.shiftRight_eq_div_pow]
  rw [Nat.mod_eq_of_lt (by omega : x.toNat < 2 ^ 128), Nat.mod_eq_of_lt (by omega : y.toNat < 2 ^ 128), Nat.mod_eq_of_lt hlt]

theorem shiftLeft_eq_ofNat (x : Word) (n : Nat) : x <<< n = BitVec.ofNat 64 (x.toNat * 2 ^ n) := by
  apply BitVec.eq_of_toNat_eq
  rw [BitVec.toNat_shiftLeft, BitVec.toNat_ofNat, Nat.shiftLeft_eq]

theorem ushiftRight_eq_ofNat (x : Word) (n : Nat) : x >>> n = BitVec.ofNat 64 (x.toNat / 2 ^ n) := by
  rw [← Nat.shiftRight_eq_div_pow, ← BitVec.toNat_ushiftRight, BitVec.ofNat_toNat, BitVec.setWidth_eq]

theorem sshiftRight_eq_ofInt (x : Word) (n : Nat) : x.sshiftRight n = BitVec.ofInt 64 (x.toInt / 2 ^ n) := by
  rw [BitVec.sshiftRight, Int.shiftRight_eq_div_pow]
  norm_cast

theorem w64_b2n_eq_ite (b : Bool) : w64 (b2n b) = if b = true then 1 else 0 := by cases b <;> rfl

theorem w64_slt (x y : Word) : w64 (b2n (x.slt y)) = if x.toInt < y.toInt then 1 else 0 := by
  simp only [w64_b2n_eq_ite, BitVec.slt_eq_decide, decide_eq_true_eq]

theorem w64_ult (x y : Word) : w64 (b2n (x.ult y)) = if x.toNat < y.toNat then 1 else 0 := by
  simp only [w64_b2n_eq_ite, BitVec.ult_eq_decide, decide_eq_true_eq]

theorem ite_slt_eq_min (x y : Word) : (if x.slt y then x else y) = BitVec.ofInt 64 (Min.min x.toInt y.toInt) := by
  rcases lt_or_ge x.toInt y.toInt with h | h
  · rw [if_pos (BitVec.slt_iff_toInt_lt.mpr h), min_eq_left h.le, BitVec.ofInt_toInt]
  · rw [if_neg (fun hc => absurd (BitVec.slt_iff_toInt_lt.mp hc) (not_lt.mpr h)), min_eq_right h, BitVec.ofInt_toInt]

theorem ite_slt_eq_max (x y : Word) : (if x.slt y then y else x) = BitVec.ofInt 64 (Max.max x.toInt y.toInt) := by
  rcases lt_or_ge x.toInt y.toInt with h | h
  · rw [if_pos (BitVec.slt_iff_toInt_lt.mpr h), max_eq_right h.le, BitVec.ofInt_toInt]
  · rw [if_neg (fun hc => absurd (BitVec.slt_iff_toInt_lt.mp hc) (not_lt.mpr h)), max_eq_left h, BitVec.ofInt_toInt]

/-- Every instruction of `Claim.integer` writes its function of c[a] and c[b] to c[d] (08 R213). -/
theorem exec_integer : ∀ x ∈ Claim.integer, ∀ (s : State) (d a b : CReg),
    exec (x.1 d a b) s = .next (s.setC d (x.2 (s.c a) (s.c b))) := by
  simp only [Claim.integer, List.forall_mem_cons, List.not_mem_nil, false_implies, implies_true, and_true,
    ← extractLsb'_high_mul_signed, ← extractLsb'_high_mul_unsigned, ← shiftLeft_eq_ofNat, ← ushiftRight_eq_ofNat,
    ← sshiftRight_eq_ofInt, ← w64_slt, ← w64_ult, ← ite_slt_eq_min, ← ite_slt_eq_max]
  and_intros <;> exact fun _ _ _ _ => rfl

/-- The words of opcode 0x01 name a function of the list and have a zero t field (08 R213, 07 R199). -/
theorem decodeFields_integer_illegal {f : Fields} (ho : f.op.toNat = 1) (h : f.fn.toNat = 15 ∨ f.t ≠ 0#3) :
    ∃ e, decodeFields f = .error e := by
  simp only [decodeFields, ho]
  split
  case h_16 => exact ⟨_, rfl⟩
  all_goals
    next hf => exact ⟨_, if_neg (h.resolve_left (by rw [hf]; decide))⟩

end Sys2Proof.Machine

namespace Sys2Proof.Proofs
open Sys2Proof.Machine

/-- Settles O1: `exec_integer` says what is written, and `State.setC_wroteC` that nothing else is. -/
theorem integerRegisterInstructions : Obligations.IntegerRegisterInstructions := by
  unfold Obligations.IntegerRegisterInstructions
  refine ⟨fun x hx s d a b => ⟨_, exec_integer x hx s d a b, s.setC_wroteC d _⟩, fun w ho h => ?_⟩
  refine decodeFields_integer_illegal (f := Fields.ofWord w) (congrArg BitVec.toNat ho) (h.imp_left fun hf => ?_)
  exact congrArg BitVec.toNat hf

end Sys2Proof.Proofs
end

section
/-! PROOFS. Immediates, shifts by an immediate, upper immediates, branches and jumps of the control thread (08 R215 to R217, R220,
R221, 07 R186, R194). -/

namespace Sys2Proof.Machine

/-- An I-format immediate is the sign extension that 07 R194 gives. -/
theorem State.immI_eq (s : State) (i : BitVec 13) : s.immI i = Claim.imm s i := rfl

theorem signExtend_shiftLeft_eq_ofInt (i : BitVec 19) : i.signExtend 64 <<< 13 = BitVec.ofInt 64 (i.toInt * 2 ^ 13) := by
  rw [BitVec.shiftLeft_eq_mul_twoPow, BitVec.ofInt_mul]
  rfl

/-- Every arithmetic immediate writes its function of c[a] and the immediate to c[d] (08 R215). -/
theorem exec_immediate : ∀ x ∈ Claim.immediates, ∀ (s : State) (d a : CReg) (i : BitVec 13),
    exec (x.1 d a i) s = .next (s.setC d (x.2 (s.c a) (Claim.imm s i))) := by
  simp only [Claim.immediates, List.forall_mem_cons, List.not_mem_nil, false_implies, implies_true, and_true, ← w64_slt, ← w64_ult]
  and_intros <;> exact fun _ _ _ _ => rfl

/-- Every immediate shift writes its function of c[a] and the amount to c[d] (08 R216). -/
theorem exec_shift : ∀ x ∈ Claim.shifts, ∀ (s : State) (d a : CReg) (n : BitVec 6),
    exec (x.1 d a n) s = .next (s.setC d (x.2 (s.c a) n.toNat)) := by
  simp only [Claim.shifts, List.forall_mem_cons, List.not_mem_nil, false_implies, implies_true, and_true, ← shiftLeft_eq_ofNat,
    ← ushiftRight_eq_ofNat, ← sshiftRight_eq_ofInt]
  and_intros <;> exact fun _ _ _ _ => rfl

/-- Every branch continues at its target where its condition on c[a] and c[b] holds (08 R220). -/
theorem exec_branch : ∀ x ∈ Claim.branches, ∀ (s : State) (a b : CReg) (off : BitVec 13),
    exec (x.1 a b off) s = .next (if x.2 (s.c a) (s.c b) then s.jump (s.target off) else s) := by
  simp only [Claim.branches, List.forall_mem_cons, List.not_mem_nil, false_implies, implies_true, and_true, decide_eq_true_eq]
  refine ⟨fun _ _ _ _ => rfl, fun _ _ _ _ => rfl, fun s a b off => ?_, fun s a b off => ?_, fun s a b off => ?_, fun s a b off => ?_⟩
  · change execBlt a b off s = _
    simp only [execBlt, BitVec.slt_iff_toInt_lt]
  · change execBge a b off s = _
    simp only [execBge, BitVec.slt_eq_decide, Bool.not_eq_true', decide_eq_false_iff_not, not_lt]
  · change execBltu a b off s = _
    simp only [execBltu, BitVec.ult_iff_toNat_lt]
  · change execBgeu a b off s = _
    simp only [execBgeu, BitVec.ult_eq_decide, Bool.not_eq_true', decide_eq_false_iff_not, not_lt]

/-- `jalr` links and jumps to an aligned target. -/
theorem execJalr_aligned (s : State) (d a : CReg) (i : BitVec 13) (h : (s.c a + Claim.imm s i).toNat % 4 = 0) :
    execJalr d a i s = .next ((s.setC d s.next).jump (s.c a + Claim.imm s i)) :=
  congrArg s.finish (if_neg (not_not.mpr h))

/-- `jalr` to another target traps in the state in which nothing is written (07 R186). -/
theorem execJalr_misaligned (s : State) (d a : CReg) (i : BitVec 13) (h : (s.c a + Claim.imm s i).toNat % 4 ≠ 0) :
    execJalr d a i s = .next (s.raiseTrap { cause := 0x06, addr := s.c a + Claim.imm s i }) :=
  congrArg s.finish (if_pos h)

end Sys2Proof.Machine

namespace Sys2Proof.Proofs
open Sys2Proof.Machine

/-- Settles O2: each instruction is one write of c[d]. -/
theorem immediateInstructions : Obligations.ImmediateInstructions := by
  unfold Obligations.ImmediateInstructions
  refine ⟨fun x hx s d a i => ⟨_, exec_immediate x hx s d a i, s.setC_wroteC d _⟩,
    fun x hx s d a n => ⟨_, exec_shift x hx s d a n, s.setC_wroteC d _⟩, fun s d i => ?_⟩
  rw [← signExtend_shiftLeft_eq_ofInt]
  exact ⟨⟨_, rfl, s.setC_wroteC d _⟩, ⟨_, rfl, s.setC_wroteC d _⟩⟩

/-- Settles O3: a branch is a jump or nothing, and a link is one write of c[d] before the jump. -/
theorem branchesAndJumps : Obligations.BranchesAndJumps := by
  unfold Obligations.BranchesAndJumps
  refine ⟨fun x hx s a b off => ?_, fun s d off => ⟨_, s.setC_wroteC d _, ?_⟩, fun s d a i => ⟨fun h => ⟨_, s.setC_wroteC d _, ?_⟩, ?_⟩⟩
  · rw [exec_branch x hx, State.target_eq]
    rfl
  · rw [← State.target_eq]
    rfl
  · exact execJalr_aligned s d a i h
  · exact execJalr_misaligned s d a i

end Sys2Proof.Proofs
end

section
/-! PROOFS. Loads and stores of the control thread (08 R218, R219, 10 R270), and results with a lookahead (07 R192). -/

namespace Sys2Proof.Machine

/-- A result with a lookahead is written or waits (07 R192). -/
theorem State.setLate_gaveC (s : State) (d : CReg) (x : Word) (la : BitVec 4) (div : Bool) :
    Claim.gaveC s (s.setLate d x la.toNat div) d x la div := by
  refine ⟨?_, fun h => if_neg fun h0 => h (BitVec.eq_of_toNat_eq h0)⟩
  rintro rfl
  exact s.setC_wroteC d x

/-- The offset of an access is that of 07 R189, with the bits that `pfx.imm` gives it (07 R194). -/
theorem State.offIL_eq (s : State) (o : BitVec 7) (n : Nat) : s.offIL o n = Claim.off s o n := by
  have hsmall : o.signExtend 64 * w64 n = BitVec.ofInt 64 (o.toInt * n) := by
    rw [BitVec.ofInt_mul, BitVec.ofInt_natCast]
    rfl
  unfold State.offIL Claim.off
  rw [hsmall]
  split
  · rw [add_zero]
  · rw [add_comm, BitVec.signExtend, BitVec.toInt_append_zero, Int.mul_comm (2 ^ 13)]
    rfl

/-! The checks of 10 R270 in the order in which `ld`, `ldu` and `st` make them: the alignment stands last (08 R218). -/

section
variable {s : State} {ag : Agent} {k : AccKind} {va : Word} {n : Nat}

theorem State.place_beyond (al : Nat) (late : Bool) (h : 2 ^ 52 ≤ va.toNat) :
    s.place ag k va n al late = .error (.trap causeAddress 0 s.tlb) := by
  rw [State.place, State.placeVia, if_pos h]
  rfl

theorem State.place_misaligned {al leaf level : Nat} {q : State} (h : va.toNat < 2 ^ 52) (hal : va.toNat % al ≠ 0)
    (hleaf : s.leafFor ag k va.toNat = .ok (leaf, level, q)) :
    s.place ag k va n al true = .error (.trap causeMisaligned 0 q.tlb) := by
  rw [State.place, State.placeVia, if_neg (Nat.not_le.mpr h), hleaf]
  simp only [Bool.not_true, Bool.false_and, Bool.false_eq_true, if_false, if_pos hal]
  rfl

end

section
variable {s : State} {a : CReg} {sz : Sz} {o : BitVec 7}

theorem execLd_eq (d : CReg) (la : BitVec 4) : execLd d a sz o la s = s.finish (do
    let (x, q) ← s.load noElem (s.c a + Claim.off s o sz.bytes) sz.bytes true
    .ok (q.setLate d (BitVec.ofInt 64 (sextNat (8 * sz.bytes) x)) la.toNat false)) := by
  rw [← State.offIL_eq]
  rfl

theorem execLdu_eq (d : CReg) (la : BitVec 4) (hsz : sz ≠ .d) : execLdu d a sz o la s = s.finish (do
    let (x, q) ← s.load noElem (s.c a + Claim.off s o sz.bytes) sz.bytes true
    .ok (q.setLate d (w64 x) la.toNat false)) := by
  rw [← State.offIL_eq, execLdu, need_true _ _ _ hsz]
  rfl

theorem execSt_eq (d : CReg) (la : BitVec 4) : execSt d a sz o la s =
    s.finish (s.storeM noElem (s.c a + Claim.off s o sz.bytes) sz.bytes (s.c d).toNat true) := by
  rw [← State.offIL_eq]
  rfl

theorem State.load_ok {va : Word} {n : Nat} {p : Place} {q : State} (h : s.place s.agent .load va n n true = .ok (p, q)) :
    s.load noElem va n true = .ok (leNat (q.readPlace s.t.id p n), q) := by
  rw [State.load, State.readVA, h]
  rfl

theorem State.load_error {va : Word} {n : Nat} {f : Fail} (h : s.place s.agent .load va n n true = .error f) :
    s.load noElem va n true = .error (failStop noElem va f) := by
  rw [State.load, State.readVA, h]

theorem State.storeM_ok {va : Word} {n x : Nat} {p : Place} {q : State} (h : s.place s.agent .store va n n true = .ok (p, q)) :
    s.storeM noElem va n x true = .ok (q.writePlace s.t.id p (natLe n x)) := by
  rw [State.storeM, State.writeVA, natLe_length, h]
  rfl

theorem State.storeM_error {va : Word} {n x : Nat} {f : Fail} (h : s.place s.agent .store va n n true = .error f) :
    s.storeM noElem va n x true = .error (failStop noElem va f) := by
  rw [State.storeM, State.writeVA, natLe_length, h]
  rfl

/-- `ld` and `ldu` of an access that passes its checks (08 R218). -/
theorem loads_of_place (d : CReg) (la : BitVec 4) {p : Place} {q : State}
    (h : s.place s.agent .load (s.c a + Claim.off s o sz.bytes) sz.bytes sz.bytes true = .ok (p, q)) :
    execLd d a sz o la s = .next (q.setLate d (BitVec.ofInt 64 (sextNat (8 * sz.bytes) (leNat (q.readPlace s.t.id p sz.bytes)))) la.toNat false) ∧
    (sz ≠ .d → execLdu d a sz o la s = .next (q.setLate d (w64 (leNat (q.readPlace s.t.id p sz.bytes))) la.toNat false)) := by
  refine ⟨?_, fun hsz => ?_⟩
  · rw [execLd_eq, State.load_ok h]
    rfl
  · rw [execLdu_eq d la hsz, State.load_ok h]
    rfl

/-- `ld` and `ldu` of an access that fails a check. -/
theorem loads_of_fault (d : CReg) (la : BitVec 4) {c : Byte} {w : List TlbEntry}
    (h : s.place s.agent .load (s.c a + Claim.off s o sz.bytes) sz.bytes sz.bytes true = .error (.trap c 0 w)) :
    execLd d a sz o la s = .next (s.raiseTrap { cause := c, addr := s.c a + Claim.off s o sz.bytes, tlb := some w }) ∧
    (sz ≠ .d → execLdu d a sz o la s = .next (s.raiseTrap { cause := c, addr := s.c a + Claim.off s o sz.bytes, tlb := some w })) := by
  refine ⟨?_, fun hsz => ?_⟩
  · rw [execLd_eq, State.load_error h]
    rfl
  · rw [execLdu_eq d la hsz, State.load_error h]
    rfl

theorem store_of_fault (d : CReg) (la : BitVec 4) {c : Byte} {w : List TlbEntry}
    (h : s.place s.agent .store (s.c a + Claim.off s o sz.bytes) sz.bytes sz.bytes true = .error (.trap c 0 w)) :
    execSt d a sz o la s = .next (s.raiseTrap { cause := c, addr := s.c a + Claim.off s o sz.bytes, tlb := some w }) := by
  rw [execSt_eq, State.storeM_error h]
  rfl

end

end Sys2Proof.Machine

namespace Sys2Proof.Proofs
open Sys2Proof.Machine

/-- Settles O4: the checks of 10 R270 decide whether an access gives its value or the trap of the check that failed. -/
theorem loadsAndStores : Obligations.LoadsAndStores := by
  unfold Obligations.LoadsAndStores
  intro s d a sz o la ea
  refine ⟨fun p q h => ?_, fun p q h => ?_, ?_, ?_⟩
  · obtain ⟨hld, hldu⟩ := loads_of_place d la h
    exact ⟨⟨_, hld, q.setLate_gaveC ..⟩, fun hsz => ⟨_, hldu hsz, q.setLate_gaveC ..⟩⟩
  · change execSt d a sz o la s = _
    rw [execSt_eq, State.storeM_ok h]
    rfl
  · intro h r
    obtain ⟨hld, hldu⟩ := loads_of_fault d la (State.place_beyond _ _ h)
    exact ⟨hld, hldu, store_of_fault d la (State.place_beyond _ _ h)⟩
  · intro h hal leaf level q r
    exact ⟨fun hleaf => loads_of_fault d la (State.place_misaligned h hal hleaf),
      fun hleaf => store_of_fault d la (State.place_misaligned h hal hleaf)⟩

end Sys2Proof.Proofs
end

section
/-! PROOFS. Floating point on the control thread (08 R222 to R225, 03 R83, R84, R86). -/

namespace Sys2Proof.Machine

/-- A write of a `c` register and the merge of flags are the change that the statements call by that name. -/
theorem State.raise_setC_wroteF (s : State) (d : CReg) (x : Word) (f : Sticky) : Claim.wroteF s ((s.setC d x).raise f) d x f := by
  refine ⟨_, s.setC_wroteC d x, ?_⟩
  simp only [State.raise, State.setC_rest]

theorem fmt_of_float : ∀ {t : Ty}, t.isInt = false → ∃ f, t.fmt? = some f
  | .f16, _ | .bf16, _ | .f32, _ | .f64, _ => ⟨_, rfl⟩

theorem fmtM_some {t : Ty} {f : Fmt} (h : t.fmt? = some f) : fmtM t = .ok f := by rw [fmtM, h]

theorem fmtM_none {t : Ty} (h : t.fmt? = none) : fmtM t = ill := by rw [fmtM, h]

/-! Strict propagation: the model's function and that of the statement (08 R223, 03 R83). -/

theorem strict_eq_claim (t : Ty) (xs : List Nat) (r : FRes) :
    ((strict t xs r).bits, (strict t xs r).fl) = Claim.strict t xs (r.bits, r.fl) := by
  unfold strict Claim.strict Ty.isAbsent
  split <;> rfl

theorem BinOp.run_strict (o : BinOp) (t : Ty) (rm : RMode) (a b : Nat) :
    ((o.run t false rm a b).bits, (o.run t false rm a b).fl) =
      Claim.strict t [a, b] ((o.eval t rm a b).bits, (o.eval t rm a b).fl) := by
  by_cases h : t.isAbsent a = true ∨ t.isAbsent b = true
  · rw [o.run_none rm h (.inl rfl), Claim.strict, if_pos]
    simpa only [List.any_cons, List.any_nil, Bool.or_false, Bool.or_eq_true, Ty.isAbsent] using h
  · obtain ⟨ha, hb⟩ := not_or.mp h
    rw [o.run_present false rm (Bool.eq_false_iff.mpr ha) (Bool.eq_false_iff.mpr hb), Claim.strict, if_neg]
    simpa only [List.any_cons, List.any_nil, Bool.or_false, Bool.or_eq_true, Ty.isAbsent] using h

/-! Which meaning each instruction of the statement's lists has. -/

theorem exec_float : ∀ x ∈ Claim.floats, ∀ (s : State) (d a b : CReg) (t : Ty), exec (x.1 d a b t) s = s.finish (s.farith x.2 t d a b) := by
  simp only [Claim.floats, List.forall_mem_cons, List.not_mem_nil, false_implies, implies_true, and_true]
  and_intros <;> exact fun _ _ _ _ _ => rfl

theorem exec_fcmp : ∀ x ∈ Claim.fcmps, ∀ (s : State) (d a b : CReg) (t : Ty), exec (x.1 d a b t) s = s.finish (s.fcompare x.2 t d a b) := by
  simp only [Claim.fcmps, List.forall_mem_cons, List.not_mem_nil, false_implies, implies_true, and_true]
  and_intros <;> exact fun _ _ _ _ _ => rfl

section
variable {s : State} {t : Ty} {d a b : CReg}

theorem State.farith_float (o : BinOp) (h : t.isInt = false) :
    let p := (s.c a).toNat % 2 ^ t.bits
    let q := (s.c b).toNat % 2 ^ t.bits
    let r := Claim.strict t [p, q] ((o.eval t s.g.rm p q).bits, (o.eval t s.g.rm p q).fl)
    s.farith o t d a b = .ok ((s.setC d (w64 r.1)).raise r.2) := by
  obtain ⟨f, hf⟩ := fmt_of_float h
  dsimp only
  rw [State.farith, fmtM_some hf, ← BinOp.run_strict]
  rfl

theorem State.farith_int (o : BinOp) (h : t.isInt = true) : s.farith o t d a b = ill := by
  rw [State.farith, fmtM_none (fmt_eq_none_of_isInt h)]
  rfl

theorem State.fcompare_float (o : Cond) (h : t.isInt = false) :
    let p := (s.c a).toNat % 2 ^ t.bits
    let q := (s.c b).toNat % 2 ^ t.bits
    let no := t.isAbsent p || t.isAbsent q
    s.fcompare o t d a b = .ok ((s.setC d (if no then 0 else if (o.eval t p q).1 then 1 else 0)).raise
      (if no then { abs := true } else (o.eval t p q).2)) := by
  obtain ⟨f, hf⟩ := fmt_of_float h
  dsimp only
  rw [State.fcompare, fmtM_some hf, ← w64_b2n_eq_ite]
  change (if _ then _ else _) = _
  split <;> rfl

theorem State.fcompare_int (o : Cond) (h : t.isInt = true) : s.fcompare o t d a b = ill := by
  rw [State.fcompare, fmtM_none (fmt_eq_none_of_isInt h)]
  rfl

/-! `fcvt` reads the type of its result from the b field (08 R224). -/

theorem Ty.code_setWidth : ∀ t tt : Ty, tt ≠ t →
    ((tt.code.setWidth 6 : BitVec 6).toNat < 8 ∧ (tt.code.setWidth 6 : BitVec 6).toNat ≠ t.code.toNat) ∧
    Ty.ofCode ((tt.code.setWidth 6 : BitVec 6).truncate 3) = tt := by
  intro t tt h
  have hn : (tt.code.setWidth 6 : BitVec 6).toNat = tt.code.toNat := BitVec.toNat_setWidth_of_le (by decide)
  refine ⟨⟨hn ▸ tt.code.isLt, fun hc => h ?_⟩, ?_⟩
  · rw [← Ty.ofCode_code tt, BitVec.eq_of_toNat_eq (hn.symm.trans hc), Ty.ofCode_code]
  · rw [BitVec.truncate_eq_setWidth, BitVec.setWidth_setWidth_of_le _ (by decide), BitVec.setWidth_eq, Ty.ofCode_code]

theorem execFcvt_to {tt : Ty} (h : tt ≠ t) :
    let r := convert tt t s.g.rm ((s.c a).toNat % 2 ^ t.bits)
    execFcvt d a (tt.code.setWidth 6) t s = .next ((s.setC d (tt.toC r.bits)).raise { r.fl with nv := r.fl.nv || r.vo }) := by
  obtain ⟨hcode, htt⟩ := Ty.code_setWidth t tt h
  dsimp only
  rw [execFcvt, need_true _ _ _ hcode, htt]
  rfl

theorem execFcvt_illegal {code : BitVec 6} (h : 8 ≤ code.toNat ∨ code = t.code.setWidth 6) :
    execFcvt d a code t s = .next (s.raiseTrap { cause := 0x01 }) := by
  have hcode : ¬ (code.toNat < 8 ∧ code.toNat ≠ t.code.toNat) := by
    rintro ⟨hlt, hne⟩
    refine h.elim (Nat.not_le.mpr hlt) fun hc => hne ?_
    rw [hc, BitVec.toNat_setWidth_of_le (by decide)]
  rw [execFcvt, need_false _ _ _ hcode]
  rfl

/-! `fdiv`, `fsqrt` and `fma` are rounded once and may have a lookahead (08 R225, 07 R192). -/

/-- What these three leave: flags merged, and a result given at once or late. -/
def State.gaveF (s : State) (d : CReg) (r : Nat × Sticky) (la : BitVec 4) : State :=
  (s.raise r.2).setLate d (w64 r.1) la.toNat true

theorem execFdiv_float {f : Fmt} (hf : t.fmt? = some f) (la : BitVec 4) :
    let p := (s.c a).toNat % 2 ^ t.bits
    let q := (s.c b).toNat % 2 ^ t.bits
    let r := f.divV s.g.rm (f.decode p) (f.decode q)
    execFdiv d a b t la s = .next (s.gaveF d (Claim.strict t [p, q] (r.bits, r.fl)) la) := by
  dsimp only
  rw [execFdiv, fmtM_some hf, ← strict_eq_claim]
  rfl

theorem execFsqrt_float {f : Fmt} (hf : t.fmt? = some f) (la : BitVec 4) :
    let p := (s.c a).toNat % 2 ^ t.bits
    let r := f.sqrtV s.g.rm (f.decode p)
    execFsqrt d a t la s = .next (s.gaveF d (Claim.strict t [p] (r.bits, r.fl)) la) := by
  dsimp only
  rw [execFsqrt, fmtM_some hf, ← strict_eq_claim]
  rfl

theorem execFma_float {f : Fmt} (hf : t.fmt? = some f) (la : BitVec 4) :
    let p := (s.c a).toNat % 2 ^ t.bits
    let q := (s.c b).toNat % 2 ^ t.bits
    let z := (s.c d).toNat % 2 ^ t.bits
    let r := f.fmaV s.g.rm (f.decode p) (f.decode q) (f.decode z)
    execFma d a b t la s = .next (s.gaveF d (Claim.strict t [p, q, z] (r.bits, r.fl)) la) := by
  dsimp only
  rw [execFma, fmtM_some hf, ← strict_eq_claim]
  rfl

theorem longFloat_int (hf : t.fmt? = none) (la : BitVec 4) :
    execFdiv d a b t la s = .next (s.raiseTrap { cause := 0x01 }) ∧ execFsqrt d a t la s = .next (s.raiseTrap { cause := 0x01 }) ∧
    execFma d a b t la s = .next (s.raiseTrap { cause := 0x01 }) := by
  rw [execFdiv, execFsqrt, execFma, fmtM_none hf]
  exact ⟨rfl, rfl, rfl⟩

end

end Sys2Proof.Machine

namespace Sys2Proof.Proofs
open Sys2Proof.Machine

/-- Settles O6: an instruction of a floating-point type is one write of c[d], at once or late, with its flags, and any other is illegal. -/
theorem floatingPoint : Obligations.FloatingPoint := by
  unfold Obligations.FloatingPoint
  refine ⟨⟨fun x hx s d a b t => ?_, fun x hx s d a b t => ?_, fun s d a b t => ⟨fun tt hne hb => ?_, execFcvt_illegal⟩⟩,
    fun s d a b t la => ⟨fun f hf => ?_, fun hf => longFloat_int hf la⟩⟩
  · intro p q r
    rw [exec_float x hx]
    refine ⟨fun h => ⟨_, ?_, s.raise_setC_wroteF d _ _⟩, fun h => ?_⟩
    · exact congrArg s.finish (State.farith_float _ h)
    · exact congrArg s.finish (State.farith_int _ h)
  · intro p q no
    rw [exec_fcmp x hx]
    refine ⟨fun h => ⟨_, ?_, s.raise_setC_wroteF d _ _⟩, fun h => ?_⟩
    · exact congrArg s.finish (State.fcompare_float _ h)
    · exact congrArg s.finish (State.fcompare_int _ h)
  · subst hb
    exact ⟨_, execFcvt_to hne, s.raise_setC_wroteF d _ _⟩
  · exact ⟨⟨_, execFdiv_float hf la, State.setLate_gaveC ..⟩, ⟨_, execFsqrt_float hf la, State.setLate_gaveC ..⟩,
      ⟨_, execFma_float hf la, State.setLate_gaveC ..⟩⟩

end Sys2Proof.Proofs
end

section
/-! PROOFS. The vector length: `setvl`, and the write of `vl` (08 R226, 02 R54, R62, 01 R23). -/

namespace Sys2Proof.Machine

section
variable {s : State} {d a : CReg} {w : BitVec 13}

/-- `setvl` of one of its widths, while no `vl` is pending, sets `vl` and c[d] (08 R226). -/
theorem execSetvl_width (hw : w.toNat = 8 ∨ w.toNat = 16 ∨ w.toNat = 32 ∨ w.toNat = 256) (hp : s.vlPending = false) :
    let n := Min.min (s.c a).toNat (s.g.grant / w.toNat)
    execSetvl d a w s = .next (({ s with g := { s.g with vl := BitVec.ofNat 12 n } } : State).setC d (BitVec.ofNat 64 n)) := by
  dsimp only
  rw [execSetvl, need_true _ _ _ hw, hp]
  rfl

theorem execSetvl_illegal (hw : ¬ (w.toNat = 8 ∨ w.toNat = 16 ∨ w.toNat = 32 ∨ w.toNat = 256)) :
    execSetvl d a w s = .next (s.raiseTrap { cause := 0x01 }) := by
  rw [execSetvl, need_false _ _ _ hw]
  rfl

/-- A `vl` that `setvl` sets fits the register: VLMAX is at most 2,048 (02 R52, R53). -/
theorem toNat_vl_of_setvl (x : Nat) (hg : s.g.grant ≤ 16384) (hw : 8 ≤ w.toNat) :
    (BitVec.ofNat 12 (Min.min x (s.g.grant / w.toNat))).toNat = Min.min x (s.g.grant / w.toNat) := by
  have hmax : s.g.grant / w.toNat ≤ 2048 := calc
    s.g.grant / w.toNat ≤ 16384 / w.toNat := Nat.div_le_div_right hg
    _ ≤ 16384 / 8 := Nat.div_le_div_left hw (by decide)
  exact Nat.mod_eq_of_lt (lt_of_le_of_lt (min_le_right _ _) (by omega))

theorem State.cwrVl_fits (hp : s.vlPending = false) (h : (s.c a).toNat ≤ s.g.grant / 8) :
    s.cwrVl a = .ok { s with g := { s.g with vl := BitVec.ofNat 12 (s.c a).toNat } } := by
  rw [State.cwrVl, hp]
  exact if_neg (Nat.not_lt.mpr h)

theorem State.cwrVl_illegal (hp : s.vlPending = false) (h : s.g.grant / 8 < (s.c a).toNat) : s.cwrVl a = ill := by
  rw [State.cwrVl, hp]
  exact if_pos h

end

end Sys2Proof.Machine

namespace Sys2Proof.Proofs
open Sys2Proof.Machine

/-- Settles O7: `setvl` checks its width, and `cwr` the whole value. -/
theorem vectorLength : Obligations.VectorLength := by
  unfold Obligations.VectorLength
  intro s d a w hg
  refine ⟨fun hw hp => ⟨_, execSetvl_width hw hp, ?_, State.setC_wroteC ..⟩, execSetvl_illegal, fun hp => ⟨fun h => ?_, fun h => ?_, ?_⟩⟩
  · simp only [State.setC_rest]
    exact toNat_vl_of_setvl _ hg (by omega)
  · exact congrArg s.finish (State.cwrVl_fits hp h)
  · exact congrArg s.finish (State.cwrVl_illegal hp h)
  · rintro r rfl h
    exact congrArg s.finish (State.cwrVl_fits hp h)

end Sys2Proof.Proofs
end

section
/-! PROOFS. Divisions (08 R214), and when a late result is written (07 R192). -/

namespace Sys2Proof.Machine

/-! The divisions on the readings of 08 R214. -/

theorem divS_eq (x y : Word) : divS x y = if y = 0 then BitVec.ofInt 64 (-1)
    else if x.toInt = -2 ^ 63 ∧ y.toInt = -1 then BitVec.ofInt 64 (-2 ^ 63) else BitVec.ofInt 64 (x.toInt.tdiv y.toInt) := by
  unfold divS
  split
  · rfl
  · split
    · next h => rw [h.1, h.2]; rfl
    · rfl

theorem divU_eq (x y : Word) : divU x y = if y = 0 then BitVec.ofNat 64 (2 ^ 64 - 1) else BitVec.ofNat 64 (x.toNat / y.toNat) := rfl

theorem remS_eq (x y : Word) : remS x y = if y = 0 then x else if x.toInt = -2 ^ 63 ∧ y.toInt = -1 then 0
    else BitVec.ofInt 64 (x.toInt - y.toInt * x.toInt.tdiv y.toInt) := by
  unfold remS
  split
  · rfl
  · split
    · next h => rw [h.1, h.2]; rfl
    · rw [Int.tmod_def]

theorem remU_eq (x y : Word) : remU x y = if y = 0 then x else BitVec.ofNat 64 (x.toNat % y.toNat) := rfl

/-- Every division gives its function of c[a] and c[b], at once or late (08 R214). -/
theorem exec_division : ∀ x ∈ Claim.divisions, ∀ (s : State) (d a b : CReg) (la : BitVec 4),
    exec (x.1 d a b la) s = .next (s.setLate d (x.2 (s.c a) (s.c b)) la.toNat true) := by
  simp only [Claim.divisions, List.forall_mem_cons, List.not_mem_nil, false_implies, implies_true, and_true, ← divS_eq, ← divU_eq,
    ← remS_eq, ← remU_eq]
  and_intros <;> exact fun _ _ _ _ _ => rfl

/-! Late results. -/

/-- The two steps that write a late result before its lookahead has run out. -/
theorem exec_late (s : State) (div : Bool) :
    exec (if div then .divideUnitResult else .loadedValueArrives) s = .next (s.lateNow div) := by
  cases div <;> rfl

theorem State.lateNow_found {s : State} {l : Late} {div : Bool} (hr : (s.focus s.ev.g).g.resident = true)
    (hl : (s.focus s.ev.g).g.late.find? (fun x => decide (x.d = s.ev.reg) && decide (x.div = div)) = some l) :
    s.lateNow div = (s.focus s.ev.g).landLate l := by
  simp only [State.lateNow, hl, hr, if_true]

theorem State.c_landLate (s : State) (l : Late) (r : CReg) :
    (s.landLate l).c r = if r = 0 then 0 else if r = l.d then l.val else s.c r := s.c_setC l.d r l.val

theorem State.mem_late_landLate (s : State) (l x : Late) :
    x ∈ (s.landLate l).g.late ↔ x ∈ s.g.late ∧ (l.d = x.d → l.seq < x.seq) := by
  simp only [State.landLate, List.mem_filter, Bool.or_eq_true, decide_eq_true_eq, ne_eq, ← imp_iff_not_or, eq_comm (a := x.d)]

/-- Once several results have landed, what stood behind none of them for its register still waits. -/
theorem State.mem_late_foldl_landLate (ls : List Late) (s : State) (x : Late) :
    x ∈ (ls.foldl State.landLate s).g.late ↔ x ∈ s.g.late ∧ ∀ k ∈ ls, k.d = x.d → k.seq < x.seq := by
  induction ls generalizing s with
  | nil => simp
  | cons l ls ih => rw [List.foldl_cons, ih, State.mem_late_landLate, List.forall_mem_cons, and_assoc]

/-- A register for which none of them is keeps its value. -/
theorem State.c_foldl_landLate_other (ls : List Late) (s : State) {r : CReg} (h : ∀ k ∈ ls, k.d ≠ r) :
    (ls.foldl State.landLate s).c r = s.c r := by
  induction ls generalizing s with
  | nil => rfl
  | cons l ls ih =>
    obtain ⟨hl, hls⟩ := List.forall_mem_cons.mp h
    rw [List.foldl_cons, ih _ hls, State.c_landLate, if_neg (Ne.symm hl)]
    split
    · next h0 => rw [h0, State.c_zero]
    · rfl

/-- A register for which some of them are holds the last of those, in the order of their units. -/
theorem State.c_foldl_landLate_last {ls : List Late} (s : State) {l : Late} (hs : ls.Pairwise fun a b => a.seq < b.seq)
    (hl : l ∈ ls) (h0 : l.d ≠ 0) (hlast : ∀ k ∈ ls, k.d = l.d → k.seq ≤ l.seq) : (ls.foldl State.landLate s).c l.d = l.val := by
  induction ls generalizing s with
  | nil => cases hl
  | cons x ls ih =>
    obtain ⟨hx, hs⟩ := List.pairwise_cons.mp hs
    have hrest : ∀ k ∈ ls, k.d = l.d → k.seq ≤ l.seq := (List.forall_mem_cons.mp hlast).2
    rw [List.foldl_cons]
    rcases List.mem_cons.mp hl with rfl | hl
    · have hnone : ∀ k ∈ ls, k.d ≠ l.d := fun k hk hd => absurd (hx k hk) (Nat.not_lt.mpr (hrest k hk hd))
      rw [State.c_foldl_landLate_other ls _ hnone, State.c_landLate, if_neg h0, if_pos rfl]
    · exact ih _ hs hl hrest

/-- The results that are delivered before the next unit: those whose covered units have passed (07 R192). -/
theorem mem_due (g : Group) (l : Late) : l ∈ g.late.filter (fun l => decide (l.upto < g.seq)) ↔ l ∈ g.late ∧ l.upto < g.seq := by
  rw [List.mem_filter, decide_eq_true_iff]

end Sys2Proof.Machine

namespace Sys2Proof.Proofs
open Sys2Proof.Machine

/-- Settles O17: a delivery is a fold of `State.landLate` over the results that are due. -/
theorem divisionsAndLateResults : Obligations.DivisionsAndLateResults := by
  unfold Obligations.DivisionsAndLateResults
  refine ⟨fun x hx s d a b la => ⟨_, exec_division x hx s d a b la, s.setLate_gaveC ..⟩, fun s l => ?_, fun s h0 hs => ?_⟩
  · intro q hr hl
    refine ⟨_, q.setC_wroteC l.d l.val, ?_⟩
    rw [exec_late, State.lateNow_found hr hl]
    rfl
  · intro t
    refine ⟨fun l hl hdue hlast => ?_, fun l => ?_, fun r hr => ?_⟩
    · refine State.c_foldl_landLate_last s (hs.filter _) ((mem_due ..).mpr ⟨hl, hdue⟩) (h0 l hl) fun k hk => ?_
      obtain ⟨hk, hkdue⟩ := (mem_due ..).mp hk
      exact hlast k hk hkdue
    · refine (State.mem_late_foldl_landLate _ s l).trans (and_congr_right fun _ => ?_)
      simp only [mem_due, and_imp]
    · refine State.c_foldl_landLate_other _ s fun k hk => ?_
      obtain ⟨hk, hkdue⟩ := (mem_due ..).mp hk
      exact hr k hk hkdue

end Sys2Proof.Proofs
end

section
/-! PROOFS. Chords of the VPs, the queues of the control thread, and the traps of a stall that cannot end (08 R234 to R236, 01 R37
to R40). -/

namespace Sys2Proof.Machine

section
variable {s : State} {e : Nat} (hvp : s.vp = some e)
include hvp

/-- `vsend` of a register that can be read pushes its element, or leaves the VP stalled (08 R234, 01 R39). -/
theorem execVsend_ready {a : VName} (h : Claim.ready s 32 [a.toNat]) :
    execVsend a s = .next (if 4 ≤ (s.sinkQ e).length then s.updVp e fun _ => { s.u.vp0 with st := .stallSend }
      else s.setSink e (s.sinkQ e ++ [BitVec.ofNat 32 (s.el a.toNat 32 e)])) := by
  obtain ⟨hreg, -, hfree⟩ := h
  obtain ⟨hbound, hpoison⟩ := hfree _ (List.mem_singleton_self _)
  rw [execVsend, State.inAib_some s _ hvp, State.needReg, need_true _ _ _ (hreg _ (List.mem_singleton_self _)),
    State.needSrc_free hbound hpoison]
  change s.finish (if _ then _ else _) = _
  split <;> rfl

section
variable {d : VName} (hd : d.toNat < s.g.budget) (hb : ∀ x ∈ s.g.streams, x.reg ≠ s.reg d.toNat)
include hd hb

/-- `vrecv` into a register that can be written pops the queue that feeds the VP, or leaves the VP stalled (08 R234, 01 R39). -/
theorem execVrecv_ready : execVrecv d s = s.finish (match s.sourceQ e with
    | [] => .ok (s.updVp e fun _ => { s.u.vp0 with st := .stallRecv })
    | x :: q => .ok ((s.setSource e q).setEls d.toNat 32 [(e, x.toNat)])) := by
  rw [execVrecv, State.inAib_some s _ hvp, State.needReg, need_true _ _ _ hd, State.needUnbound,
    need_true _ _ _ (by rw [State.bound_eq_none hb]; rfl)]
  rfl

theorem execVrecv_value {x : Word32} {q : List Word32} (hq : s.sourceQ e = x :: q) :
    execVrecv d s = .next ((s.setSource e q).setEls d.toNat 32 [(e, x.toNat)]) := by
  rw [execVrecv_ready hvp hd hb, hq]
  rfl

theorem execVrecv_empty (hq : s.sourceQ e = []) :
    execVrecv d s = .next (s.updVp e fun _ => { s.u.vp0 with st := .stallRecv }) := by
  rw [execVrecv_ready hvp hd hb, hq]
  rfl

end
end

/-- A step keeps its event when it brings its group to the fore (log entry 5). -/
theorem State.focusTeam_ev (s : State) (k : Nat) : (s.focusTeam k).ev = s.ev := by
  unfold State.focusTeam
  split
  · rfl
  · dsimp only
    split <;> rfl

theorem State.focus_ev (s : State) (g : Nat) : (s.focus g).ev = s.ev := by
  unfold State.focus
  rw [State.focusTeam_ev]
  split
  · rfl
  · dsimp only
    split <;> rfl

section
variable {s : State}

/-- A stall that cannot end traps at the stalled VP (01 R40). -/
theorem execChordUnderflow_stuck (hr : (s.focus s.ev.g).g.resident = true) (h : (s.focus s.ev.g).underflows s.ev.e = true) :
    execChordUnderflow s = .next (((s.focus s.ev.g).atVp s.ev.e).takeTrap { cause := 0x04 }) := by
  simp only [execChordUnderflow, State.focus_ev, hr, h, Bool.and_self, if_true, causeUnderflow]

theorem execChordOverflow_stuck (hr : (s.focus s.ev.g).g.resident = true) (h : (s.focus s.ev.g).overflows s.ev.e = true) :
    execChordOverflow s = .next (((s.focus s.ev.g).atVp s.ev.e).takeTrap { cause := 0x05 }) := by
  simp only [execChordOverflow, State.focus_ev, hr, h, Bool.and_self, if_true, causeOverflow]

/-! `qput`, `qget` and `qclr` (08 R235, R236). -/

theorem execQput_room (r : CReg) (h : s.g.inlet.length < 4) :
    execQput r s = .next { s with g := { s.g with inlet := s.g.inlet ++ [(s.c r).setWidth 32] } } :=
  congrArg s.finish (if_pos h)

theorem execQput_full (r : CReg) (h : 4 ≤ s.g.inlet.length) :
    execQput r s = .next (if s.g.vfQueued then s.holdUnit .inletFull else s.raiseTrap { cause := 0x05 }) := by
  rw [execQput, if_neg (Nat.not_lt.mpr h)]
  split <;> rfl

theorem execQget_value (r : CReg) {x : Word32} {q : List Word32} (h : s.g.outlet = x :: q) :
    execQget r s = .next (({ s with g := { s.g with outlet := q } } : State).setC r (x.setWidth 64)) := by
  rw [execQget, h]
  rfl

theorem execQget_empty (r : CReg) (h : s.g.outlet = []) :
    execQget r s = .next (if s.g.vfQueued then s.holdUnit .outletEmpty else s.raiseTrap { cause := 0x04 }) := by
  rw [execQget, h]
  dsimp only
  split <;> rfl

theorem execQclr_empty (h : s.g.viq = []) : execQclr s = .next { s with g := { s.g with inlet := [], outlet := [] } } :=
  congrArg s.finish (if_neg (not_not.mpr h))

theorem execQclr_waits (h : s.g.viq ≠ []) : execQclr s = .next (s.holdUnit .viq) :=
  congrArg s.finish (if_pos h)

end

end Sys2Proof.Machine

namespace Sys2Proof.Proofs
open Sys2Proof.Machine

/-- Settles O15: a queue with room or a value takes or gives it, and any other stalls, waits or traps. -/
theorem chordsAndQueues : Obligations.ChordsAndQueues := by
  unfold Obligations.ChordsAndQueues
  refine ⟨⟨fun s e v a d hvp _ => ⟨fun h => ⟨fun hroom => ?_, fun hfull => ?_⟩, fun hd hb =>
      ⟨fun x q => execVrecv_value hvp hd hb, execVrecv_empty hvp hd hb⟩⟩, ?_⟩, fun s r => ?_⟩
  · refine (execVsend_ready hvp h).trans ?_
    rw [if_neg (Nat.not_le.mpr hroom)]
  · refine (execVsend_ready hvp h).trans ?_
    rw [if_pos hfull]
    rfl
  · intro s q hr
    exact ⟨execChordUnderflow_stuck hr, execChordOverflow_stuck hr⟩
  · exact ⟨execQput_room r, execQput_full r, fun x q h => ⟨_, execQget_value r h, State.setC_wroteC ..⟩, execQget_empty r,
      execQclr_empty, execQclr_waits⟩

end Sys2Proof.Proofs
end

section
/-! PROOFS. Vector entries that nothing bars: their checks pass, they advance no binding, and what they answer (01 R14, 02 R54, 05 R148,
R149, 18 R424, 09 R239, R243). -/

namespace Sys2Proof.Machine

/-! Checks that pass, and checks that fail. -/

@[simp] theorem ok_bind {α β : Type} (x : α) (f : α → M β) : (Except.ok x : M α) >>= f = f x := rfl
@[simp] theorem ill_bind {α β : Type} (f : α → M β) : (ill : M α) >>= f = ill := rfl

theorem State.finish_ill (s : State) : s.finish ill = .next (s.raiseTrap { cause := 0x01 }) := rfl

/-- A check of the condition that bars an instruction: it passes, or the instruction is illegal. -/
theorem need_or_ill (p : Prop) [Decidable p] : need p = .ok ⟨⟩ ∨ (need p : M PUnit) = ill := by
  by_cases h : p
  · exact .inl (need_true _ _ _ h)
  · exact .inr (need_false _ _ _ h)

theorem allM_needReg_or_ill (s : State) (l : List Nat) : allM (l.map s.needReg) = .ok ⟨⟩ ∨ allM (l.map s.needReg) = ill := by
  induction l with
  | nil => exact .inl rfl
  | cons r l ih =>
    rw [List.map_cons, State.needReg]
    rcases need_or_ill (r < s.g.budget) with h | h <;> rw [h]
    · exact ih
    · exact .inr rfl

/-- A register can be read as it stands: no stream is bound to it and nothing in it is poisoned. -/
def State.readable (s : State) (r : Nat) : Prop := (∀ x ∈ s.g.streams, x.reg ≠ s.reg r) ∧ ∀ x ∈ s.g.rpoison, x.1 ≠ s.reg r

section
variable {s : State}

theorem State.srcHit_readable {l : List Src} (h : ∀ x ∈ l, s.readable x.reg) : s.srcHit l = .ok none := by
  have hbound : ∀ x ∈ l, s.bound (s.reg x.reg) = none := fun x hx => State.bound_eq_none (h x hx).1
  have hbind : allM (l.map s.needBind) = .ok ⟨⟩ := by
    refine allM_ok fun m hm => ?_
    obtain ⟨x, hx, rfl⟩ := List.mem_map.mp hm
    rw [State.needBind, hbound x hx]
  have hfault : l.filterMap s.facetFault = [] := List.filterMap_eq_nil_iff.mpr fun x hx => by rw [State.facetFault, hbound x hx]
  have hpoison : l.filterMap s.poisonFault = [] := List.filterMap_eq_nil_iff.mpr fun x hx => State.poisonFault_eq_none (h x hx).2
  have hwaits : l.any s.srcWaits = false := List.any_eq_false.mpr fun x hx => by
    rw [State.srcWaits, hbound x hx]
    exact Bool.false_ne_true
  rw [State.srcHit, hbind, hfault, hpoison, hwaits]
  rfl

theorem State.needSrcs_readable {l : List Src} (h : ∀ x ∈ l, s.readable x.reg) : s.needSrcs l = .ok ⟨⟩ := by
  rw [State.needSrcs, State.srcHit_readable h]
  rfl

theorem State.needSrc_readable {r w base : Nat} {which : Option (List Nat)} (h : s.readable r) : s.needSrc r w base which = .ok ⟨⟩ :=
  State.needSrc_free h.1 h.2

theorem State.needUnbound_readable {r : Nat} (h : s.readable r) : s.needUnbound r = .ok ⟨⟩ :=
  need_true _ _ _ (by rw [State.bound_eq_none h.1]; rfl)

theorem State.needReg_ok {r : Nat} (h : r < s.g.budget) : s.needReg r = .ok ⟨⟩ := need_true _ _ _ h

section
variable {w : Nat} {rs src dst : List Nat} (h : Claim.ready s w rs)
include h

theorem ready_budget {r : Nat} (hr : r ∈ rs) : r < s.g.budget := h.1 r hr
theorem ready_readable {r : Nat} (hr : r ∈ rs) : s.readable r := h.2.2 r hr

variable (hs : src ⊆ rs)
include hs

theorem ready_regs : allM (src.map s.needReg) = .ok ⟨⟩ := by
  refine allM_ok fun m hm => ?_
  obtain ⟨r, hr, rfl⟩ := List.mem_map.mp hm
  exact State.needReg_ok (ready_budget h (hs hr))

theorem ready_needSrcs (which : Option (List Nat)) : s.needSrcs (srcsOf w src which) = .ok ⟨⟩ := by
  refine State.needSrcs_readable fun x hx => ?_
  obtain ⟨r, hr, rfl⟩ := List.mem_map.mp hx
  exact ready_readable h (hs hr)

variable (hd : dst ⊆ rs)
include hd

/-- Registers that are in order pass every check that needs no element. -/
theorem ready_vlegal : s.vlegal w src dst = .ok ⟨⟩ := by
  have hregs := ready_regs h (List.append_subset.mpr ⟨hs, hd⟩)
  have hfree : allM (dst.map s.needUnbound) = .ok ⟨⟩ := by
    refine allM_ok fun m hm => ?_
    obtain ⟨r, hr, rfl⟩ := List.mem_map.mp hm
    exact State.needUnbound_readable (ready_readable h (hd hr))
  have hbind : allM ((srcsOf w src).map s.needBind) = .ok ⟨⟩ := by
    refine allM_ok fun m hm => ?_
    obtain ⟨x, hx, rfl⟩ := List.mem_map.mp hm
    obtain ⟨r, hr, rfl⟩ := List.mem_map.mp hx
    rw [State.needBind, State.bound_eq_none (ready_readable h (hs hr)).1]
  rw [State.vlegal, hregs, hfree, hbind]
  cases hv : s.vp with
  | none =>
    rw [State.needVl_ok s w (h.2.1 hv)]
    rfl
  | some v => rfl

theorem ready_vcheck {which : Option (List Nat)} : s.vcheck w src dst which = .ok ⟨⟩ := by
  rw [State.vcheck, ready_vlegal h hs hd, ready_needSrcs h hs]
  rfl

end

/-! Bindings, which only an instruction that reads a bound register advances (05 R148). -/

/-- `q` has the bindings of `s`, and the executing unit finds its registers where it found them. -/
def State.KeepsBindings (s q : State) : Prop := q.g.streams = s.g.streams ∧ q.u = s.u ∧ q.g.budget = s.g.budget

theorem State.KeepsBindings.trans {p q : State} (h : s.KeepsBindings p) (k : p.KeepsBindings q) : s.KeepsBindings q :=
  ⟨k.1.trans h.1, k.2.1.trans h.2.1, k.2.2.trans h.2.2⟩

theorem State.KeepsBindings.consume {q : State} {rs : List Nat} (k : s.KeepsBindings q) (h : ∀ r ∈ rs, s.readable r) : q.consume rs = q := by
  obtain ⟨hstreams, hu, hbudget⟩ := k
  have hreg : q.reg = s.reg := by
    funext r
    rw [State.reg, hu, hbudget, State.reg]
  have hkept : ∀ x ∈ s.g.streams, ((rs.map s.reg).contains x.reg) = false := by
    intro x hx
    rw [← Bool.not_eq_true, List.contains_iff_mem, List.mem_map]
    rintro ⟨r, hr, he⟩
    exact (h r hr).1 x hx he.symm
  rw [State.consume, hreg, hstreams, List.map_congr_left (g := id) fun x hx => by rw [hkept x hx]; rfl, List.map_id, ← hstreams]

theorem State.setEls_keepsBindings (s : State) (r w : Nat) (l : List (Nat × Nat)) : s.KeepsBindings (s.setEls r w l) := by
  rw [State.setEls_frame]
  exact ⟨rfl, rfl, rfl⟩

theorem State.setVo_keepsBindings (s : State) (l : List Nat) : s.KeepsBindings (s.setVo l) := by
  rw [State.setVo_frame]
  exact ⟨rfl, rfl, rfl⟩

theorem State.raise_keepsBindings (s : State) (f : Sticky) : s.KeepsBindings (s.raise f) := ⟨rfl, rfl, rfl⟩

theorem State.setC_keepsBindings (s : State) (d : CReg) (x : Word) : s.KeepsBindings (s.setC d x) := by
  unfold State.setC
  split <;> exact ⟨rfl, rfl, rfl⟩

/-- A write of result elements changes the vector registers, their poison and the note for a lookahead alone, in both contexts (01 R13). -/
theorem State.setOpEls_frame (s : State) (r w : Nat) (l : List (Nat × Nat)) : let q := s.setOpEls r w l
    q = { s with g := { s.g with v := q.g.v, rpoison := q.g.rpoison }, trace := q.trace } := by
  unfold State.setOpEls
  dsimp only
  split
  · exact s.setEls_frame r w l
  · next v _ =>
    have hels := s.setEls_frame r 32 (l.map fun ev => (v, getEl 32 (s.vphys (s.reg r)) v / 2 ^ w * 2 ^ w + ev.2 % 2 ^ w))
    generalize s.setEls r 32 _ = q at hels ⊢
    split
    · rw [hels]
    · exact hels

theorem State.setOpEls_keepsBindings (s : State) (r w : Nat) (l : List (Nat × Nat)) : s.KeepsBindings (s.setOpEls r w l) := by
  rw [State.setOpEls_frame]
  exact ⟨rfl, rfl, rfl⟩

theorem State.putRes_keepsBindings (s : State) (d w : Nat) (l : List (Nat × Res)) : s.KeepsBindings (s.putRes d w l) :=
  ((s.setOpEls_keepsBindings ..).trans (State.setVo_keepsBindings ..)).trans (State.raise_keepsBindings ..)

/-! The operands of an instruction, and its answer. -/

theorem bRegs_needB {b : BOp} {rs : List Nat} (h : Claim.bRegs s b rs) : s.needB b = .ok ⟨⟩ ∧ bReg b = rs := by
  cases b with
  | v r => exact ⟨rfl, h.symm⟩
  | c r => exact ⟨need_true _ _ _ (by rw [h.2]; rfl), h.1.symm⟩

/-- An element-wise instruction of an admitted type, on registers that are in order, delivers its results (09 R243). -/
theorem ready_elementwise {t : Ty} {d : VName} {src rs : List Nat} {adm : Bool} (h : Claim.ready s t.bits rs) (ha : adm = true)
    (hs : src ⊆ rs) (hd : d.toNat ∈ rs) (f : Nat → Res) :
    s.elementwise adm t d src f = .ok (s.putRes d.toNat t.bits (s.actives.map fun e => (e, f e))) := by
  rw [State.elementwise, need_true _ _ _ ha, ready_vcheck h hs (List.cons_subset.mpr ⟨hd, List.nil_subset _⟩)]
  simp only [ok_bind]
  rw [(s.putRes_keepsBindings ..).consume fun r hr => ready_readable h (hs hr)]

theorem State.elementwise_illegal {t : Ty} {d : VName} {src : List Nat} {adm : Bool} (ha : adm = false) (f : Nat → Res) :
    s.elementwise adm t d src f = ill := by
  rw [State.elementwise, need_false _ _ _ (by rw [ha]; exact Bool.false_ne_true)]
  rfl

end

/-- A type that no vector instruction takes (09 R240). -/
theorem Ty.six_eq_false {t : Ty} (h : t = .i64 ∨ t = .f64) : t.six = false := by
  rcases h with rfl | rfl <;> rfl

end Sys2Proof.Machine
end

section
/-! PROOFS. Element-wise arithmetic, the dot product of bytes, element indices and the special functions (09 R245 to R248, R259, 11
R335, 08 R238). -/

namespace Sys2Proof.Machine

section
variable {s : State} {d a : VName} {b : BOp} {t : Ty} {rs : List Nat}

/-- A two-operand instruction on registers that are in order (09 R245). -/
theorem vbin_ready (hb : Claim.bRegs s b rs) (h : Claim.ready s t.bits (a.toNat :: d.toNat :: rs)) (o : BinOp) {adm : Ty → Bool}
    (ha : adm t = true) (p : Bool) : s.vbin o adm d a b t p =
      .ok (s.putRes d.toNat t.bits (s.actives.map fun e => (e, o.run t p s.u.rm (s.opEl a.toNat t.bits e) (s.bEl b t.bits e)))) := by
  obtain ⟨hB, hr⟩ := bRegs_needB hb
  rw [State.vbin, hB, hr]
  exact ready_elementwise h ha (by simp) (by simp) _

theorem vbin_illegal (hb : Claim.bRegs s b rs) (o : BinOp) {adm : Ty → Bool} (ha : adm t = false) (p : Bool) :
    s.vbin o adm d a b t p = ill := by
  rw [State.vbin, (bRegs_needB hb).1]
  exact State.elementwise_illegal ha _

/-- A one-operand instruction on registers that are in order (09 R246). -/
theorem vun_ready (h : Claim.ready s t.bits [a.toNat, d.toNat]) (ht : t.six = true) (f : Ty → Nat → Res) : s.vun f d a t =
      .ok (s.putRes d.toNat t.bits (s.actives.map fun e => (e, unRun t (f t) (s.opEl a.toNat t.bits e)))) :=
  ready_elementwise h ht (by simp) (by simp) _

theorem execVdiv_ready {b : VName} (h : Claim.ready s t.bits [a.toNat, b.toNat, d.toNat]) (ht : t.six = true) (p : Bool) (la : BitVec 3) :
    execVdiv d a b t p la s = .next (s.putRes d.toNat t.bits (s.actives.map fun e =>
      (e, BinOp.div.run t p s.u.rm (s.opEl a.toNat t.bits e) (s.opEl b.toNat t.bits e)))) :=
  congrArg s.finish (ready_elementwise h ht (by simp [bReg]) (by simp) _)

theorem execVmac_ready (hb : Claim.bRegs s b rs) (h : Claim.ready s t.bits (a.toNat :: d.toNat :: rs)) (ht : t.six = true) (p : Bool) :
    execVmac d a b t p s = .next (s.putRes d.toNat t.bits (s.actives.map fun e =>
      (e, macRun t p s.u.rm (s.opEl a.toNat t.bits e) (s.bEl b t.bits e) (s.opEl d.toNat t.bits e)))) := by
  obtain ⟨hB, hr⟩ := bRegs_needB hb
  rw [execVmac, hB, hr]
  exact congrArg s.finish (ready_elementwise h ht (by simp) (by simp) _)

end

theorem Ty.admitted_eq_false {t : Ty} {shift : Bool} (h : t = .i64 ∨ t = .f64 ∨ (shift = true ∧ t.isInt = false)) :
    (if shift then Ty.shiftable else Ty.six) t = false := by
  rcases h with rfl | rfl | ⟨rfl, h⟩
  · cases shift <;> rfl
  · cases shift <;> rfl
  · simp [Ty.shiftable, h]

/-! Dot products of bytes (11 R335). -/

/-- Four pairs of which none is left out are all there. -/
theorem any_absent_pair {pairs : List (Nat × Nat)} (h : pairs.length = 4) : (pairs.any fun q => decide (q.1 = 128) || decide (q.2 = 128)) =
    decide ((pairs.filter fun q => decide (q.1 ≠ 128) && decide (q.2 ≠ 128)).length ≠ 4) := by
  rw [Bool.eq_iff_iff, decide_eq_true_iff, Ne, ← h, List.length_filter_eq_length_iff]
  simp [imp_iff_not_or]

theorem isAbsent_i32 (z : Nat) : Ty.i32.isAbsent z = decide (z = 2 ^ 31) :=
  decide_eq_decide.mpr (Option.some_inj.trans eq_comm)

/-- The result of a dot product from whether anything is absent, whether nothing is left, and the sum: absent in strict mode with the first,
in pass mode with the second and an absent old element (11 R335, 03 R83). -/
theorem dot4_cases {sum : Res} (h : sum.fl = {}) (p some_ left zAbs : Bool) :
    (let r : Res := if !p && (some_ || zAbs) then { bits := 2 ^ 31 } else if p && left && zAbs then { bits := 2 ^ 31 } else sum
     if some_ || zAbs then r.abs else r) =
    (let none_ := if p then left && zAbs else some_ || zAbs
     { bits := if none_ then 2 ^ 31 else sum.bits, fl := { abs := some_ || zAbs }, vo := !none_ && sum.vo }) := by
  obtain ⟨bits, fl, vo⟩ := sum
  subst h
  cases zAbs with
  | true => cases p <;> cases left <;> simp [Res.abs]
  | false => cases p <;> cases some_ <;> simp [Res.abs]

/-- A sum over pairs of bytes is absent where nothing of it is left, in strict mode where any part of it is absent (11 R335, 03 R83). -/
theorem dot4_eq (p : Bool) (x y z : Nat) :
    let pairs := (List.range 4).map fun i => (getEl 8 x i, getEl 8 y i)
    let good := pairs.filter fun q => decide (q.1 ≠ 128) && decide (q.2 ≠ 128)
    let zAbs := decide (z = 2 ^ 31)
    let ab := decide (good.length ≠ 4) || zAbs
    let sum := satInt 32 ((if zAbs then 0 else sextNat 32 z) + (good.map fun q => sextNat 8 q.1 * sextNat 8 q.2).sum)
    let none_ := if p then decide (good = []) && zAbs else ab
    dot4 p x y z = { bits := if none_ then 2 ^ 31 else sum.bits, fl := { abs := ab }, vo := !none_ && sum.vo } := by
  intro pairs good zAbs ab sum none_
  have hcode : Ty.i32.absentCode = 2 ^ 31 := rfl
  have hany := any_absent_pair (pairs := pairs) (by simp [pairs])
  rw [← dot4_cases (clamped_satInt (by decide) _).2.2.1, dot4, isAbsent_i32, hcode]
  dsimp only [pairs] at hany ⊢
  rw [hany]

/-- `vid` gives each active element the captured base and its number, in an AIB the base of the VP's own element (08 R238). -/
theorem execVid_control {s : State} {d : VName} {t : Ty} (a : BitVec 6) (ht : t = .i16 ∨ t = .i32) (hv : s.vp = none)
    (h : Claim.ready s t.bits [d.toNat]) :
    execVid d a t s = .next (s.putRes d.toNat t.bits (s.actives.map fun e => (e, satInt t.bits (s.u.opA.toInt + e)))) := by
  rw [execVid, need_true _ _ _ ht]
  simp only [ok_bind, hv]
  rw [ready_vcheck h (List.nil_subset _) (List.Subset.refl _)]
  rfl

theorem execVid_vp {s : State} {d : VName} {a : BitVec 6} {t : Ty} {v : Nat} (ht : t = .i16 ∨ t = .i32) (hv : s.vp = some v)
    (h : Claim.ready s t.bits [a.toNat, d.toNat]) :
    execVid d a t s = .next (s.putRes d.toNat t.bits (s.actives.map fun e =>
      (e, unRun t (fun x => satInt t.bits (sextNat t.bits x + v)) (s.opEl a.toNat t.bits e)))) := by
  rw [execVid, need_true _ _ _ ht]
  simp only [ok_bind, hv]
  rw [ready_vcheck h (by simp) (by simp)]
  rfl

theorem execVid_illegal {s : State} {d : VName} {t : Ty} (a : BitVec 6) (ht : ¬ (t = .i16 ∨ t = .i32)) :
    execVid d a t s = .next (s.raiseTrap { cause := 0x01 }) := by
  rw [execVid, need_false _ _ _ ht]
  rfl

/-! The special functions (09 R259). -/

theorem exec_special : ∀ x ∈ Claim.specials, ∀ (s : State) (d a : VName) (t : Ty) (la : BitVec 4),
    exec (x.1 d a t la) s = s.finish (s.vspecial x.2 d a t) := by
  intro x hx s d a t la
  simp only [Claim.specials, List.mem_cons, List.not_mem_nil, or_false] at hx
  rcases hx with rfl | rfl | rfl | rfl | rfl | rfl | rfl | rfl | rfl | rfl | rfl <;> rfl

/-- A float type that the special-function pipe takes, and its absent code (09 R240, 03 R71). -/
theorem quantTy_float {t : Ty} {f : Fmt} (h : t = .f16 ∧ f = Fmt.f16 ∨ t = .bf16 ∧ f = Fmt.bf16 ∨ t = .f32 ∧ f = Fmt.f32) :
    quantTy t = .ok f ∧ t.absent = some f.absent := by
  rcases h with ⟨rfl, rfl⟩ | ⟨rfl, rfl⟩ | ⟨rfl, rfl⟩ <;> exact ⟨rfl, rfl⟩

theorem quantTy_other : ∀ {t : Ty}, t ≠ .f16 → t ≠ .bf16 → t ≠ .f32 → quantTy t = ill
  | .f16, h, _, _ => absurd rfl h
  | .bf16, _, h, _ => absurd rfl h
  | .f32, _, _, h => absurd rfl h
  | .i8, _, _, _ | .i16, _, _, _ | .i32, _, _, _ | .i64, _, _, _ | .f64, _, _, _ => rfl

theorem unRun_eq {t : Ty} {c : Nat} (h : t.absent = some c) (f : Nat → Res) (y : Nat) :
    unRun t f y = if y = c then { bits := c, fl := { abs := true } } else f y := by
  have habs : t.isAbsent y = true ↔ y = c := by rw [Ty.isAbsent, h, decide_eq_true_iff, Option.some_inj, eq_comm]
  rw [unRun, if_congr habs rfl rfl, Ty.absentCode, h]
  rfl

theorem State.vspecial_ready {s : State} {d a : VName} {t : Ty} {f : Fmt} (fn : SFn) (hq : quantTy t = .ok f) (ha : t.absent = some f.absent)
    (h : Claim.ready s t.bits [a.toNat, d.toNat]) :
    s.vspecial fn d a t = .ok (s.putRes d.toNat t.bits (s.actives.map fun e => let y := s.opEl a.toNat t.bits e
      (e, if y = f.absent then { bits := f.absent, fl := { abs := true } } else fn.eval f y))) := by
  rw [State.vspecial, hq, ok_bind, ready_elementwise h rfl (by simp) (by simp)]
  simp only [unRun_eq ha]

end Sys2Proof.Machine

namespace Sys2Proof.Proofs
open Sys2Proof.Machine

/-- Settles O60: every meaning comes to `State.elementwise`, and a dot product to `dot4_eq`. -/
theorem elementArithmetic : Obligations.ElementArithmetic := by
  unfold Obligations.ElementArithmetic
  refine ⟨?_, ?_, ?_⟩
  · intro s d a b' b t p la rs hb w x put
    refine ⟨fun o ho h64 hf64 hint h => ?_, fun o ho hbad => ?_, fun h64 hf64 => ?_⟩
    · rw [exec_vop ho, vbin_ready hb h _ (Ty.admitted_of_ne h64 hf64 hint)]
      rfl
    · rw [exec_vop ho, vbin_illegal hb _ (Ty.admitted_eq_false hbad)]
      rfl
    · have ht := Ty.six_of_ne h64 hf64
      refine ⟨fun h => execVdiv_ready h ht p la, fun h => execVmac_ready hb h ht p, fun h => ⟨?_, ?_, ?_⟩⟩
      all_goals exact congrArg s.finish (vun_ready h ht _)
  · intro s d a b p rs hb hv h one
    have hdot := fun e => dot4_eq p (s.el a.toNat 32 e) (s.bEl b 32 e) (s.el d.toNat 32 e)
    have hact : s.actives = s.active := by rw [State.actives, hv]
    show execVdot4X d a b p s = _
    rw [execVdot4X, need_true _ _ _ (by rw [hv]; rfl), ok_bind, ready_elementwise (t := .i32) h rfl (by simp [(bRegs_needB hb).2]) (by simp),
      State.finish_ok, hact]
    simp only [hdot, one]
    rfl
  · intro s d a t
    refine ⟨fun h16 h32 => execVid_illegal a (by simp [h16, h32]), fun ht => ⟨fun hv h => execVid_control a ht hv h, fun v hv h => ?_⟩⟩
    exact execVid_vp ht hv h

/-- Settles O24: every special function is `State.vspecial`. -/
theorem specialFunctions : Obligations.SpecialFunctions := by
  unfold Obligations.SpecialFunctions
  intro x hx s d a t la
  rw [exec_special x hx]
  refine ⟨fun f hf h => ?_, fun h16 hb16 h32 => ?_⟩
  · obtain ⟨hq, ha⟩ := quantTy_float hf
    rw [State.vspecial_ready x.2 hq ha h]
    rfl
  · rw [State.vspecial, quantTy_other h16 hb16 h32]
    rfl

end Sys2Proof.Proofs
end

section
/-! PROOFS. Moves and fills (09 R251, R254, R255): what each answers on registers that are in order. -/

namespace Sys2Proof.Machine

theorem Ty.moves_of_ne {t : Ty} (h : t ≠ .i64) : t.moves = true := decide_eq_true h

section
variable {s : State} {d a : VName} {t : Ty}

theorem State.needIndex_ok (h : s.u.opB.toNat < s.u.vl.toNat) : s.needIndex = .ok ⟨⟩ := if_pos h

theorem State.needIndex_trap (h : s.u.vl.toNat ≤ s.u.opB.toNat) : s.needIndex = .error (.trap { cause := 0x0A, idx := s.u.opB }) :=
  if_neg (Nat.not_lt.mpr h)

theorem execVmov_ready (ht : t ≠ .i64) (hf : t = .f64 → s.vp = none) (h : Claim.ready s t.mwidth [a.toNat, d.toNat]) :
    execVmov d a t s = .next (s.setOpEls d.toNat t.mwidth (s.actives.map fun e => (e, s.opEl a.toNat t.mwidth e))) := by
  rw [execVmov, need_true _ _ _ ⟨Ty.moves_of_ne ht, fun h => by rw [hf h]; rfl⟩, ok_bind, ready_vcheck h (by simp) (by simp), ok_bind,
    (s.setOpEls_keepsBindings ..).consume (by simpa using ready_readable h List.mem_cons_self), State.finish_ok]

/-- `vsel` chooses by `vm`, and leaves no element of those it writes to the mask (09 R251). -/
theorem execVsel_ready {b : BOp} {rs : List Nat} (hb : Claim.bRegs s b rs) (ht : t ≠ .i64) (hf : t = .f64 → s.vp = none ∧ rs ≠ [])
    (hst : s.u.stageOk = true) (h : Claim.ready s t.mwidth (a.toNat :: d.toNat :: rs)) :
    execVsel d a b t s = .next (s.setOpEls d.toNat t.mwidth ((match s.vp with | some v => [v] | none => List.range s.u.vl.toNat).map fun e =>
      (e, if s.g.vm.getLsbD e then s.opEl a.toNat t.mwidth e else s.bEl b t.mwidth e))) := by
  obtain ⟨hB, hr⟩ := bRegs_needB hb
  have hadm : t.moves = true ∧ (t = .f64 → s.vp.isNone = true ∧ bReg b ≠ []) :=
    ⟨Ty.moves_of_ne ht, fun h => by obtain ⟨hv, hne⟩ := hf h; rw [hv, hr]; exact ⟨rfl, hne⟩⟩
  have hread : ∀ r ∈ a.toNat :: rs, s.readable r := fun r hm => ready_readable h (by simp at hm ⊢; tauto)
  have hsrcs : ∀ es : List Nat, s.needSrcs (⟨a.toNat, t.mwidth, 0, some (es.filter fun e => s.g.vm.getLsbD e)⟩ ::
      srcsOf t.mwidth rs (some (es.filter fun e => !s.g.vm.getLsbD e))) = .ok ⟨⟩ := by
    refine fun es => State.needSrcs_readable fun x hx => ?_
    rcases List.mem_cons.mp hx with rfl | hx
    · exact hread _ List.mem_cons_self
    · obtain ⟨r, hm, rfl⟩ := List.mem_map.mp hx
      exact hread r (List.mem_cons_of_mem _ hm)
  rw [execVsel, hB, ok_bind, need_true _ _ _ hadm, ok_bind, hr]
  dsimp only
  rw [ready_vlegal h (by simp) (by simp), ok_bind, hsrcs, ok_bind, (s.setOpEls_keepsBindings ..).consume hread, hst]
  cases s.vp <;> rfl

section
variable (hv : s.vp = none)
include hv

theorem execVbcast_ready (c : CReg) (ht : t ≠ .i64) (h : Claim.ready s t.mwidth [a.toNat, d.toNat]) :
    execVbcast d a c t s = s.finish (do
      s.needIndex
      .ok (s.setEls d.toNat t.mwidth (s.active.map fun e => (e, s.el a.toNat t.mwidth s.u.opB.toNat)))) := by
  rw [execVbcast, need_true _ _ _ ⟨Ty.moves_of_ne ht, by rw [hv]; rfl⟩, ok_bind, ready_vlegal h (by simp) (by simp), ok_bind,
    State.needSrc_readable (ready_readable h List.mem_cons_self)]
  simp only [ok_bind]
  rw [(s.setEls_keepsBindings ..).consume (by simpa using ready_readable h List.mem_cons_self)]

variable (h64 : t ≠ .i64) (hf64 : t ≠ .f64)
include h64 hf64

theorem Ty.six_control : t.six = true ∧ s.vp.isNone = true := ⟨Ty.six_of_ne h64 hf64, by rw [hv]; rfl⟩

theorem execVext_ready (k c : CReg) (h : Claim.ready s t.bits [a.toNat]) : execVext k a c t s = s.finish (do
      s.needIndex
      .ok (s.setC k (t.toC (s.el a.toNat t.bits s.u.opB.toNat)))) := by
  rw [execVext, need_true _ _ _ (Ty.six_control hv h64 hf64), ok_bind, ready_vlegal h (by simp) (by simp), ok_bind,
    State.needSrc_readable (ready_readable h List.mem_cons_self)]
  simp only [ok_bind]
  rw [(s.setC_keepsBindings ..).consume (by simpa using ready_readable h List.mem_cons_self)]

variable (h : Claim.ready s t.bits [d.toNat])
include h

theorem execVmovScalar_ready (c : CReg) : execVmovScalar d c t s = .next (s.setEls d.toNat t.bits (s.active.map fun e => (e, s.u.opB.toNat))) := by
  rw [execVmovScalar, need_true _ _ _ (Ty.six_control hv h64 hf64), ok_bind, ready_vcheck h (by simp) (by simp), ok_bind, State.finish_ok]

/-- A fill writes the elements that are not active, each with the absent code (09 R255). -/
theorem execVfill_ready : execVfill d t s = .next (s.setEls d.toNat t.bits
    (((List.range (s.g.grant / t.bits)).filter fun e => !s.eff e).map fun e => (e, t.absentCode))) := by
  rw [execVfill, need_true _ _ _ (Ty.six_control hv h64 hf64), ok_bind, ready_vcheck h (by simp) (by simp), ok_bind, State.finish_ok]
  rfl

theorem execVfillScalar_ready (c : CReg) : execVfillScalar d c t s = .next (s.setEls d.toNat t.bits
    (((List.range (s.g.grant / t.bits)).filter fun e => !s.eff e).map fun e => (e, s.u.opB.toNat))) := by
  rw [execVfillScalar, need_true _ _ _ (Ty.six_control hv h64 hf64), ok_bind, ready_vcheck h (by simp) (by simp), ok_bind, State.finish_ok]
  rfl

end

theorem execVsetabs_ready (ht : t.six = true) (h : Claim.ready s t.bits [d.toNat]) :
    execVsetabs d t s = .next (s.setOpEls d.toNat t.bits (s.actives.map fun e => (e, t.absentCode))) := by
  rw [execVsetabs, need_true _ _ _ ht, ok_bind, ready_vcheck h (by simp) (by simp), ok_bind, State.finish_ok]

end

end Sys2Proof.Machine

namespace Sys2Proof.Proofs
open Sys2Proof.Machine

/-- Settles O21: each move is the equation of its own lemma; the index of `vbcast` and `vext` passes its check or takes the trap. -/
theorem vectorMoves : Obligations.VectorMoves := by
  unfold Obligations.VectorMoves
  intro s d a c b t rs hb w x
  refine ⟨fun h64 hf => ⟨execVmov_ready h64 hf, fun h hne hst => ?_, fun hv h => ?_⟩, fun h64 hf64 => ?_⟩
  · exact execVsel_ready hb h64 (fun h => ⟨hf h, hne h⟩) hst h
  · refine ⟨fun hi => (execVbcast_ready hv c h64 h).trans ?_, fun hi => (execVbcast_ready hv c h64 h).trans ?_⟩
    · rw [State.needIndex_ok hi]
      rfl
    · rw [State.needIndex_trap hi]
      rfl
  · have hw : w = t.bits := if_neg hf64
    dsimp only [x]
    rw [hw]
    refine ⟨execVsetabs_ready (Ty.six_of_ne h64 hf64), fun hv h => ⟨execVmovScalar_ready hv h64 hf64 h c, execVfill_ready hv h64 hf64 h,
      execVfillScalar_ready hv h64 hf64 h c⟩, fun k hv h => ⟨fun hi => ⟨_, ?_, s.setC_wroteC k _⟩, fun hi => ?_⟩⟩
    · refine (execVext_ready hv h64 hf64 k c h).trans ?_
      rw [State.needIndex_ok hi]
      rfl
    · refine (execVext_ready hv h64 hf64 k c h).trans ?_
      rw [State.needIndex_trap hi]
      rfl

end Sys2Proof.Proofs
end

section
/-! PROOFS. Permutes and slides (09 R263, R264), and runs of registers that are in order (09 R241). -/

namespace Sys2Proof.Machine

/-! Runs. -/

section
variable {s : State} {r w n : Nat} (h : Claim.run s r w n)
include h

theorem run_needReg : s.needReg r = .ok ⟨⟩ := State.needReg_ok h.1

theorem run_needRun : s.needRun r w n = .ok ⟨⟩ := need_true _ _ _ ⟨h.2.1, h.2.2.1⟩

theorem run_readable {x : Nat} (hx : x ∈ runNames r (s.runRegs w n)) : s.readable x := by
  obtain ⟨i, hi, rfl⟩ := List.mem_map.mp hx
  exact h.2.2.2 i (List.mem_range.mp hi)

theorem run_srcs_readable (which : Option (List Nat)) {x : Src} (hx : x ∈ s.runSrcs r (s.runRegs w n) w which) : s.readable x.reg := by
  obtain ⟨i, hi, rfl⟩ := List.mem_mapIdx.mp hx
  exact run_readable h (List.getElem_mem hi)

theorem run_needRunSrc (which : Option (List Nat)) : s.needRunSrc r (s.runRegs w n) w which = .ok ⟨⟩ :=
  State.needSrcs_readable fun _ hx => run_srcs_readable h which hx

theorem run_needRunFree : s.needRunFree r (s.runRegs w n) = .ok ⟨⟩ := by
  refine allM_ok fun m hm => ?_
  obtain ⟨x, hx, rfl⟩ := List.mem_map.mp hm
  exact State.needUnbound_readable (run_readable h hx)

end

/-! Permutes and slides. -/

section
variable {s : State} {d a : VName} {t : Ty} {f : Bool}

/-- The checks of permutes and slides pass, whatever elements are read. -/
theorem State.permCheck_ready (hv : s.vp = none) (ht : t ≠ .i64) (hf : f = true → t = .f64) (hda : d ≠ a)
    (h : Claim.ready s t.mwidth [a.toNat, d.toNat]) {which : Option (List Nat)} : s.permCheck t f d [a.toNat] which = .ok ⟨⟩ := by
  have hne : d.toNat ∉ [a.toNat] := by simpa [BitVec.toNat_inj] using hda
  rw [State.permCheck, need_true _ _ _ ⟨by rw [hv]; rfl, ht, hf⟩, ok_bind, ready_regs h (by simp), ok_bind, need_true _ _ _ hne, ok_bind,
    ready_vcheck h (by simp) (by simp)]

theorem State.permCheck_illegal (hbad : t = .i64 ∨ f = true ∧ t ≠ .f64 ∨ d = a) (which : Option (List Nat)) :
    s.permCheck t f d [a.toNat] which = ill := by
  rw [State.permCheck]
  rcases need_or_ill (s.vp.isNone = true ∧ t ≠ .i64 ∧ (f = true → t = .f64)) with h | h
  · rw [h, ok_bind]
    rcases allM_needReg_or_ill s (d.toNat :: [a.toNat]) with hreg | hreg
    · have hda : d = a := by
        by_contra hne
        obtain rfl | ⟨hf, ht⟩ : t = .i64 ∨ f = true ∧ t ≠ .f64 := by tauto
        all_goals
          rw [need_false _ _ _ (by tauto)] at h
          cases h
      rw [hreg, ok_bind, need_false _ _ _ (by simp [hda])]
      rfl
    · rw [hreg, ill_bind]
  · rw [h, ill_bind]

theorem permutes_illegal {b : VName} {c : CReg} (hbad : t = .i64 ∨ f = true ∧ t ≠ .f64 ∨ d = a) :
    ∀ i ∈ [Instr.vcompress d a t f, .vexpand d a t f, .vperm d a b t f, .vslideup d a c t f, .vslidedn d a c t f],
      exec i s = .next (s.raiseTrap { cause := 0x01 }) := by
  intro i hi
  have hill := fun which => State.permCheck_illegal (s := s) hbad which
  simp only [List.mem_cons, List.not_mem_nil, or_false] at hi
  rcases hi with rfl | rfl | rfl | rfl | rfl
  · show execVcompress d a t f s = _
    rw [execVcompress, hill, ill_bind, State.finish_ill]
  · show execVexpand d a t f s = _
    rw [execVexpand, hill, ill_bind, State.finish_ill]
  · show execVperm d a b t f s = _
    rw [execVperm, hill, ill_bind, State.finish_ill]
  · show execVslideup d a c t f s = _
    rw [execVslideup]
    dsimp only
    rw [hill, ill_bind, State.finish_ill]
  · show execVslidedn d a c t f s = _
    rw [execVslidedn]
    dsimp only
    rw [hill, ill_bind, State.finish_ill]

/-- The element that an index names: none where the index is absent or out of range (09 R263). -/
def State.permEl (s : State) (a b : VName) (w no : Nat) (e : Nat) : Nat :=
  let i := s.runEl b.toNat 32 e
  if i = 2 ^ 31 then no else if 0 ≤ sextNat 32 i ∧ sextNat 32 i < (s.g.grant / w : Nat) then s.el a.toNat w (sextNat 32 i).toNat else no

theorem State.permEl_eq (s : State) (a b : VName) (t : Ty) (f : Bool) (e : Nat) : (let x := s.runEl b.toNat 32 e
    let i := sextNat 32 x
    if Ty.i32.isAbsent x then (e, absentOf t f, true)
    else if i < 0 ∨ i ≥ s.vlmax t.mwidth then (e, absentOf t f, false) else (e, s.el a.toNat t.mwidth i.toNat, false)) =
    (e, s.permEl a b t.mwidth (absentOf t f) e, decide (s.runEl b.toNat 32 e = 2 ^ 31)) := by
  dsimp only [State.permEl]
  by_cases hx : s.runEl b.toNat 32 e = 2 ^ 31
  · rw [isAbsent_i32, if_pos (decide_eq_true hx), if_pos hx, decide_eq_true hx]
  · rw [isAbsent_i32, if_neg (by simpa using hx), if_neg hx, decide_eq_false hx]
    by_cases hr : 0 ≤ sextNat 32 (s.runEl b.toNat 32 e) ∧ sextNat 32 (s.runEl b.toNat 32 e) < (s.vlmax t.mwidth : Nat)
    · rw [if_neg (by omega)]
      exact congrArg (fun x => (e, x, false)) (if_pos hr).symm
    · rw [if_pos (by omega)]
      exact congrArg (fun x => (e, x, false)) (if_neg hr).symm

section
variable (hv : s.vp = none) (ht : t ≠ .i64) (hf : f = true → t = .f64) (hda : d ≠ a) (h : Claim.ready s t.mwidth [a.toNat, d.toNat])
include hv ht hf hda h

theorem execVcompress_ready : execVcompress d a t f s = .next (s.setEls d.toNat t.mwidth ((List.range s.u.vl.toNat).map fun e =>
    (e, (s.active.map fun e => s.el a.toNat t.mwidth e).getD e (absentOf t f)))) := by
  rw [execVcompress, State.permCheck_ready hv ht hf hda h, ok_bind]
  dsimp only
  rw [(s.setEls_keepsBindings ..).consume (by simpa using ready_readable h List.mem_cons_self), State.finish_ok]

theorem execVexpand_ready :
    execVexpand d a t f s = .next (s.setEls d.toNat t.mwidth (s.active.mapIdx fun j e => (e, s.el a.toNat t.mwidth j))) := by
  rw [execVexpand, State.permCheck_ready hv ht hf hda h, ok_bind]
  dsimp only
  rw [(s.setEls_keepsBindings ..).consume (by simpa using ready_readable h List.mem_cons_self), State.finish_ok]

theorem execVslideup_ready (c : CReg) : execVslideup d a c t f s = .next (s.setEls d.toNat t.mwidth
    ((s.active.filter fun e => decide (s.u.opB.toNat ≤ e)).map fun e => (e, s.el a.toNat t.mwidth (e - s.u.opB.toNat)))) := by
  rw [execVslideup]
  dsimp only
  rw [State.permCheck_ready hv ht hf hda h, ok_bind,
    (s.setEls_keepsBindings ..).consume (by simpa using ready_readable h List.mem_cons_self), State.finish_ok]

theorem execVslidedn_ready (c : CReg) : execVslidedn d a c t f s = .next (s.setEls d.toNat t.mwidth (s.active.map fun e =>
    (e, if e + s.u.opB.toNat < s.u.vl.toNat then s.el a.toNat t.mwidth (e + s.u.opB.toNat) else absentOf t f))) := by
  rw [execVslidedn]
  dsimp only
  rw [State.permCheck_ready hv ht hf hda h, ok_bind,
    (s.setEls_keepsBindings ..).consume (by simpa using ready_readable h List.mem_cons_self), State.finish_ok]

theorem execVperm_ready {b : VName} (hrun : Claim.run s b.toNat 32 s.u.vl.toNat)
    (hapart : Claim.apart b.toNat (Claim.runLen s 32 s.u.vl.toNat) d.toNat 1) :
    execVperm d a b t f s = .next ((s.setEls d.toNat t.mwidth (s.active.map fun e => (e, s.permEl a b t.mwidth (absentOf t f) e))).raise
      { abs := s.active.any fun e => decide (s.runEl b.toNat 32 e = 2 ^ 31) }) := by
  have hmeet : ¬ (b.toNat ≤ d.toNat ∧ d.toNat < b.toNat + s.runRegs 32 s.u.vl.toNat) := by
    have : b.toNat + s.runRegs 32 s.u.vl.toNat ≤ d.toNat ∨ d.toNat + 1 ≤ b.toNat := hapart
    omega
  have hread : ∀ x ∈ a.toNat :: runNames b.toNat (s.runRegs 32 s.u.vl.toNat), s.readable x := by
    intro x hx
    rcases List.mem_cons.mp hx with rfl | hx
    · exact ready_readable h List.mem_cons_self
    · exact run_readable hrun hx
  have hsrcs : ∀ x ∈ (⟨a.toNat, t.mwidth, 0, some []⟩ :: s.runSrcs b.toNat (s.runRegs 32 s.u.vl.toNat) 32 : List Src), s.readable x.reg := by
    intro x hx
    rcases List.mem_cons.mp hx with rfl | hx
    · exact ready_readable h List.mem_cons_self
    · exact run_srcs_readable hrun none hx
  have hpoison : ∀ l, s.poisonFault ⟨a.toNat, t.mwidth, 0, some l⟩ = none := fun l =>
    State.poisonFault_eq_none (ready_readable h List.mem_cons_self).2
  rw [execVperm, State.permCheck_ready hv ht hf hda h, ok_bind]
  dsimp only
  rw [run_needReg hrun, ok_bind, run_needRun hrun, ok_bind, need_true _ _ _ hmeet, ok_bind, State.srcHit_readable hsrcs, ok_bind, hpoison]
  simp only [State.permEl_eq, List.map_map, List.any_map]
  dsimp only [Option.or, raiseHit]
  rw [ok_bind, ((s.setEls_keepsBindings ..).trans (State.raise_keepsBindings ..)).consume hread]
  rfl

end
end

end Sys2Proof.Machine

namespace Sys2Proof.Proofs
open Sys2Proof.Machine

/-- Settles O27: each permute and slide is the equation of its own lemma. -/
theorem permutesAndSlides : Obligations.PermutesAndSlides := by
  unfold Obligations.PermutesAndSlides
  refine ⟨fun s d a b c t f _ hbad => permutes_illegal hbad, ?_⟩
  intro s d a b c t f hv ht hf hda w x no vl h
  exact ⟨execVcompress_ready hv ht hf hda h, execVexpand_ready hv ht hf hda h, execVslideup_ready hv ht hf hda h c,
    execVslidedn_ready hv ht hf hda h c, fun hrun hapart => execVperm_ready hv ht hf hda h hrun hapart⟩

end Sys2Proof.Proofs
end

section
/-! PROOFS. Bits of the masks, and the instructions that write `vm` as data: comparisons, `vabsent` and `vomov` (09 R249, R250, R252). -/

namespace Sys2Proof.Machine

/-! Bits of the masks. -/

theorem getLsbD_one_shiftLeft {w k e : Nat} (he : e < w) : (1#w <<< k).getLsbD e = decide (e = k) := by
  rw [← BitVec.twoPow_eq, BitVec.getLsbD_twoPow, Bool.eq_iff_iff]
  simp only [Bool.and_eq_true, decide_eq_true_eq]
  omega

theorem getLsbD_setBits {w e : Nat} (he : e < w) (m : BitVec w) (l : List Nat) :
    (setBits w m l).getLsbD e = (m.getLsbD e || decide (e ∈ l)) := by
  induction l generalizing m with
  | nil => simp [setBits]
  | cons x l ih =>
    have hx : setBits w m (x :: l) = setBits w (m ||| (1#w <<< x)) l := rfl
    rw [hx, ih, BitVec.getLsbD_or, getLsbD_one_shiftLeft he, Bool.or_assoc, ← Bool.decide_or]
    simp only [List.mem_cons]

theorem getLsbD_clearBits {w e : Nat} (he : e < w) (m : BitVec w) (l : List Nat) :
    (clearBits w m l).getLsbD e = (m.getLsbD e && !decide (e ∈ l)) := by
  induction l generalizing m with
  | nil => simp [clearBits]
  | cons x l ih =>
    have hx : clearBits w m (x :: l) = clearBits w (m &&& ~~~(1#w <<< x)) l := rfl
    rw [hx, ih, BitVec.getLsbD_and, BitVec.getLsbD_not, getLsbD_one_shiftLeft he, decide_eq_true he, Bool.true_and, Bool.and_assoc,
      ← Bool.not_or, ← Bool.decide_or]
    simp only [List.mem_cons]

theorem getLsbD_putBit {w e : Nat} (he : e < w) (m : BitVec w) (x : Nat) (b : Bool) :
    (if b then m ||| (1#w <<< x) else m &&& ~~~(1#w <<< x)).getLsbD e = if e = x then b else m.getLsbD e := by
  cases b with
  | true =>
    rw [if_pos rfl, BitVec.getLsbD_or, getLsbD_one_shiftLeft he]
    split <;> simp [*]
  | false =>
    rw [if_neg Bool.false_ne_true, BitVec.getLsbD_and, BitVec.getLsbD_not, getLsbD_one_shiftLeft he]
    split <;> simp [*]

/-- A write of `vm` at some elements gives each its bit and leaves the others. -/
theorem State.getLsbD_writeVm (s : State) {es : List Nat} (f : Nat → Bool) (hes : ∀ e ∈ es, e < 2048) (e : Nat) :
    (s.writeVm (es.map fun e => (e, f e))).g.vm.getLsbD e = if e ∈ es then f e else s.g.vm.getLsbD e := by
  rcases Nat.lt_or_ge e 2048 with he | he
  · show ((es.map fun e => (e, f e)).foldl (fun m eb => if eb.2 then m ||| (1#2048 <<< eb.1) else m &&& ~~~(1#2048 <<< eb.1)) s.g.vm).getLsbD e = _
    rw [List.foldl_map]
    generalize s.g.vm = m
    clear hes
    induction es generalizing m with
    | nil => rfl
    | cons x es ih =>
      rw [List.foldl_cons, ih, getLsbD_putBit he]
      by_cases hx : e = x <;> simp [hx]
  · rw [BitVec.getLsbD_of_ge _ _ he, if_neg fun hm => absurd (hes e hm) (Nat.not_lt.mpr he), BitVec.getLsbD_of_ge _ _ he]

theorem State.writeVm_frame (s : State) (l : List (Nat × Bool)) : let q := s.writeVm l
    q = { s with g := { s.g with vm := q.g.vm }, trace := q.trace } := by
  unfold State.writeVm State.noteMask
  dsimp only
  rw [State.noteWrite_frame]

theorem State.writeVm_keepsBindings (s : State) (l : List (Nat × Bool)) : s.KeepsBindings (s.writeVm l) := by
  rw [State.writeVm_frame]
  exact ⟨rfl, rfl, rfl⟩

/-! Comparisons. -/

theorem exec_vcmp : ∀ o ∈ Claim.vcmps, ∀ (s : State) (a : VName) (b : BOp) (t : Ty),
    exec (o.1 a b t) s = s.finish (s.vcmp o.2.1 ((if o.2.2 then Ty.shiftable else Ty.six) t) a b t) := by
  intro o ho s a b t
  simp only [Claim.vcmps, List.mem_cons, List.not_mem_nil, or_false] at ho
  rcases ho with rfl | rfl | rfl | rfl | rfl | rfl <;> rfl

section
variable {s : State} {a : VName} {b : BOp} {t : Ty} {rs : List Nat}

/-- Whether an element of either operand is absent. -/
def State.pairAbsent (s : State) (a : VName) (b : BOp) (t : Ty) (e : Nat) : Bool :=
  t.isAbsent (s.opEl a.toNat t.bits e) || t.isAbsent (s.bEl b t.bits e)

/-- The truth of a comparison at an element, and its flags: false with ABS where an operand is absent (03 R83, R84). -/
def State.cmpEl (s : State) (o : Cond) (a : VName) (b : BOp) (t : Ty) (e : Nat) : Bool × Sticky :=
  if s.pairAbsent a b t e then (false, { abs := true }) else o.eval t (s.opEl a.toNat t.bits e) (s.bEl b t.bits e)

theorem State.cmpEl_fst (s : State) (o : Cond) (a : VName) (b : BOp) (t : Ty) (e : Nat) : (s.cmpEl o a b t e).1 =
    (!s.pairAbsent a b t e && (o.eval t (s.opEl a.toNat t.bits e) (s.bEl b t.bits e)).1) := by
  rw [State.cmpEl]
  cases s.pairAbsent a b t e <;> rfl

theorem State.cmpEl_snd (s : State) (o : Cond) (a : VName) (b : BOp) (t : Ty) (e : Nat) : (s.cmpEl o a b t e).2 =
    if s.pairAbsent a b t e then { abs := true } else (o.eval t (s.opEl a.toNat t.bits e) (s.bEl b t.bits e)).2 :=
  apply_ite Prod.snd ..

theorem State.vcmp_ready (hb : Claim.bRegs s b rs) (h : Claim.ready s t.bits (a.toNat :: rs)) (o : Cond) {adm : Bool} (ha : adm = true) :
    s.vcmp o adm a b t = .ok ((s.writeVm (s.dataActives.map fun e => (e, (s.cmpEl o a b t e).1))).raise
      (s.dataActives.foldl (fun f e => f.or (s.cmpEl o a b t e).2) {})) := by
  obtain ⟨hB, hr⟩ := bRegs_needB hb
  have hel : ∀ e, (if t.isAbsent (s.opEl a.toNat t.bits e) || t.isAbsent (s.bEl b t.bits e) then (e, false, ({ abs := true } : Sticky))
      else let r := o.eval t (s.opEl a.toNat t.bits e) (s.bEl b t.bits e); (e, r.1, r.2)) = (e, s.cmpEl o a b t e) := by
    intro e
    rw [State.cmpEl, State.pairAbsent]
    split <;> rfl
  rw [State.vcmp, hB, ok_bind, need_true _ _ _ ha, ok_bind, hr]
  dsimp only
  rw [ready_vcheck h (List.Subset.refl _) (List.nil_subset _), ok_bind]
  simp only [hel, List.map_map, List.foldl_map]
  rw [((s.writeVm_keepsBindings _).trans (State.raise_keepsBindings ..)).consume fun r hm => ready_readable h hm]
  rfl

theorem execVabsent_ready (ht : t.six = true) (h : Claim.ready s t.bits [a.toNat]) :
    execVabsent a t s = .next ((s.writeVm (s.dataActives.map fun e => (e, t.isAbsent (s.opEl a.toNat t.bits e)))).raise
      { abs := s.dataActives.any fun e => t.isAbsent (s.opEl a.toNat t.bits e) }) := by
  rw [execVabsent, need_true _ _ _ ht, ok_bind, ready_vcheck h (List.Subset.refl _) (List.nil_subset _), ok_bind]
  dsimp only
  rw [((s.writeVm_keepsBindings _).trans (State.raise_keepsBindings ..)).consume fun r hm => ready_readable h hm, List.any_map]
  rfl

end

/-- `vm` written and flags raised: what changes, and nothing else does. -/
theorem State.raise_writeVm_frame (s : State) (l : List (Nat × Bool)) (f : Sticky) : let u := (s.writeVm l).raise f
    u = { s with g := { s.g with vm := u.g.vm, sticky := u.g.sticky }, trace := u.trace } := by
  have hframe := s.writeVm_frame l
  generalize s.writeVm l = q at hframe ⊢
  dsimp only [State.raise]
  rw [hframe]

theorem State.raise_writeVm_sticky (s : State) (l : List (Nat × Bool)) (f : Sticky) : ((s.writeVm l).raise f).g.sticky = s.g.sticky.or f := by
  rw [State.raise_sticky, State.writeVm_frame]

/-- What `vomov` answers (09 R252). -/
def State.moveVo (s : State) : State :=
  let es := s.dataActives
  let q := s.writeVm (es.map fun e => (e, s.g.vo.getLsbD e))
  { q.noteMask shadeVo es with g := { q.g with vo := clearBits 2048 q.g.vo es } }

theorem execVomov_eq (s : State) : execVomov s = .next s.moveVo := rfl

theorem State.moveVo_spec (s : State) (hact : ∀ e ∈ s.dataActives, e < 2048) : let u := s.moveVo
    u = { s with g := { s.g with vm := u.g.vm, vo := u.g.vo }, trace := u.trace } ∧
    (∀ e, u.g.vm.getLsbD e = if e ∈ s.dataActives then s.g.vo.getLsbD e else s.g.vm.getLsbD e) ∧
    ∀ e, u.g.vo.getLsbD e = (s.g.vo.getLsbD e && !decide (e ∈ s.dataActives)) := by
  have hframe := s.writeVm_frame (s.dataActives.map fun e => (e, s.g.vo.getLsbD e))
  refine ⟨?_, s.getLsbD_writeVm _ hact, fun e => ?_⟩
  · unfold State.moveVo State.noteMask
    dsimp only at hframe ⊢
    rw [State.noteWrite_frame]
    generalize s.writeVm (s.dataActives.map fun e => (e, s.g.vo.getLsbD e)) = q at hframe ⊢
    rw [hframe]
  · have hvo : s.moveVo.g.vo = clearBits 2048 s.g.vo s.dataActives := by
      unfold State.moveVo
      dsimp only
      rw [hframe]
    rcases Nat.lt_or_ge e 2048 with he | he
    · rw [hvo, getLsbD_clearBits he]
    · rw [BitVec.getLsbD_of_ge _ _ he, BitVec.getLsbD_of_ge _ _ he, Bool.false_and]

end Sys2Proof.Machine

namespace Sys2Proof.Proofs
open Sys2Proof.Machine

/-- Settles O20: each instruction is a write of `vm` at the elements it acts on. -/
theorem vectorComparisons : Obligations.VectorComparisons := by
  unfold Obligations.VectorComparisons
  intro s a b t rs hb hact w x no
  refine ⟨fun o ho h64 hf64 hint h => ?_, fun h64 hf64 h => ?_, ?_⟩
  · refine ⟨_, (exec_vcmp o ho ..).trans (congrArg s.finish (State.vcmp_ready hb h o.2.1 (Ty.admitted_of_ne h64 hf64 hint))),
      State.raise_writeVm_frame .., fun e => ?_, ?_⟩
    · refine (State.getLsbD_writeVm s _ hact e).trans (ite_congr rfl (fun _ => ?_) fun _ => rfl)
      exact s.cmpEl_fst ..
    · refine (State.raise_writeVm_sticky ..).trans ?_
      simp only [s.cmpEl_snd]
      rfl
  · exact ⟨_, execVabsent_ready (Ty.six_of_ne h64 hf64) h, State.raise_writeVm_frame .., fun e => State.getLsbD_writeVm s _ hact e,
      State.raise_writeVm_sticky ..⟩
  · obtain ⟨hframe, hvm, hvo⟩ := s.moveVo_spec hact
    exact ⟨_, rfl, hframe, fun e => ⟨hvm e, hvo e⟩⟩

end Sys2Proof.Proofs
end

section
/-! PROOFS. Software-pipelined loops (09 R266, R267): their start, and the ways round and out. -/

namespace Sys2Proof.Machine

/-- A loop of no iteration is jumped over, and another starts at the next word (09 R266). -/
theorem execSpl_legal {s : State} {a : CReg} {st : BitVec 2} (l : BitVec 7) (hl : s.g.loop = false)
    (hn : (s.c a).toNat ≤ 2 ^ 32 - (st.toNat + 1)) :
    execSpl a st l s = .next (if s.c a = 0 then { s with g := { s.g with pc := s.u.ipc + 4 + BitVec.ofNat 64 (4 * (l.toNat + 1)) } }
      else { s with g := { s.g with
        splc := BitVec.ofNat 32 ((s.c a).toNat + st.toNat), spr := 1, loop := true, kfirst := s.u.ipc + 4,
        klast := s.u.ipc + 4 + BitVec.ofNat 64 (4 * (l.toNat + 1)) - 4, nst := BitVec.ofNat 3 (st.toNat + 1), pc := s.u.ipc + 4 } }) := by
  have h0 : (s.c a).toNat = 0 ↔ s.c a = 0 := BitVec.toNat_eq (y := 0#64).symm
  rw [execSpl]
  dsimp only
  rw [need_true _ _ _ ⟨hl, hn⟩, ok_bind, if_congr h0 rfl rfl]
  split <;> rfl

theorem execSpl_illegal {s : State} {a : CReg} {st : BitVec 2} (l : BitVec 7) (h : s.g.loop = true ∨ 2 ^ 32 - (st.toNat + 1) < (s.c a).toNat) :
    execSpl a st l s = .next (s.raiseTrap { cause := 0x01 }) := by
  have hbad : ¬ (s.g.loop = false ∧ (s.c a).toNat ≤ 2 ^ 32 - (st.toNat + 1)) := by
    rintro ⟨hl, hn⟩
    rcases h with h | h
    · rw [hl] at h
      cases h
    · omega
  rw [execSpl]
  dsimp only
  rw [need_false _ _ _ hbad]
  rfl

/-- The rotation after the end of an iteration: one lower, modulo the names that rotate (02 R57, 09 R267). -/
def Group.rotated (g : Group) : BitVec 5 :=
  if 0 < g.budget - 32 then BitVec.ofNat 5 ((g.rot.toNat + (g.budget - 32) - 1) % (g.budget - 32)) else g.rot

theorem Group.rotated_toNat {g : Group} (h : 32 < g.budget) (h64 : g.budget ≤ 64) :
    g.rotated.toNat = (g.rot.toNat + (g.budget - 33)) % (g.budget - 32) := by
  have hlt : (g.rot.toNat + (g.budget - 33)) % (g.budget - 32) < g.budget - 32 := Nat.mod_lt _ (by omega)
  rw [Group.rotated, if_pos (by omega), BitVec.toNat_ofNat, show g.rot.toNat + (g.budget - 32) - 1 = g.rot.toNat + (g.budget - 33) by omega,
    Nat.mod_eq_of_lt (by omega)]

/-- The stage predicate for the next iteration: one stage on, with the first stage on while iterations are left to start (09 R267). -/
def Group.nextStages (g : Group) : BitVec 4 :=
  ((g.spr <<< 1) ||| (if (g.splc - 1).toNat ≥ g.nst.toNat then 1 else 0)) &&& BitVec.ofNat 4 (2 ^ g.nst.toNat - 1)

theorem Group.nextStages_getLsbD {g : Group} (h : 1 < g.splc.toNat) {i : Nat} (hi : i < 4) : g.nextStages.getLsbD i =
    (decide (i < g.nst.toNat) && if i = 0 then decide (g.nst.toNat ≤ g.splc.toNat - 1) else g.spr.getLsbD (i - 1)) := by
  have hc : (g.splc - 1).toNat = g.splc.toNat - 1 := by
    rw [BitVec.toNat_sub_of_le (by rw [BitVec.le_def]; exact h.le)]
    rfl
  have hmask : (BitVec.ofNat 4 (2 ^ g.nst.toNat - 1)).getLsbD i = decide (i < g.nst.toNat) := by
    rw [BitVec.getLsbD_ofNat, decide_eq_true hi, Bool.true_and, Nat.testBit_two_pow_sub_one]
  rw [Group.nextStages, hc, BitVec.getLsbD_and, hmask, BitVec.getLsbD_or, BitVec.getLsbD_shiftLeft, decide_eq_true hi, Bool.true_and, Bool.and_comm]
  congr 1
  rcases i with _ | i
  · by_cases hn : g.nst.toNat ≤ g.splc.toNat - 1 <;> simp [hn]
  · split <;> simp

section
variable {s : State} {off : BitVec 13}

/-- `splb` at the last word of the running loop goes back to its first, or ends it (09 R267). -/
theorem execSplb_legal (h : s.g.loop = true ∧ s.u.ipc = s.g.klast ∧ s.u.ipc + BitVec.ofInt 64 (4 * off.toInt) = s.g.kfirst) :
    execSplb off s = .next (if s.g.splc.toNat ≤ 1 then
        { s with g := { s.g with rot := s.g.rotated, splc := 0, spr := 0, loop := false, pc := s.u.ipc + 4 } }
      else { s with g := { s.g with rot := s.g.rotated, splc := s.g.splc - 1, pc := s.g.kfirst, spr := s.g.nextStages } }) := by
  rw [execSplb, State.target_eq, need_true _ _ _ h, ok_bind]
  dsimp only
  split <;> rfl

theorem execSplb_illegal (h : ¬ (s.g.loop = true ∧ s.u.ipc = s.g.klast ∧ s.u.ipc + BitVec.ofInt 64 (4 * off.toInt) = s.g.kfirst)) :
    execSplb off s = .next (s.raiseTrap { cause := 0x01 }) := by
  rw [execSplb, State.target_eq, need_false _ _ _ h]
  rfl

end

end Sys2Proof.Machine

namespace Sys2Proof.Proofs
open Sys2Proof.Machine

/-- Settles O9: `spl` and `splb` are the equations of their lemmas, with `Group.rotated` and `Group.nextStages` read out. -/
theorem pipelinedLoops : Obligations.PipelinedLoops := by
  unfold Obligations.PipelinedLoops
  intro s a st l off
  refine ⟨execSpl_legal l, execSpl_illegal l, fun hl hlast hfirst => ⟨_, execSplb_legal ⟨hl, hlast, hfirst⟩, ?_⟩, execSplb_illegal⟩
  have hle : s.g.budget ≤ 32 → s.g.rotated = s.g.rot := fun h => if_neg (by omega)
  split
  · next hc => exact ⟨rfl, hle, Group.rotated_toNat, fun _ => ⟨rfl, rfl, rfl, rfl⟩, fun h => absurd hc (Nat.not_le.mpr h)⟩
  · next hc =>
    refine ⟨?_, hle, Group.rotated_toNat, fun h => absurd h hc, fun h => ⟨rfl, hl, rfl, fun i hi => Group.nextStages_getLsbD h hi⟩⟩
    rfl

end Sys2Proof.Proofs
end

section
/-! PROOFS. Moves of whole masks (09 R253). -/

namespace Sys2Proof.Machine

/-- A bit of a mask (01 R36, 02 R58). -/
def State.maskBit (s : State) (m : MaskSel) (i : Nat) : Bool :=
  match m with | .vm => s.g.vm.getLsbD i | .vo => s.g.vo.getLsbD i | .j k => (Bank.get 0 s.g.j k.toNat).getLsbD i

theorem State.testBit_maskOf (s : State) (m : MaskSel) (i : Nat) :
    (s.maskOf m).testBit i = (decide (i < s.maskSize m) && s.maskBit m i) := by
  unfold State.maskOf
  rw [Nat.testBit_mod_two_pow]
  cases m <;> rfl

/-- A mask lies within its bits: VLMAX of a width of 8, of 32 for a rejoin mask (09 R253). -/
theorem State.maskSize_le (s : State) (m : MaskSel) (h : s.g.grant ≤ 16384) :
    s.maskSize m ≤ s.g.grant ∧ s.maskSize m ≤ (match m with | .j _ => 512 | _ => 2048) := by
  have h8 : s.g.grant / 8 ≤ 16384 / 8 := Nat.div_le_div_right h
  have h32 : s.g.grant / 32 ≤ 16384 / 32 := Nat.div_le_div_right h
  have hself : ∀ k, s.g.grant / k ≤ s.g.grant := fun k => Nat.div_le_self ..
  cases m
  · exact ⟨hself 8, h8⟩
  · exact ⟨hself 8, h8⟩
  · exact ⟨hself 32, h32⟩

/-- The low `n` bits of a number replaced. -/
theorem getLsbD_ofNat_mix {w n : Nat} (h : n ≤ w) (old : BitVec w) (x i : Nat) :
    (BitVec.ofNat w (old.toNat / 2 ^ n * 2 ^ n + x % 2 ^ n)).getLsbD i = if i < n then x.testBit i else old.getLsbD i := by
  have hmod : x % 2 ^ n < 2 ^ n := Nat.mod_lt _ (by positivity)
  rw [BitVec.getLsbD_ofNat, Nat.mul_comm, Nat.testBit_two_pow_mul_add _ hmod]
  split
  · next hi =>
    rw [Nat.testBit_mod_two_pow, decide_eq_true hi, decide_eq_true (hi.trans_le h), Bool.true_and, Bool.true_and]
  · next hi =>
    rw [Nat.testBit_div_two_pow, Nat.sub_add_cancel (Nat.le_of_not_lt hi), BitVec.getLsbD]
    rcases Nat.lt_or_ge i w with hw | hw
    · rw [decide_eq_true hw, Bool.true_and]
    · rw [decide_eq_false (Nat.not_lt.mpr hw), Bool.false_and]
      exact (BitVec.testBit_toNat old ▸ BitVec.getLsbD_of_ge old i hw).symm

/-- What `vmsave` answers. -/
def State.maskSaved (s : State) (p : Nat) (m : MaskSel) : State :=
  (s.noteWrite p (BitVec.allOnes 16384)).setVphys p (s.maskOf m)

theorem execVmsave_ready {s : State} {v : VName} (m : MaskSel) (hv : s.vp = none) (hreg : v.toNat < s.g.budget) (hread : s.readable v.toNat) :
    execVmsave v m s = .next (s.maskSaved (s.reg v.toNat) m) := by
  have hclean : s.cleanReg (s.reg v.toNat) (List.range 512) = s := by
    rw [State.cleanReg_eq, List.filter_eq_self.mpr fun x hx => by rw [decide_eq_false (hread.2 x hx)]; rfl]
  rw [execVmsave, need_true _ _ _ (by rw [hv]; rfl), ok_bind, State.needReg_ok hreg, ok_bind, State.needUnbound_readable hread, ok_bind]
  dsimp only
  rw [hclean]
  rfl

theorem State.maskSaved_spec (s : State) (p : Nat) (m : MaskSel) (hg : s.g.grant ≤ 16384) : let t := s.maskSaved p m
    t = { s with g := { s.g with v := t.g.v }, trace := t.trace } ∧ (∀ r, r ≠ p → t.vphys r = s.vphys r) ∧
    ∀ i, (t.vphys p).testBit i = (decide (i < s.maskSize m) && s.maskBit m i) := by
  have hnote : (s.noteWrite p (BitVec.allOnes 16384)).g = s.g := State.noteWrite_g ..
  refine ⟨?_, fun r hr => ?_, fun i => ?_⟩
  · unfold State.maskSaved State.setVphys
    dsimp only
    rw [State.noteWrite_frame]
  · rw [State.maskSaved, State.vphys_setVphys, if_neg hr, State.vphys, hnote]
    rfl
  · obtain ⟨hn, -⟩ := s.maskSize_le m hg
    have hlt : s.maskOf m < 2 ^ s.maskSize m := Nat.mod_lt _ (by positivity)
    have hle : s.maskOf m < 2 ^ s.g.grant := hlt.trans_le (Nat.pow_le_pow_right two_pos hn)
    rw [State.maskSaved, State.vphys_setVphys, if_pos rfl, hnote, Nat.mod_eq_of_lt hle,
      Nat.mod_eq_of_lt (hle.trans_le (Nat.pow_le_pow_right two_pos hg)), State.testBit_maskOf]

theorem State.setMask_frame (s : State) (m : MaskSel) (x : Nat) : let t := s.setMask m x
    t = { s with g := { s.g with vm := t.g.vm, vo := t.g.vo, j := t.g.j }, trace := t.trace } := by
  unfold State.setMask State.noteMask
  cases m <;> dsimp only <;> rw [State.noteWrite_frame]

theorem State.setMask_keepsBindings (s : State) (m : MaskSel) (x : Nat) : s.KeepsBindings (s.setMask m x) := by
  rw [State.setMask_frame]
  exact ⟨rfl, rfl, rfl⟩

/-- The number of a mask whose low bits are replaced. -/
def mixLow (n old x : Nat) : Nat := old / 2 ^ n * 2 ^ n + x % 2 ^ n

section
variable (s : State) (x : Nat)

theorem State.setMask_vm_g : (s.setMask .vm x).g = { s.g with vm := BitVec.ofNat 2048 (mixLow (s.g.grant / 8) s.g.vm.toNat x) } := by
  unfold State.setMask State.noteMask
  dsimp only
  rw [State.noteWrite_g]
  rfl

theorem State.setMask_vo_g : (s.setMask .vo x).g = { s.g with vo := BitVec.ofNat 2048 (mixLow (s.g.grant / 8) s.g.vo.toNat x) } := by
  unfold State.setMask State.noteMask
  dsimp only
  rw [State.noteWrite_g]
  rfl

theorem State.setMask_j_g (k : JReg) : (s.setMask (.j k) x).g =
    { s.g with j := Bank.set 0 s.g.j k.toNat (BitVec.ofNat 512 (mixLow (s.g.grant / 32) (Bank.get 0 s.g.j k.toNat).toNat x)) } := rfl

/-- A mask written has its low bits from the number, and its others and every other mask as before. -/
theorem State.setMask_spec (m : MaskSel) (hg : s.g.grant ≤ 16384) : let t := s.setMask m x
    (m ≠ .vm → t.g.vm = s.g.vm) ∧ (m ≠ .vo → t.g.vo = s.g.vo) ∧ (∀ k, m ≠ .j k → Bank.get 0 t.g.j k.toNat = Bank.get 0 s.g.j k.toNat) ∧
    ∀ i, t.maskBit m i = if i < s.maskSize m then x.testBit i else s.maskBit m i := by
  obtain ⟨-, hn⟩ := s.maskSize_le m hg
  cases m with
  | vm =>
    refine ⟨fun h => absurd rfl h, fun _ => by rw [State.setMask_vm_g], fun k _ => by rw [State.setMask_vm_g], fun i => ?_⟩
    rw [State.maskBit, State.setMask_vm_g]
    exact getLsbD_ofNat_mix (w := 2048) (n := s.g.grant / 8) hn s.g.vm x i
  | vo =>
    refine ⟨fun _ => by rw [State.setMask_vo_g], fun h => absurd rfl h, fun k _ => by rw [State.setMask_vo_g], fun i => ?_⟩
    rw [State.maskBit, State.setMask_vo_g]
    exact getLsbD_ofNat_mix (w := 2048) (n := s.g.grant / 8) hn s.g.vo x i
  | j k =>
    refine ⟨fun _ => rfl, fun _ => rfl, fun l hl => ?_, fun i => ?_⟩
    · rw [State.setMask_j_g, Bank.get_set, if_neg fun h => hl (congrArg _ (BitVec.eq_of_toNat_eq h.symm))]
    · rw [State.maskBit, State.setMask_j_g, Bank.get_set, if_pos rfl]
      exact getLsbD_ofNat_mix hn _ x i

theorem execVmload_ready {s : State} {v : VName} (m : MaskSel) (hv : s.vp = none) (hreg : v.toNat < s.g.budget) (hread : s.readable v.toNat) :
    execVmload v m s = .next (s.setMask m (s.vphys (s.reg v.toNat))) := by
  rw [execVmload, need_true _ _ _ (by rw [hv]; rfl), ok_bind, State.needReg_ok hreg, ok_bind, State.needSrc_readable hread, ok_bind,
    (s.setMask_keepsBindings ..).consume (by simpa using hread), State.finish_ok]

end

end Sys2Proof.Machine

namespace Sys2Proof.Proofs
open Sys2Proof.Machine

/-- Settles O22: `vmsave` and `vmload` are the updates of their lemmas. -/
theorem maskMoves : Obligations.MaskMoves := by
  unfold Obligations.MaskMoves
  intro s v m hv hg hreg hbound hpoison n bit
  have hn : n = s.maskSize m := by cases m <;> rfl
  have hbit : bit = fun q => q.maskBit m := by
    funext q i
    cases m <;> rfl
  rw [hn, hbit]
  obtain ⟨hsaved, hother, hbits⟩ := s.maskSaved_spec (s.reg v.toNat) m hg
  obtain ⟨hvm, hvo, hj, hmask⟩ := s.setMask_spec (s.vphys (s.reg v.toNat)) m hg
  exact ⟨⟨_, execVmsave_ready m hv hreg ⟨hbound, hpoison⟩, hsaved, hother, hbits⟩,
    ⟨_, execVmload_ready m hv hreg ⟨hbound, hpoison⟩, s.setMask_frame .., hvm, hvo, hj, hmask⟩⟩

end Sys2Proof.Proofs
end

section
/-! PROOFS. Shifts of whole registers (09 R261): the string of the elements below `vl`, and the words of opcode 0x3D. -/

namespace Sys2Proof.Machine

theorem getEl_lt (w x e : Nat) : getEl w x e < 2 ^ w := Nat.mod_lt _ (by positivity)

/-- A string of `n` elements has no bit beyond them. -/
theorem State.bitString_lt (s : State) (r w n : Nat) : s.bitString r w n < 2 ^ (n * w) := by
  induction n with
  | zero => simp [State.bitString]
  | succ n ih =>
    have hel : s.el r w n < 2 ^ w := getEl_lt ..
    have hstr : s.bitString r w (n + 1) = s.bitString r w n + s.el r w n * 2 ^ (w * n) := by
      simp only [State.bitString, List.range_succ, List.map_append, List.sum_append, List.map_cons, List.map_nil, List.sum_singleton]
    calc s.bitString r w (n + 1) = s.bitString r w n + s.el r w n * 2 ^ (w * n) := hstr
      _ < 2 ^ (n * w) + s.el r w n * 2 ^ (w * n) := Nat.add_lt_add_right ih _
      _ = (s.el r w n + 1) * 2 ^ (n * w) := by rw [Nat.mul_comm w n]; ring
      _ ≤ 2 ^ w * 2 ^ (n * w) := Nat.mul_le_mul_right _ hel
      _ = 2 ^ ((n + 1) * w) := by rw [← Nat.pow_add]; congr 1; ring

/-! The four functions, for every amount: one beyond the string gives zeros. -/

section
variable {A D n L : Nat}

theorem shlwF_eq : shlwF A D n L = A * 2 ^ n % 2 ^ L := by
  rw [shlwF]
  split
  · next h => exact (Nat.mod_eq_zero_of_dvd (Dvd.dvd.mul_left (pow_dvd_pow 2 h) A)).symm
  · rfl

theorem shrwF_eq (hA : A < 2 ^ L) : shrwF A D n L = A / 2 ^ n := by
  rw [shrwF]
  split
  · next h => exact (Nat.div_eq_of_lt (hA.trans_le (Nat.pow_le_pow_right two_pos h))).symm
  · rfl

theorem fslF_eq : fslF A D n L = (A * 2 ^ L + D) * 2 ^ n % 2 ^ (2 * L) / 2 ^ L := by
  rw [fslF]
  split
  · next h => rw [Nat.mod_eq_zero_of_dvd (Dvd.dvd.mul_left (pow_dvd_pow 2 h) _), Nat.zero_div]
  · rfl

theorem fsrF_eq (hA : A < 2 ^ L) (hD : D < 2 ^ L) : fsrF A D n L = (D * 2 ^ L + A) / 2 ^ n % 2 ^ L := by
  rw [fsrF]
  split
  · next h =>
    have hlt : D * 2 ^ L + A < 2 ^ (2 * L) := calc
      D * 2 ^ L + A < (D + 1) * 2 ^ L := by rw [Nat.add_one_mul]; exact Nat.add_lt_add_left hA _
      _ ≤ 2 ^ L * 2 ^ L := Nat.mul_le_mul_right _ hD
      _ = 2 ^ (2 * L) := by rw [← Nat.pow_add, Nat.two_mul]
    rw [Nat.div_eq_of_lt (hlt.trans_le (Nat.pow_le_pow_right two_pos h)), Nat.zero_mod]
  · rfl

end

/-- Each whole-register shift is one meaning with its function, and no instruction of an AIB. -/
theorem exec_wholeShift : ∀ x ∈ Claim.wholeShifts, ∃ f two, (∀ A D n L, A < 2 ^ L → D < 2 ^ L → f A D n L = x.2 A D n L) ∧
    ∀ (s : State) (d a : VName) (b : CReg) (t : Ty), aibLegal (x.1 d a b t) = false ∧ exec (x.1 d a b t) s = s.finish (s.wholeShift f two d a t) := by
  intro x hx
  simp only [Claim.wholeShifts, List.mem_cons, List.not_mem_nil, or_false] at hx
  rcases hx with rfl | rfl | rfl | rfl
  · exact ⟨shlwF, false, fun _ _ _ _ _ _ => shlwF_eq, fun _ _ _ _ _ => ⟨rfl, rfl⟩⟩
  · exact ⟨shrwF, false, fun _ _ _ _ hA _ => shrwF_eq hA, fun _ _ _ _ _ => ⟨rfl, rfl⟩⟩
  · exact ⟨fslF, true, fun _ _ _ _ _ _ => fslF_eq, fun _ _ _ _ _ => ⟨rfl, rfl⟩⟩
  · exact ⟨fsrF, true, fun _ _ _ _ hA hD => fsrF_eq hA hD, fun _ _ _ _ _ => ⟨rfl, rfl⟩⟩

section
variable {s : State} {d a : VName} {t : Ty} (f : Nat → Nat → Nat → Nat → Nat) (two : Bool)

theorem State.wholeShift_illegal (h : t = .i64 ∨ t = .f64 ∨ d = a) : s.wholeShift f two d a t = ill := by
  rw [State.wholeShift]
  rcases need_or_ill (s.vp.isNone = true ∧ t.six = true) with hn | hn
  · rw [hn, ok_bind]
    dsimp only
    rcases allM_needReg_or_ill s [d.toNat, a.toNat] with hreg | hreg
    · have hda : d = a := by
        by_contra hne
        rw [need_false _ _ _ (by rw [Ty.six_eq_false (by tauto)]; simp)] at hn
        cases hn
      rw [hreg, ok_bind, need_false _ _ _ (not_not.mpr hda)]
      rfl
    · rw [hreg, ill_bind]
  · rw [hn, ill_bind]

theorem State.wholeShift_ready (hv : s.vp = none) (ht : t.six = true) (hda : d ≠ a) (h : Claim.ready s t.bits [a.toNat, d.toNat]) :
    s.wholeShift f two d a t = .ok (s.setEls d.toNat t.bits (s.active.map fun e => (e, getEl t.bits
      (f (s.bitString a.toNat t.bits s.u.vl.toNat) (s.bitString d.toNat t.bits s.u.vl.toNat) s.u.opB.toNat (s.u.vl.toNat * t.bits)) e))) := by
  have hsrc : (if two then [a.toNat, d.toNat] else [a.toNat]) ⊆ [a.toNat, d.toNat] := by cases two <;> simp
  rw [State.wholeShift, need_true _ _ _ ⟨by rw [hv]; rfl, ht⟩, ok_bind]
  dsimp only
  rw [ready_regs h (by simp), ok_bind, need_true _ _ _ hda, ok_bind, ready_vcheck h hsrc (by simp), ok_bind,
    (s.setEls_keepsBindings ..).consume (by simpa using ready_readable h List.mem_cons_self)]

end

/-- The selectors of opcode 0x3D have bit 2 set and bit 3 clear (09 R261). -/
theorem decodeFields_wholeShift_illegal {f : Fields} (ho : f.op.toNat = 0x3D) (h : f.fn.getLsbD 2 = false ∨ f.fn.getLsbD 3 = true) :
    decodeFields f = .error .selector := by
  have hsel : ∀ x : BitVec 4, (x.getLsbD 2 = false ∨ x.getLsbD 3 = true) → x.toNat ≠ 4 ∧ x.toNat ≠ 5 ∧ x.toNat ≠ 6 ∧ x.toNat ≠ 7 := by decide
  obtain ⟨h4, h5, h6, h7⟩ := hsel f.fn h
  simp only [decodeFields, ho]

end Sys2Proof.Machine

namespace Sys2Proof.Proofs
open Sys2Proof.Machine

/-- Settles O25: the four shifts are `State.wholeShift`, with functions that agree on strings of L bits. -/
theorem wholeRegisterShifts : Obligations.WholeRegisterShifts := by
  unfold Obligations.WholeRegisterShifts
  refine ⟨fun x hx s d a b t => ?_, fun w hw hbad i hi => ?_⟩
  · obtain ⟨f, two, hf, hx⟩ := exec_wholeShift x hx
    obtain ⟨haib, hexec⟩ := hx s d a b t
    refine ⟨haib, fun hbad _ => ?_, fun hv h64 hf64 hda h => ?_⟩
    · rw [hexec, State.wholeShift_illegal f two hbad]
      rfl
    · rw [hexec, State.wholeShift_ready f two hv (Ty.six_of_ne h64 hf64) hda h, hf _ _ _ _ (s.bitString_lt ..) (s.bitString_lt ..)]
      rfl
  · have hfn : ∀ k < 4, (Fields.ofWord w).fn.getLsbD k = w.getLsbD k := fun k hk => by
      simp [Fields.ofWord, hk]
    rw [decodeWord, decodeFields_wholeShift_illegal (by rw [← opOf_eq_op, hw]) (by rw [hfn 2 (by decide), hfn 3 (by decide)]; exact hbad)] at hi
    cases hi

end Sys2Proof.Proofs
end

section
/-! PROOFS. What delivered results change: elements of one register, poison of the words written in full, `vo` and the flags (09 R243, 02
R58, R60, 01 R13, 18 R424). -/

namespace Sys2Proof.Machine

/-! Elements of a bit string. -/

theorem testBit_getEl (w x e i : Nat) : (getEl w x e).testBit i = (decide (i < w) && x.testBit (w * e + i)) := by
  rw [getEl, Nat.testBit_mod_two_pow, Nat.testBit_div_two_pow, Nat.add_comm]

/-- A string with an element replaced: what stood above it, the new element, what stood below it. -/
theorem setEl_eq (w x e v : Nat) : setEl w x e v = 2 ^ (w * e) * (2 ^ w * (x / 2 ^ (w * e) / 2 ^ w) + v % 2 ^ w) + x % 2 ^ (w * e) := by
  rw [setEl]
  have hx := Nat.div_add_mod x (2 ^ (w * e))
  have hq := Nat.div_add_mod (x / 2 ^ (w * e)) (2 ^ w)
  generalize 2 ^ (w * e) = P at *
  generalize x / P = q at *
  have hsub : x - q % 2 ^ w * P = P * (2 ^ w * (q / 2 ^ w)) + x % P := by
    refine Nat.sub_eq_of_eq_add ?_
    calc x = P * (2 ^ w * (q / 2 ^ w) + q % 2 ^ w) + x % P := by rw [hq, hx]
      _ = P * (2 ^ w * (q / 2 ^ w)) + x % P + q % 2 ^ w * P := by ring
  rw [hsub]
  ring

theorem testBit_setEl (w x e v i : Nat) :
    (setEl w x e v).testBit i = if w * e ≤ i ∧ i < w * e + w then v.testBit (i - w * e) else x.testBit i := by
  rw [setEl_eq, Nat.testBit_two_pow_mul_add _ (Nat.mod_lt _ (by positivity))]
  rcases Nat.lt_or_ge i (w * e) with hlo | hlo
  · rw [if_pos hlo, if_neg (by omega), Nat.testBit_mod_two_pow, decide_eq_true hlo, Bool.true_and]
  · rw [if_neg (by omega), Nat.testBit_two_pow_mul_add _ (Nat.mod_lt _ (by positivity))]
    rcases Nat.lt_or_ge (i - w * e) w with hhi | hhi
    · rw [if_pos hhi, if_pos (by omega), Nat.testBit_mod_two_pow, decide_eq_true hhi, Bool.true_and]
    · rw [if_neg (by omega), if_neg (by omega), Nat.testBit_div_two_pow, Nat.testBit_div_two_pow]
      congr 1
      omega

/-- Elements of one width do not overlap. -/
theorem getEl_setEl (w x e v k : Nat) : getEl w (setEl w x e v) k = if k = e then v % 2 ^ w else getEl w x k := by
  refine Nat.eq_of_testBit_eq fun i => ?_
  rw [testBit_getEl, testBit_setEl]
  by_cases hi : i < w
  · rw [decide_eq_true hi, Bool.true_and]
    by_cases hk : k = e
    · subst hk
      rw [if_pos (by omega), if_pos rfl, Nat.testBit_mod_two_pow, decide_eq_true hi, Bool.true_and, Nat.add_sub_cancel_left]
    · have hapart : w * k + w ≤ w * e ∨ w * e + w ≤ w * k := by
        rcases Nat.lt_or_gt_of_ne hk with h | h
        · exact .inl (Nat.mul_le_mul_left w h)
        · exact .inr (Nat.mul_le_mul_left w h)
      rw [if_neg (by omega), if_neg hk, testBit_getEl, decide_eq_true hi, Bool.true_and]
  · rw [decide_eq_false hi, Bool.false_and]
    split
    · rw [Nat.testBit_mod_two_pow, decide_eq_false hi, Bool.false_and]
    · rw [testBit_getEl, decide_eq_false hi, Bool.false_and]

/-- Elements written one after another, none of them twice. -/
theorem getEl_foldl_setEl (w : Nat) {l : List (Nat × Nat)} (hl : (l.map fun x => x.1).Nodup) (x k : Nat) :
    getEl w (l.foldl (fun x ev => setEl w x ev.1 ev.2) x) k =
      match l.find? (fun ev => decide (ev.1 = k)) with | some ev => ev.2 % 2 ^ w | none => getEl w x k := by
  induction l generalizing x with
  | nil => rfl
  | cons y l ih =>
    obtain ⟨hy, hl⟩ := List.nodup_cons.mp hl
    rw [List.foldl_cons, ih hl, List.find?_cons, getEl_setEl]
    by_cases hk : y.1 = k
    · have hnone : l.find? (fun ev => decide (ev.1 = k)) = none :=
        find?_decide_eq_none fun z hz h => hy (List.mem_map.mpr ⟨z, hz, h.trans hk.symm⟩)
      rw [hnone, decide_eq_true hk, if_pos hk.symm]
    · rw [decide_eq_false hk, if_neg (Ne.symm hk)]

theorem getEl_mod_two_pow {w g k : Nat} (h : w * k + w ≤ g) (x : Nat) : getEl w (x % 2 ^ g) k = getEl w x k := by
  refine Nat.eq_of_testBit_eq fun i => ?_
  rw [testBit_getEl, testBit_getEl, Nat.testBit_mod_two_pow]
  rcases Nat.lt_or_ge i w with hi | hi
  · rw [decide_eq_true (show w * k + i < g by omega), Bool.true_and]
  · rw [decide_eq_false (Nat.not_lt.mpr hi), Bool.false_and, Bool.false_and]

theorem mul_add_le_of_lt_div {w g k : Nat} (h : k < g / w) : w * k + w ≤ g := by
  rw [← Nat.mul_succ]
  exact (Nat.mul_le_mul_left w h).trans (Nat.mul_div_le g w)

/-! Words of 4 bytes that are written in full. -/

/-- All 32 bits of a word are among those of listed elements. -/
def coversWord (w : Nat) (es : List Nat) (k : Nat) : Bool :=
  (List.range 32).all fun b => es.any fun e => decide (e * w ≤ 32 * k + b) && decide (32 * k + b < (e + 1) * w)

theorem coversWord_iff (w : Nat) (es : List Nat) (k : Nat) :
    coversWord w es k = true ↔ ∀ b < 32, ∃ e ∈ es, e * w ≤ 32 * k + b ∧ 32 * k + b < (e + 1) * w := by
  simp only [coversWord, List.all_eq_true, List.mem_range, List.any_eq_true, Bool.and_eq_true, decide_eq_true_eq]

/-- An element of several words covers each of them. -/
theorem mem_wordsOf_wide {c : Nat} (hc : 0 < c) (es : List Nat) (k : Nat) : k ∈ wordsOf (32 * c) es ↔ coversWord (32 * c) es k = true := by
  have hdiv : 32 * c / 32 = c := Nat.mul_div_cancel_left c (by decide)
  rw [wordsOf, if_pos (by omega), hdiv, coversWord_iff]
  simp only [List.mem_flatMap, List.mem_map, List.mem_range]
  have hspan : ∀ e b, (e * (32 * c) ≤ 32 * k + b ∧ 32 * k + b < (e + 1) * (32 * c)) ↔ (32 * (e * c) ≤ 32 * k + b ∧ 32 * k + b < 32 * (e * c) + 32 * c) :=
    fun e b => by rw [show e * (32 * c) = 32 * (e * c) by ring, show (e + 1) * (32 * c) = 32 * (e * c) + 32 * c by ring]
  simp only [hspan]
  constructor
  · rintro ⟨e, he, i, hi, rfl⟩ b hb
    exact ⟨e, he, by omega⟩
  · intro h
    obtain ⟨e, he, hlo, hhi⟩ := h 0 (by decide)
    exact ⟨e, he, k - e * c, by omega, by omega⟩

/-- Elements narrower than a word cover it where each of its elements is among them. -/
theorem mem_wordsOf_narrow {w : Nat} (hw : w = 8 ∨ w = 16) (es : List Nat) (k : Nat) : k ∈ wordsOf w es ↔ coversWord w es k = true := by
  obtain ⟨hlt, hw0, hself, hbelow, hel⟩ : w < 32 ∧ 0 < w ∧ k * (32 / w) * w / 32 = k ∧ (∀ b, b < 32 ↔ b / w < 32 / w) ∧
      ∀ e b, (e * w ≤ 32 * k + b ∧ 32 * k + b < (e + 1) * w) ↔ e = k * (32 / w) + b / w := by
    rcases hw with rfl | rfl <;> and_intros <;> intros <;> omega
  rw [wordsOf, if_neg (by omega), coversWord_iff]
  simp only [List.mem_filter, List.mem_map, List.all_eq_true, List.mem_range, List.contains_iff_mem, hel, exists_eq_right]
  constructor
  · rintro ⟨-, h⟩ b hb
    exact h _ ((hbelow b).mp hb)
  · intro h
    have hall : ∀ i < 32 / w, k * (32 / w) + i ∈ es := by
      intro i hi
      have hb := h (i * w) ((hbelow _).mpr (by rwa [Nat.mul_div_cancel _ hw0]))
      rwa [Nat.mul_div_cancel _ hw0] at hb
    exact ⟨⟨_, hall 0 (Nat.div_pos hlt.le hw0), hself⟩, hall⟩

theorem contains_wordsOf {w : Nat} (hw : w ∈ [8, 16, 32, 64, 256]) (es : List Nat) (k : Nat) : (wordsOf w es).contains k = coversWord w es k := by
  rw [Bool.eq_iff_iff, List.contains_iff_mem]
  simp only [List.mem_cons, List.not_mem_nil, or_false] at hw
  rcases hw with rfl | rfl | rfl | rfl | rfl
  · exact mem_wordsOf_narrow (.inl rfl) es k
  · exact mem_wordsOf_narrow (.inr rfl) es k
  · exact mem_wordsOf_wide (c := 1) (by decide) es k
  · exact mem_wordsOf_wide (c := 2) (by decide) es k
  · exact mem_wordsOf_wide (c := 8) (by decide) es k

/-! Elements of one register written. -/

section
variable (s : State) (r w : Nat) (l : List (Nat × Nat))

theorem State.setEls_rpoison : (s.setEls r w l).g.rpoison =
    s.g.rpoison.filter fun x => !(decide (x.1 = s.reg r) && (wordsOf w (l.map fun x => x.1)).contains x.2.1) := by
  unfold State.setEls State.setVphys
  dsimp only
  rw [State.noteWrite_g, State.cleanReg_eq]

theorem State.setEls_vphys_other {n : Nat} (h : n ≠ s.reg r) : (s.setEls r w l).vphys n = s.vphys n := by
  unfold State.setEls
  dsimp only
  rw [State.vphys_setVphys, if_neg h, State.vphys, State.noteWrite_g, State.cleanReg_eq]
  rfl

theorem State.setOpEls_vphys_other {n : Nat} (h : n ≠ s.reg r) : (s.setOpEls r w l).vphys n = s.vphys n := by
  unfold State.setOpEls
  dsimp only
  split
  · exact s.setEls_vphys_other r w l h
  · split <;> exact s.setEls_vphys_other r 32 _ h

theorem State.setEls_vphys_same : (s.setEls r w l).vphys (s.reg r) =
    l.foldl (fun x ev => Machine.setEl w x ev.1 ev.2) (s.vphys (s.reg r)) % 2 ^ s.g.grant % 2 ^ 16384 := by
  unfold State.setEls
  dsimp only
  rw [State.vphys_setVphys, if_pos rfl, State.noteWrite_g, State.cleanReg_eq]

variable {l} (hg : s.g.grant ≤ 16384) (hl : (l.map fun x => x.1).Nodup)
include hg hl

/-- Each listed element of the register holds what was written, and each other what it held (02 R60). -/
theorem State.getEl_setEls {k : Nat} (hk : k < s.g.grant / w) : getEl w ((s.setEls r w l).vphys (s.reg r)) k =
    match l.find? (fun ev => decide (ev.1 = k)) with | some ev => ev.2 % 2 ^ w | none => getEl w (s.vphys (s.reg r)) k := by
  have hfits := mul_add_le_of_lt_div hk
  rw [State.setEls_vphys_same, getEl_mod_two_pow (hfits.trans hg), getEl_mod_two_pow hfits, getEl_foldl_setEl w hl]

omit hl in
theorem State.getEl_setEls_one (e x : Nat) {k : Nat} (hk : k < s.g.grant / w) : getEl w ((s.setEls r w [(e, x)]).vphys (s.reg r)) k =
    if k = e then x % 2 ^ w else getEl w (s.vphys (s.reg r)) k := by
  rw [s.getEl_setEls r w hg (by simp) hk, List.find?_singleton]
  by_cases h : k = e
  · rw [if_pos (decide_eq_true h.symm), if_pos h]
  · rw [if_neg (by simpa using Ne.symm h), if_neg h]

end

/-! Results delivered. -/

section
variable (s : State) (d w : Nat) (l : List (Nat × Res))

theorem State.putRes_leaves_rest : let t := s.putRes d w l
    t = { s with g := { s.g with v := t.g.v, vo := t.g.vo, sticky := t.g.sticky, rpoison := t.g.rpoison }, trace := t.trace } := by
  have hels := s.setOpEls_frame d w (l.map fun r => (r.1, r.2.bits))
  unfold State.putRes
  generalize s.setOpEls d w (l.map fun r => (r.1, r.2.bits)) = q at hels ⊢
  have hvo := q.setVo_frame ((l.filter fun r => r.2.vo).map fun r => r.1)
  generalize q.setVo ((l.filter fun r => r.2.vo).map fun r => r.1) = p at hvo ⊢
  dsimp only [State.raise] at hels hvo ⊢
  rw [hvo, hels]

/-- The registers and their poison are those of the elements written. -/
theorem State.putRes_regs : (s.putRes d w l).g.v = (s.setOpEls d w (l.map fun r => (r.1, r.2.bits))).g.v ∧
    (s.putRes d w l).g.rpoison = (s.setOpEls d w (l.map fun r => (r.1, r.2.bits))).g.rpoison := by
  unfold State.putRes
  generalize s.setOpEls d w (l.map fun r => (r.1, r.2.bits)) = q
  have hvo := q.setVo_frame ((l.filter fun r => r.2.vo).map fun r => r.1)
  dsimp only [State.raise] at hvo ⊢
  rw [hvo]
  exact ⟨rfl, rfl⟩

theorem State.putRes_vphys (n : Nat) : (s.putRes d w l).vphys n = (s.setOpEls d w (l.map fun r => (r.1, r.2.bits))).vphys n := by
  rw [State.vphys, (s.putRes_regs d w l).1, State.vphys]

theorem State.putRes_sticky : (s.putRes d w l).g.sticky = s.g.sticky.or (flagsOf l) := by
  rw [State.putRes, State.raise_sticky, State.setVo_frame, State.setOpEls_frame]

theorem State.putRes_vo {e : Nat} (he : e < 2048) :
    (s.putRes d w l).g.vo.getLsbD e = (s.g.vo.getLsbD e || l.any fun r => decide (r.1 = e) && r.2.vo) := by
  have hvo : (s.putRes d w l).g.vo = setBits 2048 s.g.vo ((l.filter fun r => r.2.vo).map fun r => r.1) := by
    show ((s.setOpEls d w _).setVo _).g.vo = _
    rw [State.setVo_vo, State.setOpEls_frame]
  rw [hvo, getLsbD_setBits he]
  congr 1
  rw [Bool.eq_iff_iff]
  simp only [decide_eq_true_eq, List.mem_map, List.mem_filter, List.any_eq_true, Bool.and_eq_true]
  exact exists_congr fun r => ⟨fun ⟨⟨hm, hv⟩, he⟩ => ⟨hm, he, hv⟩, fun ⟨hm, he, hv⟩ => ⟨⟨hm, hv⟩, he⟩⟩

end

/-! Inside an AIB (01 R13): the low bits of the VP's element. -/

/-- A number with its low `w` bits replaced. -/
def lowBits (w old x : Nat) : Nat := old / 2 ^ w * 2 ^ w + x % 2 ^ w

theorem lowBits_spec {w old : Nat} (hw : w ≤ 32) (h : old < 2 ^ 32) (x : Nat) :
    lowBits w old x < 2 ^ 32 ∧ lowBits w old x % 2 ^ w = x % 2 ^ w ∧ lowBits w old x / 2 ^ w = old / 2 ^ w := by
  have hp : 0 < 2 ^ w := by positivity
  have hx : x % 2 ^ w < 2 ^ w := Nat.mod_lt _ hp
  have hsplit : (2 : Nat) ^ 32 = 2 ^ w * 2 ^ (32 - w) := by rw [← Nat.pow_add, Nat.add_sub_cancel' hw]
  have hq : old / 2 ^ w < 2 ^ (32 - w) := Nat.div_lt_of_lt_mul (hsplit ▸ h)
  refine ⟨?_, ?_, ?_⟩
  · calc lowBits w old x < (old / 2 ^ w + 1) * 2 ^ w := by rw [lowBits, Nat.add_one_mul]; exact Nat.add_lt_add_left hx _
      _ ≤ 2 ^ (32 - w) * 2 ^ w := Nat.mul_le_mul_right _ hq
      _ = 2 ^ 32 := by rw [hsplit, Nat.mul_comm]
  · rw [lowBits, Nat.mul_add_mod', Nat.mod_mod]
  · rw [lowBits, Nat.add_comm, Nat.add_mul_div_right _ _ hp, Nat.div_eq_of_lt hx, Nat.zero_add]

section
variable {s : State} {v : Nat} (hv : s.vp = some v) (r w x : Nat)
include hv

theorem State.setOpEls_vp_vphys (n : Nat) : (s.setOpEls r w [(v, x)]).vphys n =
    (s.setEls r 32 [(v, lowBits w (getEl 32 (s.vphys (s.reg r)) v) x)]).vphys n := by
  simp only [State.setOpEls, hv]
  split <;> rfl

/-- A word that is not written in full stays poisoned (log entry 52). -/
theorem State.setOpEls_vp_rpoison (hw : w ≤ 32) : (s.setOpEls r w [(v, x)]).g.rpoison =
    s.g.rpoison.filter fun y => !(decide (y.1 = s.reg r) && decide (y.2.1 = v) && decide (w = 32)) := by
  simp only [State.setOpEls, hv]
  rcases Nat.lt_or_eq_of_le hw with h | rfl
  · rw [if_pos h, decide_eq_false h.ne]
    simp
  · have hwords : wordsOf 32 [v] = [v] := by simp [wordsOf]
    rw [if_neg (lt_irrefl _), State.setEls_rpoison]
    simp [hwords]

end

end Sys2Proof.Machine

namespace Sys2Proof.Proofs
open Sys2Proof.Machine

/-- Settles O18: `State.putRes` field by field, the elements by `State.getEl_setEls`. -/
theorem vectorDelivery : Obligations.VectorDelivery := by
  unfold Obligations.VectorDelivery
  intro s d w l hg _ _ hl _ t
  obtain ⟨-, hpoison⟩ := s.putRes_regs d w l
  refine ⟨s.putRes_leaves_rest d w l, fun hv hw => ?_, fun v r hv hone hw => ?_, s.putRes_sticky d w l, fun e he => s.putRes_vo d w l he,
    fun n hn => ?_, fun hv e he => ?_, fun v r hv hone hw _ hlt => ?_⟩
  · rw [hpoison, State.setOpEls, hv]
    dsimp only
    rw [State.setEls_rpoison]
    simp only [contains_wordsOf hw, coversWord, List.map_map, List.any_map]
    rfl
  · rw [hpoison, hone]
    exact State.setOpEls_vp_rpoison hv d w r.bits hw
  · rw [State.putRes_vphys, State.setOpEls_vphys_other _ _ _ _ hn]
  · rw [State.putRes_vphys, State.setOpEls, hv]
    dsimp only
    rw [State.getEl_setEls s d w hg (by rwa [List.map_map]) he, List.find?_map]
    show (match (l.find? fun r => decide (r.1 = e)).map fun r => (r.1, r.2.bits) with | some ev => _ | none => _) = _
    cases l.find? fun r => decide (r.1 = e) <;> rfl
  · have hreg : t.vphys (s.reg d) = (s.setEls d 32 [(v, lowBits w (getEl 32 (s.vphys (s.reg d)) v) r.bits)]).vphys (s.reg d) := by
      rw [State.putRes_vphys, hone]
      exact State.setOpEls_vp_vphys hv d w r.bits _
    obtain ⟨hfits, hlow, hhigh⟩ := lowBits_spec hw (getEl_lt 32 (s.vphys (s.reg d)) v) r.bits
    have hself : getEl 32 (t.vphys (s.reg d)) v = lowBits w (getEl 32 (s.vphys (s.reg d)) v) r.bits := by
      rw [hreg, State.getEl_setEls_one s d 32 hg v _ hlt, if_pos rfl, Nat.mod_eq_of_lt hfits]
    rw [hself]
    refine ⟨fun e he hne => ?_, hlow, hhigh⟩
    rw [hreg, State.getEl_setEls_one s d 32 hg v _ he, if_neg hne]

end Sys2Proof.Proofs
end

section
/-! PROOFS. A `vdequant` in a unit whose writes are noted for a lookahead (07 R192, 09 R258). -/

namespace Sys2Proof.Machine

/-- The state after reset, with `vl` = 0 and the writes of the next unit noted. -/
def notedReset : State := State.reset.tracing

/-- What a meaning notes as written. -/
def notedBy (o : Out) : Option (List (Nat × VReg)) :=
  match o with
  | .next t => t.trace
  | _ => none

/-- Of no facet there is no element to write, and `vdequant`, whose results set no `vo` bit, notes no write of `vo`. -/
theorem notedBy_vdequant : notedBy (exec (.vdequant 0 1 8 .f16 0) notedReset) = some [] := by decide +kernel

/-- Registers of the group of reset that a run may name. -/
theorem run_notedReset {r w n : Nat} (h : r < 16) (hr : r + (n * w + 2047) / 2048 ≤ 16) : Claim.run notedReset r w n :=
  ⟨h, hr, fun ⟨_, hlt⟩ => absurd (hlt.trans_le hr) (by decide), fun _ _ => ⟨fun _ hx => absurd hx List.not_mem_nil, fun _ hx => absurd hx List.not_mem_nil⟩⟩

end Sys2Proof.Machine

namespace Sys2Proof.Proofs
open Sys2Proof.Machine

/-- Refutes O23, in the clause of `vdequant`: the statement delivers its elements as a run with their `vo` bits, and so notes a write of `vo`
(of no bit) wherever writes are noted; `vdequant` sets no `vo` bit and notes none. In `notedReset` the two answers differ in that note. -/
theorem not_vectorConversions : ¬ Obligations.VectorConversions := by
  unfold Obligations.VectorConversions
  intro h
  obtain ⟨-, hquant, -⟩ := h
  obtain ⟨ff, hff⟩ : ∃ ff, FacetFmt.ofCode (8 : BitVec 6).toNat = some ff := ⟨_, rfl⟩
  obtain ⟨-, hdequant⟩ := hquant notedReset 0 1 8 .f16 0 .f16 ff rfl hff rfl (by decide) (by decide)
  have hvl : notedReset.u.vl.toNat * ff.count = 0 := Nat.zero_mul _
  rw [hvl] at hdequant
  have hactive : notedReset.active = [] := by decide
  have hnoted := notedBy_vdequant
  rw [hdequant (run_notedReset (by decide) (by decide)) (run_notedReset (by decide) (by decide)) (.inr (by decide)), hactive] at hnoted
  have hclaim : notedBy (.next (Claim.putRun notedReset 0 16 [])) = some [(shadeVo, 0)] := rfl
  exact absurd (hclaim.symm.trans hnoted) (by simp)

end Sys2Proof.Proofs
end

section
/-! PROOFS. The stable order of elements by their keys (09 R265). -/

namespace Sys2Proof.Machine

/-! Insertion by key. -/

/-- The order of keyed elements: by rising key, and of one key by rising element. -/
def keyBefore (x y : Int × Nat) : Prop := x.1 < y.1 ∨ x.1 = y.1 ∧ x.2 < y.2

theorem insertKey_perm (x : Int × Nat) (l : List (Int × Nat)) : (insertKey x l).Perm (x :: l) := by
  induction l with
  | nil => exact .refl _
  | cons y l ih =>
    rw [insertKey]
    split
    · exact .refl _
    · exact (ih.cons y).trans (.swap ..)

/-- An element above those of an ordered list is inserted in order: behind its equals. -/
theorem insertKey_pairwise {x : Int × Nat} {l : List (Int × Nat)} (hl : l.Pairwise keyBefore) (hx : ∀ y ∈ l, y.2 < x.2) :
    (insertKey x l).Pairwise keyBefore := by
  induction l with
  | nil => exact List.pairwise_singleton ..
  | cons y l ih =>
    obtain ⟨hy, htail⟩ := List.pairwise_cons.mp hl
    rw [insertKey]
    split
    · next hlt =>
      refine List.pairwise_cons.mpr ⟨fun z hz => .inl ?_, hl⟩
      rcases List.mem_cons.mp hz with rfl | hz
      · exact hlt
      · rcases hy z hz with h | ⟨h, -⟩
        · exact hlt.trans h
        · exact h ▸ hlt
    · next hge =>
      refine List.pairwise_cons.mpr ⟨fun z hz => ?_, ih htail fun z hz => hx z (List.mem_cons_of_mem _ hz)⟩
      rcases List.mem_cons.mp ((insertKey_perm x l).mem_iff.mp hz) with rfl | hz
      · rcases lt_or_eq_of_le (not_lt.mp hge) with h | h
        · exact .inl h
        · exact .inr ⟨h, hx y List.mem_cons_self⟩
      · exact hy z hz

theorem sortKeys_perm (l : List (Int × Nat)) : (sortKeys l).Perm l := by
  suffices h : ∀ acc : List (Int × Nat), (l.foldl (fun r x => insertKey x r) acc).Perm (acc ++ l) from h []
  induction l with
  | nil => exact fun acc => by rw [List.append_nil]; exact .refl _
  | cons x l ih =>
    intro acc
    exact (ih (insertKey x acc)).trans (((insertKey_perm x acc).append_right l).trans List.perm_middle.symm)

/-- Elements that come in rising order are sorted by key, stably. -/
theorem sortKeys_pairwise {l : List (Int × Nat)} (hl : l.Pairwise fun x y => x.2 < y.2) : (sortKeys l).Pairwise keyBefore := by
  suffices h : ∀ acc : List (Int × Nat), acc.Pairwise keyBefore → (∀ x ∈ acc, ∀ y ∈ l, x.2 < y.2) →
      (l.foldl (fun r x => insertKey x r) acc).Pairwise keyBefore from h [] .nil (fun x hx => absurd hx List.not_mem_nil)
  induction l with
  | nil => exact fun acc hacc _ => hacc
  | cons x l ih =>
    obtain ⟨hx, hl⟩ := List.pairwise_cons.mp hl
    intro acc hacc hbelow
    refine ih hl (insertKey x acc) (insertKey_pairwise hacc fun y hy => hbelow y hy x List.mem_cons_self) fun y hy z hz => ?_
    rcases List.mem_cons.mp ((insertKey_perm x acc).mem_iff.mp hy) with rfl | hy
    · exact hx z hz
    · exact hbelow y hy z (List.mem_cons_of_mem _ hz)

theorem State.active_pairwise (s : State) : s.active.Pairwise fun x y => x < y := List.pairwise_lt_range.filter _

/-! The order and the histogram of a regrouping. -/

section
variable (s : State) (a : VName) (t : Ty)

def State.keyOf (e : Nat) : Int := sextNat t.bits (s.el a.toNat t.bits e)
def State.noKey (e : Nat) : Bool := t.isAbsent (s.el a.toNat t.bits e)
/-- A present key that is no element of a 32-bit register. -/
def State.badKey (e : Nat) : Bool :=
  !s.noKey a t e && (decide (s.keyOf a t e < 0) || decide ((s.g.grant / 32 : Nat) ≤ s.keyOf a t e))

/-- The active elements that have a key, each with it. -/
def State.keyed : List (Int × Nat) := (s.active.filter fun e => !s.noKey a t e).map fun e => (s.keyOf a t e, e)
/-- The active elements by key, those without one last. -/
def State.keyOrder : List Nat := (sortKeys (s.keyed a t)).map (fun x => x.2) ++ s.active.filter fun e => s.noKey a t e

theorem State.keyed_snd : (s.keyed a t).map (fun x => x.2) = s.active.filter fun e => !s.noKey a t e := by
  rw [State.keyed, List.map_map]
  exact List.map_id _

theorem State.mem_keyed {x : Int × Nat} (hx : x ∈ sortKeys (s.keyed a t)) : s.noKey a t x.2 = false ∧ x.1 = s.keyOf a t x.2 := by
  obtain ⟨e, he, rfl⟩ := List.mem_map.mp ((sortKeys_perm _).mem_iff.mp hx)
  exact ⟨by simpa using (List.mem_filter.mp he).2, rfl⟩

theorem State.keyOrder_perm : (s.keyOrder a t).Perm s.active := by
  have hkeyed : ((sortKeys (s.keyed a t)).map fun x => x.2).Perm (s.active.filter fun e => !s.noKey a t e) :=
    s.keyed_snd a t ▸ (sortKeys_perm _).map _
  refine (hkeyed.append_right _).trans ?_
  have hsplit := List.filter_append_perm (fun e => !s.noKey a t e) s.active
  simpa only [Bool.not_not] using hsplit

theorem State.keyOrder_pairwise : (s.keyOrder a t).Pairwise fun x y =>
    (s.noKey a t x = false ∧ s.noKey a t y = true) ∨
    (s.noKey a t x = false ∧ s.noKey a t y = false ∧ (s.keyOf a t x < s.keyOf a t y ∨ s.keyOf a t x = s.keyOf a t y ∧ x < y)) ∨
    (s.noKey a t x = true ∧ s.noKey a t y = true ∧ x < y) := by
  have hrising : (s.keyed a t).Pairwise fun x y => x.2 < y.2 :=
    List.pairwise_map.mp (s.keyed_snd a t ▸ s.active_pairwise.filter _)
  refine List.pairwise_append.mpr ⟨List.pairwise_map.mpr ?_, ?_, ?_⟩
  · refine (sortKeys_pairwise hrising).imp_of_mem fun {x y} hx hy hxy => ?_
    obtain ⟨hx, hkx⟩ := s.mem_keyed a t hx
    obtain ⟨hy, hky⟩ := s.mem_keyed a t hy
    exact .inr (.inl ⟨hx, hy, hkx ▸ hky ▸ hxy⟩)
  · refine (s.active_pairwise.filter _).imp_of_mem fun {x y} hx hy hxy => ?_
    exact .inr (.inr ⟨(List.mem_filter.mp hx).2, (List.mem_filter.mp hy).2, hxy⟩)
  · intro x hx y hy
    obtain ⟨z, hz, rfl⟩ := List.mem_map.mp hx
    exact .inl ⟨(s.mem_keyed a t hz).1, (List.mem_filter.mp hy).2⟩

theorem State.keyCount (k : Nat) : ((sortKeys (s.keyed a t)).filter fun x => decide (x.1 = (k : Int))).length =
    (s.active.filter fun e => !s.noKey a t e && decide (s.keyOf a t e = k)).length := by
  rw [((sortKeys_perm _).filter _).length_eq, State.keyed, List.filter_map, List.length_map, List.filter_filter]
  simp only [Function.comp_def, Bool.and_comm]

/-- What `vregroup` answers where every present key is in range. -/
def State.regrouped (d : VName) : State :=
  ((s.setEls d.toNat 32 ((List.range s.u.vl.toNat).map fun i => (i, (s.keyOrder a t).getD i 0x80000000))).setEls (d.toNat + 1) 32
    ((List.range (s.g.grant / 32)).map fun k => (k, (s.active.filter fun e => !s.noKey a t e && decide (s.keyOf a t e = k)).length))).raise
    { abs := s.active.any fun e => s.noKey a t e }

end

section
variable {s : State} {d a : VName} {t : Ty}

theorem execVregroup_illegal (h : t ≠ .i16 ∧ t ≠ .i32 ∨ a = d ∨ a.toNat = d.toNat + 1) :
    execVregroup d a t s = .next (s.raiseTrap { cause := 0x01 }) := by
  rw [execVregroup]
  rcases need_or_ill (s.vp.isNone = true ∧ (t = .i16 ∨ t = .i32)) with hn | hn
  · rw [hn, ok_bind]
    dsimp only
    rcases allM_needReg_or_ill s [d.toNat, d.toNat + 1, a.toNat] with hreg | hreg
    · have hsame : ¬ (a ≠ d ∧ a.toNat ≠ d.toNat + 1) := by
        rintro ⟨hd, hd1⟩
        rw [need_false _ _ _ (by tauto)] at hn
        cases hn
      rw [hreg, ok_bind, need_false _ _ _ hsame]
      rfl
    · rw [hreg, ill_bind]
      rfl
  · rw [hn]
    rfl

/-- `vregroup` looks for the first active element whose key is out of range (09 R265). -/
theorem execVregroup_ready (hv : s.vp = none) (ht : t = .i16 ∨ t = .i32) (hd : a ≠ d) (hd1 : a.toNat ≠ d.toNat + 1)
    (h : Claim.ready s 32 [d.toNat, d.toNat + 1, a.toNat]) :
    execVregroup d a t s = s.finish (match s.active.find? (s.badKey a t) with
      | some e => .error (.trap { cause := 0x0A, elem := BitVec.ofNat 64 e, idx := BitVec.ofInt 64 (s.keyOf a t e) })
      | none => .ok (s.regrouped a t d)) := by
  have hread : s.readable a.toNat := ready_readable h (by simp)
  rw [execVregroup, need_true _ _ _ ⟨by rw [hv]; rfl, ht⟩, ok_bind]
  dsimp only
  rw [ready_regs h (List.Subset.refl _), ok_bind, need_true _ _ _ ⟨hd, hd1⟩, ok_bind, State.needVl_ok s 32 (h.2.1 hv), ok_bind,
    State.needUnbound_readable (ready_readable h (by simp)), ok_bind, State.needUnbound_readable (ready_readable h (by simp)), ok_bind,
    State.srcHit_readable (by simpa using hread), ok_bind, List.find?_map]
  have hbad : (fun k : Nat × Nat => beforeHit none k.1 && !t.isAbsent k.2 && (decide (sextNat t.bits k.2 < 0) ||
      decide (sextNat t.bits k.2 ≥ (s.vlmax 32 : Nat)))) ∘ (fun e => (e, s.el a.toNat t.bits e)) = s.badKey a t := rfl
  rw [hbad]
  cases s.active.find? (s.badKey a t) with
  | some e => rfl
  | none =>
    have hkeyed : (((s.active.map fun e => (e, s.el a.toNat t.bits e)).filter fun k => !t.isAbsent k.2).map fun k => (sextNat t.bits k.2, k.1)) =
        s.keyed a t := by
      rw [List.filter_map, List.map_map]
      rfl
    have hlast : (((s.active.map fun e => (e, s.el a.toNat t.bits e)).filter fun k => t.isAbsent k.2).map fun k => k.1) =
        s.active.filter fun e => s.noKey a t e := by
      rw [List.filter_map, List.map_map]
      exact List.map_id _
    have habs : decide ((s.active.filter fun e => s.noKey a t e) ≠ []) = s.active.any fun e => s.noKey a t e := by
      rw [Bool.eq_iff_iff, decide_eq_true_iff, List.any_eq_true, Ne, List.filter_eq_nil_iff]
      simp
    rw [Option.map_none]
    dsimp only
    rw [raiseHit, ok_bind, hkeyed, hlast, habs]
    simp only [s.keyCount]
    rw [(((s.setEls_keepsBindings ..).trans (State.setEls_keepsBindings ..)).trans (State.raise_keepsBindings ..)).consume (by simpa using hread)]
    rfl

end

end Sys2Proof.Machine

namespace Sys2Proof.Proofs
open Sys2Proof.Machine

/-- Settles O28: the order is `State.keyOrder`. -/
theorem regroup : Obligations.Regroup := by
  unfold Obligations.Regroup
  refine ⟨fun s d a t _ hbad => execVregroup_illegal hbad, ?_⟩
  intro s d a t hv ht hd hd1 h key no m
  have hexec := execVregroup_ready hv ht hd hd1 h
  refine ⟨fun hrange => ⟨s.keyOrder a t, s.keyOrder_perm a t, s.keyOrder_pairwise a t, ?_⟩, fun e he => ?_⟩
  · have hnone : s.active.find? (s.badKey a t) = none := by
      refine List.find?_eq_none.mpr fun e he hbad => ?_
      obtain ⟨hno, hout⟩ := (Bool.and_eq_true _ _).mp hbad
      obtain ⟨hlo, hhi⟩ := hrange e he ((Bool.not_eq_true' _).mp hno)
      rcases (Bool.or_eq_true _ _).mp hout with h | h
      · exact absurd (of_decide_eq_true h) (not_lt.mpr hlo)
      · exact absurd (of_decide_eq_true h) (not_le.mpr hhi)
    rw [hnone] at hexec
    exact hexec
  · have he' : s.active.find? (s.badKey a t) = some e := he
    rw [he'] at hexec
    exact hexec

end Sys2Proof.Proofs
end

section
/-! PROOFS. The tree of a reduction (03 R89): by levels, in groups of the elements of 32 bytes, it is the tree over the whole vector. -/

namespace Sys2Proof.Machine

section
variable {α : Type} (op : α → α → α)

/-- Two leaves, or subtrees, combined: a missing one is passed over (03 R89). -/
def bothLeaves : Option α → Option α → Option α
  | some x, some y => some (op x y)
  | some x, none => some x
  | none, y => y

theorem bothLeaves_none (x : Option α) : bothLeaves op x none = x := by cases x <;> rfl

theorem block_succ (f : Nat → Option α) (j i : Nat) :
    Claim.block op f (j + 1) i = bothLeaves op (Claim.block op f j (2 * i)) (Claim.block op f j (2 * i + 1)) := by
  rw [Claim.block]
  cases Claim.block op f j (2 * i) <;> cases Claim.block op f j (2 * i + 1) <;> rfl

/-- A tree whose lowest level is combined first. -/
theorem block_pairs (f : Nat → Option α) (j i : Nat) :
    Claim.block op f (j + 1) i = Claim.block op (fun k => bothLeaves op (f (2 * k)) (f (2 * k + 1))) j i := by
  induction j generalizing i with
  | zero => exact block_succ op f 0 i
  | succ j ih => rw [block_succ, ih, ih, ← block_succ]

/-- A tree of trees. -/
theorem block_add (f : Nat → Option α) (j m i : Nat) : Claim.block op f (j + m) i = Claim.block op (fun k => Claim.block op f m k) j i := by
  induction j generalizing i with
  | zero => rw [Nat.zero_add]; rfl
  | succ j ih => rw [Nat.add_right_comm, block_succ, ih, ih, ← block_succ]

theorem block_none {f : Nat → Option α} (h : ∀ k, f k = none) (j i : Nat) : Claim.block op f j i = none := by
  induction j generalizing i with
  | zero => exact h i
  | succ j ih => rw [block_succ, ih, ih]; rfl

/-- A tree with one leaf, the first. -/
theorem block_first {f : Nat → Option α} (h : ∀ k, 0 < k → f k = none) (j : Nat) : Claim.block op f j 0 = f 0 := by
  induction j generalizing f with
  | zero => rfl
  | succ j ih =>
    rw [block_pairs, ih fun k hk => by rw [h _ (by omega), h _ (by omega)]; rfl, Nat.mul_zero, h (0 + 1) (by decide), bothLeaves_none]

/-- Trees over the same leaves in the same order. -/
theorem block_shift {f g : Nat → Option α} {j i k : Nat} (h : ∀ x < 2 ^ j, f (2 ^ j * i + x) = g (2 ^ j * k + x)) :
    Claim.block op f j i = Claim.block op g j k := by
  induction j generalizing i k with
  | zero =>
    show f i = g k
    simpa using h 0 (by decide)
  | succ j ih =>
    have hdouble : ∀ n, 2 ^ (j + 1) * n = 2 ^ j * (2 * n) := fun n => by rw [Nat.pow_succ, Nat.mul_assoc]
    rw [block_succ, block_succ, ih fun x hx => ?_, ih fun x hx => ?_]
    · rw [Nat.mul_add_one, Nat.mul_add_one, ← hdouble, ← hdouble, Nat.add_assoc, Nat.add_assoc]
      exact h (2 ^ j + x) (by omega)
    · rw [← hdouble, ← hdouble]
      exact h x (by omega)

/-! Levels. -/

theorem pairUp_cons_cons (x y : Option α) (r : List (Option α)) : pairUp op (x :: y :: r) = bothLeaves op x y :: pairUp op r := by
  cases x <;> cases y <;> rfl

theorem pairUp_single (x : Option α) : pairUp op [x] = [x] := by cases x <;> rfl

theorem getD_pairUp : ∀ (l : List (Option α)) (i : Nat),
    (pairUp op l).getD i none = bothLeaves op (l.getD (2 * i) none) (l.getD (2 * i + 1) none)
  | [], _ => rfl
  | [x], 0 => by rw [pairUp_single]; exact (bothLeaves_none op x).symm
  | [x], i + 1 => by rw [pairUp_single]; rfl
  | x :: y :: r, 0 => by rw [pairUp_cons_cons]; rfl
  | x :: y :: r, i + 1 => by
    rw [pairUp_cons_cons, List.getD_cons_succ, getD_pairUp r i]
    rfl

theorem length_pairUp : ∀ l : List (Option α), (pairUp op l).length = (l.length + 1) / 2
  | [] => by simp [pairUp]
  | [x] => by rw [pairUp_single]; simp
  | x :: y :: r => by
    rw [pairUp_cons_cons, List.length_cons, length_pairUp r, List.length_cons, List.length_cons]
    omega

theorem treeGo_eq_block (n : Nat) {l : List (Option α)} {j : Nat} (hn : l.length ≤ n) (hj : l.length ≤ 2 ^ j) :
    treeGo op n l = Claim.block op (fun i => l.getD i none) j 0 := by
  induction n generalizing l j with
  | zero =>
    rw [List.eq_nil_of_length_eq_zero (Nat.le_zero.mp hn)]
    exact (block_none op (fun _ => rfl) j 0).symm
  | succ n ih =>
    match l, j with
    | [], j => exact (block_none op (fun _ => rfl) j 0).symm
    | [x], j => exact (block_first op (f := fun i => [x].getD i none) (fun k hk => by obtain ⟨k, rfl⟩ := Nat.exists_eq_add_of_lt hk; simp) j).symm
    | x :: y :: r, 0 => exact absurd hj (by simp)
    | x :: y :: r, j + 1 =>
      have hlen := length_pairUp op (x :: y :: r)
      rw [List.length_cons, List.length_cons] at hn hj hlen
      rw [Nat.pow_succ] at hj
      have hlevel : treeGo op (n + 1) (x :: y :: r) = treeGo op n (pairUp op (x :: y :: r)) := rfl
      rw [hlevel, ih (j := j) (by omega) (by omega), block_pairs]
      simp only [getD_pairUp]

theorem tree_eq_block {l : List (Option α)} {j : Nat} (h : l.length ≤ 2 ^ j) : tree op l = Claim.block op (fun i => l.getD i none) j 0 :=
  treeGo_eq_block op l.length le_rfl h

/-! Groups. -/

theorem length_chunks {β : Type} (k n : Nat) (l : List β) : (chunks k n l).length = n := by
  induction n generalizing l with
  | zero => rfl
  | succ n ih => rw [chunks, List.length_cons, ih]

theorem getD_chunks {β γ : Type} {k n : Nat} {l : List β} (h : l.length ≤ n * k) {g : List β → Option γ} (hg : g [] = none) (i : Nat) :
    ((chunks k n l).map g).getD i none = g ((l.drop (k * i)).take k) := by
  induction n generalizing l i with
  | zero =>
    have hl : l = [] := List.eq_nil_of_length_eq_zero (by simpa using h)
    rw [hl, List.drop_nil, List.take_nil, hg]
    rfl
  | succ n ih =>
    rw [chunks, List.map_cons]
    cases i with
    | zero => rfl
    | succ i =>
      rw [List.getD_cons_succ, ih (by rw [List.length_drop]; rw [Nat.add_one_mul] at h; omega), List.drop_drop, Nat.mul_add_one, Nat.add_comm k]

/-- A reduction over at most 2^j leaves, in groups of 2^m, is the tree of 03 R89. -/
theorem reduce_eq_block {w m j : Nat} (hw : 256 / w = 2 ^ m) (hm : m ≤ j) {l : List (Option α)} (hl : l.length ≤ 2 ^ j) :
    reduce op w l = Claim.block op (fun i => l.getD i none) j 0 := by
  have hpos : 0 < 2 ^ m := by positivity
  have hj : 2 ^ j = 2 ^ (j - m) * 2 ^ m := by rw [← Nat.pow_add, Nat.sub_add_cancel hm]
  have hcover : l.length ≤ (l.length + 2 ^ m - 1) / 2 ^ m * 2 ^ m := by
    have := Nat.lt_div_mul_add (a := l.length + 2 ^ m - 1) hpos
    omega
  have hgroups : (l.length + 2 ^ m - 1) / 2 ^ m ≤ 2 ^ (j - m) := by
    refine Nat.lt_succ_iff.mp ((Nat.div_lt_iff_lt_mul hpos).mpr ?_)
    rw [Nat.succ_mul]
    omega
  have hgroup : ∀ i, tree op ((l.drop (2 ^ m * i)).take (2 ^ m)) = Claim.block op (fun i => l.getD i none) m i := by
    intro i
    rw [tree_eq_block op (j := m) (List.length_take_le ..)]
    refine block_shift op fun x hx => ?_
    simp [List.getD_eq_getElem?_getD, List.getElem?_drop, hx]
  rw [reduce, hw, tree_eq_block op (j := j - m) (by rw [List.length_map, length_chunks]; exact hgroups)]
  simp only [getD_chunks hcover (g := tree op) rfl, hgroup]
  rw [← block_add, Nat.sub_add_cancel hm]

end

end Sys2Proof.Machine
end

section
/-! PROOFS. Reductions (09 R262): their leaves, what a tree of present elements gives, and the write of c[d]. -/

namespace Sys2Proof.Machine

/-! What a reduction gives of its present leaves. -/

section
variable {α : Type} {op : α → α → α}

/-- The leaves below a node of the tree that are there, in order. -/
def presentBelow (f : Nat → Option α) (j i : Nat) : List α := (List.range (2 ^ j)).filterMap fun x => f (2 ^ j * i + x)

theorem presentBelow_succ (f : Nat → Option α) (j i : Nat) :
    presentBelow f (j + 1) i = presentBelow f j (2 * i) ++ presentBelow f j (2 * i + 1) := by
  have hdouble : 2 ^ (j + 1) * i = 2 ^ j * (2 * i) := by rw [Nat.pow_succ, Nat.mul_assoc]
  rw [presentBelow, show 2 ^ (j + 1) = 2 ^ j + 2 ^ j by rw [Nat.pow_succ, Nat.mul_two], List.range_add, List.filterMap_append, List.filterMap_map]
  rw [← Nat.two_mul, Nat.mul_comm 2, ← Nat.pow_succ, hdouble]
  simp only [presentBelow, Function.comp_def, Nat.mul_add_one, Nat.add_assoc]

/-- A relation between leaves and result that holds of one leaf, and of a combination where it holds of its parts, holds of the tree; a tree
without a leaf has no result. -/
theorem block_induction {f : Nat → Option α} (P : List α → α → Prop) (hone : ∀ x, P [x] x)
    (hop : ∀ xs ys x y, P xs x → P ys y → P (xs ++ ys) (op x y)) (j i : Nat) :
    (Claim.block op f j i = none → presentBelow f j i = []) ∧ ∀ x, Claim.block op f j i = some x → P (presentBelow f j i) x := by
  induction j generalizing i with
  | zero =>
    have hleaf : presentBelow f 0 i = (f i).toList := by
      rw [presentBelow, Nat.pow_zero, Nat.one_mul, List.range_one, List.filterMap_cons, List.filterMap_nil, Nat.add_zero]
      cases f i <;> rfl
    rw [hleaf]
    show (f i = none → _) ∧ ∀ x, f i = some x → _
    cases f i with
    | none => exact ⟨fun _ => rfl, fun x h => absurd h (by simp)⟩
    | some y => exact ⟨fun h => absurd h (by simp), fun x h => Option.some.inj h ▸ hone y⟩
  | succ j ih =>
    obtain ⟨hnl, hsl⟩ := ih (2 * i)
    obtain ⟨hnr, hsr⟩ := ih (2 * i + 1)
    rw [block_succ, presentBelow_succ]
    generalize Claim.block op f j (2 * i) = l at hnl hsl ⊢
    generalize Claim.block op f j (2 * i + 1) = r at hnr hsr ⊢
    match l, r with
    | none, none => exact ⟨fun _ => by rw [hnl rfl, hnr rfl]; rfl, fun x h => absurd h (by simp [bothLeaves])⟩
    | none, some y => exact ⟨fun h => absurd h (by simp [bothLeaves]), fun x h => by rw [hnl rfl]; exact hsr x h⟩
    | some y, none => exact ⟨fun h => absurd h (by simp [bothLeaves]), fun x h => by rw [hnr rfl, List.append_nil]; exact hsl x h⟩
    | some y, some z =>
      refine ⟨fun h => absurd h (by simp [bothLeaves]), fun x h => ?_⟩
      have hx : op y z = x := Option.some.inj h
      exact hx ▸ hop _ _ y z (hsl y rfl) (hsr z rfl)

theorem presentBelow_getD {l : List (Option α)} {j : Nat} (h : l.length ≤ 2 ^ j) :
    presentBelow (fun i => l.getD i none) j 0 = l.filterMap id := by
  obtain ⟨k, hk⟩ := Nat.exists_eq_add_of_le h
  have hlist : (List.range (l.length + k)).map (fun i => l.getD i none) = l ++ List.replicate k none := by
    refine List.ext_getElem (by simp) fun i hi _ => ?_
    rw [List.getElem_map, List.getElem_range, List.getElem_append]
    split
    · next hlt => rw [List.getD_eq_getElem?_getD, List.getElem?_eq_getElem hlt, Option.getD_some]
    · next hge => rw [List.getD_eq_getElem?_getD, List.getElem?_eq_none (Nat.not_lt.mp hge), List.getElem_replicate, Option.getD_none]
  have hmap : presentBelow (fun i => l.getD i none) j 0 = ((List.range (2 ^ j)).map fun i => l.getD i none).filterMap id := by
    rw [presentBelow, List.filterMap_map]
    simp only [Nat.mul_zero, Nat.zero_add, Function.comp_def, id_eq]
  rw [hmap, hk, hlist, List.filterMap_append, List.filterMap_replicate_of_none rfl, List.append_nil]

/-- The same of a reduction over a vector of the width of the elements. -/
theorem reduce_induction {w m : Nat} (hw : 256 / w = 2 ^ m) (hm : m ≤ 12) {l : List (Option α)} (hl : l.length ≤ 2 ^ 12)
    (P : List α → α → Prop) (hone : ∀ x, P [x] x) (hop : ∀ xs ys x y, P xs x → P ys y → P (xs ++ ys) (op x y)) :
    (reduce op w l = none → l.filterMap id = []) ∧ ∀ x, reduce op w l = some x → P (l.filterMap id) x := by
  rw [reduce_eq_block op hw hm hl, ← presentBelow_getD hl]
  exact block_induction P hone hop 12 0

end

/-! The leaves of a reduction. -/

section
variable (s : State) (a : VName) (t : Ty)

/-- A leaf: an element below `vl` that is active and present (09 R262). -/
def State.leaf (e : Nat) : Option Nat :=
  if e < s.u.vl.toNat ∧ s.eff e = true ∧ t.isAbsent (s.el a.toNat t.bits e) = false then some (s.el a.toNat t.bits e) else none

/-- The present active elements. -/
def State.present : List Nat := (s.active.map fun e => s.el a.toNat t.bits e).filter fun x => !t.isAbsent x

theorem State.leaves_eq : s.leaves a t = (List.range s.u.vl.toNat).map (s.leaf a t) := by
  refine List.map_congr_left fun e he => ?_
  have hlt := List.mem_range.mp he
  simp [State.leaf, hlt]

theorem State.length_leaves : (s.leaves a t).length ≤ 2 ^ 12 := by
  rw [State.leaves_eq, List.length_map, List.length_range]
  exact s.u.vl.isLt.le

theorem State.leaves_getD (e : Nat) : (s.leaves a t).getD e none = s.leaf a t e := by
  rw [State.leaves_eq, List.getD_eq_getElem?_getD, List.getElem?_map]
  rcases Nat.lt_or_ge e s.u.vl.toNat with h | h
  · rw [List.getElem?_range h]
    rfl
  · rw [List.getElem?_eq_none (by simpa using h), State.leaf, if_neg fun hl => absurd hl.1 (Nat.not_lt.mpr h)]
    rfl

theorem State.leaves_present : (s.leaves a t).filterMap id = s.present a t := by
  rw [State.leaves, State.present, State.active, State.activeBelow, List.filterMap_map]
  induction List.range s.u.vl.toNat with
  | nil => rfl
  | cons e l ih =>
    rw [List.filterMap_cons, List.filter_cons, ih]
    cases heff : s.eff e <;> cases hx : t.isAbsent (s.el a.toNat t.bits e) <;> simp [heff, hx]

theorem State.redCount_eq : s.redCount a t = (s.present a t).length := by
  rw [State.redCount, ← State.leaves_present]
  induction s.leaves a t with
  | nil => rfl
  | cons x l ih => cases x <;> simp [ih]

theorem State.skipped_eq : s.skipped a t = decide ((s.present a t).length ≠ s.active.length) := by
  have hlen : (s.present a t).length = s.active.length ↔ ∀ x ∈ s.active.map fun e => s.el a.toNat t.bits e, (!t.isAbsent x) = true := by
    rw [← List.length_filter_eq_length_iff, List.length_map]
    rfl
  rw [Bool.eq_iff_iff, decide_eq_true_iff, Ne, hlen, State.skipped, List.any_eq_true]
  simp

end

end Sys2Proof.Machine
end

section
/-! PROOFS. Reductions (09 R262): sums and extremes of integers, of floating-point elements, and the write of c[d]. -/

namespace Sys2Proof.Machine

/-- Elements of every vector type come in a power of two to the 32 bytes. -/
theorem group_of_six {t : Ty} (h : t.six = true) : ∃ m ≤ 12, 256 / t.bits = 2 ^ m := by
  cases t
  case i8 => exact ⟨5, by decide, rfl⟩
  case i16 | f16 | bf16 => exact ⟨4, by decide, rfl⟩
  case i32 | f32 => exact ⟨3, by decide, rfl⟩
  case i64 | f64 => cases h

/-- `y` comes before `x` in the order of an extreme, or is level with it (03 R84). -/
def outranks (big : Bool) (x y : Int) : Prop := if big then x ≤ y else y ≤ x

theorem outranks_refl {big : Bool} {x : Int} : outranks big x x := by cases big <;> exact le_refl x

theorem outranks_trans {big : Bool} {x y z : Int} (h : outranks big x y) (k : outranks big y z) : outranks big x z := by
  cases big
  · exact le_trans (α := Int) k h
  · exact le_trans (α := Int) h k

section
variable (s : State) (a : VName) {t : Ty}

/-- A reduction over the leaves, each first put into another form. -/
theorem State.reduce_leaves {α : Type} (op : α → α → α) (g : Nat → α) (ht : t.six = true) :
    reduce op t.bits ((s.leaves a t).map fun l => l.map g) = Claim.block op (fun e => (s.leaf a t e).map g) 12 0 := by
  obtain ⟨m, hm, hw⟩ := group_of_six ht
  rw [reduce_eq_block op hw hm (by rw [List.length_map]; exact s.length_leaves a t)]
  congr 1
  funext e
  rw [← State.leaves_getD]
  exact List.getD_map _ none (fun l : Option Nat => l.map g)

theorem State.reduce_present {α : Type} {op : α → α → α} (g : Nat → α) (ht : t.six = true) (P : List α → α → Prop) (hone : ∀ x, P [x] x)
    (hop : ∀ xs ys x y, P xs x → P ys y → P (xs ++ ys) (op x y)) :
    (reduce op t.bits ((s.leaves a t).map fun l => l.map g) = none → s.present a t = []) ∧
    ∀ x, reduce op t.bits ((s.leaves a t).map fun l => l.map g) = some x → P ((s.present a t).map g) x := by
  obtain ⟨m, hm, hw⟩ := group_of_six ht
  have hpresent : ((s.leaves a t).map fun l => l.map g).filterMap id = (s.present a t).map g := by
    rw [← State.leaves_present, List.filterMap_map, List.map_filterMap]
    rfl
  rw [← hpresent, ← List.map_eq_nil_iff (f := g), ← hpresent]
  exact reduce_induction hw hm (by rw [List.length_map]; exact s.length_leaves a t) P hone hop

/-- The sum of the present elements of an integer type, exact. -/
theorem State.reduce_sum (ht : t.six = true) :
    reduce (fun (x y : Int) => x + y) t.bits ((s.leaves a t).map fun l => l.map (sextNat t.bits)) =
      if (s.present a t).map (sextNat t.bits) = [] then none else some ((s.present a t).map (sextNat t.bits)).sum := by
  obtain ⟨hnone, hsome⟩ := s.reduce_present a (op := fun (x y : Int) => x + y) (sextNat t.bits) ht (fun xs x => xs ≠ [] ∧ x = xs.sum)
    (fun x => ⟨by simp, by simp⟩) fun xs ys x y ⟨hxs, hx⟩ ⟨_, hy⟩ => ⟨by simp [hxs], by rw [hx, hy, List.sum_append]⟩
  generalize reduce (fun (x y : Int) => x + y) t.bits ((s.leaves a t).map fun l => l.map (sextNat t.bits)) = r at hnone hsome ⊢
  cases r with
  | none => rw [hnone rfl]; rfl
  | some x =>
    obtain ⟨hne, hx⟩ := hsome x rfl
    rw [if_neg hne, hx]

theorem State.redSum_int (hi : t.isInt = true) (ht : t.six = true) : s.redSum a t =
    (let xs := (s.present a t).map (sextNat t.bits)
     (if xs = [] then 0x80000000 else (satInt 32 xs.sum).bits, {}, decide (xs ≠ []) && (satInt 32 xs.sum).vo)) := by
  rw [State.redSum, if_pos hi, s.reduce_sum a ht]
  by_cases h : (s.present a t).map (sextNat t.bits) = []
  · rw [h]
    rfl
  · simp [h]

/-- An integer extreme of two is one of them, raises nothing, and neither beats it. -/
theorem BinOp.eval_extreme_int (big : Bool) (rm : RMode) (hi : t.fmt? = none) (x y : Nat) :
    let r := BinOp.eval (if big then .max else .min) t rm x y
    r.fl = {} ∧ (r.bits = x ∨ r.bits = y) ∧ outranks big (sextNat t.bits x) (sextNat t.bits r.bits) ∧
      outranks big (sextNat t.bits y) (sextNat t.bits r.bits) := by
  cases big
  · rw [if_neg Bool.false_ne_true, BinOp.eval_min_int hi]
    simp only [outranks, Bool.false_eq_true, if_false]
    split
    · next h => exact ⟨trivial, .inl rfl, le_refl _, h⟩
    · next h => exact ⟨trivial, .inr rfl, le_of_not_ge h, le_refl _⟩
  · rw [if_pos rfl, BinOp.eval_max_int hi]
    simp only [outranks, if_true]
    split
    · next h => exact ⟨trivial, .inl rfl, le_refl _, h⟩
    · next h => exact ⟨trivial, .inr rfl, le_of_not_ge h, le_refl _⟩

/-- The extreme of integer elements is a present one that none beats, and raises nothing. -/
theorem State.redExt_int (big : Bool) (hi : t.fmt? = none) (ht : t.six = true) :
    (s.present a t = [] ∧ s.redExt big a t = (t.absentCode, {})) ∨
    (s.redExt big a t).2 = {} ∧ (s.redExt big a t).1 ∈ s.present a t ∧
      ∀ x ∈ s.present a t, outranks big (sextNat t.bits x) (sextNat t.bits (s.redExt big a t).1) := by
  have hleaf : extLeaf t = fun x => (x, {}) := funext fun x => by rw [extLeaf, hi]
  obtain ⟨hnone, hsome⟩ := s.reduce_present a (op := fun (x y : Nat × Sticky) =>
      ((BinOp.eval (if big then .max else .min) t s.u.rm x.1 y.1).bits,
        (x.2.or y.2).or (BinOp.eval (if big then .max else .min) t s.u.rm x.1 y.1).fl)) (extLeaf t) ht
    (fun xs x => (∀ y ∈ xs, y.2 = {}) → x ∈ xs ∧ ∀ y ∈ xs, outranks big (sextNat t.bits y.1) (sextNat t.bits x.1))
    (fun x _ => ⟨List.mem_singleton_self x, fun y hy => List.mem_singleton.mp hy ▸ outranks_refl⟩) fun xs ys x y hx hy hquiet => by
      obtain ⟨hxm, hxs⟩ := hx fun z hz => hquiet z (List.mem_append_left _ hz)
      obtain ⟨hym, hys⟩ := hy fun z hz => hquiet z (List.mem_append_right _ hz)
      have hxq := hquiet x (List.mem_append_left _ hxm)
      have hyq := hquiet y (List.mem_append_right _ hym)
      obtain ⟨hfl, hpick, hl, hr⟩ := BinOp.eval_extreme_int big s.u.rm hi x.1 y.1
      refine ⟨?_, fun z hz => ?_⟩
      · rw [hfl, hxq, hyq]
        rcases hpick with hp | hp <;> rw [hp]
        · exact List.mem_append_left _ (show (x.1, ({} : Sticky)) ∈ xs from hxq ▸ hxm)
        · exact List.mem_append_right _ (show (y.1, ({} : Sticky)) ∈ ys from hyq ▸ hym)
      · rcases List.mem_append.mp hz with h | h
        · exact outranks_trans (hxs z h) hl
        · exact outranks_trans (hys z h) hr
  rw [hleaf] at hnone hsome
  rw [State.redExt, hleaf]
  dsimp only
  generalize reduce _ t.bits _ = r at hnone hsome ⊢
  cases r with
  | none => exact .inl ⟨hnone rfl, rfl⟩
  | some x =>
    obtain ⟨hmem, hall⟩ := hsome x rfl fun y hy => by
      obtain ⟨z, _, rfl⟩ := List.mem_map.mp hy
      rfl
    obtain ⟨z, hz, rfl⟩ := List.mem_map.mp hmem
    exact .inr ⟨rfl, hz, fun y hy => hall (y, {}) (List.mem_map_of_mem hy)⟩

end

end Sys2Proof.Machine
end

section
/-! PROOFS. What a reduction answers (09 R262): the write of c[d], its flags and the vo bit 0. -/

namespace Sys2Proof.Machine

/-- Setting bit 0. -/
theorem setBits_zero (m : BitVec 2048) : setBits 2048 m [0] = m ||| 1 := by
  rw [setBits, List.foldl_cons, List.foldl_nil, BitVec.shiftLeft_zero, BitVec.ofNat_eq_ofNat]

section
variable (s : State) (d : CReg)

/-- The state that a reduction answers. -/
def State.reduced (f : Nat × Sticky × Bool) : State :=
  let q := (s.setC d (w64 f.1)).raise f.2.1
  if f.2.2 then q.setVo [0] else q

theorem State.reduced_keepsBindings (f : Nat × Sticky × Bool) : s.KeepsBindings (s.reduced d f) := by
  have hput := (s.setC_keepsBindings d (w64 f.1)).trans (State.raise_keepsBindings _ f.2.1)
  rw [State.reduced]
  cases f.2.2
  · exact hput
  · exact hput.trans (State.setVo_keepsBindings _ _)

/-- The answer `o` is `s` with `y` in c[d], flags merged, and the vo bit 0 set where the result saturated. -/
def State.Reduces (y : Word) (fl : Sticky) (vo : Bool) (o : Out) : Prop :=
  ∃ u, o = .next u ∧ ∃ q, Claim.wroteC s q d y ∧
    u = { q with g := { q.g with sticky := s.g.sticky.or fl, vo := if vo then s.g.vo ||| 1 else s.g.vo }, trace := u.trace }

theorem State.setC_flags (y : Word) : (s.setC d y).g.sticky = s.g.sticky ∧ (s.setC d y).g.vo = s.g.vo := by
  unfold State.setC
  split <;> exact ⟨rfl, rfl⟩

theorem State.reduces_reduced (n : Nat) (fl : Sticky) (vo : Bool) : s.Reduces d (w64 n) fl vo (.next (s.reduced d (n, fl, vo))) := by
  obtain ⟨hsticky, hvo⟩ := s.setC_flags d (w64 n)
  refine ⟨_, rfl, _, s.setC_wroteC d (w64 n), ?_⟩
  rw [← hsticky, ← hvo, State.reduced]
  cases vo
  · rfl
  · dsimp only
    rw [if_pos rfl, if_pos rfl, ← setBits_zero, State.setVo_frame]
    rfl

section
variable {s} {t : Ty} {rs src : List Nat} (h : Claim.ready s t.bits rs) (hs : src ⊆ rs) (hv : s.vp = none) (ht : t.six = true)
include h hs hv ht

/-- A reduction of an admitted type, on registers that are in order. -/
theorem ready_reduction (f : Nat × Sticky × Bool) : s.finish (s.reduction d src t f) = .next (s.reduced d f) := by
  rw [State.reduction, need_true _ _ _ ⟨by rw [hv]; rfl, ht⟩, ready_vcheck h hs (List.nil_subset _)]
  show s.finish (.ok ((s.reduced d f).consume src)) = _
  rw [(s.reduced_keepsBindings d f).consume fun r hr => ready_readable h (hs hr)]
  rfl

theorem ready_reduces {n : Nat} {y : Word} (hy : w64 n = y) (fl : Sticky) (vo : Bool) :
    s.Reduces d y fl vo (s.finish (s.reduction d src t (n, fl, vo))) := by
  rw [ready_reduction d h hs hv ht, ← hy]
  exact s.reduces_reduced d n fl vo

/-- One that sets no vo bit leaves the note for a lookahead as it was. -/
theorem ready_reduces_unsaturated (n : Nat) (fl : Sticky) :
    ∃ u, s.finish (s.reduction d src t (n, fl, false)) = .next u ∧
      ∃ q, Claim.wroteC s q d (BitVec.ofNat 64 n) ∧ u = { q with g := { q.g with sticky := s.g.sticky.or fl } } := by
  refine ⟨_, ready_reduction d h hs hv ht _, _, s.setC_wroteC d (w64 n), ?_⟩
  rw [← (s.setC_flags d (w64 n)).1]
  rfl

end

end

theorem w64_toNat (x : Word) : w64 x.toNat = x := by simp [w64]

section
variable (s : State) (a : VName) {t : Ty}

/-- Integer reductions raise ABS where an active element is absent, and nothing else. -/
theorem State.redAbs_quiet : s.redAbs a t {} = { abs := decide ((s.present a t).length ≠ s.active.length) } := by
  rw [State.redAbs, s.skipped_eq a t]
  rfl

/-- The extreme of integer elements, sign-extended: the greatest or the least of the present ones, or the absent code. -/
theorem State.redExt_value (ht : t = .i8 ∨ t = .i16 ∨ t = .i32) (big : Bool) : sextNat t.bits (s.redExt big a t).1 =
    (let xs := (s.present a t).map (sextNat t.bits)
     (if big then xs.max? else xs.min?).getD (-2 ^ (t.bits - 1))) := by
  have hsix : t.six = true := by rcases ht with rfl | rfl | rfl <;> rfl
  rcases s.redExt_int a big (vectorInt_spec ht).1 hsix with ⟨hempty, hext⟩ | ⟨-, hmem, hall⟩
  · have hno : sextNat t.bits t.absentCode = -2 ^ (t.bits - 1) := by rcases ht with rfl | rfl | rfl <;> decide
    rw [hext, hno, hempty]
    cases big <;> rfl
  · have hin := List.mem_map_of_mem (f := sextNat t.bits) hmem
    generalize sextNat t.bits (s.redExt big a t).1 = x at hall hin ⊢
    have hbound : ∀ y ∈ (s.present a t).map (sextNat t.bits), outranks big y x := by
      intro y hy
      obtain ⟨z, hz, rfl⟩ := List.mem_map.mp hy
      exact hall z hz
    cases big
    · show x = ((s.present a t).map (sextNat t.bits)).min?.getD _
      rw [List.min?_eq_some_iff.mpr ⟨hin, hbound⟩, Option.getD_some]
    · show x = ((s.present a t).map (sextNat t.bits)).max?.getD _
      rw [List.max?_eq_some_iff.mpr ⟨hin, hbound⟩, Option.getD_some]

theorem State.redExt_quiet (ht : t = .i8 ∨ t = .i16 ∨ t = .i32) (big : Bool) : (s.redExt big a t).2 = {} := by
  have hsix : t.six = true := by rcases ht with rfl | rfl | rfl <;> rfl
  rcases s.redExt_int a big (vectorInt_spec ht).1 hsix with ⟨-, hext⟩ | ⟨hquiet, -, -⟩
  · rw [hext]
  · exact hquiet

/-- The sum of floating-point elements, along the tree of 03 R89. -/
theorem State.redSum_float (hi : t.isInt = false) (ht : t.six = true) : s.redSum a t =
    (let r := (Claim.block (addF32 s.u.rm) (fun e => (s.leaf a t e).map (widen t)) 12 0).getD (Ty.f32.absentCode, {})
     (r.1, r.2, false)) := by
  rw [State.redSum, if_neg (by rw [hi]; exact Bool.false_ne_true), s.reduce_leaves a _ _ ht]
  cases Claim.block (addF32 s.u.rm) (fun e => (s.leaf a t e).map (widen t)) 12 0 <;> rfl

/-- The extreme element, along the same tree. -/
theorem State.redExt_block (ht : t.six = true) (big : Bool) : s.redExt big a t =
    (Claim.block (fun (x y : Nat × Sticky) =>
      let r := BinOp.eval (if big then .max else .min) t s.u.rm x.1 y.1
      (r.bits, (x.2.or y.2).or r.fl)) (fun e => (s.leaf a t e).map (extLeaf t)) 12 0).getD (t.absentCode, {}) := by
  rw [State.redExt]
  dsimp only
  rw [s.reduce_leaves a _ _ ht]
  generalize Claim.block _ _ 12 0 = r
  cases r <;> rfl

theorem State.redCount_leaf : s.redCount a t = ((List.range s.u.vl.toNat).filter fun e => (s.leaf a t e).isSome).length := by
  rw [State.redCount, State.leaves_eq, List.filter_map, List.length_map]
  rfl

end

end Sys2Proof.Machine
end

section
/-! PROOFS. Reductions (09 R262, 03 R69, R72, R84, R89). -/

namespace Sys2Proof.Machine

section
variable {s : State} {t : Ty} {a : VName} (h : Claim.ready s t.bits [a.toNat]) (hv : s.vp = none) (d : CReg) (la : BitVec 4)
include h hv

/-- Reductions of integer elements, by what the model computes. -/
theorem reductions_int (ht : t = .i8 ∨ t = .i16 ∨ t = .i32) :
    let ps := s.present a t
    let xs := ps.map (sextNat t.bits)
    let sum := satInt 32 xs.sum
    let val := fun (x : Nat) => if xs = [] then (0x80000000 : Nat) else x
    let ab : Sticky := { abs := decide (ps.length ≠ s.active.length) }
    let sat := decide (xs ≠ []) && sum.vo
    s.Reduces d (BitVec.ofInt 64 (sextNat 32 (val sum.bits))) ab sat (exec (.vredSum d a t la) s) ∧
    s.Reduces d (BitVec.ofNat 64 (val sum.bits + ps.length * 2 ^ 32)) ab sat (exec (.vredSumc d a t la) s) ∧
    s.Reduces d (BitVec.ofInt 64 (xs.max?.getD (-2 ^ (t.bits - 1)))) ab false (exec (.vredMax d a t la) s) ∧
    s.Reduces d (BitVec.ofInt 64 (xs.min?.getD (-2 ^ (t.bits - 1)))) ab false (exec (.vredMin d a t la) s) ∧
    s.Reduces d (BitVec.ofNat 64 ps.length) ab false (exec (.vredCnt d a t la) s) := by
  obtain ⟨hint, hsix⟩ : t.isInt = true ∧ t.six = true := by rcases ht with rfl | rfl | rfl <;> exact ⟨rfl, rfl⟩
  have hext : ∀ big, w64 (t.toC (s.redExt big a t).1).toNat = BitVec.ofInt 64 (let xs := (s.present a t).map (sextNat t.bits)
      (if big then xs.max? else xs.min?).getD (-2 ^ (t.bits - 1))) := fun big => by
    rw [w64_toNat, Ty.toC, if_pos hint, s.redExt_value a ht big]
  have hsum := s.redSum_int a hint hsix
  refine ⟨?_, ?_, ?_, ?_, ?_⟩
  · show s.Reduces d _ _ _ (execVredSum d a t la s)
    rw [execVredSum, hsum, if_pos hint, s.redAbs_quiet a]
    exact ready_reduces d h (List.Subset.refl _) hv hsix (w64_toNat _) _ _
  · show s.Reduces d _ _ _ (execVredSumc d a t la s)
    rw [execVredSumc, hsum, s.redAbs_quiet a, s.redCount_eq a t]
    exact ready_reduces d h (List.Subset.refl _) hv hsix rfl _ _
  · show s.Reduces d _ _ _ (execVredMax d a t la s)
    rw [execVredMax, s.redExt_quiet a ht, s.redAbs_quiet a]
    exact ready_reduces d h (List.Subset.refl _) hv hsix (hext true) _ _
  · show s.Reduces d _ _ _ (execVredMin d a t la s)
    rw [execVredMin, s.redExt_quiet a ht, s.redAbs_quiet a]
    exact ready_reduces d h (List.Subset.refl _) hv hsix (hext false) _ _
  · show s.Reduces d _ _ _ (execVredCnt d a t la s)
    rw [execVredCnt, s.redAbs_quiet a, s.redCount_eq a t]
    exact ready_reduces d h (List.Subset.refl _) hv hsix rfl _ _

/-- Reductions of the mask. -/
theorem reductions_mask (ht : t.six = true) :
    s.Reduces d (BitVec.ofNat 64 s.active.length) {} false (exec (.vredPopc d t la) s) ∧
    s.Reduces d (match s.active with | e :: _ => BitVec.ofNat 64 e | [] => BitVec.ofInt 64 (-1)) {} false (exec (.vredFirst d t la) s) := by
  refine ⟨ready_reduces d h (List.nil_subset _) hv ht rfl _ _, ready_reduces d h (List.nil_subset _) hv ht ?_ _ _⟩
  cases s.active with
  | nil => decide
  | cons e l => rfl

/-- Reductions of floating-point elements, by the trees that the model computes. -/
theorem reductions_float (ht : t = .f16 ∨ t = .bf16 ∨ t = .f32) :
    let sum := (Claim.block (addF32 s.u.rm) (fun e => (s.leaf a t e).map (widen t)) 12 0).getD (Ty.f32.absentCode, {})
    let n := s.redCount a t
    let put := fun (o : Out) (y : Nat) (fl : Sticky) => ∃ u, o = .next u ∧ ∃ q, Claim.wroteC s q d (BitVec.ofNat 64 y) ∧
      u = { q with g := { q.g with sticky := s.g.sticky.or (s.redAbs a t fl) } }
    put (exec (.vredSum d a t la) s) sum.1 sum.2 ∧
    put (exec (.vredSumc d a t la) s) (sum.1 + n * 2 ^ 32) sum.2 ∧
    put (exec (.vredMax d a t la) s) (s.redExt true a t).1 (s.redExt true a t).2 ∧
    put (exec (.vredMin d a t la) s) (s.redExt false a t).1 (s.redExt false a t).2 ∧
    put (exec (.vredCnt d a t la) s) n {} := by
  obtain ⟨hint, hsix⟩ : t.isInt = false ∧ t.six = true := by rcases ht with rfl | rfl | rfl <;> exact ⟨rfl, rfl⟩
  have hfloat : ¬ t.isInt = true := by rw [hint]; exact Bool.false_ne_true
  have hsum := s.redSum_float a hint hsix
  have hdone := fun n fl => ready_reduces_unsaturated d h (List.Subset.refl _) hv hsix n fl
  have hext : ∀ (big : Bool) fl, ∃ u, s.finish (s.reduction d [a.toNat] t ((t.toC (s.redExt big a t).1).toNat, fl, false)) = .next u ∧
      ∃ q, Claim.wroteC s q d (BitVec.ofNat 64 (s.redExt big a t).1) ∧ u = { q with g := { q.g with sticky := s.g.sticky.or fl } } := fun big fl => by
    have hword : BitVec.ofNat 64 (t.toC (s.redExt big a t).1).toNat = BitVec.ofNat 64 (s.redExt big a t).1 := by
      rw [Ty.toC, if_neg hfloat]
      exact w64_toNat _
    rw [← hword]
    exact hdone _ fl
  refine ⟨?_, ?_, hext true _, hext false _, hdone _ _⟩
  · show ∃ u, execVredSum d a t la s = _ ∧ _
    rw [execVredSum, hsum, if_neg hfloat]
    exact hdone _ _
  · show ∃ u, execVredSumc d a t la s = _ ∧ _
    rw [execVredSumc, hsum]
    exact hdone _ _

end

end Sys2Proof.Machine

namespace Sys2Proof.Proofs
open Sys2Proof.Machine

/-- Settles O26: the tree of the model gives of present integer elements their sum and extremes, and is the tree of 03 R89 over floating-point
ones. -/
theorem reductions : Obligations.Reductions := by
  unfold Obligations.Reductions
  refine ⟨fun s d a t la hv ht h => ?_, fun s d a t la hv ht h => ?_⟩
  · have hsix : t.six = true := by rcases ht with rfl | rfl | rfl <;> rfl
    obtain ⟨hsum, hsumc, hmax, hmin, hcnt⟩ := reductions_int h hv d la ht
    obtain ⟨hpopc, hfirst⟩ := reductions_mask h hv d la hsix
    exact ⟨hsum, hsumc, hmax, hmin, hcnt, hpopc, hfirst⟩
  · have hsix : t.six = true := by rcases ht with rfl | rfl | rfl <;> rfl
    have hfloat := reductions_float h hv d la ht
    simp only [State.redAbs, s.skipped_eq a t, ← s.redCount_eq a t, s.redExt_block a hsix, s.redCount_leaf a] at hfloat
    exact hfloat

end Sys2Proof.Proofs
end

section
/-! PROOFS. Elements that one instruction accesses one after another (17 R403, R404): what their checks leave, what they read, and what
writes at their places leave alone. -/

namespace Sys2Proof.Machine

/-! One access. -/

section
variable {s q : State} {a b : Agent} {k : AccKind} {va : Word} {size align : Nat} {late : Bool} {p : Place}

theorem State.place_of_placeVia (h : s.placeVia a k va size align late = .ok (p, q, b)) : s.place a k va size align late = .ok (p, q) := by
  rw [State.place, h]
  rfl

theorem State.placeVia_walksTo (h : s.placeVia a k va size align late = .ok (p, q, b)) : s.WalksTo q :=
  State.place_walksTo (State.place_of_placeVia h)

/-- An agent that has crossed a page is as it was but for the leaves that it keeps, and one of the banked TLB keeps none (17 R404). -/
theorem State.placeVia_agent (h : s.placeVia a k va size align late = .ok (p, q, b)) : b.tm = a.tm ∧ (a.sec = none → b = a) := by
  have keep : ∀ va leaf level, (a.keep va leaf level).tm = a.tm ∧ (a.sec = none → a.keep va leaf level = a) := by
    intro va leaf level
    unfold Agent.keep
    refine ⟨by split <;> rfl, fun h => if_pos ?_⟩
    rw [h]
    rfl
  unfold State.placeVia at h
  split at h
  · cases h
  · split at h
    · cases h
    · split at h
      · cases h
      · split at h
        · cases h
        · split at h
          · cases h
          · cases h
            exact keep ..

theorem State.placeVia_error {f : Fail} : s.placeVia a k va size align late = .error f ↔ s.place a k va size align late = .error f := by
  rw [State.place]
  cases s.placeVia a k va size align late <;> simp [Except.map]

/-- An access through the banked TLB keeps no leaf: it is one that stands alone. -/
theorem State.placeVia_bank (hb : a.sec = none) (h : s.placeVia a k va size align late = .ok (p, q, b)) : b = a :=
  (State.placeVia_agent h).2 hb

end

theorem State.WalksTo.t {s q : State} (h : s.WalksTo q) : q.t = s.t := by rw [h]; rfl
theorem State.WalksTo.u {s q : State} (h : s.WalksTo q) : q.u = s.u := by rw [h]; rfl
theorem State.WalksTo.vp {s q : State} (h : s.WalksTo q) : q.vp = s.vp := by rw [h]; rfl
theorem State.WalksTo.poison {s q : State} (h : s.WalksTo q) : q.poison = s.poison := by rw [h]; rfl

theorem State.WalksTo.keepsBindings {s q : State} (h : s.WalksTo q) : s.KeepsBindings q := by
  refine ⟨?_, h.u, ?_⟩ <;> rw [h.g]

/-! Elements that are read. -/

section
variable {n : Nat}

theorem reads_frame {l : List (Nat × Word)} {a h : Agent} {s u : State} {xs : List (Nat × Nat)} (hr : Claim.reads n a s l xs u h) :
    s.WalksTo u ∧ h.tm = a.tm ∧ xs.map (fun x => x.1) = l.map (fun x => x.1) := by
  induction l generalizing a s xs with
  | nil =>
    obtain ⟨rfl, rfl, rfl⟩ := hr
    exact ⟨.refl _, rfl, rfl⟩
  | cons x l ih =>
    obtain ⟨p, q, b, ys, hp, rfl, hrest⟩ := hr
    obtain ⟨hwalk, htm, hmap⟩ := ih hrest
    exact ⟨(State.placeVia_walksTo hp).trans hwalk, htm.trans (State.placeVia_agent hp).1, congrArg (x.1 :: ·) hmap⟩

/-- Elements whose accesses pass their checks are read before the others. -/
theorem State.readEls_append {pre : List (Nat × Word)} {a h : Agent} {s u : State} {xs : List (Nat × Nat)} (hr : Claim.reads n a s pre xs u h)
    (htm : a.tm = s.t.id) (post : List (Nat × Word)) :
    s.readEls a n (pre ++ post) = (xs ++ (u.readEls h n post).1, (u.readEls h n post).2) := by
  induction pre generalizing a s xs with
  | nil =>
    obtain ⟨rfl, rfl, rfl⟩ := hr
    rfl
  | cons x pre ih =>
    obtain ⟨e, va⟩ := x
    obtain ⟨p, q, b, ys, hp, rfl, hrest⟩ := hr
    have htm' : b.tm = s.t.id := (State.placeVia_agent hp).1.trans htm
    have hvia : s.readVia a .load va n = .ok (q.readPlace s.t.id p n, q, b) := by
      rw [State.readVia, hp]
      dsimp only
      rw [htm']
    rw [List.cons_append, State.readEls, hvia]
    dsimp only
    rw [ih hrest (htm'.trans (congrArg _ (State.placeVia_walksTo hp).t.symm))]
    rfl

theorem State.readEls_of_reads {l : List (Nat × Word)} {a h : Agent} {s u : State} {xs : List (Nat × Nat)} (hr : Claim.reads n a s l xs u h)
    (htm : a.tm = s.t.id) : s.readEls a n l = (xs, none, u) := by
  have happ := State.readEls_append hr htm []
  rw [List.append_nil] at happ
  rw [happ, State.readEls, List.append_nil]

/-- Where the access of an element fails, those before it have been read. -/
theorem State.readEls_of_fault {pre post : List (Nat × Word)} {a h : Agent} {s u : State} {xs : List (Nat × Nat)} {e : Nat} {va : Word} {f : Fail}
    (hr : Claim.reads n a s pre xs u h) (htm : a.tm = s.t.id) (hf : u.place h .load va n n = .error f) :
    s.readEls a n (pre ++ (e, va) :: post) = (xs, some (e, va, f), u) := by
  have hvia : u.readVia h .load va n = .error f := by
    rw [State.readVia, State.placeVia_error.mpr hf]
  rw [State.readEls_append hr htm, State.readEls, hvia, List.append_nil]

end

/-! Elements that are written. -/

section
variable {k : AccKind} {n : Nat} {a h : Agent} {s u : State} {pre post l : List (Nat × Word)} {ps : List (Nat × Place)}

theorem places_frame (hp : Claim.places k n a s l ps u h) : s.WalksTo u ∧ ps.map (fun x => x.1) = l.map (fun x => x.1) := by
  induction l generalizing a s ps with
  | nil =>
    obtain ⟨rfl, rfl, rfl⟩ := hp
    exact ⟨.refl _, rfl⟩
  | cons x l ih =>
    obtain ⟨p, q, b, qs, hvia, rfl, hrest⟩ := hp
    obtain ⟨hwalk, hmap⟩ := ih hrest
    exact ⟨(State.placeVia_walksTo hvia).trans hwalk, congrArg (x.1 :: ·) hmap⟩

theorem State.storePlace_partial (va : Word) : s.storePlace a k va n false = s.placeVia a k va n n := by
  unfold State.storePlace
  split
  · next r h => exact h.symm
  · next f h =>
    rw [h]
    cases f <;> simp

/-- Only a store may clear poison, and only where there is some (18 R424). -/
theorem State.storePlaces_cons (hk : k = .store → s.poison = []) (all : List (Nat × Word)) (e : Nat) (va : Word) :
    s.storePlaces a k n all ((e, va) :: l) = match s.placeVia a k va n n with
      | .error f => .error (failStop (w64 e) va f)
      | .ok (p, q, b) => (q.storePlaces b k n all l).map fun r => ((e, p) :: r.1, r.2) := by
  have hwhole : (decide (k = .store) && decide (s.poison ≠ []) && coversLine all n va) = false := by
    by_cases h : k = .store
    · simp [hk h]
    · simp [h]
  rw [State.storePlaces, hwhole, State.storePlace_partial]
  cases s.placeVia a k va n n with
  | error f => rfl
  | ok r =>
    obtain ⟨p, q, b⟩ := r
    dsimp only
    cases q.storePlaces b k n all l <;> rfl

/-- Elements whose accesses pass their checks are placed before the others. -/
theorem State.storePlaces_append (hp : Claim.places k n a s pre ps u h) (hk : k = .store → s.poison = []) (all : List (Nat × Word)) :
    s.storePlaces a k n all (pre ++ post) = (u.storePlaces h k n all post).map fun r => (ps ++ r.1, r.2) := by
  induction pre generalizing a s ps with
  | nil =>
    obtain ⟨rfl, rfl, rfl⟩ := hp
    rw [List.nil_append]
    cases u.storePlaces h k n all post <;> rfl
  | cons x pre ih =>
    obtain ⟨e, va⟩ := x
    obtain ⟨p, q, b, qs, hvia, rfl, hrest⟩ := hp
    rw [List.cons_append, State.storePlaces_cons hk, hvia]
    dsimp only
    rw [ih hrest fun h => (State.placeVia_walksTo hvia).poison.trans (hk h)]
    cases u.storePlaces h k n all post <;> rfl

theorem State.storePlaces_of_places (hp : Claim.places k n a s l ps u h) (hk : k = .store → s.poison = []) (all : List (Nat × Word)) :
    s.storePlaces a k n all l = .ok (ps, u) := by
  have happ := State.storePlaces_append (post := []) hp hk all
  rw [List.append_nil] at happ
  rw [happ, State.storePlaces]
  exact congrArg (fun x => Except.ok (x, u)) (List.append_nil ps)

/-- Where the access of an element is the first to fail its checks, it gives the trap. -/
theorem State.storePlaces_of_fault {e : Nat} {va : Word} {f : Fail} (hp : Claim.places k n a s pre ps u h) (hk : k = .store → s.poison = [])
    (hf : u.place h k va n n = .error f) (all : List (Nat × Word)) :
    s.storePlaces a k n all (pre ++ (e, va) :: post) = .error (failStop (w64 e) va f) := by
  have hku : k = .store → u.poison = [] := fun h => (places_frame hp).1.poison.trans (hk h)
  rw [State.storePlaces_append hp hk, State.storePlaces_cons hku, State.placeVia_error.mpr hf]
  rfl

end

/-! Writes at places. -/

/-- A team that is changed stands where its identifier has it, so that the current team keeps its own. -/
theorem State.updTeam_id (s : State) (tm : Nat) (f : Team → Team) : (s.updTeam tm f).t.id = s.t.id := by
  unfold State.updTeam State.putTeam
  split
  · split
    · next h => exact h
    · rfl
  · rfl

/-- A write at a place changes memory, the scratch of a team, and what operations note of its tiles (04 R101, 05 R145). -/
theorem State.writePlace_frame (s : State) (tm : Nat) (p : Place) (bs : List Byte) : let q := s.writePlace tm p bs
    q = { s with hbm := q.hbm, wstore := q.wstore, wpoison := q.wpoison, t := q.t, teams := q.teams, ops := q.ops } := by
  cases p with
  | hbm pa => rfl
  | ws d o => rfl
  | scr o =>
    unfold State.writePlace State.writePlaceBy State.noteOwn State.noteTiles
    dsimp only
    rw [if_pos rfl, State.updTeam_frame]
    split <;> rfl

theorem State.writePlace_t_id (s : State) (tm : Nat) (p : Place) (bs : List Byte) : (s.writePlace tm p bs).t.id = s.t.id := by
  cases p with
  | hbm pa => rfl
  | ws d o => rfl
  | scr o =>
    have hid : ∀ q : State, ∀ op ts, (q.noteTiles tm op ts).t = q.t := by
      intro q op ts
      unfold State.noteTiles
      split <;> rfl
    unfold State.writePlace State.writePlaceBy State.noteOwn
    dsimp only
    rw [if_pos rfl, hid]
    exact s.updTeam_id ..

theorem State.writePlace_keepsBindings (s : State) (tm : Nat) (p : Place) (bs : List Byte) : s.KeepsBindings (s.writePlace tm p bs) := by
  rw [State.writePlace_frame]
  exact ⟨rfl, rfl, rfl⟩

/-- Elements are written in the memory of the team that executes. -/
theorem State.writeEls_eq {s : State} {tm : Nat} (htm : s.t.id = tm) (n : Nat) (l : List (Place × Nat)) :
    s.writeEls n l = l.foldl (fun (q : State) x => q.writePlace tm x.1 (natLe n x.2)) s := by
  induction l generalizing s with
  | nil => rfl
  | cons x l ih =>
    rw [List.foldl_cons, ← ih (s := s.writePlace tm x.1 (natLe n x.2)) ((s.writePlace_t_id ..).trans htm), ← htm]
    rfl

theorem State.writeEls_keepsBindings (s : State) (n : Nat) (l : List (Place × Nat)) : s.KeepsBindings (s.writeEls n l) :=
  foldl_keeps (R := State.KeepsBindings) (fun _ => ⟨rfl, rfl, rfl⟩) State.KeepsBindings.trans (fun q _ => q.writePlace_keepsBindings ..) l s

end Sys2Proof.Machine
end

section
/-! PROOFS. Vector loads and stores (10 R270 to R276): what they answer where every element passes its checks, and at the lowest that
does not. -/

namespace Sys2Proof.Machine

theorem Sz.vbytes_eq_bytes : ∀ {sz : Sz}, sz ≠ .d → sz.vbytes = sz.bytes
  | .b, _ => rfl | .h, _ => rfl | .w, _ => rfl | .d, h => absurd rfl h

/-! Loads of the control stream (10 R274). -/

section
variable {s u : State} {n : Nat} {xs : List (Nat × Nat)} {h : Agent}

theorem State.faultFirst_of_reads (unit : Nat) {l : List (Nat × Word)} (hr : Claim.reads n s.agent s l xs u h) :
    s.faultFirst n unit l = .ok (xs, u.leaveVl s.u.vl) := by
  rw [State.faultFirst, State.readEls_of_reads hr rfl]

/-- The first element to fault decides: behind the others it shortens `vl`, and at element 0 it traps (01 R24). -/
theorem State.faultFirst_of_fault {pre post : List (Nat × Word)} {e : Nat} {va : Word} {c : Byte} {i : Word} {k : List TlbEntry}
    (hr : Claim.reads n s.agent s pre xs u h) (hf : u.place h .load va n n = .error (.trap c i k)) (hc : c ≠ 0x1A) :
    s.faultFirst n 1 (pre ++ (e, va) :: post) =
      if 0 < e then .ok (xs, (u.walked (some k)).leaveVl (BitVec.ofNat 12 e))
      else .error (.trap { cause := c, elem := 0, addr := va, info := i, tlb := some k }) := by
  have hfault : Fail.isFault (.trap c i k) = true := decide_eq_true hc
  rw [State.faultFirst, State.readEls_of_fault hr rfl hf]
  dsimp only
  rw [hfault, Bool.true_and, Nat.div_one]
  rcases Nat.eq_zero_or_pos e with rfl | he
  · rfl
  · rw [if_pos (decide_eq_true (Nat.succ_le_of_lt he)), if_pos he]
    rfl

variable {d : VName} {sz : Sz}

theorem State.vload_ready (hl : s.u.vl.toNat ≤ s.g.grant / (8 * sz.vbytes)) (hd : Claim.ready s (8 * sz.vbytes) [d.toNat]) (off stride : Word) :
    s.vload d sz off stride = (do
      let (xs, q) ← s.faultFirst sz.vbytes 1 (s.vaddrs off stride)
      .ok (q.setEls d.toNat (8 * sz.vbytes) xs)) := by
  rw [State.vload, State.needReg_ok (ready_budget hd List.mem_cons_self), ok_bind, State.vmemCheck, State.needVl_ok s _ hl, ok_bind,
    State.needUnbound_readable (ready_readable hd List.mem_cons_self), ok_bind]

theorem exec_vload (hv : s.vp = none) (a : BitVec 6) (o : BitVec 7) (la : BitVec 4) :
    ∀ x ∈ [((.vld d a sz o la : Instr), BitVec.ofNat 64 sz.vbytes), ((.vlds d a sz o la : Instr), s.u.vst)],
      exec x.1 s = s.finish (s.vload d sz (Claim.off s o sz.vbytes) x.2) := by
  intro x hx
  simp only [List.mem_cons, List.not_mem_nil, or_false] at hx
  rw [← State.offIL_eq]
  rcases hx with rfl | rfl
  · show execVld d a sz o la s = _
    simp only [execVld, hv]
    rfl
  · show execVlds d a sz o la s = _
    simp only [execVlds, hv]

end

/-! Stores of the control stream (10 R275). -/

section
variable {s u : State} {d : VName} {sz : Sz} {ps : List (Nat × Place)} {h : Agent}

theorem State.keeping_ok {α : Type} (s : State) (x : α) : s.keeping (.ok x) = .ok x := rfl

theorem filter_beforeHit_none {α : Type} (l : List (Nat × α)) : (l.filter fun x => beforeHit none x.1) = l := List.filter_true l

theorem State.vstore_ready (hl : s.u.vl.toNat ≤ s.g.grant / (8 * sz.vbytes)) (hd : Claim.ready s (8 * sz.vbytes) [d.toNat]) (off stride : Word) :
    s.vstore d sz off stride = (do
      let (ps, q) ← s.storePlaces s.agent .store sz.vbytes (s.vaddrs off stride) (s.vaddrs off stride)
      .ok ((q.writeEls sz.vbytes (ps.map fun x => (x.2, s.el d.toNat (8 * sz.vbytes) x.1))).consume [d.toNat])) := by
  have hread : ∀ x ∈ ([⟨d.toNat, 8 * sz.vbytes, 0, none⟩] : List Src), s.readable x.reg := by
    simpa using ready_readable hd List.mem_cons_self
  rw [State.vstore, State.needReg_ok (ready_budget hd List.mem_cons_self), ok_bind, State.vmemCheck, State.needVl_ok s _ hl, ok_bind,
    State.srcHit_readable hread, ok_bind]
  dsimp only
  rw [filter_beforeHit_none]
  rfl

/-- What a store writes at the places of its elements (10 R272). -/
theorem State.vstore_of_places (hl : s.u.vl.toNat ≤ s.g.grant / (8 * sz.vbytes)) (hd : Claim.ready s (8 * sz.vbytes) [d.toNat])
    (hp : s.poison = []) {off stride : Word} (hps : Claim.places .store sz.vbytes s.agent s (s.vaddrs off stride) ps u h) :
    s.vstore d sz off stride = .ok (ps.foldl (fun (q : State) x =>
      q.writePlace s.t.id x.2 (natLe sz.vbytes (s.el d.toNat (8 * sz.vbytes) x.1))) u) := by
  have hwalk := (places_frame hps).1
  have hkeep := hwalk.keepsBindings.trans (u.writeEls_keepsBindings sz.vbytes (ps.map fun x => (x.2, s.el d.toNat (8 * sz.vbytes) x.1)))
  rw [State.vstore_ready hl hd, State.storePlaces_of_places hps (fun _ => hp), ok_bind]
  dsimp only
  rw [hkeep.consume (by simpa using ready_readable hd List.mem_cons_self), State.writeEls_eq (congrArg _ hwalk.t), List.foldl_map]

theorem State.vstore_of_fault (hl : s.u.vl.toNat ≤ s.g.grant / (8 * sz.vbytes)) (hd : Claim.ready s (8 * sz.vbytes) [d.toNat])
    (hp : s.poison = []) {off stride : Word} {pre post : List (Nat × Word)} {e : Nat} {va : Word} {f : Fail}
    (hall : s.vaddrs off stride = pre ++ (e, va) :: post) (hps : Claim.places .store sz.vbytes s.agent s pre ps u h)
    (hf : u.place h .store va sz.vbytes sz.vbytes = .error f) :
    s.vstore d sz off stride = .error (failStop (w64 e) va f) := by
  rw [State.vstore_ready hl hd, hall, State.storePlaces_of_fault hps (fun _ => hp) hf]
  rfl

theorem exec_vstore (hv : s.vp = none) (a : BitVec 6) (o : BitVec 7) (la : BitVec 4) :
    ∀ x ∈ [((.vst d a sz o la : Instr), BitVec.ofNat 64 sz.vbytes), ((.vsts d a sz o la : Instr), s.u.vst)],
      exec x.1 s = s.finish (s.vstore d sz (Claim.off s o sz.vbytes) x.2) := by
  intro x hx
  simp only [List.mem_cons, List.not_mem_nil, or_false] at hx
  rw [← State.offIL_eq]
  rcases hx with rfl | rfl
  · show execVst d a sz o la s = _
    simp only [execVst, hv]
    rfl
  · show execVsts d a sz o la s = _
    simp only [execVsts, hv]

end

/-! Inside an AIB (10 R271, R276). -/

section
variable {s : State} {v : Nat} {a : BitVec 6}

theorem State.pairBase_ready (ha : Claim.pairOk s a) (h : s.readable a.toNat) (h' : s.readable (a.toNat + 1)) :
    s.pairBase a v = .ok (Claim.pair s a v) := by
  have hread : ∀ x ∈ srcsOf 32 [a.toNat, a.toNat + 1], s.readable x.reg := by
    intro x hx
    obtain ⟨r, hr, rfl⟩ := List.mem_map.mp hx
    simp only [List.mem_cons, List.not_mem_nil, or_false] at hr
    rcases hr with rfl | rfl
    · exact h
    · exact h'
  rw [State.pairBase, need_true (a ≠ 31#6 ∧ a ≠ 63#6 ∧ a.toNat + 1 < s.g.budget) _ _ ha, ok_bind, State.needSrcs_readable hread]
  rfl

variable {d : VName} {sz : Sz} {off : Word} (hsz : sz ≠ .d) (ha : Claim.pairOk s a) (h : Claim.ready s 32 [d.toNat, a.toNat, a.toNat + 1])
include hsz ha h

theorem State.vpLoad_ready : s.vpLoad v d a sz off = if s.g.vm.getLsbD v then (do
      let (x, q) ← s.load (w64 v) (Claim.pair s a v + off) sz.bytes
      .ok (q.setOpEls d.toNat (8 * sz.bytes) [(v, x)])) else .ok s := by
  rw [State.vpLoad, need_true _ _ _ hsz, ok_bind, State.needReg_ok (ready_budget h (by simp)), ok_bind,
    State.pairBase_ready ha (ready_readable h (by simp)) (ready_readable h (by simp)), ok_bind,
    State.needUnbound_readable (ready_readable h (by simp)), ok_bind]

theorem State.vpStore_ready : s.vpStore v d a sz off =
    if s.g.vm.getLsbD v then s.storeM (w64 v) (Claim.pair s a v + off) sz.bytes (s.el d.toNat 32 v) else .ok s := by
  rw [State.vpStore, need_true _ _ _ hsz, ok_bind, State.needReg_ok (ready_budget h (by simp)), ok_bind,
    State.pairBase_ready ha (ready_readable h (by simp)) (ready_readable h (by simp)), ok_bind,
    State.needSrc_readable (ready_readable h (by simp)), ok_bind]

omit hsz ha h

theorem exec_vpLoad (hv : s.vp = some v) (o : BitVec 7) (la : BitVec 4) : ∀ x ∈ [(.vld d a sz o la : Instr), .vlds d a sz o la],
    exec x s = s.finish (s.vpLoad v d a sz (Claim.off s o sz.vbytes)) := by
  intro x hx
  simp only [List.mem_cons, List.not_mem_nil, or_false] at hx
  rw [← State.offIL_eq]
  rcases hx with rfl | rfl
  · show execVld d a sz o la s = _
    simp only [execVld, hv]
  · show execVlds d a sz o la s = _
    simp only [execVlds, hv]

theorem exec_vpStore (hv : s.vp = some v) (o : BitVec 7) (la : BitVec 4) : ∀ x ∈ [(.vst d a sz o la : Instr), .vsts d a sz o la],
    exec x s = s.finish (s.vpStore v d a sz (Claim.off s o sz.vbytes)) := by
  intro x hx
  simp only [List.mem_cons, List.not_mem_nil, or_false] at hx
  rw [← State.offIL_eq]
  rcases hx with rfl | rfl
  · show execVst d a sz o la s = _
    simp only [execVst, hv]
  · show execVsts d a sz o la s = _
    simp only [execVsts, hv]

end

end Sys2Proof.Machine

namespace Sys2Proof.Proofs
open Sys2Proof.Machine

section
variable {s : State} {d : VName} {a : BitVec 6} {sz : Sz} {o : BitVec 7} {la : BitVec 4}

/-- `vld` and `vlds` in the control stream (10 R274). -/
theorem controlLoads (hv : s.vp = none) (hl : s.u.vl.toNat ≤ s.g.grant / (8 * sz.vbytes)) (hd : Claim.ready s (8 * sz.vbytes) [d.toNat]) :
    let n := sz.vbytes
    ∀ x ∈ [((.vld d a sz o la : Instr), BitVec.ofNat 64 n), ((.vlds d a sz o la : Instr), s.u.vst)],
      let l := s.active.map fun e => (e, s.u.opA + Claim.off s o n + BitVec.ofNat 64 e * x.2)
      (∀ xs u h, Claim.reads n s.agent s l xs u h → exec x.1 s = .next ((u.leaveVl s.u.vl).setEls d.toNat (8 * n) xs)) ∧
      ∀ pre e va post xs u h c i k, l = pre ++ (e, va) :: post → Claim.reads n s.agent s pre xs u h → u.place h .load va n n = .error (.trap c i k) →
        c ≠ 0x1A → (0 < e → exec x.1 s = .next (((u.walked (some k)).leaveVl (BitVec.ofNat 12 e)).setEls d.toNat (8 * n) xs)) ∧
          (e = 0 → exec x.1 s = .next (s.raiseTrap { cause := c, elem := 0, addr := va, info := i, tlb := some k })) := by
  intro n x hx l
  have hall : s.vaddrs (Claim.off s o n) x.2 = l := rfl
  rw [exec_vload hv a o la x hx, State.vload_ready hl hd, hall]
  refine ⟨fun xs u h hr => ?_, fun pre e va post xs u h c i k hl hr hf hc => ?_⟩
  · rw [State.faultFirst_of_reads 1 hr]
    rfl
  · rw [hl, State.faultFirst_of_fault hr hf hc]
    refine ⟨fun he => ?_, fun he => ?_⟩
    · rw [if_pos he]
      rfl
    · rw [if_neg (by omega)]
      rfl

/-- `vst` and `vsts` in the control stream (10 R272, R275). -/
theorem controlStores (hp : s.poison = []) (hv : s.vp = none) (hd : Claim.ready s (8 * sz.vbytes) [d.toNat]) :
    let n := sz.vbytes
    ∀ x ∈ [((.vst d a sz o la : Instr), BitVec.ofNat 64 n), ((.vsts d a sz o la : Instr), s.u.vst)],
      let l := s.active.map fun e => (e, s.u.opA + Claim.off s o n + BitVec.ofNat 64 e * x.2)
      (∀ ps u h, Claim.places .store n s.agent s l ps u h →
        exec x.1 s = .next (ps.foldl (fun (q : State) x => q.writePlace s.t.id x.2 (natLe n (s.el d.toNat (8 * n) x.1))) u)) ∧
      ∀ pre e va post ps u h c i k, l = pre ++ (e, va) :: post → Claim.places .store n s.agent s pre ps u h →
        u.place h .store va n n = .error (.trap c i k) →
        exec x.1 s = .next (s.raiseTrap { cause := c, elem := BitVec.ofNat 64 e, addr := va, info := i, tlb := some k }) := by
  intro n x hx l
  have hl : s.u.vl.toNat ≤ s.g.grant / (8 * n) := hd.2.1 hv
  rw [exec_vstore hv a o la x hx]
  refine ⟨fun ps u h hps => ?_, fun pre e va post ps u h c i k hsplit hps hf => ?_⟩
  · rw [State.vstore_of_places hl hd hp hps]
    rfl
  · rw [State.vstore_of_fault hl hd hp hsplit hps hf]
    rfl

variable {v : Nat} (hv : s.vp = some v) (hsz : sz ≠ .d) (ha : Claim.pairOk s a) (hd : Claim.ready s 32 [d.toNat, a.toNat, a.toNat + 1])
include hv hsz ha hd

/-- `vld` and `vlds` inside an AIB (10 R276). -/
theorem vpLoads : let n := sz.vbytes
    ∀ x ∈ [(.vld d a sz o la : Instr), .vlds d a sz o la],
      (s.g.vm.getLsbD v = false → exec x s = .next s) ∧
      ∀ xs u h, s.g.vm.getLsbD v = true → Claim.reads n s.agent s [(v, Claim.pair s a v + Claim.off s o n)] xs u h →
        exec x s = .next (u.setOpEls d.toNat (8 * n) xs) := by
  intro n x hx
  have hn : n = sz.bytes := Sz.vbytes_eq_bytes hsz
  rw [exec_vpLoad hv o la x hx, State.vpLoad_ready hsz ha hd, ← hn]
  refine ⟨fun hm => by rw [if_neg (by simp [hm])]; rfl, fun xs u h hm hr => ?_⟩
  obtain ⟨p, q, b, ys, hp, rfl, rfl, rfl, rfl⟩ := hr
  rw [if_pos hm, State.load, State.readVA, State.place_of_placeVia hp]
  rfl

/-- `vst` and `vsts` inside an AIB (10 R276). -/
theorem vpStores : let n := sz.vbytes
    ∀ x ∈ [(.vst d a sz o la : Instr), .vsts d a sz o la],
      (s.g.vm.getLsbD v = false → exec x s = .next s) ∧
      ∀ ps u h, s.g.vm.getLsbD v = true → Claim.places .store n s.agent s [(v, Claim.pair s a v + Claim.off s o n)] ps u h →
        exec x s = .next (ps.foldl (fun (q : State) x => q.writePlace s.t.id x.2 (natLe n (s.el d.toNat 32 v))) u) := by
  intro n x hx
  have hn : n = sz.bytes := Sz.vbytes_eq_bytes hsz
  rw [exec_vpStore hv o la x hx, State.vpStore_ready hsz ha hd, ← hn]
  refine ⟨fun hm => by rw [if_neg (by simp [hm])]; rfl, fun ps u h hm hps => ?_⟩
  obtain ⟨p, q, b, qs, hp, rfl, rfl, rfl, rfl⟩ := hps
  rw [if_pos hm, State.storeM, State.writeVA, natLe_length, State.place_of_placeVia hp]
  rfl

end

/-- Settles O29: a load reads the elements before the first that faults, and a store checks every element before it writes one. -/
theorem vectorLoadsAndStores : Obligations.VectorLoadsAndStores := by
  unfold Obligations.VectorLoadsAndStores
  refine ⟨fun s d a sz o la => ⟨fun hv hl hd => controlLoads hv hl hd, fun v hv hsz ha hd => vpLoads hv hsz ha hd⟩, ?_⟩
  intro s d a sz o la hp n put
  exact ⟨fun hv hd => controlStores hp hv hd, fun v hv hsz ha hd => vpStores hv hsz ha hd⟩

end Sys2Proof.Proofs
end

section
/-! PROOFS. The windowed gather (05 R158, R159, 10 R277, R278). -/

namespace Sys2Proof.Machine

/-- A fault that the first of some elements to meet a condition gives. -/
theorem findSome?_filter_ite {α β : Type} (l : List α) (q : α → Bool) (P : α → Prop) [DecidablePred P] (f : α → β) :
    ((l.filter q).findSome? fun x => if P x then some (f x) else none) = (l.find? fun x => q x && decide (P x)).map f := by
  induction l with
  | nil => rfl
  | cons x l ih => cases hq : q x <;> by_cases hP : P x <;> simp [hq, hP, ih]

theorem filterMap_ite {α β : Type} (l : List α) (p : α → Bool) (f : α → β) :
    (l.filterMap fun x => if p x = true then some (f x) else none) = (l.filter p).map f := by
  induction l with
  | nil => rfl
  | cons x l ih => cases h : p x <;> simp [h, ih]

/-- The absent code of an index is that of the integer type of its width (03 R68). -/
theorem isAbsent_index {t : Ty} (ht : t.six = true) (x : Nat) :
    (if t.bits = 8 then Ty.i8 else if t.bits = 16 then .i16 else .i32).isAbsent x = decide (x = 2 ^ (t.bits - 1)) := by
  have hcode : (if t.bits = 8 then Ty.i8 else if t.bits = 16 then .i16 else .i32).absent = some (2 ^ (t.bits - 1)) := by
    cases t with
    | i64 | f64 => exact absurd ht (by decide)
    | _ => rfl
  simp only [Ty.isAbsent, hcode, Option.some.injEq, eq_comm (a := x)]

theorem mem_windowRegs {r k : Nat} : r + k % 4 ∈ windowRegs r := by
  have : k % 4 < 4 := Nat.mod_lt _ (by omega)
  simp only [windowRegs, List.mem_cons, List.not_mem_nil, or_false]
  omega

/-! `vldw`. -/

theorem execVldw_reads {s u : State} {d : VName} (c : CReg) {t : Ty} (la : BitVec 4) {xs : List (Nat × Nat)} {h : Agent} (hv : s.vp = none)
    (ht : t.six = true) (hwin : d.toNat + 3 < s.g.budget ∧ ¬ (d.toNat ≤ 31 ∧ 32 ≤ d.toNat + 3))
    (hd : Claim.ready s t.bits (windowRegs d.toNat)) (hact : s.active ≠ [])
    (hr : Claim.reads (t.bits / 8) s.agent s
      ((List.range (4 * s.u.vl.toNat)).map fun i => (i, s.u.opA + BitVec.ofNat 64 (i * (t.bits / 8)))) xs u h) :
    execVldw d c t la s =
      .next (xs.foldl (fun q x => q.setEl (d.toNat + x.1 % 4) t.bits (x.1 / 4) x.2) (u.leaveVl s.u.vl)) := by
  have hfree : allM ((windowRegs d.toNat).map s.needUnbound) = .ok ⟨⟩ := by
    refine allM_ok fun m hm => ?_
    obtain ⟨r, hr, rfl⟩ := List.mem_map.mp hm
    exact State.needUnbound_readable (ready_readable hd hr)
  have hall : (xs.filter fun x => decide (x.1 < 4 * (u.leaveVl s.u.vl).g.vl.toNat)) = xs := by
    refine List.filter_eq_self.mpr fun x hx => decide_eq_true ?_
    have hmem : x.1 ∈ xs.map fun x => x.1 := List.mem_map_of_mem hx
    rw [(reads_frame hr).2.2, List.map_map] at hmem
    obtain ⟨i, hi, rfl⟩ := List.mem_map.mp hmem
    exact List.mem_range.mp hi
  have hread : s.faultFirst (t.bits / 8) 4 ((List.range (4 * s.u.vl.toNat)).map fun i => (i, s.u.opA + w64 (i * (t.bits / 8)))) =
      .ok (xs, u.leaveVl s.u.vl) := State.faultFirst_of_reads 4 hr
  rw [execVldw, need_true _ _ _ ⟨by rw [hv]; rfl, ht⟩, ok_bind, State.needWindow, need_true _ _ _ hwin, ok_bind, State.needVl_ok s _ (hd.2.1 hv),
    ok_bind, hfree, ok_bind]
  dsimp only
  rw [if_neg hact, hread, ok_bind]
  simp only [if_neg hact]
  rw [hall]
  rfl

/-! `vpermw`. -/

section
variable (s : State) (d a : VName) (t : Ty)

/-- The index of an element, and whether it is absent. -/
def State.winIdx (e : Nat) : Int := sextNat t.bits (s.el d.toNat t.bits e)
def State.winAbsent (e : Nat) : Bool := decide (s.el d.toNat t.bits e = 2 ^ (t.bits - 1))

/-- A present index that no table can have. -/
def State.winBad (e : Nat) : Bool :=
  !s.winAbsent d t e && (decide (s.winIdx d t e < 0) || decide ((s.u.opX.toNat : Int) ≤ s.winIdx d t e))

/-- The window holds what the element asks for, or nothing is asked for. -/
def State.inWindow (e : Nat) : Bool :=
  s.winAbsent d t e || (decide (s.u.opB.toInt ≤ s.winIdx d t e) && decide (s.winIdx d t e < s.u.opB.toInt + (4 * s.u.vl.toNat : Nat)))

/-- What the window gives an element. -/
def State.winEl (e : Nat) : Nat :=
  if s.winAbsent d t e then t.absentCode else
    let k := (s.winIdx d t e - s.u.opB.toInt).toNat
    s.el (a.toNat + k % 4) t.bits (k / 4)

/-- The trap of an index that no table can have. -/
def State.winTrap (e : Nat) : Trap := { cause := causeIndex, elem := w64 e, idx := BitVec.ofInt 64 (s.winIdx d t e) }

theorem State.winServed (e : Nat) : (if decide (s.el d.toNat t.bits e = 2 ^ (t.bits - 1)) = true then some (e, t.absentCode) else
      if s.u.opB.toInt ≤ sextNat t.bits (s.el d.toNat t.bits e) ∧ sextNat t.bits (s.el d.toNat t.bits e) < s.u.opB.toInt + 4 * s.u.vl.toNat then
        some (e, s.el (a.toNat + (sextNat t.bits (s.el d.toNat t.bits e) - s.u.opB.toInt).toNat % 4) t.bits
          ((sextNat t.bits (s.el d.toNat t.bits e) - s.u.opB.toInt).toNat / 4))
      else none) =
    if s.inWindow d t e = true then some (e, s.winEl d a t e) else none := by
  unfold State.inWindow State.winEl State.winAbsent State.winIdx
  by_cases hno : s.el d.toNat t.bits e = 2 ^ (t.bits - 1) <;> simp [hno]

theorem any_served (e : Nat) : (((s.active.filter (s.inWindow d t)).map fun e => (e, s.winEl d a t e)).any fun y => decide (y.1 = e)) =
    (decide (e ∈ s.active) && s.inWindow d t e) := by
  rw [Bool.eq_iff_iff]
  simp [List.any_eq_true]

variable {s d a t}

theorem execVpermw_ready (hv : s.vp = none) (ht : t.six = true) {c : CReg} (hc : c ≠ 31) (la : BitVec 4)
    (hwin : a.toNat + 3 < s.g.budget ∧ ¬ (a.toNat ≤ 31 ∧ 32 ≤ a.toNat + 3)) (hda : d.toNat ∉ windowRegs a.toNat)
    (h : Claim.ready s t.bits (d.toNat :: windowRegs a.toNat)) :
    execVpermw d a c t la s = match s.active.find? (s.winBad d t) with
      | some e => .next (s.raiseTrap (s.winTrap d t e))
      | none => .next (((s.setEls d.toNat t.bits ((s.active.filter (s.inWindow d t)).map fun e => (e, s.winEl d a t e))).writeVm
          (s.active.map fun e => (e, !s.inWindow d t e))).raise { abs := s.active.any (s.winAbsent d t) }) := by
  have hsrcs : ∀ x ∈ (⟨d.toNat, t.bits, 0, none⟩ :: srcsOf t.bits (windowRegs a.toNat) (some []) : List Src), s.readable x.reg := by
    intro x hx
    rcases List.mem_cons.mp hx with rfl | hx
    · exact ready_readable h List.mem_cons_self
    · obtain ⟨r, hr, rfl⟩ := List.mem_map.mp hx
      exact ready_readable h (List.mem_cons_of_mem _ hr)
  have hpoison : ∀ k, s.poisonFault ⟨a.toNat + k % 4, t.bits, 0, some [k / 4]⟩ = none := fun k =>
    State.poisonFault_eq_none (ready_readable h (List.mem_cons_of_mem _ mem_windowRegs)).2
  have hbad : (((s.active.map fun e => (e, s.el d.toNat t.bits e)).filter fun x => beforeHit none x.1 && !decide (x.2 = 2 ^ (t.bits - 1))).findSome?
      fun x => if sextNat t.bits x.2 < 0 ∨ (s.u.opX.toNat : Int) ≤ sextNat t.bits x.2 then
          some ({ cause := causeIndex, elem := w64 x.1, idx := BitVec.ofInt 64 (sextNat t.bits x.2) } : Trap) else none) =
      (s.active.find? (s.winBad d t)).map (s.winTrap d t) := by
    rw [findSome?_filter_ite, List.find?_map, Option.map_map]
    exact congrArg _ (List.find?_congr fun e _ => congrArg _ (Bool.decide_or ..))
  have hmask : (s.active.map fun e => (e, !(((s.active.filter (s.inWindow d t)).map fun e => (e, s.winEl d a t e)).any fun y => decide (y.1 = e)))) =
      s.active.map fun e => (e, !s.inWindow d t e) := by
    refine List.map_congr_left fun e he => ?_
    rw [any_served, decide_eq_true he, Bool.true_and]
  rw [execVpermw, need_true _ _ _ ⟨by rw [hv]; rfl, ht, hc⟩, ok_bind, State.needReg_ok (ready_budget h List.mem_cons_self), ok_bind, State.needWindow,
    need_true _ _ _ hwin, ok_bind, need_true _ _ _ hda, ok_bind]
  dsimp only
  rw [State.needVl_ok s _ (h.2.1 hv), ok_bind, State.needUnbound_readable (ready_readable h List.mem_cons_self), ok_bind,
    State.srcHit_readable hsrcs, ok_bind]
  simp only [isAbsent_index ht, hpoison, ite_self]
  rw [hbad]
  simp only [List.filterMap_map, Function.comp_def, State.winServed, filterMap_ite, List.map_map]
  rw [hmask, List.any_map, (((s.setEls_keepsBindings ..).trans (State.writeVm_keepsBindings ..)).trans (State.raise_keepsBindings ..)).consume
    fun r hr => ready_readable h (List.mem_cons_of_mem _ hr)]
  cases s.active.find? (s.winBad d t) <;> rfl

end

end Sys2Proof.Machine

namespace Sys2Proof.Proofs
open Sys2Proof.Machine

/-- Settles O30: `vldw` is a load of four elements for each of `vl`, and `vpermw` answers the first index that no table can have, or serves
what its window holds. -/
theorem windowedGather : Obligations.WindowedGather := by
  unfold Obligations.WindowedGather
  intro s d a c t la hv h64 hf64 w n
  have ht : t.six = true := Ty.six_of_ne h64 hf64
  refine ⟨fun hreg hbank hd hact xs u h hr => execVldw_reads c la hv ht ⟨hreg, hbank⟩ hd hact hr, ?_⟩
  intro hreg hbank hc hda hd ix no org inW
  have hexec : exec (.vpermw d a c t la) s = _ := execVpermw_ready hv ht hc la ⟨hreg, hbank⟩ hda hd
  refine ⟨fun hgood => ?_, fun e he => ?_⟩
  · have hnone : s.active.find? (s.winBad d t) = none := List.find?_eq_none.mpr fun e he hbad => by
      rw [State.winBad, Bool.and_eq_true, Bool.not_eq_true', Bool.or_eq_true, decide_eq_true_iff, decide_eq_true_iff] at hbad
      obtain ⟨hno, hrange⟩ := hbad
      obtain ⟨hlow, hhigh⟩ := hgood e he hno
      exact hrange.elim (Int.not_lt.mpr hlow) (Int.not_le.mpr hhigh)
    rw [hexec, hnone]
    rfl
  · rw [hexec, show s.active.find? (s.winBad d t) = some e from he]
    rfl

end Sys2Proof.Proofs
end

section
/-! PROOFS. Accesses at indices (10 R279, R282), and scatters (10 R279, 04 R132). -/

namespace Sys2Proof.Machine

/-! Elements by their indices. -/

/-- The active elements whose index is present. -/
def State.indexedEls (s : State) (b : VName) : List Nat := s.active.filter fun e => decide (s.runEl b.toNat 32 e ≠ 2 ^ 31)

/-- These elements with their addresses: base plus index times size. -/
def State.indexed (s : State) (b : VName) (n : Nat) : List (Nat × Word) :=
  (s.indexedEls b).map fun e => (e, s.u.opA + BitVec.ofInt 64 (sextNat 32 (s.runEl b.toNat 32 e) * n))

theorem State.filter_present (s : State) (b : VName) :
    ((s.active.map fun e => (e, s.runEl b.toNat 32 e)).filter fun x => !Ty.i32.isAbsent x.2) =
      (s.indexedEls b).map fun e => (e, s.runEl b.toNat 32 e) := by
  rw [List.filter_map, State.indexedEls]
  simp only [Function.comp_def, isAbsent_i32, decide_not]

theorem State.map_present (s : State) (b : VName) (n : Nat) :
    (((s.indexedEls b).map fun e => (e, s.runEl b.toNat 32 e)).map fun x => (x.1, s.u.opA + BitVec.ofInt 64 (sextNat 32 x.2 * n))) = s.indexed b n :=
  List.map_map

theorem State.any_absent (s : State) (b : VName) : ((s.active.map fun e => (e, s.runEl b.toNat 32 e)).any fun x => Ty.i32.isAbsent x.2) =
    s.active.any fun e => decide (s.runEl b.toNat 32 e = 2 ^ 31) := by
  rw [List.any_map]
  simp only [Function.comp_def, isAbsent_i32]

theorem State.toNat_w64_of_indexed {s : State} {b : VName} {n : Nat} {x : Nat × Word} (h : x ∈ s.indexed b n) : (w64 x.1).toNat = x.1 := by
  obtain ⟨e, he, rfl⟩ := List.mem_map.mp h
  have hlt : e < s.u.vl.toNat := List.mem_range.mp (List.mem_of_mem_filter (List.mem_of_mem_filter he))
  have hvl := s.u.vl.isLt
  exact Nat.mod_eq_of_lt (by omega)

section
variable {s : State} {b : VName} {r : Nat}

theorem State.needIdx_run (hrun : Claim.run s b.toNat 32 s.u.vl.toNat) : s.needIdx b.toNat = .ok (s.runRegs 32 s.u.vl.toNat) := by
  rw [State.needIdx, run_needReg hrun, ok_bind, run_needRun hrun, ok_bind]

theorem not_meets_run (h : Claim.apart b.toNat (Claim.runLen s 32 s.u.vl.toNat) r 1) :
    ¬ (b.toNat ≤ r ∧ r < b.toNat + s.runRegs 32 s.u.vl.toNat) := by
  have : b.toNat + s.runRegs 32 s.u.vl.toNat ≤ r ∨ r + 1 ≤ b.toNat := h
  omega

end

/-! One write for each location (04 R132). -/

theorem pickOne_spec (n : Nat) (l : List (Place × Nat)) : (∀ x ∈ pickOne n l, x ∈ l) ∧ (∀ x ∈ l, ∃ y ∈ pickOne n l, y.1 = x.1) ∧
    ((pickOne n l).map fun x => x.1).Nodup := by
  induction l with
  | nil => simp [pickOne]
  | cons z r ih =>
    obtain ⟨p, x⟩ := z
    obtain ⟨hsub, hall, hnd⟩ := ih
    unfold pickOne
    dsimp only
    split
    · refine ⟨fun y hy => ?_, fun y hy => ?_, ?_⟩
      · rcases List.mem_cons.mp hy with rfl | hy
        · exact List.mem_cons_self
        · exact List.mem_cons_of_mem _ (hsub y (List.mem_of_mem_filter hy))
      · by_cases hp : y.1 = p
        · exact ⟨_, List.mem_cons_self, hp.symm⟩
        · obtain ⟨w, hw, he⟩ := hall y ((List.mem_cons.mp hy).resolve_left fun h => hp (by rw [h]))
          exact ⟨w, List.mem_cons_of_mem _ (List.mem_filter.mpr ⟨hw, by simpa [he] using hp⟩), he⟩
      · rw [List.map_cons, List.nodup_cons]
        refine ⟨fun hm => ?_, (List.filter_sublist.map _).nodup hnd⟩
        obtain ⟨w, hw, he⟩ := List.mem_map.mp hm
        exact of_decide_eq_true (List.mem_filter.mp hw).2 he
    · next hdup =>
      refine ⟨fun y hy => List.mem_cons_of_mem _ (hsub y hy), fun y hy => ?_, hnd⟩
      rcases List.mem_cons.mp hy with rfl | hy
      · obtain ⟨w, hw⟩ := List.exists_mem_of_length_pos (Nat.pos_of_ne_zero (not_or.mp hdup).1)
        obtain ⟨hr, he⟩ := List.mem_filter.mp hw
        obtain ⟨v, hv, hve⟩ := hall w hr
        exact ⟨v, hv, hve.trans (of_decide_eq_true he)⟩
      · exact hall y hy

/-! Scatters. -/

section
variable {s : State} {d b : VName} {t : Ty} (hv : s.vp = none) (ht : t.six = true) (hd : Claim.ready s t.bits [d.toNat])
  (hrun : Claim.run s b.toNat 32 s.u.vl.toNat) (hapart : Claim.apart b.toNat (Claim.runLen s 32 s.u.vl.toNat) d.toNat 1)
include hv ht hd hrun hapart

theorem State.scatter_ready (keep : State → List (Place × Nat) → List (Place × Nat)) : s.scatter keep d b t =
    match s.storePlaces s.bankAgent .store (t.bits / 8) (s.indexed b (t.bits / 8)) (s.indexed b (t.bits / 8)) with
    | .error (.trap x) => .error (.trap { x with idx := BitVec.ofInt 64 (sextNat 32 (s.runEl b.toNat 32 x.elem.toNat)) })
    | .error e => .error e
    | .ok (ps, q) =>
      let ws := keep s (ps.map fun x => (x.2, s.el d.toNat t.bits x.1))
      .ok (((({ q with fresh := q.fresh + ws.length } : State).writeEls (t.bits / 8) ws).raise
        { abs := s.active.any fun e => decide (s.runEl b.toNat 32 e = 2 ^ 31) }).consume (d.toNat :: runNames b.toNat (s.runRegs 32 s.u.vl.toNat))) := by
  have hsrcs : ∀ x ∈ (⟨d.toNat, t.bits, 0, none⟩ :: s.runSrcs b.toNat (s.runRegs 32 s.u.vl.toNat) 32 : List Src), s.readable x.reg := by
    intro x hx
    rcases List.mem_cons.mp hx with rfl | hx
    · exact ready_readable hd List.mem_cons_self
    · exact run_srcs_readable hrun none hx
  rw [State.scatter, need_true _ _ _ ⟨by rw [hv]; rfl, ht⟩, ok_bind, State.needReg_ok (ready_budget hd List.mem_cons_self), ok_bind]
  dsimp only
  rw [State.needVl_ok s _ (hd.2.1 hv), ok_bind, State.needIdx_run hrun, ok_bind, need_true _ _ _ (not_meets_run hapart), ok_bind,
    State.srcHit_readable hsrcs, ok_bind, s.filter_present b, s.map_present b, filter_beforeHit_none, s.any_absent b]
  rcases s.storePlaces s.bankAgent .store (t.bits / 8) (s.indexed b (t.bits / 8)) (s.indexed b (t.bits / 8)) with (_ | _) | _ <;> rfl

variable {u : State} {ps : List (Nat × Place)} {h : Agent} (hp : s.poison = [])
include hp

/-- Where every access passes its checks, the writes that are kept are made in element order. -/
theorem State.scatter_of_places (keep : State → List (Place × Nat) → List (Place × Nat))
    (hps : Claim.places .store (t.bits / 8) s.bankAgent s (s.indexed b (t.bits / 8)) ps u h) :
    let ws := keep s (ps.map fun x => (x.2, s.el d.toNat t.bits x.1))
    s.scatter keep d b t = .ok ((ws.foldl (fun (q : State) x => q.writePlace s.t.id x.1 (natLe (t.bits / 8) x.2)) { u with fresh := u.fresh + ws.length }).raise
      { abs := s.active.any fun e => decide (s.runEl b.toNat 32 e = 2 ^ 31) }) := by
  intro ws
  have hwalk := (places_frame hps).1
  have hread : ∀ r ∈ d.toNat :: runNames b.toNat (s.runRegs 32 s.u.vl.toNat), s.readable r := by
    intro r hr
    rcases List.mem_cons.mp hr with rfl | hr
    · exact ready_readable hd List.mem_cons_self
    · exact run_readable hrun hr
  have hkeep : s.KeepsBindings { u with fresh := u.fresh + ws.length } := hwalk.keepsBindings
  have htid : ({ u with fresh := u.fresh + ws.length } : State).t.id = s.t.id := congrArg _ hwalk.t
  rw [State.scatter_ready hv ht hd hrun hapart, State.storePlaces_of_places hps fun _ => hp]
  dsimp only
  rw [((hkeep.trans (State.writeEls_keepsBindings ..)).trans (State.raise_keepsBindings ..)).consume hread,
    State.writeEls_eq htid]

/-- The first access to fail its checks names its element and index. -/
theorem State.scatter_of_fault (keep : State → List (Place × Nat) → List (Place × Nat)) {pre post : List (Nat × Word)} {e : Nat} {va : Word}
    {c : Byte} {k : Word} {j : List TlbEntry} (hall : s.indexed b (t.bits / 8) = pre ++ (e, va) :: post)
    (hps : Claim.places .store (t.bits / 8) s.bankAgent s pre ps u h)
    (hf : u.place h .store va (t.bits / 8) (t.bits / 8) = .error (.trap c k j)) :
    s.scatter keep d b t = .error (.trap
      { cause := c, elem := w64 e, idx := BitVec.ofInt 64 (sextNat 32 (s.runEl b.toNat 32 e)), addr := va, info := k, tlb := some j }) := by
  have hmem : (e, va) ∈ s.indexed b (t.bits / 8) := by
    rw [hall]
    exact List.mem_append_right _ List.mem_cons_self
  have hfault := State.storePlaces_of_fault (e := e) (post := post) hps (fun _ => hp) hf (s.indexed b (t.bits / 8))
  rw [← hall] at hfault
  rw [State.scatter_ready hv ht hd hrun hapart, hfault]
  simp only [failStop]
  rw [State.toNat_w64_of_indexed hmem]

end

end Sys2Proof.Machine

namespace Sys2Proof.Proofs
open Sys2Proof.Machine

/-- Settles O31: both scatters are one meaning, with the writes that each keeps. -/
theorem scatters : Obligations.Scatters := by
  unfold Obligations.Scatters
  intro s d b a t la hv h64 hf64 hp w vl i es l put hd hrun hapart
  have ht : t.six = true := Ty.six_of_ne h64 hf64
  constructor
  · intro pre e va post ps u h c k j hall hps hf x hx
    have hfault := fun keep => congrArg s.finish (State.scatter_of_fault hv ht hd hrun hapart hp keep hall hps hf)
    simp only [List.mem_cons, List.not_mem_nil, or_false] at hx
    rcases hx with rfl | rfl
    · exact hfault _
    · exact hfault _
  · intro ps u h hps all
    have hdone := fun keep => congrArg s.finish (State.scatter_of_places hv ht hd hrun hapart hp keep hps)
    obtain ⟨hsub, hall, hnd⟩ := pickOne_spec s.fresh all
    exact ⟨hdone _, pickOne s.fresh all, hsub, hall, hnd, hdone _⟩

end Sys2Proof.Proofs
end

section
/-! PROOFS. Atomics (10 R280 to R284, 04 R133, 05 R142): one atomic at a place, their functions on integers, `amo` and `vamo`. -/

namespace Sys2Proof.Machine

/-! One atomic. -/

theorem State.noteAmo_frame (s : State) (g pa : Nat) (old new : List Byte) : let q := s.noteAmo g pa old new
    q = { s with amos := q.amos } := by
  unfold State.noteAmo
  dsimp only
  split <;> rfl

theorem getD_eq_or_mem {α : Type} (l : List α) (k : Nat) (x : α) : l.getD k x = x ∨ l.getD k x ∈ l := by
  rcases Nat.lt_or_ge k l.length with h | h
  · right
    rw [List.getD_eq_getElem _ _ h]
    exact List.getElem_mem h
  · exact .inl (List.getD_eq_default _ _ h)

/-- The old value of an atomic is what stands at its place, or a value that an atomic from outside its scope replaced (04 R133). -/
theorem State.amoAt_spec (u : State) (f : AmoFn) (t : Ty) (p : Place) (x y : Nat) : let cur := u.readPlace u.t.id p (f.size t)
    ∃ b q, (b = cur ∨ ∃ pa, p = .hbm pa ∧ b ∈ u.staleAt u.u.scope pa u.amos.reverse cur) ∧ u.amoAt f t p x y = (leNat b, q) ∧
      q = { u.writePlace u.t.id p (natLe (f.size t) (f.new t (leNat b) x y)) with amos := q.amos, fresh := q.fresh } ∧
      (u.amos = [] → q.fresh = u.fresh) := by
  intro cur
  have scratchless : ∀ bs : List Byte, u.writePlace u.t.id p bs = { u.writePlace u.t.id p bs with amos := u.amos, fresh := u.fresh } := by
    intro bs
    rw [State.writePlace_frame]
  cases p with
  | hbm pa =>
    by_cases hl : u.staleAt u.u.scope pa u.amos.reverse cur = []
    · refine ⟨cur, (u.writePlace u.t.id (.hbm pa) (natLe (f.size t) (f.new t (leNat cur) x y))).noteAmo u.g.id pa cur
        (natLe (f.size t) (f.new t (leNat cur) x y)), .inl rfl, ?_, ?_, fun _ => ?_⟩
      · unfold State.amoAt
        dsimp only
        rw [if_pos hl]
      · rw [State.noteAmo_frame]
      · rw [State.noteAmo_frame]
        rfl
    · let l := u.staleAt u.u.scope pa u.amos.reverse cur
      let b := l.getD (u.free.1 % (l.length + 1)) cur
      refine ⟨b, (u.free.2.writePlace u.t.id (.hbm pa) (natLe (f.size t) (f.new t (leNat b) x y))).noteAmo u.g.id pa cur
        (natLe (f.size t) (f.new t (leNat b) x y)), (getD_eq_or_mem l _ cur).imp_right fun h => ⟨pa, rfl, h⟩, ?_, ?_, fun h => ?_⟩
      · unfold State.amoAt
        dsimp only
        rw [if_neg hl]
        rfl
      · rw [State.noteAmo_frame]
        rfl
      · rw [h] at hl
        exact absurd rfl hl
  | ws d o => exact ⟨cur, _, .inl rfl, rfl, scratchless _, fun _ => rfl⟩
  | scr o =>
    refine ⟨cur, u.writePlace u.t.id (.scr o) (natLe (f.size t) (f.new t (leNat cur) x y)), .inl rfl, rfl, rfl, fun _ => ?_⟩
    rw [scratchless]

theorem State.amoAt_keepsBindings (u : State) (f : AmoFn) (t : Ty) (p : Place) (x y : Nat) : u.KeepsBindings (u.amoAt f t p x y).2 := by
  obtain ⟨b, q, -, hq, hframe, -⟩ := u.amoAt_spec f t p x y
  have hwrite := u.writePlace_keepsBindings u.t.id p (natLe (f.size t) (f.new t (leNat b) x y))
  rw [hq]
  dsimp only
  rw [hframe]
  exact hwrite

theorem State.amoAll_keepsBindings (f : AmoFn) (t : Ty) (arg : Nat → Nat × Nat) (l : List (Nat × Place)) (s : State) :
    s.KeepsBindings (s.amoAll f t arg l).2 := by
  induction l generalizing s with
  | nil => exact ⟨rfl, rfl, rfl⟩
  | cons x l ih => exact (s.amoAt_keepsBindings ..).trans (ih _)

theorem State.putOld_keepsBindings (s : State) (f : AmoFn) (d : Nat) (l : List (Nat × Nat)) : s.KeepsBindings (s.putOld f d l) := by
  unfold State.putOld
  split
  · exact (s.setEls_keepsBindings ..).trans (State.setEls_keepsBindings ..)
  · exact s.setEls_keepsBindings ..

/-! The functions on integers (10 R280, R281). -/

theorem isAbsent_i64 (x : Nat) : Ty.i64.isAbsent x = false := rfl

theorem AmoFn.new_min_i64 (m x y : Nat) : sextNat 64 (AmoFn.min.new .i64 m x y) = Min.min (sextNat 64 m) (sextNat 64 x) := by
  have heval : AmoFn.min.new .i64 m x y = if sextNat 64 m ≤ sextNat 64 x then m else x := by
    rw [AmoFn.new, BinOp.run_present _ _ _ (isAbsent_i64 m) (isAbsent_i64 x), BinOp.eval_min_int rfl]
    rfl
  rw [heval, min_def]
  exact apply_ite (sextNat 64) ..

theorem AmoFn.new_i32 {m x : Nat} (y : Nat) (hm : m < 2 ^ 32) (hx : x < 2 ^ 32) (hm' : m ≠ 2 ^ 31) (hx' : x ≠ 2 ^ 31) :
    sextNat 32 (AmoFn.add.new .i32 m x y) = Max.max (-(2 ^ 31 - 1)) (Min.min (2 ^ 31 - 1) (sextNat 32 m + sextNat 32 x)) ∧
    sextNat 32 (AmoFn.max.new .i32 m x y) = Max.max (sextNat 32 m) (sextNat 32 x) := by
  have hma : Ty.i32.isAbsent m = false := isAbsent_eq_false rfl hm'
  have hxa : Ty.i32.isAbsent x = false := isAbsent_eq_false rfl hx'
  have hmp : |sextNat 32 m| ≤ satMax 32 := (abs_sextNat_le_iff (by decide) hm).mpr hm'
  have hxp : |sextNat 32 x| ≤ satMax 32 := (abs_sextNat_le_iff (by decide) hx).mpr hx'
  constructor
  · rw [AmoFn.new, if_neg (by decide), BinOp.run_present _ _ _ hma hxa]
    exact (clamped_eval_add (t := .i32) rfl (by decide) 0).1
  · rw [AmoFn.new, BinOp.run_present _ _ _ hma hxa, BinOp.eval_max_int rfl, max_comm, max_def]
    exact apply_ite (sextNat 32) ..

/-! `amo` (10 R284). -/

theorem exec_amo : ∀ x ∈ Claim.atomics, ∀ (s : State) (d a b : CReg) (t : Ty), exec (x.1 d a b t) s = s.finish (s.amo x.2.2 d a b t) := by
  intro x hx s d a b t
  simp only [Claim.atomics, List.mem_cons, List.not_mem_nil, or_false] at hx
  rcases hx with rfl | rfl | rfl | rfl | rfl | rfl | rfl | rfl | rfl | rfl | rfl | rfl <;> rfl

theorem exec_vamo : ∀ x ∈ Claim.atomics, ∀ (s : State) (d b : VName) (a : BitVec 6) (t : Ty),
    exec (x.2.1 d a b t) s = s.finish (s.vamo x.2.2 d a b t) := by
  intro x hx s d b a t
  simp only [Claim.atomics, List.mem_cons, List.not_mem_nil, or_false] at hx
  rcases hx with rfl | rfl | rfl | rfl | rfl | rfl | rfl | rfl | rfl | rfl | rfl | rfl <;> rfl

section
variable {s : State} {f : AmoFn} {t : Ty} {d a b : CReg}

theorem State.amo_illegal (h : f.admits false t = false) : s.amo f d a b t = ill := by
  rw [State.amo, need_false _ _ _ (by simp [h])]
  rfl

variable (hadm : f.admits false t = true) (hcas : f = .cas → d ≠ 31)
include hadm hcas

theorem State.amo_of_place {p : Place} {u : State} (hp : s.place s.agent .atomic (s.c a) (f.size t) (f.size t) = .ok (p, u)) :
    let r := u.amoAt f t p ((s.c b).toNat % 2 ^ t.bits) (if f = .cas then (s.c (d + 1)).toNat % 2 ^ t.bits else 0)
    s.amo f d a b t = .ok (r.2.setC d (if f ≠ .addc ∧ t.isInt = true then BitVec.ofInt 64 (sextNat t.bits r.1) else BitVec.ofNat 64 r.1)) := by
  intro r
  have hval : (if f = .addc then w64 r.1 else t.toC r.1) =
      if f ≠ .addc ∧ t.isInt = true then BitVec.ofInt 64 (sextNat t.bits r.1) else BitVec.ofNat 64 r.1 := by
    by_cases hf : f = .addc
    · rw [if_pos hf, if_neg fun h => h.1 hf]
      rfl
    · rw [if_neg hf, Ty.toC]
      exact if_congr (by simp [hf]) rfl rfl
  rw [← hval, State.amo, need_true _ _ _ ⟨hadm, hcas⟩, ok_bind]
  dsimp only
  rw [hp]
  rfl

theorem State.amo_of_fault {e : Fail} (hp : s.place s.agent .atomic (s.c a) (f.size t) (f.size t) = .error e) :
    s.amo f d a b t = .error (failStop noElem (s.c a) e) := by
  rw [State.amo, need_true _ _ _ ⟨hadm, hcas⟩, ok_bind]
  dsimp only
  rw [hp]
  rfl

end

/-! `vamo` (10 R282, R283). -/

/-- A free order of the atomics is an order of them all (04 R133). -/
theorem freeOrder_perm {α : Type} (k n : Nat) {l : List α} (h : l.length = k) : (freeOrder k n l).Perm l := by
  induction k generalizing n l with
  | zero => rw [freeOrder]
  | succ k ih =>
    cases l with
    | nil => exact absurd h (by simp)
    | cons x r =>
      have hi : Config.freeNat n % (r.length + 1) < (x :: r).length := Nat.mod_lt _ (Nat.succ_pos _)
      have hlen : ((x :: r).eraseIdx (Config.freeNat n % (r.length + 1))).length = k := by
        rw [List.length_eraseIdx_of_lt hi, h, Nat.add_sub_cancel]
      rw [freeOrder, List.getD_eq_getElem _ _ hi]
      exact ((ih (n + 1) hlen).cons _).trans (List.getElem_cons_eraseIdx_perm hi)

/-- The order in which the atomics of one `vamo` are performed. -/
def amoOrder (n : Nat) (ps : List (Nat × Place)) : List (Nat × Place) := if hasDup ps then freeOrder ps.length n ps else ps

theorem amoOrder_perm (n : Nat) (ps : List (Nat × Place)) : (amoOrder n ps).Perm ps := by
  unfold amoOrder
  split
  · exact freeOrder_perm _ _ rfl
  · exact .refl _

theorem AmoFn.two_iff (f : AmoFn) : f.two = true ↔ f = .cas ∨ f = .addc := by
  rw [AmoFn.two, Bool.or_eq_true, decide_eq_true_iff, decide_eq_true_iff]

section
variable {s : State} {f : AmoFn} {t : Ty} {d b : VName} {a : BitVec 6} (hadm : f.admits true t = true) (hd : Claim.ready s 32 [d.toNat])
  (hd' : f = .cas ∨ f = .addc → d.toNat ≠ 31 ∧ Claim.ready s 32 [d.toNat + 1])
include hd hd'

theorem State.amoRegs_ready {idx : List Src} (h : ∀ x ∈ idx, s.readable x.reg) : s.amoRegs f d.toNat idx = .ok none := by
  have hread : s.readable d.toNat := ready_readable hd List.mem_cons_self
  have hread' : f = .cas ∨ f = .addc → s.readable (d.toNat + 1) := fun h => ready_readable (hd' h).2 List.mem_cons_self
  have hfree : allM ((if f = .addc then [d.toNat, d.toNat + 1] else [d.toNat]).map s.needUnbound) = .ok ⟨⟩ := by
    refine allM_ok fun m hm => ?_
    obtain ⟨r, hr, rfl⟩ := List.mem_map.mp hm
    refine State.needUnbound_readable ?_
    split at hr <;> simp only [List.mem_cons, List.not_mem_nil, or_false] at hr
    · next hf => exact hr.elim (fun h => h ▸ hread) fun h => h ▸ hread' (.inr hf)
    · exact hr ▸ hread
  have hsrcs : ∀ x ∈ srcsOf 32 (if f = .cas then [d.toNat, d.toNat + 1] else [d.toNat]) ++ idx, s.readable x.reg := by
    intro x hx
    rcases List.mem_append.mp hx with hx | hx
    · obtain ⟨r, hr, rfl⟩ := List.mem_map.mp hx
      split at hr <;> simp only [List.mem_cons, List.not_mem_nil, or_false] at hr
      · next hf => exact hr.elim (fun h => h ▸ hread) fun h => h ▸ hread' (.inl hf)
      · exact hr ▸ hread
    · exact h x hx
  rw [State.amoRegs, hfree, ok_bind, State.srcHit_readable hsrcs]

omit hd in
theorem needTwo_ok : (need (f.two = true → d.toNat + 1 < s.g.budget ∧ d.toNat ≠ 31) : M PUnit) = .ok ⟨⟩ := by
  refine need_true _ _ _ fun h => ?_
  obtain ⟨hne, hr⟩ := hd' (f.two_iff.mp h)
  exact ⟨ready_budget hr List.mem_cons_self, hne⟩

include hadm

/-! Inside an AIB. -/

section
variable {v : Nat} (hv : s.vp = some v) (hb : b = 0) (ha : Claim.pairOk s a) (hpair : Claim.ready s 32 [a.toNat, a.toNat + 1])
include hv hb ha hpair

theorem State.vamo_vp : s.vamo f d a b t = if s.g.vm.getLsbD v then (do
      let (p, q) ← liftFail (w64 v) (Claim.pair s a v) (s.place s.agent .atomic (Claim.pair s a v) (f.size t) (f.size t))
      let r := q.amoAt f t p (s.el d.toNat 32 v) (s.el (d.toNat + 1) 32 v)
      .ok ((r.2.putOld f d.toNat [(v, r.1)]).raise { abs := f.numeric && t.isAbsent (s.el d.toNat 32 v) })) else .ok s := by
  rw [State.vamo, need_true _ _ _ hadm, ok_bind]
  dsimp only
  rw [State.needReg_ok (ready_budget hd List.mem_cons_self), ok_bind, needTwo_ok hd', ok_bind, hv]
  dsimp only
  rw [need_true _ _ _ hb, ok_bind, State.pairBase_ready ha (ready_readable hpair (by simp)) (ready_readable hpair (by simp)), ok_bind,
    State.amoRegs_ready hd hd' (by simp), ok_bind]
  rfl

end

/-! In the control stream. -/

section
variable (hv : s.vp = none) (hrun : Claim.run s b.toNat 32 s.u.vl.toNat)
  (hapart : Claim.apart b.toNat (Claim.runLen s 32 s.u.vl.toNat) d.toNat 1)
  (hapart' : f = .cas ∨ f = .addc → Claim.apart b.toNat (Claim.runLen s 32 s.u.vl.toNat) (d.toNat + 1) 1)
include hv hrun hapart hapart'

/-- The elements whose index is absent, which take the absent code. -/
def State.unindexedEls (s : State) (b : VName) : List Nat := s.active.filter fun e => decide (s.runEl b.toNat 32 e = 2 ^ 31)

omit hd hd' hadm hv hrun hapart hapart' in
theorem State.filter_absent (s : State) (b : VName) :
    ((s.active.map fun e => (e, s.runEl b.toNat 32 e)).filter fun x => Ty.i32.isAbsent x.2) =
      (s.unindexedEls b).map fun e => (e, s.runEl b.toNat 32 e) := by
  rw [List.filter_map, State.unindexedEls]
  simp only [Function.comp_def, isAbsent_i32]

theorem State.vamo_control : s.vamo f d a b t = (do
    let (ps, q) ← s.storePlaces s.bankAgent .atomic (f.size t) [] (s.indexed b (f.size t))
    let r := ({ q with fresh := q.fresh + ps.length } : State).amoAll f t (fun e => (s.el d.toNat 32 e, s.el (d.toNat + 1) 32 e)) (amoOrder q.fresh ps)
    .ok (((r.2.putOld f d.toNat (r.1 ++ (s.unindexedEls b).map fun e => (e, t.absentCode))).raise
      { abs := decide (s.unindexedEls b ≠ []) || (f.numeric && (s.indexedEls b).any fun e => t.isAbsent (s.el d.toNat 32 e)) }).consume
        ((if f = .cas then [d.toNat + 1] else []) ++ runNames b.toNat (s.runRegs 32 s.u.vl.toNat)))) := by
  have hmeet : ¬ (b.toNat ≤ d.toNat ∧ d.toNat < b.toNat + s.runRegs 32 s.u.vl.toNat) ∧
      ¬ (f.two = true ∧ b.toNat ≤ d.toNat + 1 ∧ d.toNat + 1 < b.toNat + s.runRegs 32 s.u.vl.toNat) :=
    ⟨not_meets_run hapart, fun h => not_meets_run (hapart' (f.two_iff.mp h.1)) h.2⟩
  rw [State.vamo, need_true _ _ _ hadm, ok_bind]
  dsimp only
  rw [State.needReg_ok (ready_budget hd List.mem_cons_self), ok_bind, needTwo_ok hd', ok_bind, hv]
  dsimp only
  rw [State.needVl_ok s _ (hd.2.1 hv), ok_bind, State.needIdx_run hrun, ok_bind, need_true _ _ _ hmeet, ok_bind,
    State.amoRegs_ready hd hd' fun x hx => run_srcs_readable hrun none hx, ok_bind, s.filter_present b, s.map_present b, filter_beforeHit_none,
    s.filter_absent b]
  simp only [List.any_map, List.map_map, Function.comp_def, ne_eq, List.map_eq_nil_iff]
  rfl

variable {u : State} {ps : List (Nat × Place)} {h : Agent}

theorem State.vamo_of_places (hps : Claim.places .atomic (f.size t) s.bankAgent s (s.indexed b (f.size t)) ps u h) :
    let r := ({ u with fresh := u.fresh + ps.length } : State).amoAll f t (fun e => (s.el d.toNat 32 e, s.el (d.toNat + 1) 32 e)) (amoOrder u.fresh ps)
    s.vamo f d a b t = .ok ((r.2.putOld f d.toNat (r.1 ++ (s.unindexedEls b).map fun e => (e, t.absentCode))).raise
      { abs := decide (s.unindexedEls b ≠ []) || (f.numeric && (s.indexedEls b).any fun e => t.isAbsent (s.el d.toNat 32 e)) }) := by
  intro r
  have hread : ∀ x ∈ (if f = .cas then [d.toNat + 1] else []) ++ runNames b.toNat (s.runRegs 32 s.u.vl.toNat), s.readable x := by
    intro x hx
    rcases List.mem_append.mp hx with hx | hx
    · split at hx
      · next hf => exact (List.mem_singleton.mp hx) ▸ ready_readable (hd' (.inl hf)).2 List.mem_cons_self
      · exact absurd hx List.not_mem_nil
    · exact run_readable hrun hx
  have hkeep : s.KeepsBindings { u with fresh := u.fresh + ps.length } := (places_frame hps).1.keepsBindings
  have hall : s.KeepsBindings r.2 := hkeep.trans (State.amoAll_keepsBindings ..)
  rw [State.vamo_control hadm hd hd' hv hrun hapart hapart', State.storePlaces_of_places hps (by simp), ok_bind]
  dsimp only
  rw [((hall.trans (State.putOld_keepsBindings ..)).trans (State.raise_keepsBindings ..)).consume hread]

theorem State.vamo_of_fault {pre post : List (Nat × Word)} {e : Nat} {va : Word} {x : Fail} (hall : s.indexed b (f.size t) = pre ++ (e, va) :: post)
    (hps : Claim.places .atomic (f.size t) s.bankAgent s pre ps u h) (hf : u.place h .atomic va (f.size t) (f.size t) = .error x) :
    s.vamo f d a b t = .error (failStop (w64 e) va x) := by
  rw [State.vamo_control hadm hd hd' hv hrun hapart hapart', hall, State.storePlaces_of_fault hps (by simp) hf]
  rfl

end

end

end Sys2Proof.Machine

namespace Sys2Proof.Proofs
open Sys2Proof.Machine

/-- `amo` (10 R284). -/
theorem scalarAtomics : ∀ x ∈ Claim.atomics, ∀ (s : State) (d a b : CReg) (t : Ty),
    (x.2.2.admits false t = true → (x.2.2 = .cas → d ≠ 31) → ∀ p u, s.place s.agent .atomic (s.c a) (x.2.2.size t) (x.2.2.size t) = .ok (p, u) →
      let r := u.amoAt x.2.2 t p ((s.c b).toNat % 2 ^ t.bits) (if x.2.2 = .cas then (s.c (d + 1)).toNat % 2 ^ t.bits else 0)
      ∃ q, exec (x.1 d a b t) s = .next q ∧
        Claim.wroteC r.2 q d (if x.2.2 ≠ .addc ∧ t.isInt = true then BitVec.ofInt 64 (sextNat t.bits r.1) else BitVec.ofNat 64 r.1)) ∧
    (x.2.2.admits false t = true → (x.2.2 = .cas → d ≠ 31) → ∀ c i k,
      s.place s.agent .atomic (s.c a) (x.2.2.size t) (x.2.2.size t) = .error (.trap c i k) →
      exec (x.1 d a b t) s = .next (s.raiseTrap { cause := c, addr := s.c a, info := i, tlb := some k })) ∧
    (x.2.2.admits false t = false → exec (x.1 d a b t) s = .next (s.raiseTrap { cause := 0x01 })) := by
  intro x hx s d a b t
  rw [exec_amo x hx]
  refine ⟨fun hadm hcas p u hp => ?_, fun hadm hcas c i k hp => ?_, fun hadm => ?_⟩
  · exact ⟨_, congrArg s.finish (State.amo_of_place hadm hcas hp), State.setC_wroteC ..⟩
  · exact congrArg s.finish (State.amo_of_fault hadm hcas hp)
  · exact congrArg s.finish (State.amo_illegal hadm)

/-- The functions of 10 R280 on integers. -/
theorem atomicFunctions (m x y : Nat) :
    AmoFn.add.new .i64 m x y = (m + x) % 2 ^ 64 ∧ AmoFn.swap.new .i64 m x y = x ∧ AmoFn.cas.new .i64 m x y = (if m = x then y else m) ∧
    sextNat 64 (AmoFn.min.new .i64 m x y) = Min.min (sextNat 64 m) (sextNat 64 x) ∧
    (m < 2 ^ 32 → x < 2 ^ 32 → m ≠ 2 ^ 31 → x ≠ 2 ^ 31 →
      sextNat 32 (AmoFn.add.new .i32 m x y) = Max.max (-(2 ^ 31 - 1)) (Min.min (2 ^ 31 - 1) (sextNat 32 m + sextNat 32 x)) ∧
      sextNat 32 (AmoFn.max.new .i32 m x y) = Max.max (sextNat 32 m) (sextNat 32 x)) :=
  ⟨rfl, rfl, rfl, AmoFn.new_min_i64 m x y, fun hm hx hm' hx' => AmoFn.new_i32 y hm hx hm' hx'⟩

/-- Settles O32: `amo` and `vamo` perform at each place that passes its checks one atomic, whose old value and write are those of `State.amoAt`. -/
theorem atomics : Obligations.Atomics := by
  unfold Obligations.Atomics
  refine ⟨⟨scalarAtomics, State.amoAt_spec, fun m x y _ _ => atomicFunctions m x y⟩, ?_⟩
  intro x hx s d b a t hadm f n two arg hd hd'
  rw [exec_vamo x hx]
  refine ⟨fun hv => ?_, fun v hv hb ha hpair => ?_⟩
  · intro vl i es out l hrun hapart hapart'
    refine ⟨fun pre e va post ps u h c k j hall hps hf => ?_, fun ps u h hps => ?_⟩
    · exact congrArg s.finish (State.vamo_of_fault hadm hd hd' hv hrun hapart hapart' hall hps hf)
    · exact ⟨amoOrder u.fresh ps, amoOrder_perm .., congrArg s.finish (State.vamo_of_places hadm hd hd' hv hrun hapart hapart' hps)⟩
  · rw [State.vamo_vp hadm hd hd' hv hb ha hpair]
    refine ⟨fun hm => by rw [if_neg (by simp [hm])]; rfl, fun c i k hm hp => ?_, fun p u hm hp => ?_⟩
    · rw [if_pos hm, hp]
      rfl
    · rw [if_pos hm, hp]
      rfl

end Sys2Proof.Proofs
end

section
/-! PROOFS. Fences and named barriers (10 R288, R289, 04 R130), and `vwait` (10 R290). -/

namespace Sys2Proof.Machine

/-! Fences. -/

theorem State.fenceWaits_iff (s : State) :
    s.fenceWaits = true ↔ ∃ o ∈ s.ops, o.g = s.g.id ∧ ∀ y z, o.kind ≠ .fill y z ∧ o.kind ≠ .drain y z := by
  have hkind : ∀ k : OpKind, (match k with | .copy _ _ => true | .gather _ => true | .scatter _ => true | _ => false) = true ↔
      ∀ y z, k ≠ .fill y z ∧ k ≠ .drain y z := by
    intro k
    cases k <;> simp
  simp only [State.fenceWaits, State.fenceWaitsOf, List.any_eq_true, List.mem_filter, decide_eq_true_eq, and_assoc]
  exact exists_congr fun o => and_congr_right fun _ => and_congr_right fun _ => hkind o.kind

theorem fences_wait {s : State} (x : Scope) (h : s.fenceWaits = true) :
    execFenceRel x s = .next (s.holdUnit .fence) ∧ execFenceFull x s = .next (s.holdUnit .fence) := by
  rw [execFenceRel, execFenceFull, if_pos h]
  exact ⟨rfl, rfl⟩

theorem fences_pass {s : State} (x : Scope) (h : s.fenceWaits = false) : execFenceRel x s = .next s ∧ execFenceFull x s = .next s := by
  rw [execFenceRel, execFenceFull, if_neg (by simp [h])]
  exact ⟨rfl, rfl⟩

/-! Barriers. -/

section
variable {s : State} {k : Nat} {cnt : Word} (w : Bool)

/-- The barrier, the count of a phase, and the team with another barrier in its place. -/
def State.bar (s : State) (k : Nat) : Barrier := Bank.get {} s.t.bars k
def State.barCount (s : State) (cnt : Word) : Nat := if cnt = 0 then s.t.ngroups else cnt.toNat
def State.putBar (s : State) (k : Nat) (b : Barrier) : State := { s with t := { s.t with bars := Bank.set {} s.t.bars k b } }

theorem State.arriveBar_beyond (h : s.t.nbar ≤ k) : s.arriveBar k cnt w = ill := by
  rw [State.arriveBar, need_false _ _ _ (Nat.not_lt.mpr h)]
  rfl

variable (hk : k < s.t.nbar) (hw : s.g.id ∉ (s.bar k).waiting) (hp : s.g.id ∉ (s.bar k).passed)
include hk hw hp

theorem State.arriveBar_first (ha : s.g.id ∉ (s.bar k).arrived) : s.arriveBar k cnt w = (do
    need (s.barCount cnt ≤ s.t.ngroups) causeBarrier (w64 k)
    need ((s.bar k).arrived = [] ∨ (s.bar k).n = s.barCount cnt) causeBarrier (w64 k)
    let b := (s.bar k).arrive (s.barCount cnt) s.g.id w
    if b.arrived = [] then .ok (true, (s.putBar k { b with passed := b.passed.erase s.g.id }).wakeBar k)
    else .ok (!w, s.putBar k b)) := by
  have hpass : (w && (s.bar k).passed.contains s.g.id) = false := by simp [hp]
  have hwait : (w && (s.bar k).waiting.contains s.g.id) = false := by simp [hw]
  have hhere : (s.bar k).arrived.contains s.g.id = false := by simp [ha]
  rw [State.bar] at hpass hwait hhere
  rw [State.arriveBar, need_true _ _ _ hk, ok_bind]
  dsimp only
  rw [hpass, hwait, hhere]
  rfl

theorem State.arriveBar_amiss (ha : s.g.id ∉ (s.bar k).arrived)
    (h : s.t.ngroups < s.barCount cnt ∨ ((s.bar k).arrived ≠ [] ∧ (s.bar k).n ≠ s.barCount cnt)) :
    s.arriveBar k cnt w = trapM causeBarrier (w64 k) := by
  rw [State.arriveBar_first w hk hw hp ha]
  by_cases hn : s.barCount cnt ≤ s.t.ngroups
  · rw [need_true _ _ _ hn, ok_bind, need_false _ _ _ (not_or.mpr (h.resolve_left (Nat.not_lt.mpr hn)))]
    rfl
  · rw [need_false _ _ _ hn]
    rfl

variable (ha : s.g.id ∉ (s.bar k).arrived) (hn : s.barCount cnt ≤ s.t.ngroups) (hc : (s.bar k).arrived = [] ∨ (s.bar k).n = s.barCount cnt)
include ha hn hc

/-- An arrival that leaves the phase short is noted. -/
theorem State.arriveBar_short (h : (s.bar k).arrived.length + 1 ≠ s.barCount cnt) : s.arriveBar k cnt w =
    .ok (!w, s.putBar k { s.bar k with
      n := s.barCount cnt
      arrived := (s.bar k).arrived ++ [s.g.id]
      waiting := if w then (s.bar k).waiting ++ [s.g.id] else (s.bar k).waiting }) := by
  have harrive : (s.bar k).arrive (s.barCount cnt) s.g.id w = { s.bar k with
      n := s.barCount cnt
      arrived := (s.bar k).arrived ++ [s.g.id]
      waiting := if w then (s.bar k).waiting ++ [s.g.id] else (s.bar k).waiting } := by
    rw [Barrier.arrive]
    dsimp only
    rw [if_neg (by simpa using h)]
  rw [State.arriveBar_first w hk hw hp ha, need_true _ _ _ hn, ok_bind, need_true _ _ _ hc, ok_bind, harrive]
  dsimp only
  rw [if_neg (by simp)]

/-- The arrival that completes a phase lets the groups that wait go, and is past it. -/
theorem State.arriveBar_last (h : (s.bar k).arrived.length + 1 = s.barCount cnt) : s.arriveBar k cnt w =
    .ok (true, (s.putBar k { passed := (s.bar k).passed ++ (s.bar k).waiting }).wakeBar k) := by
  have harrive : (s.bar k).arrive (s.barCount cnt) s.g.id w =
      { passed := (s.bar k).passed ++ if w then (s.bar k).waiting ++ [s.g.id] else (s.bar k).waiting } := by
    rw [Barrier.arrive]
    dsimp only
    rw [if_pos (by simpa using h)]
  have hpassed : ((s.bar k).passed ++ if w then (s.bar k).waiting ++ [s.g.id] else (s.bar k).waiting).erase s.g.id =
      (s.bar k).passed ++ (s.bar k).waiting := by
    rw [List.erase_append_right _ hp]
    cases w with
    | true => rw [if_pos rfl, List.erase_append_right _ hw, List.erase_cons_head, List.append_nil]
    | false => rw [if_neg Bool.false_ne_true, List.erase_of_not_mem hw]
  rw [State.arriveBar_first w hk hw hp ha, need_true _ _ _ hn, ok_bind, need_true _ _ _ hc, ok_bind, harrive]
  dsimp only
  rw [if_pos rfl, hpassed]

end

/-! `vwait`. -/

/-- Where no lookahead is in force, a register reads as it stands, whatever has been walked since (07 R192). -/
theorem State.el_of_walksTo {s q : State} (h : s.WalksTo q) (hs : s.shadesHere = []) (r w e : Nat) : q.el r w e = s.el r w e := by
  have hshades : ∀ p, s.shadesOf p = [] := by
    intro p
    unfold State.shadesHere at hs
    unfold State.shadesOf
    refine List.filter_eq_nil_iff.mpr fun x hx hc => List.filter_eq_nil_iff.mp hs x hx ?_
    exact (Bool.and_eq_true_iff.mp hc).2
  have hregs : q.reg = s.reg := by
    funext r
    rw [State.reg, h.g, h.u, State.reg]
  have hq : ∀ p, q.shadesOf p = s.shadesOf p := by
    intro p
    rw [State.shadesOf, h.vp, h.u, h.g, State.shadesOf]
  rw [State.el, State.readEl, hq, hshades, hregs, State.vphys, h.g, State.el, State.readEl, hshades]
  rfl

section
variable {s : State} {base : Word} {a b : Nat}

/-- The addresses of watched elements. -/
def State.watchAt (s : State) (base : Word) (a : Nat) (es : List Nat) : List (Nat × Word) :=
  es.map fun e => (e, base + BitVec.ofInt 64 (sextNat 32 (s.el a 32 e)))

/-- Whether the words read are those that are waited for. -/
def State.metBy (s : State) (b : Nat) (xs : List (Nat × Nat)) : List (Nat × Bool) := xs.map fun x => (x.1, decide (x.2 = s.el b 32 x.1))

variable (hs : s.shadesHere = []) (hp : ∀ x ∈ s.g.rpoison, x.1 ≠ s.reg a ∧ x.1 ≠ s.reg b)
include hs hp

theorem State.watch_of_reads {q u : State} {es : List Nat} {xs : List (Nat × Nat)} {h : Agent} (hq : s.WalksTo q)
    (ho : ∀ e ∈ es, s.el a 32 e ≠ 2 ^ 31) (hr : Claim.reads 4 s.bankAgent q (s.watchAt base a es) xs u h) :
    q.watch base a b es = .ok (s.metBy b xs, false, u) := by
  induction es generalizing q xs with
  | nil =>
    obtain ⟨rfl, rfl, rfl⟩ := hr
    rfl
  | cons e es ih =>
    obtain ⟨p, r, g, ys, hvia, rfl, hrest⟩ := hr
    obtain rfl : g = s.bankAgent := State.placeVia_bank rfl hvia
    have hsr : s.WalksTo r := hq.trans (State.placeVia_walksTo hvia)
    have hsu : s.WalksTo u := hsr.trans (reads_frame hrest).1
    have hpoison : ∀ r l, r = a ∨ r = b → q.poisonIn ⟨r, 32, 0, l⟩ = none := by
      intro r l hab
      refine Option.map_eq_none_iff.mp (State.poisonFault_eq_none fun x hx => ?_)
      rw [State.reg, hq.u, hq.g]
      rw [hq.g] at hx
      rcases hab with rfl | rfl
      · exact (hp x hx).1
      · exact (hp x hx).2
    have hagent : q.bankAgent = s.bankAgent := by
      rw [State.bankAgent, State.agent, hq.t, hq.g, State.bankAgent, State.agent]
    have hread : q.readVA q.bankAgent .load (base + BitVec.ofInt 64 (sextNat 32 (s.el a 32 e))) 4 = .ok (r.readPlace q.t.id p 4, r) := by
      rw [State.readVA, hagent, State.place_of_placeVia hvia, hq.t]
      rfl
    have hnext := ih hsr (fun e he => ho e (List.mem_cons_of_mem _ he)) hrest
    rw [State.watch, hpoison a _ (.inl rfl), hpoison b _ (.inr rfl)]
    dsimp only [Option.or]
    rw [State.el_of_walksTo hq hs, isAbsent_i32, if_neg (by simpa using ho e List.mem_cons_self), hread]
    show (r.watch base a b es >>= _) = _
    rw [hnext]
    show Except.ok ((e, decide (_ = u.el b 32 e)) :: _, _, _) = _
    rw [State.el_of_walksTo hsu hs]
    rfl

end

section
variable {s p u : State} {b : Nat} {es : List Nat} {xs : List (Nat × Nat)}

theorem State.metBy_all : ((s.metBy b xs).all fun x => x.2) = true ↔ ∀ x ∈ xs, x.2 = s.el b 32 x.1 := by
  simp [State.metBy]

/-- The bits that the end of a `vwait` writes: those of the elements whose word still differs. -/
theorem State.metBy_left (hes : xs.map (fun x => x.1) = es) (hd : es.Nodup) : ((s.metBy b xs).map fun x => (x.1, !x.2)) =
    es.map fun e => (e, decide (∃ x ∈ xs, x.1 = e ∧ x.2 ≠ s.el b 32 e)) := by
  subst hes
  rw [State.metBy, List.map_map, List.map_map]
  refine List.map_congr_left fun x hx => Prod.ext rfl ?_
  have hsame : (∃ y ∈ xs, y.1 = x.1 ∧ y.2 ≠ s.el b 32 x.1) ↔ x.2 ≠ s.el b 32 x.1 := by
    constructor
    · rintro ⟨y, hy, hyx, hne⟩
      exact List.inj_on_of_nodup_map hd hy hx hyx ▸ hne
    · exact fun hne => ⟨x, hx, rfl, hne⟩
  simp [hsame]

theorem State.watched_nodup : s.watched.Nodup := List.nodup_range.filter _

theorem State.watched_lt : ∀ e ∈ s.watched, e < 2048 := fun _ he => BitVec.lt_of_getLsbD (List.mem_filter.mp he).2

theorem State.watchAt_fst {base : Word} {a : Nat} : (s.watchAt base a es).map (fun x => x.1) = es := by
  rw [State.watchAt, List.map_map]
  exact List.map_id es

end

section
variable {s u : State} {d : CReg} {a b : VName} {xs : List (Nat × Nat)} {h : Agent}

theorem execVwait_of_reads (hd : d ≠ 31) (ha : a.toNat < s.g.budget) (hb : b.toNat < s.g.budget) (hvl : s.u.vl.toNat ≤ s.g.grant / 32)
    (ho : ∀ e ∈ s.watched, s.el a.toNat 32 e ≠ 2 ^ 31) (hs : s.shadesHere = [])
    (hp : ∀ x ∈ s.g.rpoison, x.1 ≠ s.reg a.toNat ∧ x.1 ≠ s.reg b.toNat)
    (hr : Claim.reads 4 s.bankAgent s (s.watchAt (s.c d) a.toNat s.watched) xs u h) :
    ((∀ x ∈ xs, x.2 = s.el b.toNat 32 x.1) →
      execVwait d a b s = .next ((u.writeVm (s.watched.map fun e => (e, false))).raise {})) ∧
    ((∃ x ∈ xs, x.2 ≠ s.el b.toNat 32 x.1) → execVwait d a b s = .next (u.holdUnit (.vwait
      (if s.c (d + 1) = 0 then none else some ((s.dieAt s.t.die).clk.toNat + (s.c (d + 1)).toNat)) d a b))) := by
  have hwatch := State.watch_of_reads hs hp (.refl s) ho hr
  have hes : xs.map (fun x => x.1) = s.watched := (reads_frame hr).2.2.trans State.watchAt_fst
  rw [execVwait, need_true _ _ _ hd, ok_bind, State.needReg_ok ha, ok_bind, State.needReg_ok hb, ok_bind, State.needVl_ok s 32 hvl, ok_bind, hwatch]
  dsimp only
  constructor
  · intro hmet
    rw [if_pos (State.metBy_all.mpr hmet), State.watchEnd, State.metBy_left hes State.watched_nodup]
    refine congrArg (fun l => Host.Outcome.next ((u.writeVm l).raise {})) (List.map_congr_left fun e _ => Prod.ext rfl ?_)
    refine decide_eq_false ?_
    rintro ⟨x, hx, rfl, hne⟩
    exact hne (hmet x hx)
  · rintro ⟨x, hx, hne⟩
    rw [if_neg fun hall => hne (State.metBy_all.mp hall x hx)]
    have hzero : (s.c (d + 1)).toNat = 0 ↔ s.c (d + 1) = 0 := by
      rw [← BitVec.toNat_inj]
      rfl
    simp only [hzero]

end

/-! The end of a wait. -/

section
variable {s u : State} {dl : Option Nat} {d : CReg} {a b : VName} {xs : List (Nat × Nat)} {h : Agent}

/-- The state of a group that a `vwait` has let go: after the instruction, with the bits of `vm` of the elements whose word differs. -/
theorem State.passed_of_watchEnd {p : State} {es : List Nat} (hu : p.WalksTo u) (hes : xs.map (fun x => x.1) = es) (hd : es.Nodup)
    (hlt : ∀ e ∈ es, e < 2048) (b : Nat) : let t := (u.watchEnd (p.metBy b xs) false).passUnit
    t.g.pc = p.g.pc + 4 ∧ t.g.cwait = none ∧ t.g.c = p.g.c ∧ t.g.v = p.g.v ∧ t.hbm = u.hbm ∧
      ∀ e, t.g.vm.getLsbD e = if e ∈ es then decide (∃ x ∈ xs, x.1 = e ∧ x.2 ≠ p.el b 32 e) else p.g.vm.getLsbD e := by
  have hvm := u.getLsbD_writeVm (fun e => decide (∃ x ∈ xs, x.1 = e ∧ x.2 ≠ p.el b 32 e)) hlt
  have hframe := u.writeVm_frame (es.map fun e => (e, decide (∃ x ∈ xs, x.1 = e ∧ x.2 ≠ p.el b 32 e)))
  rw [State.watchEnd, State.metBy_left hes hd]
  generalize u.writeVm (es.map fun e => (e, decide (∃ x ∈ xs, x.1 = e ∧ x.2 ≠ p.el b 32 e))) = t at hvm hframe ⊢
  refine ⟨?_, rfl, ?_, ?_, ?_, fun e => ?_⟩
  · show t.g.pc + 4 = _
    rw [hframe, ← hu.g]
  · show t.g.c = _
    rw [hframe, ← hu.g]
  · show t.g.v = _
    rw [hframe, ← hu.g]
  · show t.hbm = _
    rw [hframe]
  · show t.g.vm.getLsbD e = _
    rw [hvm, hu.g]

theorem State.wakeWatch_of_reads (hw : (s.focus s.ev.g).g.cwait = some (.vwait dl d a b)) :
    let p := (s.focus s.ev.g).waitUnit
    (∀ e ∈ p.watched, p.el a.toNat 32 e ≠ 2 ^ 31) → p.shadesHere = [] →
    (∀ x ∈ p.g.rpoison, x.1 ≠ p.reg a.toNat ∧ x.1 ≠ p.reg b.toNat) →
    Claim.reads 4 p.bankAgent p (p.watchAt (p.c d) a.toNat p.watched) xs u h → 
      ((∀ x ∈ xs, x.2 = p.el b.toNat 32 x.1) → s.wakeWatch false = (u.watchEnd (p.metBy b.toNat xs) false).passUnit) ∧
      ((∃ x ∈ xs, x.2 ≠ p.el b.toNat 32 x.1) → s.wakeWatch false = s.walkedAs u) ∧
      ∀ n, dl = some n → n ≤ ((s.focus s.ev.g).dieAt (s.focus s.ev.g).t.die).clk.toNat →
        s.wakeWatch true = (u.watchEnd (p.metBy b.toNat xs) false).passUnit := by
  intro p ho hs hp hr
  have hwatch := State.watch_of_reads hs hp (.refl p) ho hr
  refine ⟨fun hmet => ?_, fun ⟨x, hx, hne⟩ => ?_, fun n hn hdue => ?_⟩
  · rw [State.wakeWatch, hw]
    dsimp only
    rw [Bool.false_and, if_neg Bool.false_ne_true, hwatch]
    dsimp only
    rw [State.metBy_all.mpr hmet]
    rfl
  · rw [State.wakeWatch, hw]
    dsimp only
    rw [Bool.false_and, if_neg Bool.false_ne_true, hwatch]
    dsimp only
    rw [Bool.false_or, if_neg fun hall => hne (State.metBy_all.mp hall x hx)]
  · have hwaits : ¬ (true && !decide (n ≤ ((s.focus s.ev.g).dieAt (s.focus s.ev.g).t.die).clk.toNat)) = true := by simp [hdue]
    rw [State.wakeWatch, hw, hn]
    dsimp only
    rw [if_neg hwaits, hwatch]
    rfl

end

end Sys2Proof.Machine

namespace Sys2Proof.Proofs
open Sys2Proof.Machine

section
variable {s : State} {k : BitVec 6} {a : CReg}

theorem fences_spec (s : State) (x : Scope) :
    exec (.fenceAcq x) s = .next s ∧ exec .ifence s = .next { s with g := { s.g with fbuf := [] } } ∧
    ((∀ o ∈ s.ops, o.g = s.g.id → (∃ y z, o.kind = .fill y z ∨ o.kind = .drain y z)) →
      exec (.fenceRel x) s = .next s ∧ exec (.fenceFull x) s = .next s) ∧
    ((∃ o ∈ s.ops, o.g = s.g.id ∧ ∀ y z, o.kind ≠ .fill y z ∧ o.kind ≠ .drain y z) →
      exec (.fenceRel x) s = .next (s.holdUnit .fence) ∧ exec (.fenceFull x) s = .next (s.holdUnit .fence)) := by
  refine ⟨rfl, rfl, fun hfree => fences_pass x ?_, fun hbusy => fences_wait x (s.fenceWaits_iff.mpr hbusy)⟩
  rw [Bool.eq_false_iff, Ne, State.fenceWaits_iff]
  rintro ⟨o, ho, hg, hkind⟩
  obtain ⟨y, z, hfill | hdrain⟩ := hfree o ho hg
  · exact (hkind y z).1 hfill
  · exact (hkind y z).2 hdrain

theorem barrier_arrivals (hk : k.toNat < s.t.nbar) (hn : s.barCount (s.c a) ≤ s.t.ngroups) (ha : s.g.id ∉ (s.bar k.toNat).arrived)
    (hw : s.g.id ∉ (s.bar k.toNat).waiting) (hp : s.g.id ∉ (s.bar k.toNat).passed)
    (hc : (s.bar k.toNat).arrived = [] ∨ (s.bar k.toNat).n = s.barCount (s.c a)) :
    let b := s.bar k.toNat
    let n := s.barCount (s.c a)
    (b.arrived.length + 1 ≠ n →
      exec (.barArrive k a) s = .next (s.putBar k.toNat { b with n := n, arrived := b.arrived ++ [s.g.id] }) ∧
      exec (.bar k a) s = .next ((s.putBar k.toNat { b with n := n, arrived := b.arrived ++ [s.g.id], waiting := b.waiting ++ [s.g.id] }).holdUnit
        (.bar k.toNat))) ∧
    (b.arrived.length + 1 = n → ∀ i ∈ [(.bar k a : Instr), .barArrive k a],
      exec i s = .next ((s.putBar k.toNat { passed := b.passed ++ b.waiting }).wakeBar k.toNat)) := by
  have hbar : exec (.bar k a) s = s.finishBar k.toNat (s.arriveBar k.toNat (s.c a) true) := rfl
  have harrive : exec (.barArrive k a) s = s.finishBar k.toNat (s.arriveBar k.toNat (s.c a) false) := rfl
  refine ⟨fun hshort => ⟨?_, ?_⟩, fun hlast i hi => ?_⟩
  · rw [harrive, State.arriveBar_short false hk hw hp ha hn hc hshort]
    rfl
  · rw [hbar, State.arriveBar_short true hk hw hp ha hn hc hshort]
    rfl
  · obtain ⟨w, hi⟩ : ∃ w, exec i s = s.finishBar k.toNat (s.arriveBar k.toNat (s.c a) w) := by
      rcases List.mem_pair.mp hi with rfl | rfl
      · exact ⟨true, hbar⟩
      · exact ⟨false, harrive⟩
    rw [hi, State.arriveBar_last w hk hw hp ha hn hc hlast]
    rfl

theorem barrier_faults (i : Instr) (hi : i ∈ [(.bar k a : Instr), .barArrive k a]) :
    (s.t.nbar ≤ k.toNat → exec i s = .next (s.raiseTrap { cause := 0x01 })) ∧
    (k.toNat < s.t.nbar → s.g.id ∉ (s.bar k.toNat).waiting → s.g.id ∉ (s.bar k.toNat).passed → s.g.id ∉ (s.bar k.toNat).arrived →
      (s.t.ngroups < s.barCount (s.c a) ∨ ((s.bar k.toNat).arrived ≠ [] ∧ (s.bar k.toNat).n ≠ s.barCount (s.c a))) →
      exec i s = .next (s.raiseTrap { cause := 0x10, info := k.setWidth 64 })) := by
  obtain ⟨w, hi⟩ : ∃ w, exec i s = s.finishBar k.toNat (s.arriveBar k.toNat (s.c a) w) := by
    rcases List.mem_pair.mp hi with rfl | rfl
    · exact ⟨true, rfl⟩
    · exact ⟨false, rfl⟩
  constructor
  · intro hk
    rw [hi, State.arriveBar_beyond w hk]
    rfl
  · intro hk hw hp ha hamiss
    have hinfo : k.setWidth 64 = w64 k.toNat := BitVec.eq_of_toNat_eq (by simp [w64])
    rw [hi, State.arriveBar_amiss w hk hw hp ha hamiss, hinfo]
    rfl

end

/-- Settles O34: the fences by what an operation that waits is, the barriers by the outcomes of an arrival, and `vwait` by the words
that its walk of the watched elements reads. -/
theorem fencesBarriersAndWaits : Obligations.FencesBarriersAndWaits := by
  unfold Obligations.FencesBarriersAndWaits
  refine ⟨⟨fences_spec, fun s k a => ⟨fun hk hn ha hw hp hc => barrier_arrivals hk hn ha hw hp hc, barrier_faults⟩⟩,
    fun s d a b hd ha hb hvl ho hs hp xs u h hr => execVwait_of_reads hd ha hb hvl ho hs hp hr, fun s dl d a b => ?_⟩
  intro q p es hw ho hs hp xs u h hr past
  obtain ⟨hmet, hunmet, hdue⟩ := State.wakeWatch_of_reads hw ho hs hp hr
  have hpast : past (u.watchEnd (p.metBy b.toNat xs) false).passUnit :=
    State.passed_of_watchEnd (reads_frame hr).1 ((reads_frame hr).2.2.trans State.watchAt_fst) State.watched_nodup State.watched_lt b.toNat
  exact ⟨fun h => ⟨_, congrArg Host.Outcome.next (hmet h), hpast⟩, fun h => congrArg Host.Outcome.next (hunmet h),
    fun n hn hle => ⟨_, congrArg Host.Outcome.next (hdue n hn hle), hpast⟩⟩

end Sys2Proof.Proofs
end

section
/-! PROOFS. The bytes of a write that the device makes in one page (15 R369, 17 R401, R414): the operations that it leaves, the bytes that
stand there afterwards, and what it leaves alone where an L2 holds its lines under the page's key. -/

namespace Sys2Proof.Machine

/-! What a write of the device may change: lines of the caches, memory, and what is noted as laid over an operation's lines (04 R126). -/

def EngOp.unlaid (o : EngOp) : EngOp := { o with laid := [] }

structure State.Lays (s q : State) : Prop where
  frame : q = { s with ops := q.ops, hbm := q.hbm, lkeys := q.lkeys, ekeys := q.ekeys, veils := q.veils, fresh := q.fresh }
  ops : q.ops.map EngOp.unlaid = s.ops.map EngOp.unlaid

theorem State.Lays.refl (s : State) : s.Lays s := ⟨rfl, rfl⟩

theorem State.Lays.trans {s p q : State} (h : s.Lays p) (k : p.Lays q) : s.Lays q :=
  ⟨by rw [k.frame, h.frame], k.ops.trans h.ops⟩

theorem State.SameBut.lays {s q : State} {l : Nat} (h : s.SameBut q l) : s.Lays q := by
  rw [h.frame]
  exact ⟨rfl, rfl⟩

theorem State.lays_hbm (s : State) (m : Memory) : s.Lays { s with hbm := m } := ⟨rfl, rfl⟩

/-- A line is held under key slot `k` as a write of the device holds it, taken from another slot where need be. -/
def State.takeLine (k : Nat) (s : State) (l : Nat) : State :=
  if s.lkeys.any (fun x => x.1 = l && x.2 ≠ k) then (s.evict l).fill l k else s.fill l k

theorem State.devUse_eq (s : State) (pa n leaf at_ : Nat) : let q := (linesOf pa n).foldl (State.takeLine (pteKey leaf)) s
    s.devUse pa n leaf at_ = if leaf ||| 0xC0 = leaf then q else { q with hbm := q.hbm.store at_ (natLe 8 (leaf ||| 0xC0)) } := rfl

section
variable (s : State)

theorem State.takeLine_same (k l : Nat) : s.SameBut (s.takeLine k l) l := by
  unfold State.takeLine
  split
  · exact (s.evict_same l).trans (State.fill_same ..)
  · exact s.fill_same l k

theorem State.devUse_lays (pa n leaf at_ : Nat) : s.Lays (s.devUse pa n leaf at_) := by
  have hfold := foldl_keeps State.Lays.refl State.Lays.trans (fun q l => (q.takeLine_same (pteKey leaf) l).lays) (linesOf pa n) s
  rw [State.devUse_eq]
  split
  · exact hfold
  · exact hfold.trans (State.lays_hbm ..)

theorem State.noteLaid_lays (pa n : Nat) : s.Lays (s.noteLaid pa n) := by
  unfold State.noteLaid
  dsimp only
  split
  · refine ⟨rfl, ?_⟩
    dsimp only
    rw [List.map_map]
    refine List.map_congr_left fun o _ => ?_
    dsimp only [Function.comp_apply]
    split <;> rfl
  · exact .refl s

theorem State.noteLaid_hbm (pa n : Nat) : (s.noteLaid pa n).hbm = s.hbm := by
  unfold State.noteLaid
  dsimp only
  split <;> rfl

theorem State.devPut_lays (c : Nat) (va : Word) (bs : List Byte) : s.Lays (s.devPut c va bs) := by
  unfold State.devPut
  split
  · exact ((s.devUse_lays ..).trans (State.noteLaid_lays ..)).trans (State.lays_hbm ..)
  · exact .refl s

theorem State.devWrite_lays (c : Nat) (va : Word) (bs : List Byte) : s.Lays (s.devWrite c va bs) := by
  unfold State.devWrite
  dsimp only
  split
  · exact s.devPut_lays ..
  · exact (s.devPut_lays ..).trans (State.devPut_lays ..)

end

/-! Memory. -/

section
variable {s : State} {c leaf level at_ : Nat} {va : Word} {bs : List Byte}

theorem State.devUse_wf (pa n : Nat) (w : s.hbm.wf = true) : (s.devUse pa n leaf at_).hbm.wf = true := by
  have hfold : ((linesOf pa n).foldl (State.takeLine (pteKey leaf)) s).hbm.wf = true :=
    foldl_keeps (R := fun s q : State => s.hbm.wf = true → q.hbm.wf = true) (fun _ => id) (fun h k => k ∘ h)
      (fun q l => (q.takeLine_same (pteKey leaf) l).wf) (linesOf pa n) s w
  rw [State.devUse_eq]
  split
  · exact hfold
  · exact Memory.wf_store _ _ hfold

theorem State.devWrite_hbm (hleaf : s.devLeaf c true va.toNat = some (leaf, level, at_)) (hfit : va.toNat % 65536 + bs.length ≤ 65536) :
    let pa := ptePfn leaf * 65536 + pageOff level va.toNat
    (s.devWrite c va bs).hbm = (s.devUse pa bs.length leaf at_).hbm.store pa bs := by
  intro pa
  unfold State.devWrite
  dsimp only
  rw [if_pos (by omega), State.devPut, hleaf]
  exact congrArg (fun m : Memory => m.store pa bs) (State.noteLaid_hbm ..)

theorem mem_linesOf {pa n l : Nat} (h : l ∈ linesOf pa n) : 128 * l < pa + n ∧ pa < 128 * l + 128 := by
  obtain ⟨i, hi, rfl⟩ := List.mem_map.mp h
  have := List.mem_range.mp hi
  omega

/-- An L2 holds the lines of `n` bytes at `pa` under key slot `k` alone. -/
def State.HoldsLines (s : State) (k pa n : Nat) : Prop := ∀ l ∈ linesOf pa n, (l, k) ∈ s.lkeys ∧ ∀ x ∈ s.lkeys, x.1 = l → x.2 = k

theorem State.takeLine_held {k l : Nat} (hin : (l, k) ∈ s.lkeys) (hkey : ∀ x ∈ s.lkeys, x.1 = l → x.2 = k) : s.takeLine k l = s := by
  have hother : ¬ (s.lkeys.any fun x => x.1 = l && x.2 ≠ k) = true := by
    rw [List.any_eq_true]
    rintro ⟨x, hx, hc⟩
    obtain ⟨hxl, hne⟩ := Bool.and_eq_true_iff.mp hc
    exact of_decide_eq_true hne (hkey x hx (of_decide_eq_true hxl))
  rw [State.takeLine, if_neg hother, State.fill, if_pos (List.any_eq_true.mpr ⟨_, hin, decide_eq_true rfl⟩)]

/-- Where an L2 holds the lines under the leaf's key, a use of them changes A and D of the leaf alone. -/
theorem State.devUse_held {pa n : Nat} (h : s.HoldsLines (pteKey leaf) pa n) :
    s.devUse pa n leaf at_ = if leaf ||| 0xC0 = leaf then s else { s with hbm := s.hbm.store at_ (natLe 8 (leaf ||| 0xC0)) } := by
  have hfold : (linesOf pa n).foldl (State.takeLine (pteKey leaf)) s = s := by
    unfold State.HoldsLines at h
    generalize linesOf pa n = ls at h
    induction ls with
    | nil => rfl
    | cons l ls ih =>
      obtain ⟨hin, hkey⟩ := h l List.mem_cons_self
      rw [List.foldl_cons, State.takeLine_held hin hkey]
      exact ih fun x hx => h x (List.mem_cons_of_mem _ hx)
  rw [State.devUse_eq, hfold]

/-- The bytes that a write leaves at its place, and those that it leaves alone. -/
theorem State.devWrite_bytes (hleaf : s.devLeaf c true va.toNat = some (leaf, level, at_)) (hfit : va.toNat % 65536 + bs.length ≤ 65536)
    (w : s.hbm.wf = true) : let pa := ptePfn leaf * 65536 + pageOff level va.toNat
    (s.devWrite c va bs).hbm.bytes pa bs.length = bs ∧
    (s.HoldsLines (pteKey leaf) pa bs.length →
      ∀ y, (y < pa ∨ pa + bs.length ≤ y) → (y < at_ ∨ at_ + 8 ≤ y) → (s.devWrite c va bs).hbm.read y = s.hbm.read y) := by
  intro pa
  rw [State.devWrite_hbm hleaf hfit]
  have hwf := State.devUse_wf (s := s) (leaf := leaf) (at_ := at_) pa bs.length w
  refine ⟨Memory.bytes_store bs pa hwf, fun hheld y hpa hat => ?_⟩
  rw [Memory.read_store _ _ _ hwf, if_neg (by omega), State.devUse_held hheld]
  split
  · rfl
  · show (s.hbm.store at_ _).read y = _
    rw [Memory.read_store _ _ _ w, if_neg (by rw [natLe_length]; omega)]

end

end Sys2Proof.Machine
end

section
/-! PROOFS. The start of a `vgath`: its command block, and the state that it leaves (10 R297, 05 R160). -/

namespace Sys2Proof.Machine

section
variable {s : State} {k : BitVec 6} {a : CReg} {b : VName} {t : Ty} {la : BitVec 4} {rec_ : Word}

/-- The elements of a `vgath` that are done as it starts. -/
def State.offElements (s : State) : List Nat := (List.range s.u.vl.toNat).filter fun e => !s.eff e

theorem State.mem_offElements (e : Nat) : e ∈ s.offElements ↔ e < s.u.vl.toNat ∧ s.eff e = false := by
  rw [State.offElements, List.mem_filter, List.mem_range, Bool.not_eq_true']

/-- The command block of a `vgath` whose record stands at `rec_`. -/
def State.vgathCmd (s : State) (b : VName) (t : Ty) (rec_ : Word) : GathCmd :=
  { addr := rec_, table := s.u.opA, data := s.u.opX, n := s.u.vl.toNat, fmt := Ty.code t, lim := 2 ^ 31, frec := rec_ + 64,
    idxs := (List.range s.u.vl.toNat).map (fun e => BitVec.ofNat 32 (s.runEl b.toNat 32 e)), isVgath := true, done := s.offElements }

/-- The operation that a `vgath` starts, before it has its identifier and its lines. -/
def State.vgathOp (s : State) (k : Nat) (c : GathCmd) : EngOp := { s.newOp k (.gather c) with done := c.done }

theorem State.vgathCmd_watermark : (s.vgathCmd b t rec_).watermark = ((List.range s.u.vl.toNat).find? fun e => s.eff e).getD s.u.vl.toNat := by
  have hfind : (List.range s.u.vl.toNat).find? (fun e => !s.offElements.contains e) = (List.range s.u.vl.toNat).find? fun e => s.eff e := by
    refine List.find?_congr fun e he => ?_
    have hlt := List.mem_range.mp he
    cases heff : s.eff e <;> simp [State.mem_offElements, heff, hlt]
  exact congrArg (fun x => x.getD s.u.vl.toNat) hfind

theorem State.vgathCmd_block : let n := s.u.vl.toNat
    let wm := ((List.range n).find? fun e => s.eff e).getD n
    let mask := ((List.range 64).map fun j => if wm + j < n ∧ s.eff (wm + j) = false then 2 ^ j else 0).sum
    (s.vgathCmd b t rec_).block 0 = [s.u.opA, 0, s.u.opX, BitVec.ofNat 64 (n * 2 ^ 32 + (Ty.code t).toNat * 2 ^ 28), 2 ^ 31, rec_ + 64,
      BitVec.ofNat 64 (wm * 2 ^ 32), BitVec.ofNat 64 mask] := by
  intro n wm mask
  have hmask : (s.vgathCmd b t rec_).doneMask = mask := by
    rw [GathCmd.doneMask, State.vgathCmd_watermark]
    refine congrArg List.sum (List.map_congr_left fun j _ => ?_)
    refine if_congr ?_ rfl rfl
    rw [List.contains_iff_mem]
    exact State.mem_offElements _
  have hsize : n * 2 ^ 32 + (Ty.code t).toNat * 2 ^ 28 + b2n false * 2 ^ 27 + b2n false * 2 ^ 26 = n * 2 ^ 32 + (Ty.code t).toNat * 2 ^ 28 := by
    simp [b2n]
  have hstate : wm * 2 ^ 32 + 0 * 2 ^ 28 + 0 = wm * 2 ^ 32 := by
    simp
  rw [← hsize, ← hstate, GathCmd.block, hmask, State.vgathCmd_watermark]
  rfl

/-- A record of the save area lies in its first page. -/
theorem State.vgathSlot_offset (h : s.vgathSlot = some rec_) (ha : s.g.area.toNat % 65536 = 0) : rec_.toNat % 65536 + 64 ≤ 65536 := by
  obtain ⟨i, hi, rfl⟩ := List.mem_map.mp (List.mem_of_find?_eq_some h)
  have := List.mem_range.mp hi
  have hoff : (w64 (0x500 + 640 * i)).toNat = 0x500 + 640 * i := by
    rw [w64, BitVec.toNat_ofNat]
    omega
  rw [BitVec.toNat_add, hoff]
  omega

theorem execVgath_of_free (hv : s.vp = none) (h64 : t ≠ .i64) (hf : t ≠ .f64) (ha : a ≠ 31) (hk : k.toNat < s.t.ntags)
    (hvl : s.u.vl.toNat ≤ s.g.grant / t.bits) (hrun : Claim.run s b.toNat 32 s.u.vl.toNat) (hfree : s.tagBusy k.toNat = false)
    (hslot : s.vgathSlot = some rec_) (hws : s.wsBreak (s.vgathOp k.toNat (s.vgathCmd b t rec_)) = none) :
    let c := s.vgathCmd b t rec_
    let q := s.devWrite s.g.areaCtx rec_ ((c.block 0).flatMap fun w => natLe 8 w.toNat)
    execVgath k a b t la s = .next (((q.clearTag k.toNat).startOp (q.vgathOp k.toNat c)).raise
      { abs := s.active.any fun e => decide (s.runEl b.toNat 32 e = 2 ^ 31) }) := by
  intro c q
  have hkeep : s.KeepsBindings (((q.clearTag k.toNat).startOp (q.vgathOp k.toNat c)).raise
      { abs := s.active.any fun e => decide (s.runEl b.toNat 32 e = 2 ^ 31) }) := by
    have hframe : q = _ := (s.devWrite_lays ..).frame
    generalize q = q at hframe ⊢
    rw [hframe]
    exact ⟨rfl, rfl, rfl⟩
  rw [execVgath, need_true _ _ _ ⟨by rw [hv]; rfl, Ty.six_of_ne h64 hf, ha, hk⟩, ok_bind, State.needVl_ok s _ hvl, ok_bind,
    State.needIdx_run hrun, ok_bind]
  dsimp only
  rw [hfree, if_neg Bool.false_ne_true, hslot]
  dsimp only
  have hneed : s.needWs (s.vgathOp k.toNat c) = .ok ⟨⟩ := by
    rw [State.needWs, hws]
  show s.finish (s.needWs (s.vgathOp k.toNat c) >>= fun _ => Except.ok ((((q.clearTag k.toNat).startOp (q.vgathOp k.toNat c)).raise
    { abs := s.active.any fun e => Ty.i32.isAbsent (s.runEl b.toNat 32 e) }).consume (runNames b.toNat (s.runRegs 32 s.u.vl.toNat)))) = _
  simp only [isAbsent_i32]
  rw [hneed, ok_bind, hkeep.consume fun _ hx => run_readable hrun hx]
  rfl

theorem State.Lays.started {q : State} (h : s.Lays q) (g : Group) (t : Team) (ops : List EngOp) :
    ({ q with g := g, t := t, ops := ops, nextId := q.nextId + 1 } : State) =
    { s with g := g, t := t, ops := ops, nextId := s.nextId + 1, hbm := q.hbm, lkeys := q.lkeys, veils := q.veils, ekeys := q.ekeys, fresh := q.fresh } := by
  rw [h.frame]

/-- The state that the start of a `vgath` leaves. -/
theorem State.vgath_started (k : Nat) (hk : k < 64) (c : GathCmd) (f : Sticky) (va : Word) (bs : List Byte) :
    let q := s.devWrite s.g.areaCtx va bs
    let u := ((q.clearTag k).startOp (q.vgathOp k c)).raise f
    u.hbm = q.hbm ∧
    u = { s with
      g := u.g, t := u.t, ops := u.ops, nextId := s.nextId + 1, hbm := u.hbm, lkeys := u.lkeys, veils := u.veils, ekeys := u.ekeys, fresh := u.fresh } ∧
    u.g = { s.g with sticky := s.g.sticky.or f } ∧
    u.t = { s.t with tags := s.t.tags &&& ~~~(1#64 <<< k), tagSt := Bank.set 0 s.t.tagSt k 0 } ∧
    u.t.tags.getLsbD k = false ∧
    ∃ o : EngOp, u.ops = q.ops ++ [o] ∧ o.kind = .gather c ∧ o.tag = k ∧ o.id = s.nextId ∧ o.done = c.done := by
  intro q u
  have hlays : s.Lays q := s.devWrite_lays ..
  have hg : q.g = s.g := by rw [hlays.frame]
  have ht : q.t = s.t := by rw [hlays.frame]
  have hid : q.nextId = s.nextId := by rw [hlays.frame]
  refine ⟨rfl, hlays.started u.g u.t u.ops, ?_, ?_, ?_, _, rfl, rfl, rfl, hid, rfl⟩
  · show { q.g with sticky := q.g.sticky.or f } = _
    rw [hg]
  · show { q.t with tags := q.t.tags &&& ~~~(1#64 <<< k), tagSt := Bank.set 0 q.t.tagSt k 0 } = _
    rw [ht]
  · show (q.t.tags &&& ~~~(1#64 <<< k)).getLsbD k = false
    rw [BitVec.getLsbD_and, BitVec.getLsbD_not, getLsbD_one_shiftLeft hk]
    simp

end

end Sys2Proof.Machine
end

section
/-! PROOFS. Operations that start under a tag, and the instructions that test and wait for tags (10 R292, R293, R296, R297, 05 R143, R144). -/

namespace Sys2Proof.Machine

/-! The start of an operation. -/

section
variable {s : State} {k : Nat} {kind : OpKind}

theorem State.startOp_started (s : State) (k : Nat) (kind : OpKind) : Claim.started s ((s.clearTag k).startOp (s.newOp k kind)) k kind :=
  ⟨rfl, rfl, _, rfl, rfl, rfl, rfl, rfl, rfl, rfl, rfl, rfl, rfl, rfl⟩

theorem State.issueTag_busy (h : s.tagBusy k = true) : s.issueTag k kind = holdM (.tagBusy k) := by
  rw [State.issueTag, if_pos h]

theorem State.issueTag_free (h : s.tagBusy k = false) (hw : s.wsBreak (s.newOp k kind) = none) :
    s.issueTag k kind = .ok ((s.clearTag k).startOp (s.newOp k kind)) := by
  rw [State.issueTag, if_neg (Bool.eq_false_iff.mp h), State.needWs, hw]
  rfl

theorem State.issueTag_barred (h : s.tagBusy k = false) {va : Word} (hw : s.wsBreak (s.newOp k kind) = some va) :
    s.issueTag k kind = .error (.trap { cause := 0x09, addr := va }) := by
  rw [State.issueTag, if_neg (Bool.eq_false_iff.mp h), State.needWs, hw]
  rfl

/-- An instruction that issues an operation once its record has been read: what the state `v` then says of the tag and of the destination
decides. -/
theorem State.finish_issueTag (s v : State) (k : Nat) (kind : OpKind) :
    (v.tagBusy k = true → s.finish (v.keeping (v.issueTag k kind)) = .next (s.holdUnit (.tagBusy k))) ∧
    (v.tagBusy k = false →
      (v.wsBreak (v.newOp k kind) = none → ∃ t, s.finish (v.keeping (v.issueTag k kind)) = .next t ∧ Claim.started v t k kind) ∧
      ∀ va, v.wsBreak (v.newOp k kind) = some va →
        s.finish (v.keeping (v.issueTag k kind)) = .next (s.raiseTrap { cause := 0x09, addr := va, tlb := some v.tlb })) := by
  refine ⟨fun hbusy => ?_, fun hfree => ⟨fun hws => ⟨_, ?_, v.startOp_started k kind⟩, fun va hws => ?_⟩⟩
  · rw [State.issueTag_busy hbusy]
    rfl
  · rw [State.issueTag_free hfree hws]
    rfl
  · rw [State.issueTag_barred hfree hws]
    rfl

end

/-! `copy`, `egath` and `escat`. -/

section
variable {s u v : State} {k : BitVec 6} {a b : CReg} {la : BitVec 4}

theorem copy_beyond (h : s.t.ntags ≤ k.toNat) : exec (.copy k a b la) s = .next (s.raiseTrap { cause := 0x01 }) := by
  show execCopy k a b la s = _
  rw [execCopy, need_false _ _ _ (Nat.not_lt.mpr h)]
  rfl

variable (hk : k.toNat < s.t.ntags)
include hk

theorem copy_misaligned_first (ha : s.u.opA.toNat % 128 ≠ 0) :
    exec (.copy k a b la) s = .next (s.raiseTrap { cause := 0x0B, info := s.u.opA }) := by
  show execCopy k a b la s = _
  rw [execCopy, need_true _ _ _ hk, ok_bind, need_false _ _ _ ha]
  rfl

variable (ha : s.u.opA.toNat % 128 = 0)
include ha

theorem copy_misaligned_second (hb : s.u.opB.toNat % 128 ≠ 0) :
    exec (.copy k a b la) s = .next (s.raiseTrap { cause := 0x0B, info := s.u.opB }) := by
  show execCopy k a b la s = _
  rw [execCopy, need_true _ _ _ hk, ok_bind, need_true _ _ _ ha, ok_bind, need_false _ _ _ hb]
  rfl

theorem copy_of_records {x y : Tlr} {rx ry : Bool} (hb : s.u.opB.toNat % 128 = 0) (hx : s.readTlr s.u.opA = .ok (x, rx, u))
    (hy : u.readTlr s.u.opB = .ok (y, ry, v)) (hgood : v.badTlrs x y rx ry = none) :
    exec (.copy k a b la) s = s.finish (v.keeping (v.issueTag k.toNat (.copy x y))) := by
  show execCopy k a b la s = _
  rw [execCopy, need_true _ _ _ hk, ok_bind, need_true _ _ _ ha, ok_bind, need_true _ _ _ hb, ok_bind, hx]
  dsimp only [ok_bind]
  rw [hy]
  dsimp only [ok_bind]
  rw [hgood]

end

section
variable {s u : State} {k : Nat} (scatter : Bool)

theorem State.startGath_beyond (h : s.t.ntags ≤ k) : s.startGath k scatter = ill := by
  rw [State.startGath, need_false _ _ _ (Nat.not_lt.mpr h)]
  rfl

variable (hk : k < s.t.ntags)
include hk

theorem State.startGath_misaligned (ha : s.u.opA.toNat % 64 ≠ 0) :
    s.finish (s.startGath k scatter) = .next (s.raiseTrap { cause := 0x0B, info := s.u.opA }) := by
  rw [State.startGath, need_true _ _ _ hk, ok_bind]
  dsimp only
  rw [need_false _ _ _ ha]
  rfl

theorem State.startGath_of_block {ws : List Word} (ha : s.u.opA.toNat % 64 = 0) (hr : s.readWords s.agent .load s.u.opA 6 = .ok (ws, u))
    (hgood : (GathCmd.ofWords s.u.opA ws).bad (field (ws.getD 3 0).toNat 0 26) = false) :
    s.startGath k scatter = u.keeping (u.issueTag k (if scatter then .scatter (GathCmd.ofWords s.u.opA ws) else .gather (GathCmd.ofWords s.u.opA ws))) := by
  rw [State.startGath, need_true _ _ _ hk, ok_bind]
  dsimp only
  rw [need_true _ _ _ ha, ok_bind, hr]
  dsimp only
  rw [need_true _ _ _ hgood, ok_bind]

end

/-! The tag instructions. -/

section
variable {s : State} {d a : CReg}

theorem maskOk_iff (m : Word) (n : Nat) : m.toNat / 2 ^ n = 0 ↔ m.toNat < 2 ^ n := by
  rw [Nat.div_eq_zero_iff]
  have := Nat.two_pow_pos n
  omega

/-- A search among the numbers below 64 finds the lowest one that is looked for. -/
theorem find?_range64 (p : Nat → Bool) : ((∀ k < 64, p k = false) → (List.range 64).find? p = none) ∧
    ∀ k < 64, p k = true → (∀ j < k, p j = false) → (List.range 64).find? p = some k := by
  refine ⟨fun h => List.find?_eq_none.mpr fun k hk => by simp [h k (List.mem_range.mp hk)], fun k hk hp hlow => ?_⟩
  rw [List.find?_range_eq_some]
  exact ⟨hp, List.mem_range.mpr hk, fun j hj => by simp [hlow j hj]⟩

theorem State.tagResult_spec (s : State) (d : CReg) (x : Word) :
    ((∀ k < 64, x.getLsbD k = true → ¬ Bank.get (0 : BitVec 4) s.t.tagSt k ≠ 0) → s.tagResult d x = .ok (s.setC d x)) ∧
    ∀ k < 64, x.getLsbD k = true → Bank.get (0 : BitVec 4) s.t.tagSt k ≠ 0 →
      (∀ j < k, x.getLsbD j = true → ¬ Bank.get (0 : BitVec 4) s.t.tagSt j ≠ 0) → s.tagResult d x = trapM 0x0C (w64 k) := by
  obtain ⟨hnone, hsome⟩ := find?_range64 fun k => x.getLsbD k && Bank.get (0 : BitVec 4) s.t.tagSt k ≠ 0
  have hgood : ∀ k, (x.getLsbD k = true → ¬ Bank.get (0 : BitVec 4) s.t.tagSt k ≠ 0) →
      (x.getLsbD k && Bank.get (0 : BitVec 4) s.t.tagSt k ≠ 0) = false := by
    intro k h
    cases hx : x.getLsbD k with
    | false => rfl
    | true => rw [Bool.true_and, decide_eq_false (h hx)]
  constructor
  · intro h
    rw [State.tagResult, State.badTag, hnone fun k hk => hgood k (h k hk)]
  · intro k hk hx hbad hlow
    rw [State.tagResult, State.badTag, hsome k hk (by rw [hx, Bool.true_and, decide_eq_true hbad]) fun j hj => hgood j (hlow j hj)]
    rfl

theorem tagwaits_bar (h : 2 ^ s.t.ntags ≤ s.u.opA.toNat) :
    ∀ i ∈ [(.tagwaitAny d a : Instr), .tagwaitAll d a, .tagffr d a], exec i s = .next (s.raiseTrap { cause := 0x01 }) := by
  have hbad : ¬ s.u.opA.toNat / 2 ^ s.t.ntags = 0 := by
    rw [maskOk_iff]
    exact Nat.not_lt.mpr h
  intro i hi
  rcases List.mem_cons.mp hi with rfl | hi
  · show execTagwaitAny d a s = _
    rw [execTagwaitAny]
    dsimp only
    rw [need_false _ _ _ fun hc => hbad hc.1]
    rfl
  rcases List.mem_pair.mp hi with rfl | rfl
  · show execTagwaitAll d a s = _
    rw [execTagwaitAll]
    dsimp only
    rw [need_false _ _ _ hbad]
    rfl
  · show execTagffr d a s = _
    rw [execTagffr]
    dsimp only
    rw [need_false _ _ _ hbad]
    rfl

theorem tagwaitAny_empty (h : s.u.opA = 0) : exec (.tagwaitAny d a) s = .next (s.raiseTrap { cause := 0x01 }) := by
  show execTagwaitAny d a s = _
  rw [execTagwaitAny]
  dsimp only
  rw [need_false _ _ _ fun hc => hc.2 h]
  rfl

variable (hm : s.u.opA.toNat < 2 ^ s.t.ntags)
include hm

theorem tagwaitAny_eq (h0 : s.u.opA ≠ 0) : exec (.tagwaitAny d a) s =
    s.finish (if s.t.tags &&& s.u.opA = 0 then holdM (.tag s.u.opA false) else s.tagResult d (s.t.tags &&& s.u.opA)) := by
  show execTagwaitAny d a s = _
  rw [execTagwaitAny]
  dsimp only
  rw [need_true _ _ _ ⟨(maskOk_iff _ _).mpr hm, h0⟩, ok_bind]

theorem tagwaitAll_eq : exec (.tagwaitAll d a) s =
    s.finish (if s.t.tags &&& s.u.opA ≠ s.u.opA then holdM (.tag s.u.opA true) else s.tagResult d (s.t.tags &&& s.u.opA)) := by
  show execTagwaitAll d a s = _
  rw [execTagwaitAll]
  dsimp only
  rw [need_true _ _ _ ((maskOk_iff _ _).mpr hm), ok_bind]

/-- A wait whose tags are set gives them, or the lowest of them whose operation ended amiss. -/
theorem tagwaits_end {i : Instr} (hi : (i = .tagwaitAny d a ∧ s.t.tags &&& s.u.opA ≠ 0) ∨ (i = .tagwaitAll d a ∧ s.t.tags &&& s.u.opA = s.u.opA)) :
    exec i s = s.finish (s.tagResult d (s.t.tags &&& s.u.opA)) := by
  rcases hi with ⟨rfl, hon⟩ | ⟨rfl, hon⟩
  · have h0 : s.u.opA ≠ 0 := fun h => hon (by rw [h]; exact BitVec.and_zero)
    exact (tagwaitAny_eq hm h0).trans (congrArg s.finish (if_neg hon))
  · exact (tagwaitAll_eq hm).trans (congrArg s.finish (if_neg (not_not.mpr hon)))

theorem tagffr_spec :
    (s.t.tags &&& s.u.opA = 0 → exec (.tagffr d a) s = .next (s.setC d (BitVec.allOnes 64))) ∧
    ∀ k < 64, (s.t.tags &&& s.u.opA).getLsbD k = true → (∀ j < k, (s.t.tags &&& s.u.opA).getLsbD j = false) →
      (¬ Bank.get (0 : BitVec 4) s.t.tagSt k ≠ 0 → exec (.tagffr d a) s = .next (s.setC d (w64 k))) ∧
      (Bank.get (0 : BitVec 4) s.t.tagSt k ≠ 0 → exec (.tagffr d a) s = .next (s.raiseTrap { cause := 0x0C, info := w64 k })) := by
  obtain ⟨hnone, hsome⟩ := find?_range64 (s.t.tags &&& s.u.opA).getLsbD
  have hexec : exec (.tagffr d a) s = execTagffr d a s := rfl
  rw [hexec, execTagffr]
  dsimp only
  rw [need_true _ _ _ ((maskOk_iff _ _).mpr hm), ok_bind]
  constructor
  · intro h
    rw [hnone fun k _ => by rw [h]; exact BitVec.getLsbD_zero]
    rfl
  · intro k hk hon hlow
    rw [hsome k hk hon hlow]
    dsimp only
    exact ⟨fun hbad => by rw [if_neg hbad]; rfl, fun hbad => by rw [if_pos hbad]; rfl⟩

end

end Sys2Proof.Machine

namespace Sys2Proof.Proofs
open Sys2Proof.Machine

section
variable {s : State} {k : BitVec 6} {a b : CReg} {la : BitVec 4}

theorem egath_exec {c : GathCmd} {x : Instr × OpKind} (hx : x ∈ [((.egath k a la : Instr), OpKind.gather c), ((.escat k a la : Instr), OpKind.scatter c)]) :
    ∃ scatter : Bool, exec x.1 s = s.finish (s.startGath k.toNat scatter) ∧ x.2 = if scatter then .scatter c else .gather c := by
  rcases List.mem_pair.mp hx with rfl | rfl
  · exact ⟨false, rfl, rfl⟩
  · exact ⟨true, rfl, rfl⟩

theorem engineTags_beyond (s : State) (k : BitVec 6) (a b : CReg) (la : BitVec 4) (hk : s.t.ntags ≤ k.toNat) :
    ∀ i ∈ [(.copy k a b la : Instr), .egath k a la, .escat k a la], exec i s = .next (s.raiseTrap { cause := 0x01 }) := by
  intro i hi
  rcases List.mem_cons.mp hi with rfl | hi
  · exact copy_beyond hk
  · rcases List.mem_pair.mp hi with rfl | rfl
    · exact congrArg s.finish (State.startGath_beyond false hk)
    · exact congrArg s.finish (State.startGath_beyond true hk)

end

/-- Settles O36: an operation starts as `State.issueTag` starts it, a `vgath` writes its block as the device writes, and the tag
instructions look for the lowest tag. -/
theorem engineStartsAndTags : Obligations.EngineStartsAndTags := by
  unfold Obligations.EngineStartsAndTags
  refine ⟨⟨fun s k a b la hk => ⟨fun x y rx ry u v ha hb hx hy hgood => ?_, copy_misaligned_first hk, copy_misaligned_second hk,
    fun ws u ha hr => ?_, fun ha i hi => ?_⟩, engineTags_beyond, ?_⟩, fun s d a => ?_⟩
  · rw [copy_of_records hk ha hb hx hy hgood]
    exact (s.finish_issueTag v k.toNat (.copy x y)).symm
  · intro c hgood x hx
    obtain ⟨scatter, hexec, hkind⟩ := egath_exec hx
    rw [hexec, hkind, State.startGath_of_block scatter hk ha hr hgood]
    exact s.finish_issueTag u k.toNat _
  · rcases List.mem_pair.mp hi with rfl | rfl
    · exact State.startGath_misaligned false hk ha
    · exact State.startGath_misaligned true hk ha
  · intro s k a b t la rec_ hv h64 hf ha hk hvl hrun hfree hslot hws n wm mask block
    have hexec := execVgath_of_free (la := la) hv h64 hf ha hk hvl hrun hfree hslot
      (hws _ _ rfl rfl rfl rfl rfl State.mem_offElements)
    have hblock : (s.vgathCmd b t rec_).block 0 = block := State.vgathCmd_block
    dsimp only at hexec
    rw [hblock] at hexec
    obtain ⟨hhbm, hframe, hg, ht, htag, o, hops, hkind, hotag, hid, hdone⟩ := s.vgath_started k.toNat k.isLt (s.vgathCmd b t rec_)
      { abs := s.active.any fun e => decide (s.runEl b.toNat 32 e = 2 ^ 31) } rec_ (block.flatMap fun w => natLe 8 w.toNat)
    refine ⟨_, s.vgathCmd b t rec_, o, hexec, hframe, hg, ht, ⟨_, hops, (s.devWrite_lays ..).ops⟩, fun leaf level at_ hleaf hwf harea => ?_,
      hkind, hotag, hid, rfl, rfl, rfl, rfl, rfl, rfl, State.mem_offElements, hdone, htag⟩
    intro pa
    have hlen : (block.flatMap fun w => natLe 8 w.toNat).length = 64 := by
      simp [block, List.flatMap_cons]
    obtain ⟨hbytes, hread⟩ := State.devWrite_bytes hleaf (by rw [hlen]; exact State.vgathSlot_offset hslot harea) hwf
    rw [hlen] at hbytes hread
    rw [hhbm]
    exact ⟨hbytes, fun hheld => hread fun l hl => hheld l (mem_linesOf hl).1 (mem_linesOf hl).2⟩
  · intro m on bad
    refine ⟨fun hm => ⟨fun h0 hon => ?_, fun hon => ?_, fun i hi => ?_, fun hon => ?_, fun k hk hon hlow => ?_⟩, tagwaits_bar, tagwaitAny_empty⟩
    · exact (tagwaitAny_eq hm h0).trans (congrArg s.finish (if_pos hon))
    · exact (tagwaitAll_eq hm).trans (congrArg s.finish (if_pos hon))
    · obtain ⟨hgood, hbad⟩ := s.tagResult_spec d on
      rw [tagwaits_end hm hi]
      exact ⟨fun h => ⟨_, congrArg s.finish (hgood h), s.setC_wroteC d on⟩, fun k hk hon hst hlow => congrArg s.finish (hbad k hk hon hst hlow)⟩
    · exact ⟨_, (tagffr_spec hm).1 hon, s.setC_wroteC d _⟩
    · obtain ⟨hgood, hbad⟩ := (tagffr_spec (d := d) (a := a) hm).2 k hk hon hlow
      exact ⟨fun h => ⟨_, hgood h, s.setC_wroteC d _⟩, hbad⟩

end Sys2Proof.Proofs
end
